-- ==== Sys2Proof/Word.lean ====
section
/-! DEFINITION. The machine's words (02 R34, 12 R251): bit vectors of the widths the manual uses. -/

namespace Sys2Proof

/-- A 64-bit word: a scalar register, a memory word, a fat pointer (04 R71). -/
abbrev Word := BitVec 64

/-- A byte of memory. -/
abbrev Byte := BitVec 8

/-- A 96-bit instruction word (12 R251). -/
abbrev IWord := BitVec 96

/-- A word index of local memory, PC's type (12 R251). -/
abbrev PcIx := BitVec 15

/-- A 256-bit mask: one bit for each vector lane or sub-block (15 R325, 07 R145). -/
abbrev Mask := BitVec 256

end Sys2Proof
end

