-- ==== Sys2Proof/Syntax.lean ====
section
/-! DEFINITION. The syntax: one constructor of Instr for each row of spec/opcode_table.json. The first 232 rows are
instructions, in the operand classes of their descriptions (12 R257, R258); the rest are the device's own steps
(95, opcode_table.json), whose parameters name the step among those permitted (06 R116) and carry what the outside
supplies. -/

namespace Sys2Proof

/-- Registers by class (02 R25). -/
abbrev XReg := BitVec 6
abbrev VReg := BitVec 5
abbrev PReg := BitVec 3
abbrev MReg := BitVec 3
abbrev SReg := BitVec 3
abbrev ChReg := BitVec 2
abbrev AccReg := BitVec 2
abbrev RoleReg := BitVec 2
abbrev SemReg := BitVec 3

/-- The memory-model scopes and barrier levels (03 R39). -/
inductive Scope
  | grp | core | quad | die | dev | sys
  deriving DecidableEq, Repr, Inhabited

/-- Rounding modes (05 R102). -/
inductive Rnd
  | rne | rna | rtz | rup | rdn
  deriving DecidableEq, Repr, Inhabited

/-- Access sizes of the M-form (12 R258). -/
inductive Size
  | b8 | b16 | b32 | b64
  deriving DecidableEq, Repr, Inhabited

/-- Floating element types of the V-form (12 R258). -/
inductive FType
  | fp32 | bf16 | fp16
  deriving DecidableEq, Repr, Inhabited

/-- Element types of compares, reductions and scans (15 R335, R339). -/
inductive CType
  | fp32 | bf16 | fp16 | i32
  deriving DecidableEq, Repr, Inhabited

/-- Widths of vector loads and stores (15 R342). -/
inductive VWidth
  | b32 | b16 | b8
  deriving DecidableEq, Repr, Inhabited

/-- The second source of the I-form (13 R268). -/
inductive Src2
  | reg (b : XReg)
  | imm (v : BitVec 32)
  deriving DecidableEq, Repr, Inhabited

/-- The source of `bext` and `bextz`: an x register or the issuing slot's channel (19 R372). -/
inductive BitSrc
  | x (a : XReg)
  | ch (n : ChReg)
  deriving DecidableEq, Repr, Inhabited

/-- A length operand of a copy (16 R357). -/
inductive LenSrc
  | reg (b : XReg)
  | imm (v : BitVec 32)
  deriving DecidableEq, Repr, Inhabited

/-- Orders of `ld` (12 R258). -/
inductive LdOrd
  | plain | acq (s : Scope)
  deriving DecidableEq, Repr, Inhabited

/-- Orders of `st` and `red` (12 R258). -/
inductive StOrd
  | plain | rel (s : Scope)
  deriving DecidableEq, Repr, Inhabited

/-- Orders of `amo` and the `mos` routines (12 R258, 14 R310). -/
inductive AmoOrd
  | plain | acq (s : Scope) | rel (s : Scope) | ar (s : Scope)
  deriving DecidableEq, Repr, Inhabited

/-- A vector destination: register or output stream (15 R328). -/
inductive VDst
  | v (r : VReg)
  | s (n : SReg)
  deriving DecidableEq, Repr, Inhabited

/-- A vector first source: register, input stream or channel (15 R328). -/
inductive VSrc
  | v (r : VReg)
  | s (n : SReg)
  | ch (n : ChReg)
  deriving DecidableEq, Repr, Inhabited

/-- A vector first source where no channel is accepted (15 R328). -/
inductive VSrcVS
  | v (r : VReg)
  | s (n : SReg)
  deriving DecidableEq, Repr, Inhabited

/-- A vector second source (15 R328). -/
inductive VSrcB
  | v (r : VReg)
  | x (b : XReg)
  | imm (v : BitVec 32)
  deriving DecidableEq, Repr, Inhabited

/-- The three forms of `vbcast` (15 R341). -/
inductive BcastSrc
  | lane (a : VReg) (l : BitVec 8)
  | x (a : XReg)
  | imm (v : BitVec 32)
  deriving DecidableEq, Repr, Inhabited

/-- The lane operand of `vget` and `vput` (15 R347). -/
inductive LaneSrc
  | imm (l : BitVec 8)
  | x (b : XReg)
  deriving DecidableEq, Repr, Inhabited

/-- Down-converter targets of `mmc` (16 R349). -/
inductive MmcTgt
  | bf16 | psb4 | psb7
  deriving DecidableEq, Repr, Inhabited

/-- The completion field of a copy (16 R356). -/
structure Comp where
  tag : BitVec 7
  creg : XReg
  ev : Bool
  deriving DecidableEq, Repr, Inhabited

/-- The tag operand of `ptag` (13 R274). -/
inductive TagSrc
  | imm (t : BitVec 11)
  | reg (b : XReg)
  deriving DecidableEq, Repr, Inhabited

/-- The second source of a format-P scalar half (12 R261). -/
inductive PSrc
  | reg (b : XReg)
  | imm (v : BitVec 18)
  deriving DecidableEq, Repr, Inhabited

/-- Integer functions a scalar half may hold: FN 0 to 14 of major 0x08 (12 R261). -/
inductive IntFn
  | add | sub | and | or | xor | andn | shl | shr | sar | rol | min | max | minz | maxz | mul
  deriving DecidableEq, Repr, Inhabited

/-- Conditions of the two-source compares (13 R276, 15 R335). -/
inductive Cond
  | eq | ne | lt | le
  deriving DecidableEq, Repr, Inhabited

/-- Functions of major 0x80 (15 R332). -/
inductive FpFn
  | add | sub | mul | ma | ms | nma | min | max | abs | neg
  deriving DecidableEq, Repr, Inhabited

/-- Functions of major 0x81 (15 R333). -/
inductive ViFn
  | add | sub | mul | and | or | xor | shl | shr | sar | min | max
  deriving DecidableEq, Repr, Inhabited

/-- The scalar half of a format-P word (12 R261). -/
inductive SHalf
  | none
  | int (f : IntFn) (d a : XReg) (b : PSrc)
  | li (d : XReg) (v : BitVec 18)
  | padd (d a : XReg) (b : PSrc)
  | pidx (d a : XReg) (b : PSrc)
  | cmp (c : Cond) (d : PReg) (a : XReg) (b : PSrc)
  | cmpLtz (d : PReg) (a : XReg)
  | cmpLez (d : PReg) (a : XReg)
  | lp (d : XReg) (t : PcIx)
  deriving DecidableEq, Repr, Inhabited

/-- The vector half of a format-P word (12 R262). -/
inductive VHalf
  | none
  | fp (f : FpFn) (t : FType) (rnd : Rnd) (d : VReg) (a : VSrc) (b : VReg) (m : MReg)
  | int (f : ViFn) (d : VReg) (a : VSrc) (b : VReg) (m : MReg)
  | cmp (c : Cond) (t : CType) (d : MReg) (a : VSrcVS) (b : VReg) (m : MReg)
  | sel (d : VReg) (a : VSrcVS) (b : VReg) (m : MReg)
  deriving DecidableEq, Repr, Inhabited

/-- A decoding fault of checks 1 to 4 (12 R265, R267): the check that failed, or the offending position. -/
inductive DecodeFault
  | check (n : BitVec 2)
  | position (p : BitVec 4)
  deriving DecidableEq, Repr, Inhabited

/-- Who writes control space (11 R233, R242, R456). -/
inductive Writer
  | port (p : BitVec 2)
  | supervisor
  deriving DecidableEq, Repr, Inhabited

/-- What a RESET event is: the reset itself, or one step of the boot ROM (11 R234). -/
inductive BootStage
  | start
  | rom
  deriving DecidableEq, Repr, Inhabited

/-- How the supervisor configures the far tier at its start (04 R86). -/
inductive FarTier
  | lp6
  | cxl
  | both
  deriving DecidableEq, Repr, Inhabited

/-- What a boot settles: the modes of the CXL ports (11 R230) and the far tier (04 R86). -/
structure BootSetup where
  cxl1 : Bool
  cxl2 : Bool
  far : FarTier
  deriving DecidableEq, Repr, Inhabited

/-- The averages of 11 R237 that are above their limits: over 10 ms, over 1 s. -/
structure PowerOver where
  tenMs : Bool
  oneS : Bool
  deriving DecidableEq, Repr, Inhabited

/-- Which core's slot 15 wakes, and whether the resident supervisor asks for a pre-emption there (20 R380, R386). -/
structure AgentWake where
  rank : Nat
  preempt : Bool
  deriving DecidableEq, Repr, Inhabited

/-- What the fabric announces to this device's source port (25 R443, R444, 10 R225): a device has failed, a link between two other
devices is unusable or carries packets again. -/
inductive FabricNews
  | device (peer : Nat)
  | link (a b : Nat) (up : Bool)
  deriving DecidableEq, Repr, Inhabited

/-- What a core's symbol code finds in its local memory (22 R419): a bank to be marked, words corrected outside a marking, a word with a
further erroneous symbol. -/
inductive BankFinding
  | mark (bank : Nat)
  | corrected (n : Nat)
  | uncorrectable (word : Nat)
  deriving DecidableEq, Repr, Inhabited

/-- A turn of a migration engine (04 R88), and the line of the new frame at which a write meets an uncorrectable error, if one does (22
R420). -/
structure MigTurn where
  engine : Nat
  badLine : Option Nat
  deriving DecidableEq, Repr, Inhabited

/-- Where a peer's packet comes from: the link it arrives on, and the peer (10 R226). -/
structure PacketOrigin where
  link : Nat
  peer : Nat
  deriving DecidableEq, Repr, Inhabited

/-- What one ENGINE_STEP does (06 R116): a matrix word is written, or set full once it is; a word of a core's local memory is read for
the next operand fetch; a copy's source word at an offset is read, the word at an offset is written at one destination, an extent in
place is set full; a word of the sub-block at the head of a delivery or refresh is brought into place, or set full; a word of a stream's
next element, by its offset, is read or written, a word that a stream has written is set full. -/
inductive EngWord
  | word (i : Nat)
  | fetch (i t : Nat)
  | write (i t j : Nat)
  | full (i n : Nat)
  | block (i w : Nat)
  | feed (q w : Nat)
  | elem (n o : Nat)
  | cover (n i : Nat)
  deriving DecidableEq, Repr, Inhabited

/-- What one whole packet from a peer asks of this device's target port (25 R454, 10 R221 to R225). -/
inductive PacketOp
  | read (n : Nat)
  | write (bytes : List Byte)
  | engineWrite (bytes : List Byte)
  | fe (f : BitVec 3) (v : Word)
  | amo (f : BitVec 4) (wide : Bool) (b e : Word)
  | red (f : BitVec 4) (wide : Bool) (b : Word)
  | cas (e n : List Word)
  | message (target : Word) (endw : Bool) (payload : List Word)
  /-- `gacq` of a peer's thread: its slot and bind entry, its ASID, and the epoch and mark its entry holds (07 R147) -/
  | gacq (slot entry : Nat) (excl : Bool) (asid epoch : BitVec 16) (mark : BitVec 32)
  /-- `grel` of a peer's entry with its dirty mask (07 R151) -/
  | grel (entry : Nat) (dirty : Mask)
  | gflush (slot : Nat)
  /-- a peer replaces an entry that may be its guard's last exclusive holder (07 R146, R155) -/
  | gdrop (entry : Nat)
  /-- a peer's arrival at the pod barrier of a launch queue (03 R39, 14 R315) -/
  | barrier (queue : Nat)
  /-- bytes, from an offset on, of the next sub-block of transfer `i` of a peer's copy engine, or why it cannot come: 0 poison, else a
  notice byte (07 R149, R154, 24 R429) -/
  | block (i off : Nat) (bytes : List Byte) (fail : Option Byte)
  /-- a peer's manager has freed the guard whose word lies at a physical address there (07 R156) -/
  | gfree (pa : BitVec 44)
  deriving DecidableEq, Repr, Inhabited

/-- What a peer's response brings (25 R452). -/
inductive Answer
  | words (ws : List Word) (ok : Bool)
  | data (bytes : List Byte)
  | done
  | poison
  | code (c : Byte) (opnd : BitVec 32)
  deriving DecidableEq, Repr, Inhabited

/-- The instructions and steps of the machine, in the order of spec/opcode_table.json. -/
inductive Instr
  -- integer, pointer, compare, predicate (13)
  | nop
  | add (d a : XReg) (b : Src2)
  | sub (d a : XReg) (b : Src2)
  | and (d a : XReg) (b : Src2)
  | or (d a : XReg) (b : Src2)
  | xor (d a : XReg) (b : Src2)
  | andn (d a : XReg) (b : Src2)
  | shl (d a : XReg) (b : Src2)
  | shr (d a : XReg) (b : Src2)
  | sar (d a : XReg) (b : Src2)
  | rol (d a : XReg) (b : Src2)
  | min (d a : XReg) (b : Src2)
  | max (d a : XReg) (b : Src2)
  | minz (d a : XReg) (b : Src2)
  | maxz (d a : XReg) (b : Src2)
  | mul (d a : XReg) (b : Src2)
  | mulh (d a : XReg) (b : Src2)
  | mulhz (d a : XReg) (b : Src2)
  | div (d a : XReg) (b : Src2)
  | divz (d a : XReg) (b : Src2)
  | rem (d a : XReg) (b : Src2)
  | remz (d a : XReg) (b : Src2)
  | clz (d a : XReg)
  | ctz (d a : XReg)
  | popc (d a : XReg)
  | bext (d : XReg) (a : BitSrc) (lo w1 : BitVec 6)
  | bextz (d : XReg) (a : BitSrc) (lo w1 : BitVec 6)
  | bins (d a : XReg) (lo w1 : BitVec 6)
  | li (d : XReg) (v : BitVec 48)
  | lih (d : XReg) (v : BitVec 16)
  | sel (d a : XReg) (b : Src2)
  | padd (d a : XReg) (b : Src2)
  | pidx (d a : XReg) (b : Src2)
  | ptag (d a : XReg) (space : BitVec 4) (t : TagSrc)
  | pfmt (d a : XReg) (fmt : BitVec 4) (lcode : BitVec 3)
  | pget (d a : XReg) (f : BitVec 2)
  | plin (d a : XReg)
  | cmpEq (d : PReg) (a : XReg) (b : Src2)
  | cmpNe (d : PReg) (a : XReg) (b : Src2)
  | cmpLt (d : PReg) (a : XReg) (b : Src2)
  | cmpLe (d : PReg) (a : XReg) (b : Src2)
  | cmpLtz (d : PReg) (a : XReg)
  | cmpLez (d : PReg) (a : XReg)
  | pand (d a b : PReg)
  | por (d a b : PReg)
  | pxor (d a b : PReg)
  | pnot (d a : PReg)
  | pmov (d a : PReg)
  -- control (13)
  | br (off : BitVec 16)
  | jmp (t : PcIx)
  | call (d : XReg) (t : PcIx)
  | callr (d a : XReg)
  | ret (a : XReg)
  | lp (d : XReg) (t : PcIx)
  -- helpers, semaphores, waits, events, posting (13)
  | start (d a b : XReg)
  | reap (d a : XReg)
  | endThread (a : XReg)
  | semWait (n : SemReg)
  | semPost (n : SemReg) (k : BitVec 16)
  | semTry (d : PReg) (n : SemReg)
  | wait (ld st cp tl : Option (BitVec 9))
  | evpop (d : XReg)
  | spawn (head : Bool) (d a b : XReg)
  -- memory (14)
  | ld (sz : Size) (sx : Bool) (o : LdOrd) (d a : XReg) (off : Src2)
  | st (sz : Size) (o : StOrd) (a b : XReg) (off : BitVec 32)
  | ldFePeek (s : Scope) (d a : XReg) (off : Src2)
  | ldFeTake (s : Scope) (d a : XReg) (off : Src2)
  | stFeFill (s : Scope) (a b : XReg) (off : BitVec 32)
  | stFePut (s : Scope) (a b : XReg) (off : BitVec 32)
  | stFeClr (a : XReg) (off : BitVec 32)
  | amoAdd (w64 : Bool) (o : AmoOrd) (d a b : XReg) (off : BitVec 32)
  | amoAnd (w64 : Bool) (o : AmoOrd) (d a b : XReg) (off : BitVec 32)
  | amoOr (w64 : Bool) (o : AmoOrd) (d a b : XReg) (off : BitVec 32)
  | amoXor (w64 : Bool) (o : AmoOrd) (d a b : XReg) (off : BitVec 32)
  | amoMin (w64 : Bool) (o : AmoOrd) (d a b : XReg) (off : BitVec 32)
  | amoMax (w64 : Bool) (o : AmoOrd) (d a b : XReg) (off : BitVec 32)
  | amoMinz (w64 : Bool) (o : AmoOrd) (d a b : XReg) (off : BitVec 32)
  | amoMaxz (w64 : Bool) (o : AmoOrd) (d a b : XReg) (off : BitVec 32)
  | amoSwap (w64 : Bool) (o : AmoOrd) (d a b : XReg) (off : BitVec 32)
  | amoCas (w64 : Bool) (o : AmoOrd) (d a b : XReg) (off : BitVec 32)
  | amoFadd (o : AmoOrd) (d a b : XReg) (off : BitVec 32)
  | amoFmin (o : AmoOrd) (d a b : XReg) (off : BitVec 32)
  | amoFmax (o : AmoOrd) (d a b : XReg) (off : BitVec 32)
  | redAdd (w64 : Bool) (o : StOrd) (a b : XReg) (off : BitVec 32)
  | redAnd (w64 : Bool) (o : StOrd) (a b : XReg) (off : BitVec 32)
  | redOr (w64 : Bool) (o : StOrd) (a b : XReg) (off : BitVec 32)
  | redXor (w64 : Bool) (o : StOrd) (a b : XReg) (off : BitVec 32)
  | redMin (w64 : Bool) (o : StOrd) (a b : XReg) (off : BitVec 32)
  | redMax (w64 : Bool) (o : StOrd) (a b : XReg) (off : BitVec 32)
  | redMinz (w64 : Bool) (o : StOrd) (a b : XReg) (off : BitVec 32)
  | redMaxz (w64 : Bool) (o : StOrd) (a b : XReg) (off : BitVec 32)
  | redFadd (o : StOrd) (a b : XReg) (off : BitVec 32)
  | redFmin (o : StOrd) (a b : XReg) (off : BitVec 32)
  | redFmax (o : StOrd) (a b : XReg) (off : BitVec 32)
  | mosCas2 (o : AmoOrd) (p : PReg) (d a b : XReg)
  | mosCas4 (o : AmoOrd) (p : PReg) (d a b : XReg)
  | mosEnq (o : AmoOrd) (a b : XReg)
  | mosDeq (o : AmoOrd) (d a : XReg)
  | mosChase (d a : XReg) (hops : BitVec 4) (off : BitVec 32)
  | fence (s : Scope)
  | fenceOc (s : Scope)
  | fenceCo (s : Scope)
  | drains
  | barArrive (l : Scope)
  | barWait (l : Scope)
  | barArrivewait (l : Scope)
  -- guards, gates, delegation, conversations, elision (07, 08, 14)
  | bind (s : Scope) (d a b : XReg) (n1 : BitVec 8) (code : BitVec 4)
  | unbind (d a : XReg)
  | gacqX (d a b : XReg)
  | gacqS (d a b : XReg)
  | grel (a : XReg)
  | gflush (a : XReg)
  | gcall (t : BitVec 6) (i : BitVec 10)
  | gret
  | dcall (d a : XReg) (pc : PcIx) (n : BitVec 3)
  | dret (a : XReg)
  | copen (d a b : XReg)
  | cjoin (n : RoleReg) (h : XReg) (r : BitVec 3)
  | csend (n : RoleReg) (b : XReg) (k : BitVec 5) (m : BitVec 6)
  | cdeleg (n : RoleReg) (b : XReg)
  | cclose (d h : XReg)
  | cstat (d h : XReg)
  | elb (t : PcIx)
  | ele
  | ela (code : BitVec 8)
  -- vector (15)
  | vfadd (t : FType) (rnd : Rnd) (d : VDst) (a : VSrc) (b : VSrcB) (m : MReg)
  | vfsub (t : FType) (rnd : Rnd) (d : VDst) (a : VSrc) (b : VSrcB) (m : MReg)
  | vfmul (t : FType) (rnd : Rnd) (d : VDst) (a : VSrc) (b : VSrcB) (m : MReg)
  | vfma (t : FType) (rnd : Rnd) (d : VReg) (a : VSrc) (b : VSrcB) (m : MReg)
  | vfms (t : FType) (rnd : Rnd) (d : VReg) (a : VSrc) (b : VSrcB) (m : MReg)
  | vfnma (t : FType) (rnd : Rnd) (d : VReg) (a : VSrc) (b : VSrcB) (m : MReg)
  | vfmin (t : FType) (d : VDst) (a : VSrc) (b : VSrcB) (m : MReg)
  | vfmax (t : FType) (d : VDst) (a : VSrc) (b : VSrcB) (m : MReg)
  | vfabs (t : FType) (d : VDst) (a : VSrc) (m : MReg)
  | vfneg (t : FType) (d : VDst) (a : VSrc) (m : MReg)
  | vadd (d : VDst) (a : VSrc) (b : VSrcB) (m : MReg)
  | vsub (d : VDst) (a : VSrc) (b : VSrcB) (m : MReg)
  | vmul (d : VDst) (a : VSrc) (b : VSrcB) (m : MReg)
  | vand (d : VDst) (a : VSrc) (b : VSrcB) (m : MReg)
  | vor (d : VDst) (a : VSrc) (b : VSrcB) (m : MReg)
  | vxor (d : VDst) (a : VSrc) (b : VSrcB) (m : MReg)
  | vshl (d : VDst) (a : VSrc) (b : VSrcB) (m : MReg)
  | vshr (d : VDst) (a : VSrc) (b : VSrcB) (m : MReg)
  | vsar (d : VDst) (a : VSrc) (b : VSrcB) (m : MReg)
  | vmin (d : VDst) (a : VSrc) (b : VSrcB) (m : MReg)
  | vmax (d : VDst) (a : VSrc) (b : VSrcB) (m : MReg)
  | vrcp (t : FType) (rnd : Rnd) (d : VDst) (a : VSrc) (m : MReg)
  | vrsqrt (t : FType) (rnd : Rnd) (d : VDst) (a : VSrc) (m : MReg)
  | vsqrt (t : FType) (rnd : Rnd) (d : VDst) (a : VSrc) (m : MReg)
  | vexp2 (t : FType) (rnd : Rnd) (d : VDst) (a : VSrc) (m : MReg)
  | vlog2 (t : FType) (rnd : Rnd) (d : VDst) (a : VSrc) (m : MReg)
  | vcmpEq (t : CType) (d : MReg) (a : VSrcVS) (b : VSrcB) (m : MReg)
  | vcmpNe (t : CType) (d : MReg) (a : VSrcVS) (b : VSrcB) (m : MReg)
  | vcmpLt (t : CType) (d : MReg) (a : VSrcVS) (b : VSrcB) (m : MReg)
  | vcmpLe (t : CType) (d : MReg) (a : VSrcVS) (b : VSrcB) (m : MReg)
  | vsel (d : VDst) (a : VSrcVS) (b : VSrcB) (m : MReg)
  | vcvt (dstFmt srcFmt : BitVec 4) (rnd : Rnd) (d : VDst) (a : VSrc) (m : MReg)
  | vredSum (t : CType) (rnd : Rnd) (d : XReg) (a : VSrcVS) (m : MReg)
  | vredMax (t : CType) (d : XReg) (a : VSrcVS) (m : MReg)
  | vredMin (t : CType) (d : XReg) (a : VSrcVS) (m : MReg)
  | vscanSum (t : CType) (rnd : Rnd) (d : VDst) (a : VSrcVS) (m : MReg)
  | vscanMax (t : CType) (d : VDst) (a : VSrcVS) (m : MReg)
  | vscanMin (t : CType) (d : VDst) (a : VSrcVS) (m : MReg)
  | vperm (d a b : VReg) (m : MReg)
  | vbcast (d : VReg) (a : BcastSrc) (m : MReg)
  | vslide (d a : VReg) (b : XReg) (n : BitVec 16) (m : MReg)
  | vld (w : VWidth) (d : VReg) (a : XReg) (off : BitVec 32) (m : MReg)
  | vldStride (w : VWidth) (d : VReg) (a b : XReg) (off : BitVec 32) (m : MReg)
  | vldIndex (w : VWidth) (d : VReg) (a : XReg) (b : VReg) (off : BitVec 32) (m : MReg)
  | vst (w : VWidth) (d : VReg) (a : XReg) (off : BitVec 32) (m : MReg)
  | vstStride (w : VWidth) (d : VReg) (a b : XReg) (off : BitVec 32) (m : MReg)
  | vstIndex (w : VWidth) (d : VReg) (a : XReg) (b : VReg) (off : BitVec 32) (m : MReg)
  | vsetl (d a : XReg)
  | vsetlImm (d : XReg) (n1 : BitVec 8)
  | vsetlRd (d : XReg)
  | vsetlStart (a : XReg)
  | mand (d a b : MReg)
  | mor (d a b : MReg)
  | mxor (d a b : MReg)
  | mnot (d a : MReg)
  | mpop (d : XReg) (a : MReg)
  | mfirst (d : XReg) (a : MReg)
  | vget (d : XReg) (a : VReg) (l : LaneSrc)
  | vput (d : VReg) (a : XReg) (l : LaneSrc)
  | pair (v : VHalf) (s : SHalf)
  -- matrix, copies, streams, network (16)
  | mm (ta tb : Bool) (acc : AccReg) (a b : XReg) (k : BitVec 16) (mrows ncols : BitVec 2)
  | mmc (tgt : MmcTgt) (ta : Bool) (acc accs : AccReg) (b : XReg) (k : BitVec 16)
  | sqd (tb : Bool) (acc : AccReg) (a b : XReg) (k : BitVec 16) (mrows ncols : BitVec 2)
  | topkMax (d : XReg) (acc : AccReg) (b : XReg) (k : BitVec 7) (nb : BitVec 3)
  | topkMin (d : XReg) (acc : AccReg) (b : XReg) (k : BitVec 7) (nb : BitVec 3)
  | macz (acc : AccReg) (mrows ncols : BitVec 2)
  | macst (rnd : Rnd) (d : XReg) (acc : AccReg) (mrows ncols : BitVec 2)
  | macld (acc : AccReg) (a : XReg) (mrows ncols : BitVec 2)
  | mcoop (d a : XReg)
  | mqry (d : XReg)
  | cp (d a : XReg) (len : LenSrc) (c : Comp)
  | cpa (d a b : XReg) (c : Comp)
  | cpm (d a : XReg) (len : LenSrc) (c : Comp)
  | cpres (d : XReg) (tag : BitVec 7)
  | sbind (s : SReg) (a b : XReg)
  | sdrop (d : XReg) (s : SReg)
  | nsend (e : Bool) (m : BitVec 6) (a b : XReg)
  | tsend (e : Bool) (m : BitVec 6) (c : BitVec 4) (thr : BitVec 32) (a b : XReg)
  | rcsetRd (d : XReg) (c : BitVec 4)
  | rcsetWr (d : XReg) (c : BitVec 4) (b : XReg)
  | rcsetAdd (d : XReg) (c : BitVec 4) (b : XReg)
  -- system (13)
  | ctlr (d : XReg) (num : BitVec 12) (slot : BitVec 4) (other : Bool)
  | ctlw (num : BitVec 12) (slot : BitVec 4) (other : Bool) (a : XReg)
  | trap (imm : BitVec 16)
  | eret (a : XReg)
  | tlbinvAsid (reach : BitVec 2) (a : XReg)
  | tlbinvPage (reach : BitVec 2) (a b : XReg)
  | tlbinvAll (reach : BitVec 2) (a : XReg)
  | setxb (d a : XReg)
  | rtinv (all : Bool) (a : XReg)
  | ovld (d a b : XReg)
  | pmig (d a b : XReg)
  | qctlCreate (d a b : XReg)
  | qctlWeight (d a b : XReg)
  | qctlMask (d a b : XReg)
  | qctlDestroy (d a b : XReg)
  | qctlStop (d a b : XReg)
  | qctlRestart (d a b : XReg)
  | qctlMode (d a b : XReg)
  | qctlCounts (d a b : XReg)
  | dbgRd (d a b : XReg)
  | dbgWr (d a b : XReg)
  | dbgStep (d a b : XReg)
  | dbgPost (d a b : XReg)
  | sfpop (d : XReg)
  | ctxsave (d a b : XReg)
  | ctxrest (d a b : XReg)
  -- the device's own steps
  | instructionFetchBeyondBound
  | parkedThreadWake (r s : Nat)
  | perform (r s i : Nat)
  | acknowledge (r s i : Nat)
  | returnValue (r s i : Nat)
  | engineStep (r : Nat) (u : EngWord)
  | slotArbitration (r : Nat)
  | dispatchArbitration (die : Nat)
  | queuePromotion (q : Nat)
  | eventQueuePost (r : Nat)
  | deadlockTrap (j : Nat)
  | pageWalk (r i evCore evDie : Nat)
  | storeFaultRecordEnter (r : Nat)
  | impreciseStoreFault (r s : Nat)
  | deferredFault (r s : Nat)
  | trapHandlerStart (r : Nat)
  | agentFaultTake (wake : AgentWake)
  | preemptHalt (r s : Nat)
  | preemptTimeout (r s : Nat)
  | guardGrant (g : Nat)
  | grantArrival (r s : Nat)
  | guardDelivery (r i : Nat)
  | guardRefresh (r i : Nat)
  | heldSendAccept (c : Nat)
  | delegatedCallServe (r : Nat)
  | matrixOperandFetch (u c : Nat) (slip : Bool)
  | matrixStepBoundary (u : Nat)
  | arrayStepEnd (u : Nat)
  | matrixTlRelease (r : Nat)
  | copyPiece (r i k : Nat) (slip : Option Nat)
  | copyComplete (r i : Nat)
  | streamRunaheadFetch (r n : Nat) (slip : Bool)
  | streamDrain (r n : Nat) (slip : Bool)
  | messagePlacement (i : Nat)
  | tsendFire (r c : Nat)
  | migration (turn : MigTurn)
  | migrationSample (f : Nat) (page : Nat) (count : Nat)
  | hostWindowPost (p : BitVec 2) (q : Nat) (rec : List Word)
  | hostWakeArm (p : BitVec 2) (q : Nat)
  | hostWakeDisarm (p : BitVec 2) (q : Nat)
  | hostApertureAccess (va n : Nat) (w : Option (List Byte))
  | claim (p : BitVec 2)
  | offer (p t : BitVec 2)
  | release (p : BitVec 2)
  | controlSpaceWrite (w : Writer) (off : Nat) (v : Word)
  | coreLoadDataWrite (w : Writer) (v : Word)
  | coreLoadBoundWrite (w : Writer) (v : Word)
  | coreStart (w : Writer) (entry : PcIx)
  | coreStop (w : Writer)
  | keyStage (w : Writer)
  | scrubStart (w : Writer) (period : BitVec 8)
  | scrubVisit (line : Nat) (found : BitVec 2)
  | scrubPassEnd
  | bufferReclaim (w : Writer) (v : Word)
  | dieSave (w : Writer) (v : Word)
  | dieRestore (w : Writer) (v : Word)
  | measurementExtend (w : Writer)
  | attestationRequest (p : BitVec 2)
  | attestationReportReady (p : BitVec 2)
  | debugEnableWrite (w : Writer) (v : Word)
  | recoveryGo (p : BitVec 2)
  | linkRetrain (w : Writer) (l : Nat)
  | reset (stage : BootStage) (failing : Bool) (setup : BootSetup)
  | bootReady
  | tapBypass
  | tapSamplePreload
  | tapExtest
  | tapIdcode
  | debugHaltDie (d : Nat)
  | debugResumeDie (d : Nat)
  | powerCapRaise (above : PowerOver) (raise : Bool)
  | powerCapLower
  | powerFault
  | ageingSample (u need needNext : Nat)
  | ownerLinkDown (p : BitVec 2)
  | i3cTargetReset
  | cxlExtentAccept (p : BitVec 2) (unit n : Nat)
  | dieFailure (d : Nat)
  | remapEntryFail (die bg : Nat) (dramOk : Bool)
  | remapReload (die bg : Nat)
  | localBankMarkFailed (r : Nat) (found : BankFinding)
  | flitReplay (l : Nat)
  | laneLoss (l lane : Nat)
  | replayThreshold (l : Nat)
  | linkTrainingDone (l : Nat) (bad : BitVec 16)
  | linkTrainingTimeout (l : Nat)
  | routerPowerLoss (peer : Nat) (col : Bool)
  | failureAnnounce (news : FabricNews)
  | packetCustody (i occ : Nat)
  | targetPacket (origin : PacketOrigin) (va : Nat) (crcOk : Bool) (op : PacketOp)
  | responseArrival (i : Nat) (crcOk mark : Bool) (a : Answer)
  | errorNotice (i : Nat) (notice : Byte)
  | dragRecovery (peer : Nat)
  | illegalInstruction (f : DecodeFault)
  | barrierArrival (i : Nat)
  | debugPortWork (r : Nat) (pc : Option PcIx)
  | cxlExtentRelease (unit n : Nat)
  | powerLoss (duringFlash : Bool)
  deriving DecidableEq, Repr, Inhabited

end Sys2Proof
end

