-- ==== Sys2Proof/WellFormed.lean ====
section
/-! DEFINITION. Well-formedness: the restrictions of 12 R257 to R264 and of the instructions' descriptions that the
types of Syntax do not carry. An instruction that decodes is well formed; each check names its rule. -/

namespace Sys2Proof

/-- A control-register number that R288, R361, R390 or R419 assigns. -/
def ctlAssigned (n : BitVec 12) : Bool := n.toNat ≤ 0x009 || (0x010 ≤ n.toNat && n.toNat ≤ 0x026)

/-- A control register of which each slot has its own (13 R288). -/
def ctlPerSlot (n : BitVec 12) : Bool := n.toNat ≤ 0x009

/-- The fields of `ctlr` and `ctlw` (13 R288): other selects a slot of a per-slot register, else the slot is zero. -/
def ctlFieldsOk (n : BitVec 12) (slot : BitVec 4) (other : Bool) : Bool :=
  ctlAssigned n && (if other then ctlPerSlot n else slot == 0)

/-- An even register from `x2` to `x62` (13 R286, R291; 14 R310). -/
def evenReg (d : XReg) : Bool := d.toNat % 2 == 0 && d.toNat != 0

/-- A register from `x4` to `x60` that is a multiple of 4 (14 R310). -/
def quadReg (d : XReg) : Bool := d.toNat % 4 == 0 && d.toNat != 0

/-- A scalar immediate of an element type (15 R328): 16-bit types leave xi[31:16] zero. -/
def immFits (narrow : Bool) : VSrcB → Bool
  | .imm v => !narrow || v.extractLsb' 16 16 == 0
  | _ => true

/-- The 16-bit element types. -/
def FType.narrow : FType → Bool
  | .fp32 => false
  | .bf16 | .fp16 => true

def CType.narrow : CType → Bool
  | .fp32 | .i32 => false
  | .bf16 | .fp16 => true

/-- A stream stands in one operand position only (12 R257). -/
def streamsDiffer : VDst → VSrc → Bool
  | .s n, .s k => n != k
  | _, _ => true

def streamsDiffer' : VDst → VSrcVS → Bool
  | .s n, .s k => n != k
  | _, _ => true

/-- Rounding of reductions and scans (15 R339): only a floating sum rounds. -/
def sumRnd (t : CType) (r : Rnd) : Bool := t != .i32 || r == .rne

/-- Floating formats of 04 R71. -/
def fmtFloat (f : BitVec 4) : Bool := f == 1 || f == 2 || f == 3

/-- PSB formats. -/
def fmtPsb (f : BitVec 4) : Bool := f == 4 || f == 5 || f == 6

/-- Integer formats: 7 INT8, 8 INT32. -/
def fmtInt (f : BitVec 4) : Bool := f == 7 || f == 8

/-- The format pairs of `vcvt` (15 R337). -/
def cvtPair (dst src : BitVec 4) : Bool :=
  dst != src &&
    ((fmtFloat src && (fmtFloat dst || fmtInt dst || fmtPsb dst)) ||
     (fmtInt src && (fmtFloat dst || fmtInt dst)) ||
     (fmtPsb src && fmtFloat dst))

/-- A conversion to a PSB format keeps rnd 0 (15 R338). -/
def cvtRnd (dst : BitVec 4) (r : Rnd) : Bool := !fmtPsb dst || r == .rne

/-- A conversion with a PSB side keeps its mask field 0 (15 R338). -/
def cvtMask (dst src : BitVec 4) (m : MReg) : Bool := !(fmtPsb dst || fmtPsb src) || m == 0

/-- The `ptag` immediate (13 R274): what the space admits. -/
def tagFits (space : BitVec 4) (t : BitVec 11) : Bool :=
  if space == 2 || space == 3 then true
  else if space == 6 then t.toNat ≤ 255
  else t == 0

def TagSrc.fits (space : BitVec 4) : TagSrc → Bool
  | .imm t => tagFits space t
  | .reg _ => true

/-- The field `lo`, `w` lies within 64 bits (13 R271); `w1` is `w` − 1. -/
def fieldFits (lo w1 : BitVec 6) : Bool := lo.toNat + w1.toNat < 64

/-- The floating functions that take one source. -/
def FpFn.single : FpFn → Bool
  | .abs | .neg => true
  | _ => false

/-- The floating functions that round. -/
def FpFn.rounds : FpFn → Bool
  | .add | .sub | .mul | .ma | .ms | .nma => true
  | _ => false

/-- The vector half of a pair (12 R262). -/
def VHalf.wf : VHalf → Bool
  | .none => true
  | .fp f _ r _ _ b _ => (!f.single || b == 0) && (f.rounds || r == .rne)
  | .int _ _ _ _ _ => true
  | .cmp _ _ _ _ _ _ => true
  | .sel _ _ _ _ => true

/-- 32 payload words at most (14 R321, 16 R365). -/
def words32 (m : BitVec 6) : Bool := m.toNat ≤ 32

/-- Counts of `wait` need no check beyond their type; the other constructors' checks, rule by rule. A step of the
device itself has no instruction word and counts as well formed. -/
def Instr.wf : Instr → Bool
  | .bext _ _ lo w1 | .bextz _ _ lo w1 | .bins _ _ lo w1 => fieldFits lo w1
  | .ptag _ _ space t => space.toNat ≤ 6 && t.fits space
  | .pfmt _ _ fmt lcode => fmt.toNat ≤ 8 && lcode.toNat ≤ 3
  | .semPost _ k => k != 0
  | .evpop d | .sfpop d => evenReg d
  | .ld sz sx _ _ _ _ => sz != .b64 || !sx
  | .mosCas2 _ _ d _ b => evenReg d && b.toNat % 2 == 0 && d != b
  | .mosCas4 _ _ d _ b => quadReg d && b.toNat % 4 == 0 && d != b
  | .mosChase d _ _ off => evenReg d && off.extractLsb' 0 3 == 0
  | .dcall _ _ _ n => n != 7
  | .csend _ _ _ m => words32 m
  | .nsend _ m _ _ | .tsend _ m _ _ _ _ => words32 m
  | .vfadd t _ d a b _ | .vfsub t _ d a b _ | .vfmul t _ d a b _ => streamsDiffer d a && immFits t.narrow b
  | .vfma t _ _ _ b _ | .vfms t _ _ _ b _ | .vfnma t _ _ _ b _ => immFits t.narrow b
  | .vfmin t d a b _ | .vfmax t d a b _ => streamsDiffer d a && immFits t.narrow b
  | .vfabs _ d a _ | .vfneg _ d a _ => streamsDiffer d a
  | .vadd d a _ _ | .vsub d a _ _ | .vmul d a _ _ | .vand d a _ _ | .vor d a _ _ | .vxor d a _ _
  | .vshl d a _ _ | .vshr d a _ _ | .vsar d a _ _ | .vmin d a _ _ | .vmax d a _ _ => streamsDiffer d a
  | .vrcp _ _ d a _ | .vrsqrt _ _ d a _ | .vsqrt _ _ d a _ | .vexp2 _ _ d a _ | .vlog2 _ _ d a _ =>
      streamsDiffer d a
  | .vcmpEq t _ _ b _ | .vcmpNe t _ _ b _ | .vcmpLt t _ _ b _ | .vcmpLe t _ _ b _ => immFits t.narrow b
  | .vsel d a _ _ => streamsDiffer' d a
  | .vcvt dst src r d a m =>
      cvtPair dst src && cvtRnd dst r && cvtMask dst src m && streamsDiffer d a
  | .vredSum t r _ _ _ => sumRnd t r
  | .vscanSum t r d a _ => sumRnd t r && streamsDiffer' d a
  | .vscanMax _ d a _ | .vscanMin _ d a _ => streamsDiffer' d a
  | .vslide _ _ _ n _ => -255 ≤ n.toInt && n.toInt ≤ 255
  | .pair v _ => v.wf
  | .ctlr _ n slot other | .ctlw n slot other _ => ctlFieldsOk n slot other
  | _ => true

end Sys2Proof
end

