-- ==== Sys2Proof/Decode.lean ====
section
/-! DEFINITION. The decoder of 12 R254 to R267, total on every 96-bit word: the guard, the hints and the instruction,
or the decoding fault of checks 1 to 4. After it the encoder, from the same tables. -/

namespace Sys2Proof

/-- The fields of format F (12 R254). -/
structure Raw where
  op : BitVec 8
  fn : BitVec 6
  gd : BitVec 4
  ht : BitVec 6
  d : BitVec 8
  a : BitVec 8
  b : BitVec 8
  imm : BitVec 48
  deriving DecidableEq, Repr

def Raw.ofWord (w : IWord) : Raw where
  op := w.extractLsb' 88 8
  fn := w.extractLsb' 82 6
  gd := w.extractLsb' 78 4
  ht := w.extractLsb' 72 6
  d := w.extractLsb' 64 8
  a := w.extractLsb' 56 8
  b := w.extractLsb' 48 8
  imm := w.extractLsb' 0 48

def Raw.word (r : Raw) : IWord := r.op ++ r.fn ++ r.gd ++ r.ht ++ r.d ++ r.a ++ r.b ++ r.imm

/-- The fields of format P (12 R260). -/
structure PairRaw where
  pg : BitVec 4
  so : BitVec 7
  sd : BitVec 6
  sa : BitVec 6
  sb : BitVec 6
  si : BitVec 18
  vo : BitVec 7
  vd : BitVec 5
  va : BitVec 5
  vb : BitVec 5
  vm : BitVec 3
  rnd : BitVec 3
  sel : BitVec 2
  num : BitVec 3
  typ : BitVec 2
  low : BitVec 8
  deriving DecidableEq, Repr

def PairRaw.ofWord (w : IWord) : PairRaw where
  pg := w.extractLsb' 86 4
  so := w.extractLsb' 79 7
  sd := w.extractLsb' 73 6
  sa := w.extractLsb' 67 6
  sb := w.extractLsb' 61 6
  si := w.extractLsb' 43 18
  vo := w.extractLsb' 36 7
  vd := w.extractLsb' 31 5
  va := w.extractLsb' 26 5
  vb := w.extractLsb' 21 5
  vm := w.extractLsb' 18 3
  rnd := w.extractLsb' 15 3
  sel := w.extractLsb' 13 2
  num := w.extractLsb' 10 3
  typ := w.extractLsb' 8 2
  low := w.extractLsb' 0 8

def PairRaw.word (r : PairRaw) : IWord :=
  0b111111#6 ++ r.pg ++ r.so ++ r.sd ++ r.sa ++ r.sb ++ r.si ++ r.vo ++ r.vd ++ r.va ++ r.vb ++ r.vm ++
    r.rnd ++ r.sel ++ r.num ++ r.typ ++ r.low

/-- The guard of R255 and the hints of R256. -/
structure Guard where
  neg : Bool
  pred : PReg
  deriving DecidableEq, Repr, Inhabited

structure Hints where
  pri : BitVec 2
  last : Bool
  pp : Bool
  deriving DecidableEq, Repr, Inhabited

/-- One decoded instruction word. -/
structure Coded where
  guard : Guard
  hints : Hints
  instr : Instr
  deriving DecidableEq, Repr, Inhabited

/-! Checks and operand positions (12 R257, R265, R267). -/

abbrev Dec (α : Type) := Except DecodeFault α

/-- Check 3: a must-be-zero bit or a reserved value raises 0x01. -/
def chk {α : Type} (ok : Bool) (k : Dec α) : Dec α := if ok then k else .error (.check 3)

/-- Check 3 on a field that only some values fill. -/
def fld {α β : Type} (o : Option β) (k : β → Dec α) : Dec α :=
  match o with
  | some v => k v
  | none => .error (.check 3)

/-- Check 4 at a position: a code of another class raises 0x02. -/
def pos {α β : Type} (p : BitVec 4) (o : Option β) (k : β → Dec α) : Dec α :=
  match o with
  | some v => k v
  | none => .error (.position p)

/-- Check 4 on a condition. -/
def posIf {α : Type} (p : BitVec 4) (ok : Bool) (k : Dec α) : Dec α := if ok then k else .error (.position p)

/-! Operand codes (02 R25). -/

def xr? (c : BitVec 8) : Option XReg := if c.extractLsb' 6 2 = 0 then some (c.extractLsb' 0 6) else none
def vr? (c : BitVec 8) : Option VReg := if c.extractLsb' 5 3 = 2 then some (c.extractLsb' 0 5) else none
def pr? (c : BitVec 8) : Option PReg := if c.extractLsb' 3 5 = 12 then some (c.extractLsb' 0 3) else none
def mr? (c : BitVec 8) : Option MReg := if c.extractLsb' 3 5 = 13 then some (c.extractLsb' 0 3) else none
def sr? (c : BitVec 8) : Option SReg := if c.extractLsb' 3 5 = 14 then some (c.extractLsb' 0 3) else none
def chr? (c : BitVec 8) : Option ChReg := if c.extractLsb' 2 6 = 30 then some (c.extractLsb' 0 2) else none
def accr? (c : BitVec 8) : Option AccReg := if c.extractLsb' 2 6 = 31 then some (c.extractLsb' 0 2) else none
def roler? (c : BitVec 8) : Option RoleReg := if c.extractLsb' 2 6 = 32 then some (c.extractLsb' 0 2) else none
def semr? (c : BitVec 8) : Option SemReg :=
  if 0x84#8 ≤ c ∧ c ≤ 0x8B#8 then some ((c - 0x84#8).extractLsb' 0 3) else none
def immOnly? (c : BitVec 8) : Option Unit := if c = 0xFF then some () else none

def xrC (r : XReg) : BitVec 8 := 0#2 ++ r
def vrC (r : VReg) : BitVec 8 := 2#3 ++ r
def prC (r : PReg) : BitVec 8 := 12#5 ++ r
def mrC (r : MReg) : BitVec 8 := 13#5 ++ r
def srC (r : SReg) : BitVec 8 := 14#5 ++ r
def chrC (r : ChReg) : BitVec 8 := 30#6 ++ r
def accrC (r : AccReg) : BitVec 8 := 31#6 ++ r
def rolerC (r : RoleReg) : BitVec 8 := 32#6 ++ r
def semrC (r : SemReg) : BitVec 8 := 0x84#8 + r.setWidth 8

/-- Several classes at one position: the first that reads the code. -/
def orElse {α : Type} (o p : Option α) : Option α :=
  match o with
  | some v => some v
  | none => p

def vdst? (c : BitVec 8) : Option VDst := orElse ((vr? c).map .v) ((sr? c).map .s)
def vsrc? (c : BitVec 8) : Option VSrc := orElse ((vr? c).map .v) (orElse ((sr? c).map .s) ((chr? c).map .ch))
def vsrcVS? (c : BitVec 8) : Option VSrcVS := orElse ((vr? c).map .v) ((sr? c).map .s)
def src2? (c : BitVec 8) (simm : BitVec 32) : Option Src2 :=
  if c = 0xFF then some (.imm simm) else (xr? c).map .reg
def lenSrc? (c : BitVec 8) (simm : BitVec 32) : Option LenSrc :=
  if c = 0xFF then some (.imm simm) else (xr? c).map .reg
def vsrcB? (c : BitVec 8) (xi : BitVec 32) : Option VSrcB :=
  if c = 0xFF then some (.imm xi) else orElse ((vr? c).map .v) ((xr? c).map .x)
def laneSrc? (c : BitVec 8) (l : BitVec 8) : Option LaneSrc :=
  if c = 0xFF then some (.imm l) else (xr? c).map .x
def bitSrc? (c : BitVec 8) : Option BitSrc := orElse ((xr? c).map .x) ((chr? c).map .ch)
def tagSrc? (c : BitVec 8) (t : BitVec 11) : Option TagSrc :=
  if c = 0xFF then some (.imm t) else (xr? c).map .reg

def vdstC : VDst → BitVec 8
  | .v r => vrC r
  | .s n => srC n
def vsrcC : VSrc → BitVec 8
  | .v r => vrC r
  | .s n => srC n
  | .ch n => chrC n
def vsrcVSC : VSrcVS → BitVec 8
  | .v r => vrC r
  | .s n => srC n
def src2C : Src2 → BitVec 8
  | .reg b => xrC b
  | .imm _ => 0xFF
def src2I : Src2 → BitVec 32
  | .reg _ => 0
  | .imm v => v
def lenC : LenSrc → BitVec 8
  | .reg b => xrC b
  | .imm _ => 0xFF
def lenI : LenSrc → BitVec 32
  | .reg _ => 0
  | .imm v => v
def vsrcBC : VSrcB → BitVec 8
  | .v r => vrC r
  | .x b => xrC b
  | .imm _ => 0xFF
def vsrcBI : VSrcB → BitVec 32
  | .imm v => v
  | _ => 0
def laneC : LaneSrc → BitVec 8
  | .imm _ => 0xFF
  | .x b => xrC b
def laneI : LaneSrc → BitVec 8
  | .imm l => l
  | .x _ => 0
def bitSrcC : BitSrc → BitVec 8
  | .x a => xrC a
  | .ch n => chrC n
def tagC : TagSrc → BitVec 8
  | .imm _ => 0xFF
  | .reg b => xrC b
def tagI : TagSrc → BitVec 11
  | .imm t => t
  | .reg _ => 0

/-! Fields that name one of a few values. -/

def scope? (v : BitVec 3) : Option Scope :=
  match v.toNat with
  | 1 => some .grp
  | 2 => some .core
  | 3 => some .quad
  | 4 => some .die
  | 5 => some .dev
  | 6 => some .sys
  | _ => none
def scopeC : Scope → BitVec 3
  | .grp => 1
  | .core => 2
  | .quad => 3
  | .die => 4
  | .dev => 5
  | .sys => 6

def rnd? (v : BitVec 3) : Option Rnd :=
  match v.toNat with
  | 0 => some .rne
  | 1 => some .rna
  | 2 => some .rtz
  | 3 => some .rup
  | 4 => some .rdn
  | _ => none
def rndC : Rnd → BitVec 3
  | .rne => 0
  | .rna => 1
  | .rtz => 2
  | .rup => 3
  | .rdn => 4

def size? (v : BitVec 2) : Size :=
  match v.toNat with
  | 0 => .b8
  | 1 => .b16
  | 2 => .b32
  | _ => .b64
def sizeC : Size → BitVec 2
  | .b8 => 0
  | .b16 => 1
  | .b32 => 2
  | .b64 => 3

def ftype? (v : BitVec 2) : Option FType :=
  match v.toNat with
  | 0 => some .fp32
  | 1 => some .bf16
  | 2 => some .fp16
  | _ => none
def ftypeC : FType → BitVec 2
  | .fp32 => 0
  | .bf16 => 1
  | .fp16 => 2

def ctype? (v : BitVec 2) : CType :=
  match v.toNat with
  | 0 => .fp32
  | 1 => .bf16
  | 2 => .fp16
  | _ => .i32
def ctypeC : CType → BitVec 2
  | .fp32 => 0
  | .bf16 => 1
  | .fp16 => 2
  | .i32 => 3

def vwidth? (v : BitVec 2) : Option VWidth :=
  match v.toNat with
  | 0 => some .b32
  | 1 => some .b16
  | 2 => some .b8
  | _ => none
def vwidthC : VWidth → BitVec 2
  | .b32 => 0
  | .b16 => 1
  | .b8 => 2

def ldOrd? (o : BitVec 2) (s : BitVec 3) : Option LdOrd :=
  match o.toNat with
  | 0 => if s = 0 then some .plain else none
  | 1 => (scope? s).map .acq
  | _ => none
def ldOrdO : LdOrd → BitVec 2
  | .plain => 0
  | .acq _ => 1
def ldOrdS : LdOrd → BitVec 3
  | .plain => 0
  | .acq s => scopeC s

def stOrd? (o : BitVec 2) (s : BitVec 3) : Option StOrd :=
  match o.toNat with
  | 0 => if s = 0 then some .plain else none
  | 2 => (scope? s).map .rel
  | _ => none
def stOrdO : StOrd → BitVec 2
  | .plain => 0
  | .rel _ => 2
def stOrdS : StOrd → BitVec 3
  | .plain => 0
  | .rel s => scopeC s

def amoOrd? (o : BitVec 2) (s : BitVec 3) : Option AmoOrd :=
  match o.toNat with
  | 0 => if s = 0 then some .plain else none
  | 1 => (scope? s).map .acq
  | 2 => (scope? s).map .rel
  | _ => (scope? s).map .ar
def amoOrdO : AmoOrd → BitVec 2
  | .plain => 0
  | .acq _ => 1
  | .rel _ => 2
  | .ar _ => 3
def amoOrdS : AmoOrd → BitVec 3
  | .plain => 0
  | .acq s | .rel s | .ar s => scopeC s

def mmcTgt? (v : BitVec 4) : Option MmcTgt :=
  match v.toNat with
  | 2 => some .bf16
  | 5 => some .psb4
  | 6 => some .psb7
  | _ => none
def mmcTgtC : MmcTgt → BitVec 4
  | .bf16 => 2
  | .psb4 => 5
  | .psb7 => 6

def waitF? (v : BitVec 10) : Option (Option (BitVec 9)) :=
  if v.extractLsb' 9 1 = 1 then some (some (v.extractLsb' 0 9)) else if v = 0 then some none else none
def waitFC : Option (BitVec 9) → BitVec 10
  | none => 0
  | some n => 1#1 ++ n

def bit (b : Bool) : BitVec 1 := BitVec.ofBool b

/-! The format-F shapes: each reads its immediate layout (check 3), then its positions in order (check 4). -/

/-- No operand, no immediate. -/
def fNone (r : Raw) (i : Instr) : Dec Instr := chk (r.d == 0 && r.a == 0 && r.b == 0 && r.imm == 0) (.ok i)

/-- The I-form (R258). -/
def fI (r : Raw) (mk : XReg → XReg → Src2 → Instr) : Dec Instr :=
  chk (r.imm.extractLsb' 32 16 == 0 && (r.b == 0xFF || r.imm.extractLsb' 0 32 == 0)) <|
    pos 1 (xr? r.d) fun d => pos 2 (xr? r.a) fun a => pos 3 (src2? r.b (r.imm.extractLsb' 0 32)) fun b => .ok (mk d a b)

/-- The I-form with a predicate destination (R276). -/
def fIp (r : Raw) (mk : PReg → XReg → Src2 → Instr) : Dec Instr :=
  chk (r.imm.extractLsb' 32 16 == 0 && (r.b == 0xFF || r.imm.extractLsb' 0 32 == 0)) <|
    pos 1 (pr? r.d) fun d => pos 2 (xr? r.a) fun a => pos 3 (src2? r.b (r.imm.extractLsb' 0 32)) fun b => .ok (mk d a b)

/-- `x`, `x`. -/
def fXX (r : Raw) (mk : XReg → XReg → Instr) : Dec Instr :=
  chk (r.b == 0 && r.imm == 0) <| pos 1 (xr? r.d) fun d => pos 2 (xr? r.a) fun a => .ok (mk d a)

def fPX (r : Raw) (mk : PReg → XReg → Instr) : Dec Instr :=
  chk (r.b == 0 && r.imm == 0) <| pos 1 (pr? r.d) fun d => pos 2 (xr? r.a) fun a => .ok (mk d a)

/-- `x`, `x`, `x`. -/
def fXXX (r : Raw) (mk : XReg → XReg → XReg → Instr) : Dec Instr :=
  chk (r.imm == 0) <|
    pos 1 (xr? r.d) fun d => pos 2 (xr? r.a) fun a => pos 3 (xr? r.b) fun b => .ok (mk d a b)

/-- Only A, an `x`. -/
def fA (r : Raw) (mk : XReg → Instr) : Dec Instr :=
  chk (r.d == 0 && r.b == 0 && r.imm == 0) <| pos 2 (xr? r.a) fun a => .ok (mk a)

/-- Only D, an `x`. -/
def fD (r : Raw) (mk : XReg → Instr) : Dec Instr :=
  chk (r.a == 0 && r.b == 0 && r.imm == 0) <| pos 1 (xr? r.d) fun d => .ok (mk d)

/-- Only D, an even `x2` to `x62` (R286, R291). -/
def fDeven (r : Raw) (mk : XReg → Instr) : Dec Instr :=
  chk (r.a == 0 && r.b == 0 && r.imm == 0) <| pos 1 (xr? r.d) fun d => posIf 1 (evenReg d) (.ok (mk d))

def fPPP (r : Raw) (mk : PReg → PReg → PReg → Instr) : Dec Instr :=
  chk (r.imm == 0) <|
    pos 1 (pr? r.d) fun d => pos 2 (pr? r.a) fun a => pos 3 (pr? r.b) fun b => .ok (mk d a b)

def fPP (r : Raw) (mk : PReg → PReg → Instr) : Dec Instr :=
  chk (r.b == 0 && r.imm == 0) <| pos 1 (pr? r.d) fun d => pos 2 (pr? r.a) fun a => .ok (mk d a)

def fMMM (r : Raw) (mk : MReg → MReg → MReg → Instr) : Dec Instr :=
  chk (r.imm == 0) <|
    pos 1 (mr? r.d) fun d => pos 2 (mr? r.a) fun a => pos 3 (mr? r.b) fun b => .ok (mk d a b)

def fXM (r : Raw) (mk : XReg → MReg → Instr) : Dec Instr :=
  chk (r.b == 0 && r.imm == 0) <| pos 1 (xr? r.d) fun d => pos 2 (mr? r.a) fun a => .ok (mk d a)

/-- Bit fields (R271). -/
def fBext (r : Raw) (mk : XReg → BitSrc → BitVec 6 → BitVec 6 → Instr) : Dec Instr :=
  chk (r.imm.extractLsb' 12 36 == 0 && fieldFits (r.imm.extractLsb' 6 6) (r.imm.extractLsb' 0 6)) <|
    pos 1 (xr? r.d) fun d => pos 2 (bitSrc? r.a) fun a => pos 3 (immOnly? r.b) fun _ =>
      .ok (mk d a (r.imm.extractLsb' 6 6) (r.imm.extractLsb' 0 6))

def fBins (r : Raw) : Dec Instr :=
  chk (r.imm.extractLsb' 12 36 == 0 && fieldFits (r.imm.extractLsb' 6 6) (r.imm.extractLsb' 0 6)) <|
    pos 1 (xr? r.d) fun d => pos 2 (xr? r.a) fun a => pos 3 (immOnly? r.b) fun _ =>
      .ok (.bins d a (r.imm.extractLsb' 6 6) (r.imm.extractLsb' 0 6))

def fLi (r : Raw) : Dec Instr := chk (r.a == 0 && r.b == 0) <| pos 1 (xr? r.d) fun d => .ok (.li d r.imm)

def fLih (r : Raw) : Dec Instr :=
  chk (r.a == 0 && r.b == 0 && r.imm.extractLsb' 16 32 == 0) <|
    pos 1 (xr? r.d) fun d => .ok (.lih d (r.imm.extractLsb' 0 16))

/-- `ptag`, `pfmt`, `pget` (R274). -/
def fPtag (r : Raw) : Dec Instr :=
  let space := r.imm.extractLsb' 0 4
  let t := r.imm.extractLsb' 8 11
  chk (r.imm.extractLsb' 4 4 == 0 && r.imm.extractLsb' 19 29 == 0 && space.toNat ≤ 6 &&
      (if r.b == 0xFF then tagFits space t else t == 0)) <|
    pos 1 (xr? r.d) fun d => pos 2 (xr? r.a) fun a => pos 3 (tagSrc? r.b t) fun b => .ok (.ptag d a space b)

def fPfmt (r : Raw) : Dec Instr :=
  let fmt := r.imm.extractLsb' 0 4
  let lc := r.imm.extractLsb' 4 3
  chk (r.imm.extractLsb' 7 41 == 0 && fmt.toNat ≤ 8 && lc.toNat ≤ 3) <|
    pos 1 (xr? r.d) fun d => pos 2 (xr? r.a) fun a => pos 3 (immOnly? r.b) fun _ => .ok (.pfmt d a fmt lc)

def fPget (r : Raw) : Dec Instr :=
  chk (r.imm.extractLsb' 2 46 == 0) <|
    pos 1 (xr? r.d) fun d => pos 2 (xr? r.a) fun a => pos 3 (immOnly? r.b) fun _ =>
      .ok (.pget d a (r.imm.extractLsb' 0 2))

/-- The B-form (R258): a target label in A. -/
def fBr (r : Raw) : Dec Instr :=
  chk (r.d == 0 && r.b == 0 && r.imm.extractLsb' 16 32 == 0) <|
    pos 2 (immOnly? r.a) fun _ => .ok (.br (r.imm.extractLsb' 0 16))

def fJmp (r : Raw) (mk : PcIx → Instr) : Dec Instr :=
  chk (r.d == 0 && r.b == 0 && r.imm.extractLsb' 15 33 == 0) <|
    pos 2 (immOnly? r.a) fun _ => .ok (mk (r.imm.extractLsb' 0 15))

def fCall (r : Raw) (mk : XReg → PcIx → Instr) : Dec Instr :=
  chk (r.b == 0 && r.imm.extractLsb' 15 33 == 0) <|
    pos 1 (xr? r.d) fun d => pos 2 (immOnly? r.a) fun _ => .ok (mk d (r.imm.extractLsb' 0 15))

/-- Semaphores (R284). -/
def fSem (r : Raw) (mk : SemReg → Instr) : Dec Instr :=
  chk (r.d == 0 && r.b == 0 && r.imm == 0) <| pos 2 (semr? r.a) fun n => .ok (mk n)

def fSemPost (r : Raw) : Dec Instr :=
  chk (r.d == 0 && r.imm.extractLsb' 16 32 == 0 && r.imm.extractLsb' 0 16 != 0) <|
    pos 2 (semr? r.a) fun n => pos 3 (immOnly? r.b) fun _ => .ok (.semPost n (r.imm.extractLsb' 0 16))

def fSemTry (r : Raw) : Dec Instr :=
  chk (r.b == 0 && r.imm == 0) <| pos 1 (pr? r.d) fun d => pos 2 (semr? r.a) fun n => .ok (.semTry d n)

/-- `wait` (R285). -/
def fWait (r : Raw) : Dec Instr :=
  chk (r.d == 0 && r.a == 0 && r.b == 0 && r.imm.extractLsb' 40 8 == 0) <|
    fld (waitF? (r.imm.extractLsb' 0 10)) fun l => fld (waitF? (r.imm.extractLsb' 10 10)) fun s =>
      fld (waitF? (r.imm.extractLsb' 20 10)) fun c => fld (waitF? (r.imm.extractLsb' 30 10)) fun t =>
        .ok (.wait l s c t)

def fSpawn (r : Raw) : Dec Instr :=
  chk (r.imm.extractLsb' 1 47 == 0) <|
    pos 1 (xr? r.d) fun d => pos 2 (xr? r.a) fun a => pos 3 (xr? r.b) fun b =>
      .ok (.spawn (r.imm.extractLsb' 0 1 == 1) d a b)

/-! The M-form (R258). -/

def mScope (r : Raw) : BitVec 3 := r.imm.extractLsb' 45 3
def mOrder (r : Raw) : BitVec 2 := r.imm.extractLsb' 43 2
def mSize (r : Raw) : BitVec 2 := r.imm.extractLsb' 41 2
def mExt (r : Raw) : BitVec 1 := r.imm.extractLsb' 40 1
def mOff (r : Raw) : BitVec 32 := r.imm.extractLsb' 0 32
def mGap (r : Raw) : Bool := r.imm.extractLsb' 32 8 == 0

def mImm (scope : BitVec 3) (order size : BitVec 2) (ext : BitVec 1) (off : BitVec 32) : BitVec 48 :=
  scope ++ order ++ size ++ ext ++ 0#8 ++ off

def fLd (r : Raw) : Dec Instr :=
  chk (mGap r && (mSize r != 3 || mExt r == 0) && (r.b == 0xFF || mOff r == 0)) <|
    fld (ldOrd? (mOrder r) (mScope r)) fun o =>
      pos 1 (xr? r.d) fun d => pos 2 (xr? r.a) fun a => pos 3 (src2? r.b (mOff r)) fun b =>
        .ok (.ld (size? (mSize r)) (mExt r == 1) o d a b)

def fSt (r : Raw) : Dec Instr :=
  chk (r.d == 0 && mGap r && mExt r == 0) <|
    fld (stOrd? (mOrder r) (mScope r)) fun o =>
      pos 2 (xr? r.a) fun a => pos 3 (xr? r.b) fun b => .ok (.st (size? (mSize r)) o a b (mOff r))

def fFeLd (r : Raw) (mk : Scope → XReg → XReg → Src2 → Instr) : Dec Instr :=
  chk (mGap r && mExt r == 0 && mSize r == 3 && mOrder r == 0 && (r.b == 0xFF || mOff r == 0)) <|
    fld (scope? (mScope r)) fun s =>
      pos 1 (xr? r.d) fun d => pos 2 (xr? r.a) fun a => pos 3 (src2? r.b (mOff r)) fun b => .ok (mk s d a b)

def fFeSt (r : Raw) (mk : Scope → XReg → XReg → BitVec 32 → Instr) : Dec Instr :=
  chk (r.d == 0 && mGap r && mExt r == 0 && mSize r == 3 && mOrder r == 0) <|
    fld (scope? (mScope r)) fun s => pos 2 (xr? r.a) fun a => pos 3 (xr? r.b) fun b => .ok (mk s a b (mOff r))

def fFeClr (r : Raw) : Dec Instr :=
  chk (r.d == 0 && r.b == 0 && mGap r && mExt r == 0 && mSize r == 3 && mOrder r == 0 && mScope r == 0) <|
    pos 2 (xr? r.a) fun a => .ok (.stFeClr a (mOff r))

def fAmo (r : Raw) (mk : Bool → AmoOrd → XReg → XReg → XReg → BitVec 32 → Instr) : Dec Instr :=
  chk (mGap r && mExt r == 0 && (mSize r == 2 || mSize r == 3)) <|
    fld (amoOrd? (mOrder r) (mScope r)) fun o =>
      pos 1 (xr? r.d) fun d => pos 2 (xr? r.a) fun a => pos 3 (xr? r.b) fun b =>
        .ok (mk (mSize r == 3) o d a b (mOff r))

def fAmoF (r : Raw) (mk : AmoOrd → XReg → XReg → XReg → BitVec 32 → Instr) : Dec Instr :=
  chk (mGap r && mExt r == 0 && mSize r == 2) <|
    fld (amoOrd? (mOrder r) (mScope r)) fun o =>
      pos 1 (xr? r.d) fun d => pos 2 (xr? r.a) fun a => pos 3 (xr? r.b) fun b => .ok (mk o d a b (mOff r))

def fRed (r : Raw) (mk : Bool → StOrd → XReg → XReg → BitVec 32 → Instr) : Dec Instr :=
  chk (r.d == 0 && mGap r && mExt r == 0 && (mSize r == 2 || mSize r == 3)) <|
    fld (stOrd? (mOrder r) (mScope r)) fun o =>
      pos 2 (xr? r.a) fun a => pos 3 (xr? r.b) fun b => .ok (mk (mSize r == 3) o a b (mOff r))

def fRedF (r : Raw) (mk : StOrd → XReg → XReg → BitVec 32 → Instr) : Dec Instr :=
  chk (r.d == 0 && mGap r && mExt r == 0 && mSize r == 2) <|
    fld (stOrd? (mOrder r) (mScope r)) fun o =>
      pos 2 (xr? r.a) fun a => pos 3 (xr? r.b) fun b => .ok (mk o a b (mOff r))

def fFence (r : Raw) (mk : Scope → Instr) : Dec Instr :=
  chk (r.d == 0 && r.a == 0 && r.b == 0 && r.imm.extractLsb' 0 45 == 0) <|
    fld (scope? (mScope r)) fun s => .ok (mk s)

/-! The memory-side routines (14 R310). -/

def mosImm (scope : BitVec 3) (order : BitVec 2) (pred : BitVec 3) (hops : BitVec 4) (off : BitVec 32) : BitVec 48 :=
  scope ++ order ++ pred ++ hops ++ 0#4 ++ off

def mosRest (r : Raw) : Bool := r.imm.extractLsb' 0 40 == 0
def mosPred (r : Raw) : BitVec 3 := r.imm.extractLsb' 40 3

def fCas2 (r : Raw) : Dec Instr :=
  chk (mosRest r) <| fld (amoOrd? (mOrder r) (mScope r)) fun o =>
    pos 1 (xr? r.d) fun d => posIf 1 (evenReg d) <| pos 2 (xr? r.a) fun a => pos 3 (xr? r.b) fun b =>
      posIf 3 (b.toNat % 2 == 0 && d != b) (.ok (.mosCas2 o (mosPred r) d a b))

def fCas4 (r : Raw) : Dec Instr :=
  chk (mosRest r) <| fld (amoOrd? (mOrder r) (mScope r)) fun o =>
    pos 1 (xr? r.d) fun d => posIf 1 (quadReg d) <| pos 2 (xr? r.a) fun a => pos 3 (xr? r.b) fun b =>
      posIf 3 (b.toNat % 4 == 0 && d != b) (.ok (.mosCas4 o (mosPred r) d a b))

def fEnq (r : Raw) : Dec Instr :=
  chk (r.d == 0 && mosRest r && mosPred r == 0) <| fld (amoOrd? (mOrder r) (mScope r)) fun o =>
    pos 2 (xr? r.a) fun a => pos 3 (xr? r.b) fun b => .ok (.mosEnq o a b)

def fDeq (r : Raw) : Dec Instr :=
  chk (r.b == 0 && mosRest r && mosPred r == 0) <| fld (amoOrd? (mOrder r) (mScope r)) fun o =>
    pos 1 (xr? r.d) fun d => pos 2 (xr? r.a) fun a => .ok (.mosDeq o d a)

def fChase (r : Raw) : Dec Instr :=
  chk (r.b == 0 && r.imm.extractLsb' 40 8 == 0 && r.imm.extractLsb' 32 4 == 0 && r.imm.extractLsb' 0 3 == 0) <|
    pos 1 (xr? r.d) fun d => posIf 1 (evenReg d) <| pos 2 (xr? r.a) fun a =>
      .ok (.mosChase d a (r.imm.extractLsb' 36 4) (mOff r))

/-! Guards, gates, conversations, elision (14 R317 to R323). -/

def fBind (r : Raw) : Dec Instr :=
  chk (r.imm.extractLsb' 12 33 == 0) <| fld (scope? (mScope r)) fun s =>
    pos 1 (xr? r.d) fun d => pos 2 (xr? r.a) fun a => pos 3 (xr? r.b) fun b =>
      .ok (.bind s d a b (r.imm.extractLsb' 0 8) (r.imm.extractLsb' 8 4))

def fGcall (r : Raw) : Dec Instr :=
  chk (r.d == 0 && r.imm.extractLsb' 16 32 == 0) <|
    pos 2 (immOnly? r.a) fun _ => pos 3 (immOnly? r.b) fun _ =>
      .ok (.gcall (r.imm.extractLsb' 10 6) (r.imm.extractLsb' 0 10))

def fDcall (r : Raw) : Dec Instr :=
  chk (r.b == 0 && r.imm.extractLsb' 15 1 == 0 && r.imm.extractLsb' 19 29 == 0 && r.imm.extractLsb' 16 3 != 7) <|
    pos 1 (xr? r.d) fun d => pos 2 (xr? r.a) fun a =>
      .ok (.dcall d a (r.imm.extractLsb' 0 15) (r.imm.extractLsb' 16 3))

def fCjoin (r : Raw) : Dec Instr :=
  chk (r.imm.extractLsb' 3 45 == 0) <|
    pos 1 (roler? r.d) fun n => pos 2 (xr? r.a) fun h => pos 3 (immOnly? r.b) fun _ =>
      .ok (.cjoin n h (r.imm.extractLsb' 0 3))

def fCsend (r : Raw) : Dec Instr :=
  chk (r.d == 0 && r.imm.extractLsb' 14 34 == 0 && r.imm.extractLsb' 5 3 == 0 && words32 (r.imm.extractLsb' 8 6)) <|
    pos 2 (roler? r.a) fun n => pos 3 (xr? r.b) fun b =>
      .ok (.csend n b (r.imm.extractLsb' 0 5) (r.imm.extractLsb' 8 6))

def fCdeleg (r : Raw) : Dec Instr :=
  chk (r.d == 0 && r.imm == 0) <| pos 2 (roler? r.a) fun n => pos 3 (xr? r.b) fun b => .ok (.cdeleg n b)

def fEla (r : Raw) : Dec Instr :=
  chk (r.d == 0 && r.b == 0 && r.imm.extractLsb' 8 40 == 0) <|
    pos 2 (immOnly? r.a) fun _ => .ok (.ela (r.imm.extractLsb' 0 8))

/-! The V-form (R258, 15 R328). -/

def vXi (r : Raw) : BitVec 32 := r.imm.extractLsb' 16 32
def vGap (r : Raw) : Bool := r.imm.extractLsb' 8 8 == 0
def vTyp (r : Raw) : BitVec 2 := r.imm.extractLsb' 6 2
def vMask (r : Raw) : MReg := r.imm.extractLsb' 3 3
def vRnd (r : Raw) : BitVec 3 := r.imm.extractLsb' 0 3
def vImm (xi : BitVec 32) (typ : BitVec 2) (m : MReg) (rnd : BitVec 3) : BitVec 48 :=
  xi ++ 0#8 ++ typ ++ m ++ rnd

/-- xi holds a scalar of the type when B = 0xFF, and zero otherwise (15 R328). -/
def vScalarOk (r : Raw) (narrow : Bool) : Bool :=
  if r.b == 0xFF then !narrow || (vXi r).extractLsb' 16 16 == 0 else vXi r == 0

/-- Floating, two sources, rounded, `v` or stream destination. -/
def fVf (r : Raw) (mk : FType → Rnd → VDst → VSrc → VSrcB → MReg → Instr) : Dec Instr :=
  chk (vGap r) <| fld (ftype? (vTyp r)) fun t => fld (rnd? (vRnd r)) fun rn => chk (vScalarOk r t.narrow) <|
    pos 1 (vdst? r.d) fun d => pos 2 (vsrc? r.a) fun a => posIf 2 (streamsDiffer d a) <|
      pos 3 (vsrcB? r.b (vXi r)) fun b => .ok (mk t rn d a b (vMask r))

def fVfma (r : Raw) (mk : FType → Rnd → VReg → VSrc → VSrcB → MReg → Instr) : Dec Instr :=
  chk (vGap r) <| fld (ftype? (vTyp r)) fun t => fld (rnd? (vRnd r)) fun rn => chk (vScalarOk r t.narrow) <|
    pos 1 (vr? r.d) fun d => pos 2 (vsrc? r.a) fun a =>
      pos 3 (vsrcB? r.b (vXi r)) fun b => .ok (mk t rn d a b (vMask r))

def fVfm (r : Raw) (mk : FType → VDst → VSrc → VSrcB → MReg → Instr) : Dec Instr :=
  chk (vGap r && vRnd r == 0) <| fld (ftype? (vTyp r)) fun t => chk (vScalarOk r t.narrow) <|
    pos 1 (vdst? r.d) fun d => pos 2 (vsrc? r.a) fun a => posIf 2 (streamsDiffer d a) <|
      pos 3 (vsrcB? r.b (vXi r)) fun b => .ok (mk t d a b (vMask r))

def fVf1 (r : Raw) (mk : FType → VDst → VSrc → MReg → Instr) : Dec Instr :=
  chk (r.b == 0 && vGap r && vRnd r == 0 && vXi r == 0) <| fld (ftype? (vTyp r)) fun t =>
    pos 1 (vdst? r.d) fun d => pos 2 (vsrc? r.a) fun a => posIf 2 (streamsDiffer d a) (.ok (mk t d a (vMask r)))

def fVi (r : Raw) (mk : VDst → VSrc → VSrcB → MReg → Instr) : Dec Instr :=
  chk (vGap r && vRnd r == 0 && vTyp r == 0 && vScalarOk r false) <|
    pos 1 (vdst? r.d) fun d => pos 2 (vsrc? r.a) fun a => posIf 2 (streamsDiffer d a) <|
      pos 3 (vsrcB? r.b (vXi r)) fun b => .ok (mk d a b (vMask r))

def fVfn (r : Raw) (mk : FType → Rnd → VDst → VSrc → MReg → Instr) : Dec Instr :=
  chk (r.b == 0 && vGap r && vXi r == 0) <| fld (ftype? (vTyp r)) fun t => fld (rnd? (vRnd r)) fun rn =>
    pos 1 (vdst? r.d) fun d => pos 2 (vsrc? r.a) fun a => posIf 2 (streamsDiffer d a) (.ok (mk t rn d a (vMask r)))

def fVcmp (r : Raw) (mk : CType → MReg → VSrcVS → VSrcB → MReg → Instr) : Dec Instr :=
  chk (vGap r && vRnd r == 0 && vScalarOk r (ctype? (vTyp r)).narrow) <|
    pos 1 (mr? r.d) fun d => pos 2 (vsrcVS? r.a) fun a =>
      pos 3 (vsrcB? r.b (vXi r)) fun b => .ok (mk (ctype? (vTyp r)) d a b (vMask r))

def fVsel (r : Raw) : Dec Instr :=
  chk (vGap r && vRnd r == 0 && vTyp r == 0 && vScalarOk r false) <|
    pos 1 (vdst? r.d) fun d => pos 2 (vsrcVS? r.a) fun a => posIf 2 (streamsDiffer' d a) <|
      pos 3 (vsrcB? r.b (vXi r)) fun b => .ok (.vsel d a b (vMask r))

/-- `vcvt` (R337, R338): from in IMM[23:20], to in IMM[19:16]. -/
def fVcvt (r : Raw) : Dec Instr :=
  let src := r.imm.extractLsb' 20 4
  let dst := r.imm.extractLsb' 16 4
  chk (r.b == 0 && vGap r && r.imm.extractLsb' 24 24 == 0 && vTyp r == 0 && cvtPair dst src &&
      cvtMask dst src (vMask r)) <|
    fld (rnd? (vRnd r)) fun rn => chk (cvtRnd dst rn) <|
      pos 1 (vdst? r.d) fun d =>
        pos 2 (vsrc? r.a) fun a => posIf 2 (streamsDiffer d a) (.ok (.vcvt dst src rn d a (vMask r)))

def fVredSum (r : Raw) : Dec Instr :=
  chk (r.b == 0 && vGap r && vXi r == 0) <| fld (rnd? (vRnd r)) fun rn => chk (sumRnd (ctype? (vTyp r)) rn) <|
    pos 1 (xr? r.d) fun d => pos 2 (vsrcVS? r.a) fun a => .ok (.vredSum (ctype? (vTyp r)) rn d a (vMask r))

def fVred (r : Raw) (mk : CType → XReg → VSrcVS → MReg → Instr) : Dec Instr :=
  chk (r.b == 0 && vGap r && vXi r == 0 && vRnd r == 0) <|
    pos 1 (xr? r.d) fun d => pos 2 (vsrcVS? r.a) fun a => .ok (mk (ctype? (vTyp r)) d a (vMask r))

def fVscanSum (r : Raw) : Dec Instr :=
  chk (r.b == 0 && vGap r && vXi r == 0) <| fld (rnd? (vRnd r)) fun rn => chk (sumRnd (ctype? (vTyp r)) rn) <|
    pos 1 (vdst? r.d) fun d => pos 2 (vsrcVS? r.a) fun a => posIf 2 (streamsDiffer' d a)
      (.ok (.vscanSum (ctype? (vTyp r)) rn d a (vMask r)))

def fVscan (r : Raw) (mk : CType → VDst → VSrcVS → MReg → Instr) : Dec Instr :=
  chk (r.b == 0 && vGap r && vXi r == 0 && vRnd r == 0) <|
    pos 1 (vdst? r.d) fun d => pos 2 (vsrcVS? r.a) fun a => posIf 2 (streamsDiffer' d a)
      (.ok (mk (ctype? (vTyp r)) d a (vMask r)))

/-- Type and rnd zero (15 R341). -/
def vPlain (r : Raw) : Bool := vGap r && vTyp r == 0 && vRnd r == 0

def fVperm (r : Raw) : Dec Instr :=
  chk (vPlain r && vXi r == 0) <|
    pos 1 (vr? r.d) fun d => pos 2 (vr? r.a) fun a => pos 3 (vr? r.b) fun b => .ok (.vperm d a b (vMask r))

def bcastSrc? (c : BitVec 8) (xi : BitVec 32) : Option BcastSrc :=
  if c = 0xFF then some (.imm xi)
  else orElse ((vr? c).map fun v => .lane v (xi.extractLsb' 0 8)) ((xr? c).map .x)
def bcastC : BcastSrc → BitVec 8
  | .lane a _ => vrC a
  | .x a => xrC a
  | .imm _ => 0xFF
def bcastI : BcastSrc → BitVec 32
  | .lane _ l => 0#24 ++ l
  | .x _ => 0
  | .imm v => v

/-- The xi of `vbcast`: a lane with a `v` source, zero with an `x`. -/
def bcastXiOk (c : BitVec 8) (xi : BitVec 32) : Bool :=
  match vr? c, xr? c with
  | some _, _ => xi.extractLsb' 8 24 == 0
  | _, some _ => xi == 0
  | _, _ => true

def fVbcast (r : Raw) : Dec Instr :=
  chk (r.b == 0 && vPlain r && bcastXiOk r.a (vXi r)) <|
    pos 1 (vr? r.d) fun d => pos 2 (bcastSrc? r.a (vXi r)) fun a => .ok (.vbcast d a (vMask r))

/-- `vslide`: B = 0x00 reads `x0`, so the fill is 0 (15 R341). -/
def fVslide (r : Raw) : Dec Instr :=
  let n : BitVec 16 := r.imm.extractLsb' 16 16
  chk (vPlain r && r.imm.extractLsb' 32 16 == 0 && (-255 ≤ n.toInt && n.toInt ≤ 255)) <|
    pos 1 (vr? r.d) fun d => pos 2 (vr? r.a) fun a => pos 3 (xr? r.b) fun b => .ok (.vslide d a b n (vMask r))

/-- Vector loads and stores (15 R342). -/
def fVmem (r : Raw) (mk : VWidth → VReg → XReg → BitVec 32 → MReg → Instr) : Dec Instr :=
  chk (r.b == 0 && vGap r && vRnd r == 0) <| fld (vwidth? (vTyp r)) fun w =>
    pos 1 (vr? r.d) fun d => pos 2 (xr? r.a) fun a => .ok (mk w d a (vXi r) (vMask r))

def fVmemX (r : Raw) (mk : VWidth → VReg → XReg → XReg → BitVec 32 → MReg → Instr) : Dec Instr :=
  chk (vGap r && vRnd r == 0) <| fld (vwidth? (vTyp r)) fun w =>
    pos 1 (vr? r.d) fun d => pos 2 (xr? r.a) fun a => pos 3 (xr? r.b) fun b => .ok (mk w d a b (vXi r) (vMask r))

def fVmemV (r : Raw) (mk : VWidth → VReg → XReg → VReg → BitVec 32 → MReg → Instr) : Dec Instr :=
  chk (vGap r && vRnd r == 0) <| fld (vwidth? (vTyp r)) fun w =>
    pos 1 (vr? r.d) fun d => pos 2 (xr? r.a) fun a => pos 3 (vr? r.b) fun b => .ok (mk w d a b (vXi r) (vMask r))

/-- `vsetl` (15 R345): op in IMM[1:0], a length − 1 in IMM[23:16] for op 1. -/
def fVsetl (r : Raw) : Dec Instr :=
  chk (r.b == 0 && r.imm.extractLsb' 24 24 == 0 && r.imm.extractLsb' 2 14 == 0) <|
    let n1 : BitVec 8 := r.imm.extractLsb' 16 8
    match (r.imm.extractLsb' 0 2).toNat with
    | 0 => chk (n1 == 0) <| pos 1 (xr? r.d) fun d => pos 2 (xr? r.a) fun a => .ok (.vsetl d a)
    | 1 => pos 1 (xr? r.d) fun d => pos 2 (immOnly? r.a) fun _ => .ok (.vsetlImm d n1)
    | 2 => chk (n1 == 0 && r.a == 0) <| pos 1 (xr? r.d) fun d => .ok (.vsetlRd d)
    | _ => chk (n1 == 0 && r.d == 0) <| pos 2 (xr? r.a) fun a => .ok (.vsetlStart a)

def vsetlImmC (op : BitVec 2) (n1 : BitVec 8) : BitVec 48 := 0#24 ++ n1 ++ 0#14 ++ op

def fVget (r : Raw) : Dec Instr :=
  chk (r.imm.extractLsb' 8 40 == 0 && (r.b == 0xFF || r.imm.extractLsb' 0 8 == 0)) <|
    pos 1 (xr? r.d) fun d => pos 2 (vr? r.a) fun a => pos 3 (laneSrc? r.b (r.imm.extractLsb' 0 8)) fun l =>
      .ok (.vget d a l)

def fVput (r : Raw) : Dec Instr :=
  chk (r.imm.extractLsb' 8 40 == 0 && (r.b == 0xFF || r.imm.extractLsb' 0 8 == 0)) <|
    pos 1 (vr? r.d) fun d => pos 2 (xr? r.a) fun a => pos 3 (laneSrc? r.b (r.imm.extractLsb' 0 8)) fun l =>
      .ok (.vput d a l)

/-! Matrix, copies, streams, network (16). -/

/-- The fields of the matrix layout (R349). -/
structure MatF where
  z4 : BitVec 4
  ncols : BitVec 2
  mrows : BitVec 2
  z8 : BitVec 8
  k : BitVec 16
  z4b : BitVec 4
  tgt : BitVec 4
  z3 : BitVec 3
  tb : BitVec 1
  ta : BitVec 1
  rnd : BitVec 3
  deriving DecidableEq, Repr

def MatF.ofImm (i : BitVec 48) : MatF where
  z4 := i.extractLsb' 44 4
  ncols := i.extractLsb' 42 2
  mrows := i.extractLsb' 40 2
  z8 := i.extractLsb' 32 8
  k := i.extractLsb' 16 16
  z4b := i.extractLsb' 12 4
  tgt := i.extractLsb' 8 4
  z3 := i.extractLsb' 5 3
  tb := i.extractLsb' 4 1
  ta := i.extractLsb' 3 1
  rnd := i.extractLsb' 0 3

def MatF.imm (f : MatF) : BitVec 48 :=
  f.z4 ++ f.ncols ++ f.mrows ++ f.z8 ++ f.k ++ f.z4b ++ f.tgt ++ f.z3 ++ f.tb ++ f.ta ++ f.rnd

def MatF.gaps (f : MatF) : Bool := f.z4 == 0 && f.z8 == 0 && f.z4b == 0 && f.z3 == 0

def fMm (r : Raw) : Dec Instr :=
  let f := MatF.ofImm r.imm
  chk (f.gaps && f.tgt == 0 && f.rnd == 0) <|
    pos 1 (accr? r.d) fun d => pos 2 (xr? r.a) fun a => pos 3 (xr? r.b) fun b =>
      .ok (.mm (f.ta == 1) (f.tb == 1) d a b f.k f.mrows f.ncols)

def fMmc (r : Raw) : Dec Instr :=
  let f := MatF.ofImm r.imm
  chk (f.gaps && f.ncols == 0 && f.mrows == 0 && f.tb == 0 && f.rnd == 0) <| fld (mmcTgt? f.tgt) fun t =>
    pos 1 (accr? r.d) fun d => pos 2 (accr? r.a) fun a => pos 3 (xr? r.b) fun b =>
      .ok (.mmc t (f.ta == 1) d a b f.k)

def fSqd (r : Raw) : Dec Instr :=
  let f := MatF.ofImm r.imm
  chk (f.gaps && f.tgt == 0 && f.rnd == 0 && f.ta == 0) <|
    pos 1 (accr? r.d) fun d => pos 2 (xr? r.a) fun a => pos 3 (xr? r.b) fun b =>
      .ok (.sqd (f.tb == 1) d a b f.k f.mrows f.ncols)

def fMacz (r : Raw) : Dec Instr :=
  let f := MatF.ofImm r.imm
  chk (r.a == 0 && r.b == 0 && f.gaps && f.tgt == 0 && f.rnd == 0 && f.ta == 0 && f.tb == 0 && f.k == 0) <|
    pos 1 (accr? r.d) fun d => .ok (.macz d f.mrows f.ncols)

def fMacst (r : Raw) : Dec Instr :=
  let f := MatF.ofImm r.imm
  chk (r.b == 0 && f.gaps && f.tgt == 0 && f.ta == 0 && f.tb == 0 && f.k == 0) <| fld (rnd? f.rnd) fun rn =>
    pos 1 (xr? r.d) fun d => pos 2 (accr? r.a) fun a => .ok (.macst rn d a f.mrows f.ncols)

def fMacld (r : Raw) : Dec Instr :=
  let f := MatF.ofImm r.imm
  chk (r.b == 0 && f.gaps && f.tgt == 0 && f.rnd == 0 && f.ta == 0 && f.tb == 0 && f.k == 0) <|
    pos 1 (accr? r.d) fun d => pos 2 (xr? r.a) fun a => .ok (.macld d a f.mrows f.ncols)

def fTopk (r : Raw) (mk : XReg → AccReg → XReg → BitVec 7 → BitVec 3 → Instr) : Dec Instr :=
  chk (r.imm.extractLsb' 11 37 == 0 && r.imm.extractLsb' 7 1 == 0) <|
    pos 1 (xr? r.d) fun d => pos 2 (accr? r.a) fun a => pos 3 (xr? r.b) fun b =>
      .ok (mk d a b (r.imm.extractLsb' 0 7) (r.imm.extractLsb' 8 3))

/-- The completion field of copies (R356). -/
def compOk (r : Raw) : Bool := r.imm.extractLsb' 47 1 == 0 && r.imm.extractLsb' 33 1 == 0
def compOf (r : Raw) : Comp := ⟨r.imm.extractLsb' 40 7, r.imm.extractLsb' 34 6, r.imm.extractLsb' 32 1 == 1⟩
def compImm (c : Comp) (low : BitVec 32) : BitVec 48 := 0#1 ++ c.tag ++ c.creg ++ 0#1 ++ bit c.ev ++ low

def fCp (r : Raw) (mk : XReg → XReg → LenSrc → Comp → Instr) : Dec Instr :=
  chk (compOk r && (r.b == 0xFF || mOff r == 0)) <|
    pos 1 (xr? r.d) fun d => pos 2 (xr? r.a) fun a => pos 3 (lenSrc? r.b (mOff r)) fun l =>
      .ok (mk d a l (compOf r))

def fCpa (r : Raw) : Dec Instr :=
  chk (compOk r && mOff r == 0) <|
    pos 1 (xr? r.d) fun d => pos 2 (xr? r.a) fun a => pos 3 (xr? r.b) fun b => .ok (.cpa d a b (compOf r))

def fCpres (r : Raw) : Dec Instr :=
  chk (r.b == 0 && r.imm.extractLsb' 7 41 == 0) <|
    pos 1 (xr? r.d) fun d => pos 2 (immOnly? r.a) fun _ => .ok (.cpres d (r.imm.extractLsb' 0 7))

def fSbind (r : Raw) : Dec Instr :=
  chk (r.imm == 0) <|
    pos 1 (sr? r.d) fun s => pos 2 (xr? r.a) fun a => pos 3 (xr? r.b) fun b => .ok (.sbind s a b)

def fSdrop (r : Raw) : Dec Instr :=
  chk (r.b == 0 && r.imm == 0) <| pos 1 (xr? r.d) fun d => pos 2 (sr? r.a) fun s => .ok (.sdrop d s)

def fNsend (r : Raw) : Dec Instr :=
  chk (r.d == 0 && r.imm.extractLsb' 7 41 == 0 && words32 (r.imm.extractLsb' 0 6)) <|
    pos 2 (xr? r.a) fun a => pos 3 (xr? r.b) fun b =>
      .ok (.nsend (r.imm.extractLsb' 6 1 == 1) (r.imm.extractLsb' 0 6) a b)

def fTsend (r : Raw) : Dec Instr :=
  chk (r.d == 0 && r.imm.extractLsb' 7 1 == 0 && r.imm.extractLsb' 12 4 == 0 && words32 (r.imm.extractLsb' 0 6)) <|
    pos 2 (xr? r.a) fun a => pos 3 (xr? r.b) fun b =>
      .ok (.tsend (r.imm.extractLsb' 6 1 == 1) (r.imm.extractLsb' 0 6) (r.imm.extractLsb' 8 4)
        (r.imm.extractLsb' 16 32) a b)

def fRcsetRd (r : Raw) : Dec Instr :=
  chk (r.b == 0 && r.imm.extractLsb' 4 44 == 0) <|
    pos 1 (xr? r.d) fun d => pos 2 (immOnly? r.a) fun _ => .ok (.rcsetRd d (r.imm.extractLsb' 0 4))

def fRcset (r : Raw) (mk : XReg → BitVec 4 → XReg → Instr) : Dec Instr :=
  chk (r.imm.extractLsb' 4 44 == 0) <|
    pos 1 (xr? r.d) fun d => pos 2 (immOnly? r.a) fun _ => pos 3 (xr? r.b) fun b =>
      .ok (mk d (r.imm.extractLsb' 0 4) b)

/-! System (13 R288 to R299). -/

def ctlNum (r : Raw) : BitVec 12 := r.imm.extractLsb' 0 12
def ctlSlot (r : Raw) : BitVec 4 := r.imm.extractLsb' 12 4
def ctlOther (r : Raw) : Bool := r.imm.extractLsb' 16 1 == 1
def ctlImm (num : BitVec 12) (slot : BitVec 4) (other : Bool) : BitVec 48 := 0#31 ++ bit other ++ slot ++ num
def ctlOk (r : Raw) : Bool := r.imm.extractLsb' 17 31 == 0 && ctlFieldsOk (ctlNum r) (ctlSlot r) (ctlOther r)

def fCtlr (r : Raw) : Dec Instr :=
  chk (r.a == 0 && r.b == 0 && ctlOk r) <| pos 1 (xr? r.d) fun d => .ok (.ctlr d (ctlNum r) (ctlSlot r) (ctlOther r))

def fCtlw (r : Raw) : Dec Instr :=
  chk (r.d == 0 && r.b == 0 && ctlOk r) <| pos 2 (xr? r.a) fun a => .ok (.ctlw (ctlNum r) (ctlSlot r) (ctlOther r) a)

def fTrap (r : Raw) : Dec Instr :=
  chk (r.d == 0 && r.a == 0 && r.b == 0 && r.imm.extractLsb' 16 32 == 0) (.ok (.trap (r.imm.extractLsb' 0 16)))

def fTlbinv (r : Raw) : Dec Instr :=
  chk (r.d == 0 && r.imm.extractLsb' 6 42 == 0 && r.imm.extractLsb' 2 2 == 0) <|
    let reach : BitVec 2 := r.imm.extractLsb' 4 2
    match (r.imm.extractLsb' 0 2).toNat with
    | 0 => chk (r.b == 0) <| pos 2 (xr? r.a) fun a => .ok (.tlbinvAsid reach a)
    | 1 => pos 2 (xr? r.a) fun a => pos 3 (xr? r.b) fun b => .ok (.tlbinvPage reach a b)
    | 2 => chk (r.b == 0) <| pos 2 (xr? r.a) fun a => .ok (.tlbinvAll reach a)
    | _ => .error (.check 3)

def tlbImm (reach kind : BitVec 2) : BitVec 48 := 0#42 ++ reach ++ 0#2 ++ kind

def fRtinv (r : Raw) : Dec Instr :=
  chk (r.d == 0 && r.b == 0 && r.imm.extractLsb' 1 47 == 0) <|
    pos 2 (xr? r.a) fun a => .ok (.rtinv (r.imm.extractLsb' 0 1 == 1) a)

def fOps (r : Raw) (width : Nat) (mk : Nat → Option (XReg → XReg → XReg → Instr)) : Dec Instr :=
  chk (r.imm.toNat < 2 ^ width) <| fld (mk r.imm.toNat) fun f =>
    pos 1 (xr? r.d) fun d => pos 2 (xr? r.a) fun a => pos 3 (xr? r.b) fun b => .ok (f d a b)

/-- The queue operations (R291, R296). -/
def qctlOp : Nat → Option (XReg → XReg → XReg → Instr)
  | 0 => some .qctlCreate
  | 1 => some .qctlWeight
  | 2 => some .qctlMask
  | 3 => some .qctlDestroy
  | 4 => some .qctlStop
  | 5 => some .qctlRestart
  | 6 => some .qctlMode
  | 7 => some .qctlCounts
  | _ => none

def dbgOp : Nat → Option (XReg → XReg → XReg → Instr)
  | 0 => some .dbgRd
  | 1 => some .dbgWr
  | 2 => some .dbgStep
  | 3 => some .dbgPost
  | _ => none

/-! The opcode map (12 R264): check 2 within each major. -/

def noFn : Dec Instr := .error (.check 2)

/-- A major of one function. -/
def only0 (r : Raw) (k : Dec Instr) : Dec Instr := if r.fn = 0 then k else noFn

def m08 (r : Raw) : Dec Instr :=
  match r.fn.toNat with
  | 0 => fI r .add
  | 1 => fI r .sub
  | 2 => fI r .and
  | 3 => fI r .or
  | 4 => fI r .xor
  | 5 => fI r .andn
  | 6 => fI r .shl
  | 7 => fI r .shr
  | 8 => fI r .sar
  | 9 => fI r .rol
  | 10 => fI r .min
  | 11 => fI r .max
  | 12 => fI r .minz
  | 13 => fI r .maxz
  | 14 => fI r .mul
  | 15 => fI r .mulh
  | 16 => fI r .mulhz
  | 17 => fI r .div
  | 18 => fI r .divz
  | 19 => fI r .rem
  | 20 => fI r .remz
  | 21 => fXX r .clz
  | 22 => fXX r .ctz
  | 23 => fXX r .popc
  | _ => noFn

def m09 (r : Raw) : Dec Instr :=
  match r.fn.toNat with
  | 0 => fBext r .bext
  | 1 => fBext r .bextz
  | 2 => fBins r
  | _ => noFn

def m0A (r : Raw) : Dec Instr :=
  match r.fn.toNat with
  | 0 => fLi r
  | 1 => fLih r
  | _ => noFn

def m0C (r : Raw) : Dec Instr :=
  match r.fn.toNat with
  | 0 => fI r .padd
  | 1 => fI r .pidx
  | 2 => fPtag r
  | 3 => fPfmt r
  | 4 => fPget r
  | 5 => fXX r .plin
  | _ => noFn

def m10 (r : Raw) : Dec Instr :=
  match r.fn.toNat with
  | 0 => fIp r .cmpEq
  | 1 => fIp r .cmpNe
  | 2 => fIp r .cmpLt
  | 3 => fIp r .cmpLe
  | 4 => fPX r .cmpLtz
  | 5 => fPX r .cmpLez
  | _ => noFn

def m11 (r : Raw) : Dec Instr :=
  match r.fn.toNat with
  | 0 => fPPP r .pand
  | 1 => fPPP r .por
  | 2 => fPPP r .pxor
  | 3 => fPP r .pnot
  | 4 => fPP r .pmov
  | _ => noFn

def m24 (r : Raw) : Dec Instr :=
  match r.fn.toNat with
  | 0 => fSem r .semWait
  | 1 => fSemPost r
  | 2 => fSemTry r
  | _ => noFn

def m32 (r : Raw) : Dec Instr :=
  match r.fn.toNat with
  | 0 => fFeLd r .ldFePeek
  | 1 => fFeLd r .ldFeTake
  | _ => noFn

def m33 (r : Raw) : Dec Instr :=
  match r.fn.toNat with
  | 0 => fFeSt r .stFeFill
  | 1 => fFeSt r .stFePut
  | 2 => fFeClr r
  | _ => noFn

def m38 (r : Raw) : Dec Instr :=
  match r.fn.toNat with
  | 0 => fAmo r .amoAdd
  | 1 => fAmo r .amoAnd
  | 2 => fAmo r .amoOr
  | 3 => fAmo r .amoXor
  | 4 => fAmo r .amoMin
  | 5 => fAmo r .amoMax
  | 6 => fAmo r .amoMinz
  | 7 => fAmo r .amoMaxz
  | 8 => fAmo r .amoSwap
  | 9 => fAmo r .amoCas
  | 10 => fAmoF r .amoFadd
  | 11 => fAmoF r .amoFmin
  | 12 => fAmoF r .amoFmax
  | _ => noFn

def m39 (r : Raw) : Dec Instr :=
  match r.fn.toNat with
  | 0 => fRed r .redAdd
  | 1 => fRed r .redAnd
  | 2 => fRed r .redOr
  | 3 => fRed r .redXor
  | 4 => fRed r .redMin
  | 5 => fRed r .redMax
  | 6 => fRed r .redMinz
  | 7 => fRed r .redMaxz
  | 10 => fRedF r .redFadd
  | 11 => fRedF r .redFmin
  | 12 => fRedF r .redFmax
  | _ => noFn

def m3A (r : Raw) : Dec Instr :=
  match r.fn.toNat with
  | 0 => fCas2 r
  | 1 => fCas4 r
  | 2 => fEnq r
  | 3 => fDeq r
  | 4 => fChase r
  | _ => noFn

def m40 (r : Raw) : Dec Instr :=
  match r.fn.toNat with
  | 0 => fFence r .fence
  | 1 => fFence r .fenceOc
  | 2 => fFence r .fenceCo
  | _ => noFn

/-- Barriers: FN = 4 × level + form (R264). -/
def barLevel? : Nat → Option Scope
  | 0 => some .grp
  | 1 => some .core
  | 2 => some .quad
  | 3 => some .die
  | 4 => some .dev
  | 5 => some .sys
  | _ => none
def barLevelC : Scope → BitVec 4
  | .grp => 0
  | .core => 1
  | .quad => 2
  | .die => 3
  | .dev => 4
  | .sys => 5

def m42 (r : Raw) : Dec Instr :=
  match barLevel? (r.fn.extractLsb' 2 4).toNat with
  | none => noFn
  | some l =>
    match (r.fn.extractLsb' 0 2).toNat with
    | 0 => fNone r (.barArrive l)
    | 1 => fNone r (.barWait l)
    | 2 => fNone r (.barArrivewait l)
    | _ => noFn

def m4A (r : Raw) : Dec Instr :=
  match r.fn.toNat with
  | 0 => fXXX r .gacqX
  | 1 => fXXX r .gacqS
  | _ => noFn

def m80 (r : Raw) : Dec Instr :=
  match r.fn.toNat with
  | 0 => fVf r .vfadd
  | 1 => fVf r .vfsub
  | 2 => fVf r .vfmul
  | 3 => fVfma r .vfma
  | 4 => fVfma r .vfms
  | 5 => fVfma r .vfnma
  | 6 => fVfm r .vfmin
  | 7 => fVfm r .vfmax
  | 8 => fVf1 r .vfabs
  | 9 => fVf1 r .vfneg
  | _ => noFn

def m81 (r : Raw) : Dec Instr :=
  match r.fn.toNat with
  | 0 => fVi r .vadd
  | 1 => fVi r .vsub
  | 2 => fVi r .vmul
  | 3 => fVi r .vand
  | 4 => fVi r .vor
  | 5 => fVi r .vxor
  | 6 => fVi r .vshl
  | 7 => fVi r .vshr
  | 8 => fVi r .vsar
  | 9 => fVi r .vmin
  | 10 => fVi r .vmax
  | _ => noFn

def m82 (r : Raw) : Dec Instr :=
  match r.fn.toNat with
  | 0 => fVfn r .vrcp
  | 1 => fVfn r .vrsqrt
  | 2 => fVfn r .vsqrt
  | 3 => fVfn r .vexp2
  | 4 => fVfn r .vlog2
  | _ => noFn

def m83 (r : Raw) : Dec Instr :=
  match r.fn.toNat with
  | 0 => fVcmp r .vcmpEq
  | 1 => fVcmp r .vcmpNe
  | 2 => fVcmp r .vcmpLt
  | 3 => fVcmp r .vcmpLe
  | _ => noFn

def m86 (r : Raw) : Dec Instr :=
  match r.fn.toNat with
  | 0 => fVredSum r
  | 1 => fVred r .vredMax
  | 2 => fVred r .vredMin
  | _ => noFn

def m87 (r : Raw) : Dec Instr :=
  match r.fn.toNat with
  | 0 => fVscanSum r
  | 1 => fVscan r .vscanMax
  | 2 => fVscan r .vscanMin
  | _ => noFn

def m88 (r : Raw) : Dec Instr :=
  match r.fn.toNat with
  | 0 => fVperm r
  | 1 => fVbcast r
  | 2 => fVslide r
  | _ => noFn

def m89 (r : Raw) : Dec Instr :=
  match r.fn.toNat with
  | 0 => fVmem r .vld
  | 1 => fVmemX r .vldStride
  | 2 => fVmemV r .vldIndex
  | _ => noFn

def m8A (r : Raw) : Dec Instr :=
  match r.fn.toNat with
  | 0 => fVmem r .vst
  | 1 => fVmemX r .vstStride
  | 2 => fVmemV r .vstIndex
  | _ => noFn

def m8C (r : Raw) : Dec Instr :=
  match r.fn.toNat with
  | 0 => fMMM r .mand
  | 1 => fMMM r .mor
  | 2 => fMMM r .mxor
  | 3 => chk (r.b == 0 && r.imm == 0) <| pos 1 (mr? r.d) fun d => pos 2 (mr? r.a) fun a => .ok (.mnot d a)
  | 4 => fXM r .mpop
  | 5 => fXM r .mfirst
  | _ => noFn

def m8D (r : Raw) : Dec Instr :=
  match r.fn.toNat with
  | 0 => fVget r
  | 1 => fVput r
  | _ => noFn

def m93 (r : Raw) : Dec Instr :=
  match r.fn.toNat with
  | 0 => fTopk r .topkMax
  | 1 => fTopk r .topkMin
  | _ => noFn

def mA8 (r : Raw) : Dec Instr :=
  match r.fn.toNat with
  | 0 => fRcsetRd r
  | 1 => fRcset r .rcsetWr
  | 2 => fRcset r .rcsetAdd
  | _ => noFn

/-- Majors 0x00 to 0x3F (R264, R266). -/
def majorsLow (r : Raw) : Dec Instr :=
  match r.op.toNat with
  | 0x01 => only0 r (fNone r .nop)
  | 0x08 => m08 r
  | 0x09 => m09 r
  | 0x0A => m0A r
  | 0x0B => only0 r (fI r .sel)
  | 0x0C => m0C r
  | 0x10 => m10 r
  | 0x11 => m11 r
  | 0x18 => only0 r (fBr r)
  | 0x19 => only0 r (fJmp r .jmp)
  | 0x1A => only0 r (fCall r .call)
  | 0x1B => only0 r (fXX r .callr)
  | 0x1C => only0 r (fA r .ret)
  | 0x1D => only0 r (fCall r .lp)
  | 0x20 => only0 r (fXXX r .start)
  | 0x21 => only0 r (fXX r .reap)
  | 0x22 => only0 r (fA r .endThread)
  | 0x24 => m24 r
  | 0x25 => only0 r (fWait r)
  | 0x26 => only0 r (fDeven r .evpop)
  | 0x27 => only0 r (fSpawn r)
  | 0x30 => only0 r (fLd r)
  | 0x31 => only0 r (fSt r)
  | 0x32 => m32 r
  | 0x33 => m33 r
  | 0x38 => m38 r
  | 0x39 => m39 r
  | 0x3A => m3A r
  | _ => .error (.check 1)

/-- Majors 0x40 to 0x7F. -/
def majorsMid (r : Raw) : Dec Instr :=
  match r.op.toNat with
  | 0x40 => m40 r
  | 0x41 => only0 r (fNone r .drains)
  | 0x42 => m42 r
  | 0x48 => only0 r (fBind r)
  | 0x49 => only0 r (fXX r .unbind)
  | 0x4A => m4A r
  | 0x4B => only0 r (fA r .grel)
  | 0x4C => only0 r (fA r .gflush)
  | 0x50 => only0 r (fGcall r)
  | 0x51 => only0 r (fNone r .gret)
  | 0x52 => only0 r (fDcall r)
  | 0x53 => only0 r (fA r .dret)
  | 0x58 => only0 r (fXXX r .copen)
  | 0x59 => only0 r (fCjoin r)
  | 0x5A => only0 r (fCsend r)
  | 0x5B => only0 r (fCdeleg r)
  | 0x5C => only0 r (fXX r .cclose)
  | 0x5D => only0 r (fXX r .cstat)
  | 0x60 => only0 r (fJmp r .elb)
  | 0x61 => only0 r (fNone r .ele)
  | 0x62 => only0 r (fEla r)
  | _ => .error (.check 1)

/-- Majors 0x80 to 0xBF. -/
def majorsVec (r : Raw) : Dec Instr :=
  match r.op.toNat with
  | 0x80 => m80 r
  | 0x81 => m81 r
  | 0x82 => m82 r
  | 0x83 => m83 r
  | 0x84 => only0 r (fVsel r)
  | 0x85 => only0 r (fVcvt r)
  | 0x86 => m86 r
  | 0x87 => m87 r
  | 0x88 => m88 r
  | 0x89 => m89 r
  | 0x8A => m8A r
  | 0x8B => only0 r (fVsetl r)
  | 0x8C => m8C r
  | 0x8D => m8D r
  | 0x90 => only0 r (fMm r)
  | 0x91 => only0 r (fMmc r)
  | 0x92 => only0 r (fSqd r)
  | 0x93 => m93 r
  | 0x94 => only0 r (fMacz r)
  | 0x95 => only0 r (fMacst r)
  | 0x96 => only0 r (fMacld r)
  | 0x97 => only0 r (fXX r .mcoop)
  | 0x98 => only0 r (fD r .mqry)
  | 0xA0 => only0 r (fCp r .cp)
  | 0xA1 => only0 r (fCpa r)
  | 0xA2 => only0 r (fCp r .cpm)
  | 0xA3 => only0 r (fCpres r)
  | 0xA4 => only0 r (fSbind r)
  | 0xA5 => only0 r (fSdrop r)
  | 0xA6 => only0 r (fNsend r)
  | 0xA7 => only0 r (fTsend r)
  | 0xA8 => mA8 r
  | _ => .error (.check 1)

/-- Majors 0xC0 to 0xFB. -/
def majorsHigh (r : Raw) : Dec Instr :=
  match r.op.toNat with
  | 0xE0 => only0 r (fCtlr r)
  | 0xE1 => only0 r (fCtlw r)
  | 0xE2 => only0 r (fTrap r)
  | 0xE3 => only0 r (fA r .eret)
  | 0xE4 => only0 r (fTlbinv r)
  | 0xE5 => only0 r (fXX r .setxb)
  | 0xE6 => only0 r (fRtinv r)
  | 0xE7 => only0 r (fXXX r .ovld)
  | 0xE8 => only0 r (fXXX r .pmig)
  | 0xE9 => only0 r (fOps r 4 qctlOp)
  | 0xEA => only0 r (fOps r 2 dbgOp)
  | 0xEB => only0 r (fDeven r .sfpop)
  | 0xEC => only0 r (fXXX r .ctxsave)
  | 0xED => only0 r (fXXX r .ctxrest)
  | _ => .error (.check 1)

/-- The body of a format-F word, HT.mbz apart. -/
def decodeBody (r : Raw) : Dec Instr :=
  match (r.op.extractLsb' 6 2).toNat with
  | 0 => majorsLow r
  | 1 => majorsMid r
  | 2 => majorsVec r
  | _ => majorsHigh r

/-- HT.mbz is part of check 3 (R254, R265): it fails after checks 1 and 2 and before check 4. -/
def withMbz (mbz : Bool) (e : Dec Instr) : Dec Instr :=
  match e with
  | .error (.check 1) => .error (.check 1)
  | .error (.check 2) => .error (.check 2)
  | e => if mbz then e else .error (.check 3)

def guardOf (gd : BitVec 4) : Guard := ⟨gd.extractLsb' 3 1 == 1, gd.extractLsb' 0 3⟩
def guardC (g : Guard) : BitVec 4 := bit g.neg ++ g.pred
def hintsOf (ht : BitVec 6) : Hints := ⟨ht.extractLsb' 4 2, ht.extractLsb' 3 1 == 1, ht.extractLsb' 2 1 == 1⟩
def hintsC (h : Hints) : BitVec 6 := h.pri ++ bit h.last ++ bit h.pp ++ 0#2

def decodeF (r : Raw) : Dec Coded :=
  (withMbz (r.ht.extractLsb' 0 2 == 0) (decodeBody r)).map fun i => ⟨guardOf r.gd, hintsOf r.ht, i⟩

/-! Format P (R260 to R263). -/

def intFn? : Nat → Option IntFn
  | 1 => some .add
  | 2 => some .sub
  | 3 => some .and
  | 4 => some .or
  | 5 => some .xor
  | 6 => some .andn
  | 7 => some .shl
  | 8 => some .shr
  | 9 => some .sar
  | 10 => some .rol
  | 11 => some .min
  | 12 => some .max
  | 13 => some .minz
  | 14 => some .maxz
  | 15 => some .mul
  | _ => none
def intFnC : IntFn → BitVec 6
  | .add => 1
  | .sub => 2
  | .and => 3
  | .or => 4
  | .xor => 5
  | .andn => 6
  | .shl => 7
  | .shr => 8
  | .sar => 9
  | .rol => 10
  | .min => 11
  | .max => 12
  | .minz => 13
  | .maxz => 14
  | .mul => 15

def cond? (n : Nat) : Option Cond :=
  match n with
  | 0 => some .eq
  | 1 => some .ne
  | 2 => some .lt
  | 3 => some .le
  | _ => none
def condC : Cond → Nat
  | .eq => 0
  | .ne => 1
  | .lt => 2
  | .le => 3

def fpFn? : Nat → Option FpFn
  | 0 => some .add
  | 1 => some .sub
  | 2 => some .mul
  | 3 => some .ma
  | 4 => some .ms
  | 5 => some .nma
  | 6 => some .min
  | 7 => some .max
  | 8 => some .abs
  | 9 => some .neg
  | _ => none
def fpFnC : FpFn → Nat
  | .add => 0
  | .sub => 1
  | .mul => 2
  | .ma => 3
  | .ms => 4
  | .nma => 5
  | .min => 6
  | .max => 7
  | .abs => 8
  | .neg => 9

def viFn? : Nat → Option ViFn
  | 0 => some .add
  | 1 => some .sub
  | 2 => some .mul
  | 3 => some .and
  | 4 => some .or
  | 5 => some .xor
  | 6 => some .shl
  | 7 => some .shr
  | 8 => some .sar
  | 9 => some .min
  | 10 => some .max
  | _ => none
def viFnC : ViFn → Nat
  | .add => 0
  | .sub => 1
  | .mul => 2
  | .and => 3
  | .or => 4
  | .xor => 5
  | .shl => 6
  | .shr => 7
  | .sar => 8
  | .min => 9
  | .max => 10

/-- The second source of a scalar half: the immediate form by SO[6]. -/
def pSrc (r : PairRaw) : PSrc := if r.so.extractLsb' 6 1 = 1 then .imm r.si else .reg r.sb

/-- The second source's unused field is zero (R261). -/
def pSrcOk (r : PairRaw) : Bool := if r.so.extractLsb' 6 1 = 1 then r.sb == 0 else r.si == 0

/-- Check 3 on the scalar half, once its code is known assigned (R261). -/
def decodeS (r : PairRaw) : Dec SHalf :=
  match (r.so.extractLsb' 0 6).toNat with
  | 0 => chk (r.so == 0 && r.sd == 0 && r.sa == 0 && r.sb == 0 && r.si == 0) (.ok .none)
  | 0x10 => chk (r.so.extractLsb' 6 1 == 1 && r.sa == 0 && r.sb == 0) (.ok (.li r.sd r.si))
  | 0x11 => chk (pSrcOk r) (.ok (.padd r.sd r.sa (pSrc r)))
  | 0x12 => chk (pSrcOk r) (.ok (.pidx r.sd r.sa (pSrc r)))
  | 0x13 => chk (pSrcOk r && r.sd.extractLsb' 3 3 == 0) (.ok (.cmp .eq (r.sd.extractLsb' 0 3) r.sa (pSrc r)))
  | 0x14 => chk (pSrcOk r && r.sd.extractLsb' 3 3 == 0) (.ok (.cmp .ne (r.sd.extractLsb' 0 3) r.sa (pSrc r)))
  | 0x15 => chk (pSrcOk r && r.sd.extractLsb' 3 3 == 0) (.ok (.cmp .lt (r.sd.extractLsb' 0 3) r.sa (pSrc r)))
  | 0x16 => chk (pSrcOk r && r.sd.extractLsb' 3 3 == 0) (.ok (.cmp .le (r.sd.extractLsb' 0 3) r.sa (pSrc r)))
  | 0x17 =>
    chk (r.so.extractLsb' 6 1 == 0 && r.sb == 0 && r.si == 0 && r.sd.extractLsb' 3 3 == 0)
      (.ok (.cmpLtz (r.sd.extractLsb' 0 3) r.sa))
  | 0x18 =>
    chk (r.so.extractLsb' 6 1 == 0 && r.sb == 0 && r.si == 0 && r.sd.extractLsb' 3 3 == 0)
      (.ok (.cmpLez (r.sd.extractLsb' 0 3) r.sa))
  | 0x19 =>
    chk (r.so.extractLsb' 6 1 == 1 && r.sa == 0 && r.sb == 0 && r.si.extractLsb' 15 3 == 0)
      (.ok (.lp r.sd (r.si.extractLsb' 0 15)))
  | n =>
    match intFn? n with
    | some f => chk (pSrcOk r) (.ok (.int f r.sd r.sa (pSrc r)))
    | none => .error (.check 2)

/-- Check 3 on sel, num and VA (R262); a channel number 4 to 7 is left to check 4. -/
def vSelOk (r : PairRaw) : Bool :=
  match r.sel.toNat with
  | 0 => r.num == 0
  | 1 => r.va == 0
  | 2 => r.va == 0
  | _ => false

/-- The first source of the vector half, none when check 4 refuses it at position 10. -/
def vSel (r : PairRaw) : Option VSrc :=
  match r.sel.toNat with
  | 0 => some (.v r.va)
  | 1 => some (.s r.num)
  | _ => if r.num.extractLsb' 2 1 = 0 then some (.ch (r.num.extractLsb' 0 2)) else none

/-- The same where no channel is accepted. -/
def vSelVS (r : PairRaw) : Option VSrcVS :=
  match r.sel.toNat with
  | 0 => some (.v r.va)
  | 1 => some (.s r.num)
  | _ => none

/-- The vector half: check 3 at once, check 4 in the inner decoding (R263 step 2). -/
def decodeV (r : PairRaw) : Dec (Dec VHalf) :=
  let n := r.vo.toNat
  chk (r.low == 0) <|
    if n = 0 then
      chk (r.vd == 0 && r.va == 0 && r.vb == 0 && r.vm == 0 && r.rnd == 0 && r.sel == 0 && r.num == 0 && r.typ == 0)
        (.ok (.ok .none))
    else if n ≤ 0x0A then
      match fpFn? (n - 1) with
      | some f =>
        chk (vSelOk r && (!f.single || r.vb == 0)) <| fld (ftype? r.typ) fun t => fld (rnd? r.rnd) fun rn =>
          chk (f.rounds || rn == .rne) (.ok (pos 10 (vSel r) fun a => .ok (.fp f t rn r.vd a r.vb r.vm)))
      | none => .error (.check 2)
    else if n ≤ 0x15 then
      match viFn? (n - 0x0B) with
      | some f =>
        chk (vSelOk r && r.typ == 0 && r.rnd == 0) (.ok (pos 10 (vSel r) fun a => .ok (.int f r.vd a r.vb r.vm)))
      | none => .error (.check 2)
    else if n ≤ 0x19 then
      match cond? (n - 0x16) with
      | some c =>
        chk (vSelOk r && r.rnd == 0 && r.vd.extractLsb' 3 2 == 0)
          (.ok (pos 10 (vSelVS r) fun a => .ok (.cmp c (ctype? r.typ) (r.vd.extractLsb' 0 3) a r.vb r.vm)))
      | none => .error (.check 2)
    else if n = 0x1A then
      chk (vSelOk r && r.typ == 0 && r.rnd == 0) (.ok (pos 10 (vSelVS r) fun a => .ok (.sel r.vd a r.vb r.vm)))
    else .error (.check 2)

/-- Check 2 of format P: both codes assigned (R265). -/
def pairAssigned (r : PairRaw) : Bool := r.vo.toNat ≤ 0x1A && (r.so.extractLsb' 0 6).toNat ≤ 0x19

def decodeP (r : PairRaw) : Dec Coded :=
  if pairAssigned r then
    match decodeV r with
    | .error e => .error e
    | .ok v4 =>
      match decodeS r with
      | .error e => .error e
      | .ok s =>
        match v4 with
        | .error e => .error e
        | .ok v => .ok ⟨guardOf r.pg, ⟨0, false, false⟩, .pair v s⟩
  else .error (.check 2)

/-- The decoder: total, every word gives an instruction or the first check that fails (R253, R265). -/
def decode (w : IWord) : Dec Coded :=
  if w.extractLsb' 90 6 = 0b111111#6 then decodeP (PairRaw.ofWord w) else decodeF (Raw.ofWord w)

/-! The encoder. -/

/-- OP, FN, D, A, B and IMM. -/
structure Body where
  op : BitVec 8
  fn : BitVec 6
  d : BitVec 8
  a : BitVec 8
  b : BitVec 8
  imm : BitVec 48
  deriving DecidableEq, Repr

def eI (op : BitVec 8) (fn : BitVec 6) (d a : XReg) (b : Src2) : Option Body :=
  some ⟨op, fn, xrC d, xrC a, src2C b, 0#16 ++ src2I b⟩
def eIp (fn : BitVec 6) (d : PReg) (a : XReg) (b : Src2) : Option Body :=
  some ⟨0x10, fn, prC d, xrC a, src2C b, 0#16 ++ src2I b⟩
def eXX (op : BitVec 8) (fn : BitVec 6) (d a : XReg) : Option Body := some ⟨op, fn, xrC d, xrC a, 0, 0⟩
def eXXX (op : BitVec 8) (fn : BitVec 6) (d a b : XReg) : Option Body := some ⟨op, fn, xrC d, xrC a, xrC b, 0⟩
def eNone (op : BitVec 8) (fn : BitVec 6) : Option Body := some ⟨op, fn, 0, 0, 0, 0⟩
def eA (op : BitVec 8) (a : XReg) : Option Body := some ⟨op, 0, 0, xrC a, 0, 0⟩
def eD (op : BitVec 8) (d : XReg) : Option Body := some ⟨op, 0, xrC d, 0, 0, 0⟩
def eOp (op : BitVec 8) (imm : BitVec 48) (d a b : XReg) : Option Body := some ⟨op, 0, xrC d, xrC a, xrC b, imm⟩
def eAmo (fn : BitVec 6) (w64 : Bool) (o : AmoOrd) (d a b : XReg) (off : BitVec 32) : Option Body :=
  some ⟨0x38, fn, xrC d, xrC a, xrC b, mImm (amoOrdS o) (amoOrdO o) (if w64 then 3 else 2) 0 off⟩
def eRed (fn : BitVec 6) (w64 : Bool) (o : StOrd) (a b : XReg) (off : BitVec 32) : Option Body :=
  some ⟨0x39, fn, 0, xrC a, xrC b, mImm (stOrdS o) (stOrdO o) (if w64 then 3 else 2) 0 off⟩
def eFence (fn : BitVec 6) (s : Scope) : Option Body := some ⟨0x40, fn, 0, 0, 0, scopeC s ++ 0#45⟩
def eBar (form : BitVec 2) (l : Scope) : Option Body := some ⟨0x42, barLevelC l ++ form, 0, 0, 0, 0⟩
def eBits (fn : BitVec 6) (d : XReg) (a : BitVec 8) (lo w1 : BitVec 6) : Option Body :=
  some ⟨0x09, fn, xrC d, a, 0xFF, 0#36 ++ lo ++ w1⟩
def eVf (fn : BitVec 6) (t : FType) (rn : Rnd) (d : VDst) (a : VSrc) (b : VSrcB) (m : MReg) : Option Body :=
  some ⟨0x80, fn, vdstC d, vsrcC a, vsrcBC b, vImm (vsrcBI b) (ftypeC t) m (rndC rn)⟩
def eVf1 (op : BitVec 8) (fn : BitVec 6) (t : FType) (rn : Rnd) (d : VDst) (a : VSrc) (m : MReg) : Option Body :=
  some ⟨op, fn, vdstC d, vsrcC a, 0, vImm 0 (ftypeC t) m (rndC rn)⟩
def eVi (fn : BitVec 6) (d : VDst) (a : VSrc) (b : VSrcB) (m : MReg) : Option Body :=
  some ⟨0x81, fn, vdstC d, vsrcC a, vsrcBC b, vImm (vsrcBI b) 0 m 0⟩
def eVcmp (fn : BitVec 6) (t : CType) (d : MReg) (a : VSrcVS) (b : VSrcB) (m : MReg) : Option Body :=
  some ⟨0x83, fn, mrC d, vsrcVSC a, vsrcBC b, vImm (vsrcBI b) (ctypeC t) m 0⟩
def eVred (op : BitVec 8) (fn : BitVec 6) (t : CType) (rn : Rnd) (d : BitVec 8) (a : VSrcVS) (m : MReg) : Option Body :=
  some ⟨op, fn, d, vsrcVSC a, 0, vImm 0 (ctypeC t) m (rndC rn)⟩
def eVmem (op : BitVec 8) (fn : BitVec 6) (w : VWidth) (d : VReg) (a : XReg) (b : BitVec 8) (off : BitVec 32) (m : MReg) :
    Option Body := some ⟨op, fn, vrC d, xrC a, b, vImm off (vwidthC w) m 0⟩
def eMat (op : BitVec 8) (d a b : BitVec 8) (f : MatF) : Option Body := some ⟨op, 0, d, a, b, f.imm⟩

/-- The body of each format-F instruction, from the tables of 12 to 16; none for a pair and for the device's own
steps, which have no format-F word. -/
def encodeBody : Instr → Option Body
  | .nop => eNone 0x01 0
  | .add d a b => eI 0x08 0 d a b
  | .sub d a b => eI 0x08 1 d a b
  | .and d a b => eI 0x08 2 d a b
  | .or d a b => eI 0x08 3 d a b
  | .xor d a b => eI 0x08 4 d a b
  | .andn d a b => eI 0x08 5 d a b
  | .shl d a b => eI 0x08 6 d a b
  | .shr d a b => eI 0x08 7 d a b
  | .sar d a b => eI 0x08 8 d a b
  | .rol d a b => eI 0x08 9 d a b
  | .min d a b => eI 0x08 10 d a b
  | .max d a b => eI 0x08 11 d a b
  | .minz d a b => eI 0x08 12 d a b
  | .maxz d a b => eI 0x08 13 d a b
  | .mul d a b => eI 0x08 14 d a b
  | .mulh d a b => eI 0x08 15 d a b
  | .mulhz d a b => eI 0x08 16 d a b
  | .div d a b => eI 0x08 17 d a b
  | .divz d a b => eI 0x08 18 d a b
  | .rem d a b => eI 0x08 19 d a b
  | .remz d a b => eI 0x08 20 d a b
  | .clz d a => eXX 0x08 21 d a
  | .ctz d a => eXX 0x08 22 d a
  | .popc d a => eXX 0x08 23 d a
  | .bext d a lo w1 => eBits 0 d (bitSrcC a) lo w1
  | .bextz d a lo w1 => eBits 1 d (bitSrcC a) lo w1
  | .bins d a lo w1 => eBits 2 d (xrC a) lo w1
  | .li d v => some ⟨0x0A, 0, xrC d, 0, 0, v⟩
  | .lih d v => some ⟨0x0A, 1, xrC d, 0, 0, 0#32 ++ v⟩
  | .sel d a b => eI 0x0B 0 d a b
  | .padd d a b => eI 0x0C 0 d a b
  | .pidx d a b => eI 0x0C 1 d a b
  | .ptag d a space t => some ⟨0x0C, 2, xrC d, xrC a, tagC t, 0#29 ++ tagI t ++ 0#4 ++ space⟩
  | .pfmt d a fmt lc => some ⟨0x0C, 3, xrC d, xrC a, 0xFF, 0#41 ++ lc ++ fmt⟩
  | .pget d a f => some ⟨0x0C, 4, xrC d, xrC a, 0xFF, 0#46 ++ f⟩
  | .plin d a => eXX 0x0C 5 d a
  | .cmpEq d a b => eIp 0 d a b
  | .cmpNe d a b => eIp 1 d a b
  | .cmpLt d a b => eIp 2 d a b
  | .cmpLe d a b => eIp 3 d a b
  | .cmpLtz d a => some ⟨0x10, 4, prC d, xrC a, 0, 0⟩
  | .cmpLez d a => some ⟨0x10, 5, prC d, xrC a, 0, 0⟩
  | .pand d a b => some ⟨0x11, 0, prC d, prC a, prC b, 0⟩
  | .por d a b => some ⟨0x11, 1, prC d, prC a, prC b, 0⟩
  | .pxor d a b => some ⟨0x11, 2, prC d, prC a, prC b, 0⟩
  | .pnot d a => some ⟨0x11, 3, prC d, prC a, 0, 0⟩
  | .pmov d a => some ⟨0x11, 4, prC d, prC a, 0, 0⟩
  | .br off => some ⟨0x18, 0, 0, 0xFF, 0, 0#32 ++ off⟩
  | .jmp t => some ⟨0x19, 0, 0, 0xFF, 0, 0#33 ++ t⟩
  | .call d t => some ⟨0x1A, 0, xrC d, 0xFF, 0, 0#33 ++ t⟩
  | .callr d a => eXX 0x1B 0 d a
  | .ret a => eA 0x1C a
  | .lp d t => some ⟨0x1D, 0, xrC d, 0xFF, 0, 0#33 ++ t⟩
  | .start d a b => eXXX 0x20 0 d a b
  | .reap d a => eXX 0x21 0 d a
  | .endThread a => eA 0x22 a
  | .semWait n => some ⟨0x24, 0, 0, semrC n, 0, 0⟩
  | .semPost n k => some ⟨0x24, 1, 0, semrC n, 0xFF, 0#32 ++ k⟩
  | .semTry d n => some ⟨0x24, 2, prC d, semrC n, 0, 0⟩
  | .wait l s c t => some ⟨0x25, 0, 0, 0, 0, 0#8 ++ waitFC t ++ waitFC c ++ waitFC s ++ waitFC l⟩
  | .evpop d => eD 0x26 d
  | .spawn h d a b => some ⟨0x27, 0, xrC d, xrC a, xrC b, 0#47 ++ bit h⟩
  | .ld sz sx o d a b => some ⟨0x30, 0, xrC d, xrC a, src2C b, mImm (ldOrdS o) (ldOrdO o) (sizeC sz) (bit sx) (src2I b)⟩
  | .st sz o a b off => some ⟨0x31, 0, 0, xrC a, xrC b, mImm (stOrdS o) (stOrdO o) (sizeC sz) 0 off⟩
  | .ldFePeek s d a b => some ⟨0x32, 0, xrC d, xrC a, src2C b, mImm (scopeC s) 0 3 0 (src2I b)⟩
  | .ldFeTake s d a b => some ⟨0x32, 1, xrC d, xrC a, src2C b, mImm (scopeC s) 0 3 0 (src2I b)⟩
  | .stFeFill s a b off => some ⟨0x33, 0, 0, xrC a, xrC b, mImm (scopeC s) 0 3 0 off⟩
  | .stFePut s a b off => some ⟨0x33, 1, 0, xrC a, xrC b, mImm (scopeC s) 0 3 0 off⟩
  | .stFeClr a off => some ⟨0x33, 2, 0, xrC a, 0, mImm 0 0 3 0 off⟩
  | .amoAdd w o d a b off => eAmo 0 w o d a b off
  | .amoAnd w o d a b off => eAmo 1 w o d a b off
  | .amoOr w o d a b off => eAmo 2 w o d a b off
  | .amoXor w o d a b off => eAmo 3 w o d a b off
  | .amoMin w o d a b off => eAmo 4 w o d a b off
  | .amoMax w o d a b off => eAmo 5 w o d a b off
  | .amoMinz w o d a b off => eAmo 6 w o d a b off
  | .amoMaxz w o d a b off => eAmo 7 w o d a b off
  | .amoSwap w o d a b off => eAmo 8 w o d a b off
  | .amoCas w o d a b off => eAmo 9 w o d a b off
  | .amoFadd o d a b off => eAmo 10 false o d a b off
  | .amoFmin o d a b off => eAmo 11 false o d a b off
  | .amoFmax o d a b off => eAmo 12 false o d a b off
  | .redAdd w o a b off => eRed 0 w o a b off
  | .redAnd w o a b off => eRed 1 w o a b off
  | .redOr w o a b off => eRed 2 w o a b off
  | .redXor w o a b off => eRed 3 w o a b off
  | .redMin w o a b off => eRed 4 w o a b off
  | .redMax w o a b off => eRed 5 w o a b off
  | .redMinz w o a b off => eRed 6 w o a b off
  | .redMaxz w o a b off => eRed 7 w o a b off
  | .redFadd o a b off => eRed 10 false o a b off
  | .redFmin o a b off => eRed 11 false o a b off
  | .redFmax o a b off => eRed 12 false o a b off
  | .mosCas2 o p d a b => some ⟨0x3A, 0, xrC d, xrC a, xrC b, mosImm (amoOrdS o) (amoOrdO o) p 0 0⟩
  | .mosCas4 o p d a b => some ⟨0x3A, 1, xrC d, xrC a, xrC b, mosImm (amoOrdS o) (amoOrdO o) p 0 0⟩
  | .mosEnq o a b => some ⟨0x3A, 2, 0, xrC a, xrC b, mosImm (amoOrdS o) (amoOrdO o) 0 0 0⟩
  | .mosDeq o d a => some ⟨0x3A, 3, xrC d, xrC a, 0, mosImm (amoOrdS o) (amoOrdO o) 0 0 0⟩
  | .mosChase d a h off => some ⟨0x3A, 4, xrC d, xrC a, 0, mosImm 0 0 0 h off⟩
  | .fence s => eFence 0 s
  | .fenceOc s => eFence 1 s
  | .fenceCo s => eFence 2 s
  | .drains => eNone 0x41 0
  | .barArrive l => eBar 0 l
  | .barWait l => eBar 1 l
  | .barArrivewait l => eBar 2 l
  | .bind s d a b n1 c => some ⟨0x48, 0, xrC d, xrC a, xrC b, scopeC s ++ 0#33 ++ c ++ n1⟩
  | .unbind d a => eXX 0x49 0 d a
  | .gacqX d a b => eXXX 0x4A 0 d a b
  | .gacqS d a b => eXXX 0x4A 1 d a b
  | .grel a => eA 0x4B a
  | .gflush a => eA 0x4C a
  | .gcall t i => some ⟨0x50, 0, 0, 0xFF, 0xFF, 0#32 ++ t ++ i⟩
  | .gret => eNone 0x51 0
  | .dcall d a pc n => some ⟨0x52, 0, xrC d, xrC a, 0, 0#29 ++ n ++ 0#1 ++ pc⟩
  | .dret a => eA 0x53 a
  | .copen d a b => eXXX 0x58 0 d a b
  | .cjoin n h r => some ⟨0x59, 0, rolerC n, xrC h, 0xFF, 0#45 ++ r⟩
  | .csend n b k m => some ⟨0x5A, 0, 0, rolerC n, xrC b, 0#34 ++ m ++ 0#3 ++ k⟩
  | .cdeleg n b => some ⟨0x5B, 0, 0, rolerC n, xrC b, 0⟩
  | .cclose d h => eXX 0x5C 0 d h
  | .cstat d h => eXX 0x5D 0 d h
  | .elb t => some ⟨0x60, 0, 0, 0xFF, 0, 0#33 ++ t⟩
  | .ele => eNone 0x61 0
  | .ela c => some ⟨0x62, 0, 0, 0xFF, 0, 0#40 ++ c⟩
  | .vfadd t rn d a b m => eVf 0 t rn d a b m
  | .vfsub t rn d a b m => eVf 1 t rn d a b m
  | .vfmul t rn d a b m => eVf 2 t rn d a b m
  | .vfma t rn d a b m => eVf 3 t rn (.v d) a b m
  | .vfms t rn d a b m => eVf 4 t rn (.v d) a b m
  | .vfnma t rn d a b m => eVf 5 t rn (.v d) a b m
  | .vfmin t d a b m => eVf 6 t .rne d a b m
  | .vfmax t d a b m => eVf 7 t .rne d a b m
  | .vfabs t d a m => eVf1 0x80 8 t .rne d a m
  | .vfneg t d a m => eVf1 0x80 9 t .rne d a m
  | .vadd d a b m => eVi 0 d a b m
  | .vsub d a b m => eVi 1 d a b m
  | .vmul d a b m => eVi 2 d a b m
  | .vand d a b m => eVi 3 d a b m
  | .vor d a b m => eVi 4 d a b m
  | .vxor d a b m => eVi 5 d a b m
  | .vshl d a b m => eVi 6 d a b m
  | .vshr d a b m => eVi 7 d a b m
  | .vsar d a b m => eVi 8 d a b m
  | .vmin d a b m => eVi 9 d a b m
  | .vmax d a b m => eVi 10 d a b m
  | .vrcp t rn d a m => eVf1 0x82 0 t rn d a m
  | .vrsqrt t rn d a m => eVf1 0x82 1 t rn d a m
  | .vsqrt t rn d a m => eVf1 0x82 2 t rn d a m
  | .vexp2 t rn d a m => eVf1 0x82 3 t rn d a m
  | .vlog2 t rn d a m => eVf1 0x82 4 t rn d a m
  | .vcmpEq t d a b m => eVcmp 0 t d a b m
  | .vcmpNe t d a b m => eVcmp 1 t d a b m
  | .vcmpLt t d a b m => eVcmp 2 t d a b m
  | .vcmpLe t d a b m => eVcmp 3 t d a b m
  | .vsel d a b m => some ⟨0x84, 0, vdstC d, vsrcVSC a, vsrcBC b, vImm (vsrcBI b) 0 m 0⟩
  | .vcvt dst src rn d a m => some ⟨0x85, 0, vdstC d, vsrcC a, 0, vImm (0#24 ++ src ++ dst) 0 m (rndC rn)⟩
  | .vredSum t rn d a m => eVred 0x86 0 t rn (xrC d) a m
  | .vredMax t d a m => eVred 0x86 1 t .rne (xrC d) a m
  | .vredMin t d a m => eVred 0x86 2 t .rne (xrC d) a m
  | .vscanSum t rn d a m => eVred 0x87 0 t rn (vdstC d) a m
  | .vscanMax t d a m => eVred 0x87 1 t .rne (vdstC d) a m
  | .vscanMin t d a m => eVred 0x87 2 t .rne (vdstC d) a m
  | .vperm d a b m => some ⟨0x88, 0, vrC d, vrC a, vrC b, vImm 0 0 m 0⟩
  | .vbcast d a m => some ⟨0x88, 1, vrC d, bcastC a, 0, vImm (bcastI a) 0 m 0⟩
  | .vslide d a b n m => some ⟨0x88, 2, vrC d, vrC a, xrC b, vImm (0#16 ++ n) 0 m 0⟩
  | .vld w d a off m => eVmem 0x89 0 w d a 0 off m
  | .vldStride w d a b off m => eVmem 0x89 1 w d a (xrC b) off m
  | .vldIndex w d a b off m => eVmem 0x89 2 w d a (vrC b) off m
  | .vst w d a off m => eVmem 0x8A 0 w d a 0 off m
  | .vstStride w d a b off m => eVmem 0x8A 1 w d a (xrC b) off m
  | .vstIndex w d a b off m => eVmem 0x8A 2 w d a (vrC b) off m
  | .vsetl d a => some ⟨0x8B, 0, xrC d, xrC a, 0, vsetlImmC 0 0⟩
  | .vsetlImm d n1 => some ⟨0x8B, 0, xrC d, 0xFF, 0, vsetlImmC 1 n1⟩
  | .vsetlRd d => some ⟨0x8B, 0, xrC d, 0, 0, vsetlImmC 2 0⟩
  | .vsetlStart a => some ⟨0x8B, 0, 0, xrC a, 0, vsetlImmC 3 0⟩
  | .mand d a b => some ⟨0x8C, 0, mrC d, mrC a, mrC b, 0⟩
  | .mor d a b => some ⟨0x8C, 1, mrC d, mrC a, mrC b, 0⟩
  | .mxor d a b => some ⟨0x8C, 2, mrC d, mrC a, mrC b, 0⟩
  | .mnot d a => some ⟨0x8C, 3, mrC d, mrC a, 0, 0⟩
  | .mpop d a => some ⟨0x8C, 4, xrC d, mrC a, 0, 0⟩
  | .mfirst d a => some ⟨0x8C, 5, xrC d, mrC a, 0, 0⟩
  | .vget d a l => some ⟨0x8D, 0, xrC d, vrC a, laneC l, 0#40 ++ laneI l⟩
  | .vput d a l => some ⟨0x8D, 1, vrC d, xrC a, laneC l, 0#40 ++ laneI l⟩
  | .mm ta tb acc a b k mr nc =>
      eMat 0x90 (accrC acc) (xrC a) (xrC b) ⟨0, nc, mr, 0, k, 0, 0, 0, bit tb, bit ta, 0⟩
  | .mmc t ta acc accs b k =>
      eMat 0x91 (accrC acc) (accrC accs) (xrC b) ⟨0, 0, 0, 0, k, 0, mmcTgtC t, 0, 0, bit ta, 0⟩
  | .sqd tb acc a b k mr nc => eMat 0x92 (accrC acc) (xrC a) (xrC b) ⟨0, nc, mr, 0, k, 0, 0, 0, bit tb, 0, 0⟩
  | .topkMax d acc b k nb => some ⟨0x93, 0, xrC d, accrC acc, xrC b, 0#37 ++ nb ++ 0#1 ++ k⟩
  | .topkMin d acc b k nb => some ⟨0x93, 1, xrC d, accrC acc, xrC b, 0#37 ++ nb ++ 0#1 ++ k⟩
  | .macz acc mr nc => eMat 0x94 (accrC acc) 0 0 ⟨0, nc, mr, 0, 0, 0, 0, 0, 0, 0, 0⟩
  | .macst rn d acc mr nc => eMat 0x95 (xrC d) (accrC acc) 0 ⟨0, nc, mr, 0, 0, 0, 0, 0, 0, 0, rndC rn⟩
  | .macld acc a mr nc => eMat 0x96 (accrC acc) (xrC a) 0 ⟨0, nc, mr, 0, 0, 0, 0, 0, 0, 0, 0⟩
  | .mcoop d a => eXX 0x97 0 d a
  | .mqry d => eD 0x98 d
  | .cp d a l c => some ⟨0xA0, 0, xrC d, xrC a, lenC l, compImm c (lenI l)⟩
  | .cpa d a b c => some ⟨0xA1, 0, xrC d, xrC a, xrC b, compImm c 0⟩
  | .cpm d a l c => some ⟨0xA2, 0, xrC d, xrC a, lenC l, compImm c (lenI l)⟩
  | .cpres d t => some ⟨0xA3, 0, xrC d, 0xFF, 0, 0#41 ++ t⟩
  | .sbind s a b => some ⟨0xA4, 0, srC s, xrC a, xrC b, 0⟩
  | .sdrop d s => some ⟨0xA5, 0, xrC d, srC s, 0, 0⟩
  | .nsend e m a b => some ⟨0xA6, 0, 0, xrC a, xrC b, 0#41 ++ bit e ++ m⟩
  | .tsend e m c thr a b => some ⟨0xA7, 0, 0, xrC a, xrC b, thr ++ 0#4 ++ c ++ 0#1 ++ bit e ++ m⟩
  | .rcsetRd d c => some ⟨0xA8, 0, xrC d, 0xFF, 0, 0#44 ++ c⟩
  | .rcsetWr d c b => some ⟨0xA8, 1, xrC d, 0xFF, xrC b, 0#44 ++ c⟩
  | .rcsetAdd d c b => some ⟨0xA8, 2, xrC d, 0xFF, xrC b, 0#44 ++ c⟩
  | .ctlr d n sl ot => some ⟨0xE0, 0, xrC d, 0, 0, ctlImm n sl ot⟩
  | .ctlw n sl ot a => some ⟨0xE1, 0, 0, xrC a, 0, ctlImm n sl ot⟩
  | .trap i => some ⟨0xE2, 0, 0, 0, 0, 0#32 ++ i⟩
  | .eret a => eA 0xE3 a
  | .tlbinvAsid reach a => some ⟨0xE4, 0, 0, xrC a, 0, tlbImm reach 0⟩
  | .tlbinvPage reach a b => some ⟨0xE4, 0, 0, xrC a, xrC b, tlbImm reach 1⟩
  | .tlbinvAll reach a => some ⟨0xE4, 0, 0, xrC a, 0, tlbImm reach 2⟩
  | .setxb d a => eXX 0xE5 0 d a
  | .rtinv all a => some ⟨0xE6, 0, 0, xrC a, 0, 0#47 ++ bit all⟩
  | .ovld d a b => eXXX 0xE7 0 d a b
  | .pmig d a b => eXXX 0xE8 0 d a b
  | .qctlCreate d a b => eOp 0xE9 0 d a b
  | .qctlWeight d a b => eOp 0xE9 1 d a b
  | .qctlMask d a b => eOp 0xE9 2 d a b
  | .qctlDestroy d a b => eOp 0xE9 3 d a b
  | .qctlStop d a b => eOp 0xE9 4 d a b
  | .qctlRestart d a b => eOp 0xE9 5 d a b
  | .qctlMode d a b => eOp 0xE9 6 d a b
  | .qctlCounts d a b => eOp 0xE9 7 d a b
  | .dbgRd d a b => eOp 0xEA 0 d a b
  | .dbgWr d a b => eOp 0xEA 1 d a b
  | .dbgStep d a b => eOp 0xEA 2 d a b
  | .dbgPost d a b => eOp 0xEA 3 d a b
  | .sfpop d => eD 0xEB d
  | .ctxsave d a b => eXXX 0xEC 0 d a b
  | .ctxrest d a b => eXXX 0xED 0 d a b
  | _ => none

/-! Pairs. -/

def soC (imm : Bool) (code : BitVec 6) : BitVec 7 := bit imm ++ code
def pSrcImm : PSrc → Bool
  | .reg _ => false
  | .imm _ => true
def pSrcB : PSrc → BitVec 6
  | .reg b => b
  | .imm _ => 0
def pSrcI : PSrc → BitVec 18
  | .reg _ => 0
  | .imm v => v

/-- SO, SD, SA, SB and SI of a scalar half. -/
structure SBits where
  so : BitVec 7
  sd : BitVec 6
  sa : BitVec 6
  sb : BitVec 6
  si : BitVec 18
  deriving DecidableEq, Repr

def sBits (code : BitVec 6) (d a : BitVec 6) (b : PSrc) : SBits := ⟨soC (pSrcImm b) code, d, a, pSrcB b, pSrcI b⟩

def encodeS : SHalf → SBits
  | .none => ⟨0, 0, 0, 0, 0⟩
  | .int f d a b => sBits (intFnC f) d a b
  | .li d v => ⟨soC true 0x10, d, 0, 0, v⟩
  | .padd d a b => sBits 0x11 d a b
  | .pidx d a b => sBits 0x12 d a b
  | .cmp .eq d a b => sBits 0x13 (0#3 ++ d) a b
  | .cmp .ne d a b => sBits 0x14 (0#3 ++ d) a b
  | .cmp .lt d a b => sBits 0x15 (0#3 ++ d) a b
  | .cmp .le d a b => sBits 0x16 (0#3 ++ d) a b
  | .cmpLtz d a => ⟨soC false 0x17, 0#3 ++ d, a, 0, 0⟩
  | .cmpLez d a => ⟨soC false 0x18, 0#3 ++ d, a, 0, 0⟩
  | .lp d t => ⟨soC true 0x19, d, 0, 0, 0#3 ++ t⟩

/-- VO to VI of a vector half. -/
structure VBits where
  vo : BitVec 7
  vd : BitVec 5
  va : BitVec 5
  vb : BitVec 5
  vm : BitVec 3
  rnd : BitVec 3
  sel : BitVec 2
  num : BitVec 3
  typ : BitVec 2
  deriving DecidableEq, Repr

def selC : VSrc → BitVec 2 × BitVec 5 × BitVec 3
  | .v r => (0, r, 0)
  | .s n => (1, 0, n)
  | .ch n => (2, 0, 0#1 ++ n)

def selVSC : VSrcVS → BitVec 2 × BitVec 5 × BitVec 3
  | .v r => (0, r, 0)
  | .s n => (1, 0, n)

def encodeV : VHalf → VBits
  | .none => ⟨0, 0, 0, 0, 0, 0, 0, 0, 0⟩
  | .fp f t rn d a b m =>
      ⟨BitVec.ofNat 7 (fpFnC f + 1), d, (selC a).2.1, b, m, rndC rn, (selC a).1, (selC a).2.2, ftypeC t⟩
  | .int f d a b m => ⟨BitVec.ofNat 7 (viFnC f + 0x0B), d, (selC a).2.1, b, m, 0, (selC a).1, (selC a).2.2, 0⟩
  | .cmp c t d a b m =>
      ⟨BitVec.ofNat 7 (condC c + 0x16), 0#2 ++ d, (selVSC a).2.1, b, m, 0, (selVSC a).1, (selVSC a).2.2, ctypeC t⟩
  | .sel d a b m => ⟨0x1A, d, (selVSC a).2.1, b, m, 0, (selVSC a).1, (selVSC a).2.2, 0⟩

def pairRaw (g : Guard) (v : VBits) (s : SBits) : PairRaw :=
  ⟨guardC g, s.so, s.sd, s.sa, s.sb, s.si, v.vo, v.vd, v.va, v.vb, v.vm, v.rnd, v.sel, v.num, v.typ, 0⟩

/-- A pair carries no hints (R256). -/
def Coded.wf (c : Coded) : Bool :=
  c.instr.wf &&
    (match c.instr with
     | .pair _ _ => c.hints == ⟨0, false, false⟩
     | _ => true)

/-- The word of a guarded, hinted instruction; none for the device's own steps. -/
def encode (c : Coded) : Option IWord :=
  match c.instr with
  | .pair v s => some (pairRaw c.guard (encodeV v) (encodeS s)).word
  | i =>
    match encodeBody i with
    | some e => some (Raw.word ⟨e.op, e.fn, guardC c.guard, hintsC c.hints, e.d, e.a, e.b, e.imm⟩)
    | none => none

/-! Words and bytes (12 R251): little-endian, so byte k is bits 8k+7 to 8k. -/

def wordOfBytes (bs : List Byte) : IWord := bs.foldr (fun b w => w <<< 8 ||| b.setWidth 96) 0

def bytesOfWord (w : IWord) : List Byte := (List.range 12).map fun k => w.extractLsb' (8 * k) 8

/-- The host's question: the instruction of a table word; the bits above `nbits` are zero. -/
def decodeTableWord (nbits w : Nat) : Option Instr :=
  match decode (wordOfBytes (bytesOfWord (BitVec.ofNat 96 (w % 2 ^ nbits)))) with
  | .ok c => some c.instr
  | .error _ => none

end Sys2Proof
end

