-- ==== Sys2Proof/Machine/Table.lean ====
section
/-! DEFINITION. Tables of plain data keyed by a number, kept in rising order of key: memories, register files, cores by
rank. `Tab.put` keeps the canonical form of a memory (no entry equal to what an unlisted key reads as); `Tab.set` keeps
every entry it is given and serves the tables whose form no claim compares. -/

namespace Sys2Proof.Machine

/-- A table: rising keys with their values. -/
abbrev Tab (α : Type) := List (Nat × α)

/-- The value at a key; an unlisted key reads as `dflt`. -/
def Tab.get {α : Type} (dflt : α) : Tab α → Nat → α
  | [], _ => dflt
  | (i, v) :: r, k => if i = k then v else Tab.get dflt r k

/-- Write in canonical form: writing `dflt` removes the entry. -/
def Tab.put {α : Type} [DecidableEq α] (dflt : α) : Tab α → Nat → α → Tab α
  | [], k, v => if v = dflt then [] else [(k, v)]
  | (i, w) :: r, k, v =>
    if k < i then (if v = dflt then (i, w) :: r else (k, v) :: (i, w) :: r)
    else if k = i then (if v = dflt then r else (k, v) :: r)
    else (i, w) :: Tab.put dflt r k v

/-- Write, keeping the entry whatever its value. -/
def Tab.set {α : Type} : Tab α → Nat → α → Tab α
  | [], k, v => [(k, v)]
  | (i, w) :: r, k, v =>
    if k < i then (k, v) :: (i, w) :: r
    else if k = i then (k, v) :: r
    else (i, w) :: Tab.set r k v

/-- Keys rise strictly and no entry holds `dflt`; `lo` bounds the first key from below. -/
def Tab.wfFrom {α : Type} [DecidableEq α] (dflt : α) : Nat → Tab α → Bool
  | _, [] => true
  | lo, (i, v) :: r => decide (lo ≤ i) && decide (v ≠ dflt) && Tab.wfFrom dflt (i + 1) r

/-- Global and local memory as bytes: an unlisted address reads as 0 (04 R82, R84; log 2). -/
abbrev Mem := Tab Byte

/-- One byte of memory. -/
def Mem.read (m : Mem) (a : Nat) : Byte := Tab.get 0 m a

/-- Write one byte. -/
def Mem.write (m : Mem) (a : Nat) (b : Byte) : Mem := Tab.put 0 m a b

/-- The canonical form of a memory. -/
def Mem.wf (m : Mem) : Bool := Tab.wfFrom (0 : Byte) 0 m

/-- `n` bytes from `a`, lowest address first, as a number (little-endian). -/
def Mem.readN (m : Mem) (a : Nat) : Nat → Nat
  | 0 => 0
  | n + 1 => (m.read a).toNat + 256 * Mem.readN m (a + 1) n

/-- Write the low `n` bytes of a number from `a`, little-endian. -/
def Mem.writeN (m : Mem) (a : Nat) : Nat → Nat → Mem
  | 0, _ => m
  | n + 1, v => Mem.writeN (m.write a (BitVec.ofNat 8 v)) (a + 1) n (v / 256)

/-- A 64-bit word of memory. -/
def Mem.word (m : Mem) (a : Nat) : Word := BitVec.ofNat 64 (m.readN a 8)

/-- Write a 64-bit word. -/
def Mem.setWord (m : Mem) (a : Nat) (v : Word) : Mem := m.writeN a 8 v.toNat

/-- Words from `a` upward. -/
def Mem.words (m : Mem) (a : Nat) : Nat → List Word
  | 0 => []
  | n + 1 => m.word a :: Mem.words m (a + 8) n

/-- Write words from `a` upward. -/
def Mem.setWords (m : Mem) (a : Nat) : List Word → Mem
  | [] => m
  | w :: r => Mem.setWords (m.setWord a w) (a + 8) r

/-- Bytes from `a` upward. -/
def Mem.bytes (m : Mem) (a : Nat) : Nat → List Byte
  | 0 => []
  | n + 1 => m.read a :: Mem.bytes m (a + 1) n

/-- Write bytes from `a` upward. -/
def Mem.setBytes (m : Mem) (a : Nat) : List Byte → Mem
  | [] => m
  | b :: r => Mem.setBytes (m.write a b) (a + 1) r

/-- The entry of a list at a position, or a default. -/
def nth {α : Type} (dflt : α) : List α → Nat → α
  | [], _ => dflt
  | x :: _, 0 => x
  | _ :: r, n + 1 => nth dflt r n

/-- The entry at a position, if there is one. -/
def nth? {α : Type} : List α → Nat → Option α
  | [], _ => none
  | x :: _, 0 => some x
  | _ :: r, n + 1 => nth? r n

/-- The list without the entry at a position. -/
def dropAt {α : Type} : List α → Nat → List α
  | [], _ => []
  | _ :: r, 0 => r
  | x :: r, n + 1 => x :: dropAt r n

/-- The list with the entry at a position changed. -/
def modAt {α : Type} (f : α → α) : List α → Nat → List α
  | [], _ => []
  | x :: r, 0 => f x :: r
  | x :: r, n + 1 => x :: modAt f r n

/-- `0, 1, …, n − 1`. -/
def upto (n : Nat) : List Nat := List.range n

/-- Bit field `[hi:lo]` of a word, as a number (02 R34). -/
def bits (w : Word) (hi lo : Nat) : Nat := w.toNat / 2 ^ lo % 2 ^ (hi + 1 - lo)

/-- Whether a word's bits `[hi:lo]` are all zero. -/
def zeroBits (w : Word) (hi lo : Nat) : Bool := bits w hi lo == 0

/-- A field placed at bit `lo`. -/
def fld (v lo : Nat) : Nat := v * 2 ^ lo

/-- A word from a number. -/
def w64 (n : Nat) : Word := BitVec.ofNat 64 n

/-- A truth value as a bit. -/
def b2n (b : Bool) : Nat := if b then 1 else 0

end Sys2Proof.Machine
end

