-- ==== Sys2Proof/Machine/Crypto.lean ====
section
/-! DEFINITION. The named standards of 00 R3 that a program can see the values of: AES-256 in XTS mode (04 R90) and SHA-384
(11 R236, R249). -/

namespace Sys2Proof.Machine

/-! ### AES-256 (FIPS 197), on lists of 16 bytes in column order -/

/-- The substitution table. -/
def aesBox : List Nat :=
  [0x63, 0x7c, 0x77, 0x7b, 0xf2, 0x6b, 0x6f, 0xc5, 0x30, 0x01, 0x67, 0x2b, 0xfe, 0xd7, 0xab, 0x76] ++
  [0xca, 0x82, 0xc9, 0x7d, 0xfa, 0x59, 0x47, 0xf0, 0xad, 0xd4, 0xa2, 0xaf, 0x9c, 0xa4, 0x72, 0xc0] ++
  [0xb7, 0xfd, 0x93, 0x26, 0x36, 0x3f, 0xf7, 0xcc, 0x34, 0xa5, 0xe5, 0xf1, 0x71, 0xd8, 0x31, 0x15] ++
  [0x04, 0xc7, 0x23, 0xc3, 0x18, 0x96, 0x05, 0x9a, 0x07, 0x12, 0x80, 0xe2, 0xeb, 0x27, 0xb2, 0x75] ++
  [0x09, 0x83, 0x2c, 0x1a, 0x1b, 0x6e, 0x5a, 0xa0, 0x52, 0x3b, 0xd6, 0xb3, 0x29, 0xe3, 0x2f, 0x84] ++
  [0x53, 0xd1, 0x00, 0xed, 0x20, 0xfc, 0xb1, 0x5b, 0x6a, 0xcb, 0xbe, 0x39, 0x4a, 0x4c, 0x58, 0xcf] ++
  [0xd0, 0xef, 0xaa, 0xfb, 0x43, 0x4d, 0x33, 0x85, 0x45, 0xf9, 0x02, 0x7f, 0x50, 0x3c, 0x9f, 0xa8] ++
  [0x51, 0xa3, 0x40, 0x8f, 0x92, 0x9d, 0x38, 0xf5, 0xbc, 0xb6, 0xda, 0x21, 0x10, 0xff, 0xf3, 0xd2] ++
  [0xcd, 0x0c, 0x13, 0xec, 0x5f, 0x97, 0x44, 0x17, 0xc4, 0xa7, 0x7e, 0x3d, 0x64, 0x5d, 0x19, 0x73] ++
  [0x60, 0x81, 0x4f, 0xdc, 0x22, 0x2a, 0x90, 0x88, 0x46, 0xee, 0xb8, 0x14, 0xde, 0x5e, 0x0b, 0xdb] ++
  [0xe0, 0x32, 0x3a, 0x0a, 0x49, 0x06, 0x24, 0x5c, 0xc2, 0xd3, 0xac, 0x62, 0x91, 0x95, 0xe4, 0x79] ++
  [0xe7, 0xc8, 0x37, 0x6d, 0x8d, 0xd5, 0x4e, 0xa9, 0x6c, 0x56, 0xf4, 0xea, 0x65, 0x7a, 0xae, 0x08] ++
  [0xba, 0x78, 0x25, 0x2e, 0x1c, 0xa6, 0xb4, 0xc6, 0xe8, 0xdd, 0x74, 0x1f, 0x4b, 0xbd, 0x8b, 0x8a] ++
  [0x70, 0x3e, 0xb5, 0x66, 0x48, 0x03, 0xf6, 0x0e, 0x61, 0x35, 0x57, 0xb9, 0x86, 0xc1, 0x1d, 0x9e] ++
  [0xe1, 0xf8, 0x98, 0x11, 0x69, 0xd9, 0x8e, 0x94, 0x9b, 0x1e, 0x87, 0xe9, 0xce, 0x55, 0x28, 0xdf] ++
  [0x8c, 0xa1, 0x89, 0x0d, 0xbf, 0xe6, 0x42, 0x68, 0x41, 0x99, 0x2d, 0x0f, 0xb0, 0x54, 0xbb, 0x16]

def aesSub (b : Nat) : Nat := nth 0 aesBox b

def aesUnsub (b : Nat) : Nat := aesBox.idxOf b

/-- The product by x in the field of AES. -/
def aesX (b : Nat) : Nat := if b < 128 then 2 * b else (2 * b) % 256 ^^^ 0x1b

/-- A product in the field of AES; `n` bits of the second factor are left. -/
def aesMul : Nat → Nat → Nat → Nat
  | 0, _, _ => 0
  | n + 1, a, b => (if b % 2 = 1 then a else 0) ^^^ aesMul n (aesX a) (b / 2)

def xorBytes (a b : List Nat) : List Nat := a.zipWith (· ^^^ ·) b

/-- One column through a matrix given by its first row. -/
def mixColumn (m c : List Nat) : List Nat :=
  (upto 4).map (fun i => (upto 4).foldl (fun acc j => acc ^^^ aesMul 8 (nth 0 c j) (nth 0 m ((j + 4 - i) % 4))) 0)

/-- All four columns. -/
def mixColumns (m b : List Nat) : List Nat := (upto 4).flatMap (fun c => mixColumn m ((b.drop (4 * c)).take 4))

/-- Row `r` turned by `k r` columns. -/
def turnRows (k : Nat → Nat) (b : List Nat) : List Nat :=
  (upto 16).map (fun i => nth 0 b (i % 4 + 4 * ((i / 4 + k (i % 4)) % 4)))

/-- One more word of the key schedule. -/
def keyStep (ws : List (List Nat)) (i : Nat) : List (List Nat) :=
  let last := nth [] ws (i - 1)
  let t :=
    if i % 8 = 0 then
      let r := (last.drop 1 ++ last.take 1).map aesSub
      xorBytes r [(upto (i / 8 - 1)).foldl (fun c _ => aesX c) 1, 0, 0, 0]
    else if i % 8 = 4 then last.map aesSub
    else last
  ws ++ [xorBytes (nth [] ws (i - 8)) t]

/-- The 15 round keys of a 32-byte key. -/
def roundKeys (key : List Nat) : List (List Nat) :=
  let ws := (upto 52).foldl (fun ws i => keyStep ws (i + 8)) ((upto 8).map (fun i => (key.drop (4 * i)).take 4))
  (upto 15).map (fun i => ((ws.drop (4 * i)).take 4).flatten)

/-- AES-256 encryption of a block. -/
def aesEncrypt (rk : List (List Nat)) (b : List Nat) : List Nat :=
  let body := fun (s : List Nat) (k : List Nat) => xorBytes (mixColumns [2, 3, 1, 1] (turnRows (fun r => r) (s.map aesSub))) k
  let s := (((rk.drop 1).take 13).foldl body (xorBytes b (nth [] rk 0)))
  xorBytes (turnRows (fun r => r) (s.map aesSub)) (nth [] rk 14)

/-- AES-256 decryption of a block. -/
def aesDecrypt (rk : List (List Nat)) (b : List Nat) : List Nat :=
  let body := fun (s : List Nat) (k : List Nat) =>
    mixColumns [14, 11, 13, 9] (xorBytes ((turnRows (fun r => 4 - r) s).map aesUnsub) k)
  let s := (((rk.drop 1).take 13).reverse.foldl body (xorBytes b (nth [] rk 14)))
  xorBytes ((turnRows (fun r => 4 - r) s).map aesUnsub) (nth [] rk 0)

/-! ### XTS (IEEE 1619) over a 64-byte line -/

/-- The tweak times x, in the field of XTS. -/
def xtsNext (t : List Nat) : List Nat :=
  let v := t.foldr (fun b a => b + 256 * a) 0
  let w := (2 * v) % 2 ^ 128 ^^^ (if v < 2 ^ 127 then 0 else 0x87)
  (upto 16).map (fun i => w / 256 ^ i % 256)

/-- The four blocks of a line through a block function, each under its own tweak. -/
def xtsBlocks (f : List Nat → List Nat) : Nat → List Nat → List Nat → List Nat
  | 0, _, _ => []
  | n + 1, t, b => xorBytes (f (xorBytes (b.take 16) t)) t ++ xtsBlocks f n (xtsNext t) (b.drop 16)

/-- Key words as bytes, lowest first. -/
def keyBytes (ws : List Word) (i : Nat) : List Nat :=
  (upto 32).map (fun j => (nth 0 ws (i + j / 8)).toNat / 256 ^ (j % 8) % 256)

/-- The tweak of a line: its address under the tweak key (04 R90, 11 R243). -/
def xtsTweak (key : List Word) (line : Nat) : List Nat :=
  aesEncrypt (roundKeys (keyBytes key 4)) ((upto 16).map (fun i => line / 256 ^ i % 256))

/-- A line encrypted under eight key words. -/
def xtsEncrypt (key : List Word) (line : Nat) (b : List Nat) : List Nat :=
  xtsBlocks (aesEncrypt (roundKeys (keyBytes key 0))) 4 (xtsTweak key line) b

/-- A line decrypted under eight key words. -/
def xtsDecrypt (key : List Word) (line : Nat) (b : List Nat) : List Nat :=
  xtsBlocks (aesDecrypt (roundKeys (keyBytes key 0))) 4 (xtsTweak key line) b

/-! ### SHA-384 (FIPS 180-4) -/

/-- The round constants. -/
def shaK : List Nat :=
  [0x428a2f98d728ae22, 0x7137449123ef65cd, 0xb5c0fbcfec4d3b2f, 0xe9b5dba58189dbbc] ++
  [0x3956c25bf348b538, 0x59f111f1b605d019, 0x923f82a4af194f9b, 0xab1c5ed5da6d8118] ++
  [0xd807aa98a3030242, 0x12835b0145706fbe, 0x243185be4ee4b28c, 0x550c7dc3d5ffb4e2] ++
  [0x72be5d74f27b896f, 0x80deb1fe3b1696b1, 0x9bdc06a725c71235, 0xc19bf174cf692694] ++
  [0xe49b69c19ef14ad2, 0xefbe4786384f25e3, 0x0fc19dc68b8cd5b5, 0x240ca1cc77ac9c65] ++
  [0x2de92c6f592b0275, 0x4a7484aa6ea6e483, 0x5cb0a9dcbd41fbd4, 0x76f988da831153b5] ++
  [0x983e5152ee66dfab, 0xa831c66d2db43210, 0xb00327c898fb213f, 0xbf597fc7beef0ee4] ++
  [0xc6e00bf33da88fc2, 0xd5a79147930aa725, 0x06ca6351e003826f, 0x142929670a0e6e70] ++
  [0x27b70a8546d22ffc, 0x2e1b21385c26c926, 0x4d2c6dfc5ac42aed, 0x53380d139d95b3df] ++
  [0x650a73548baf63de, 0x766a0abb3c77b2a8, 0x81c2c92e47edaee6, 0x92722c851482353b] ++
  [0xa2bfe8a14cf10364, 0xa81a664bbc423001, 0xc24b8b70d0f89791, 0xc76c51a30654be30] ++
  [0xd192e819d6ef5218, 0xd69906245565a910, 0xf40e35855771202a, 0x106aa07032bbd1b8] ++
  [0x19a4c116b8d2d0c8, 0x1e376c085141ab53, 0x2748774cdf8eeb99, 0x34b0bcb5e19b48a8] ++
  [0x391c0cb3c5c95a63, 0x4ed8aa4ae3418acb, 0x5b9cca4f7763e373, 0x682e6ff3d6b2b8a3] ++
  [0x748f82ee5defb2fc, 0x78a5636f43172f60, 0x84c87814a1f0ab72, 0x8cc702081a6439ec] ++
  [0x90befffa23631e28, 0xa4506cebde82bde9, 0xbef9a3f7b2c67915, 0xc67178f2e372532b] ++
  [0xca273eceea26619c, 0xd186b8c721c0c207, 0xeada7dd6cde0eb1e, 0xf57d4f7fee6ed178] ++
  [0x06f067aa72176fba, 0x0a637dc5a2c898a6, 0x113f9804bef90dae, 0x1b710b35131c471b] ++
  [0x28db77f523047d84, 0x32caab7b40c72493, 0x3c9ebe0a15c9bebc, 0x431d67c49c100d4c] ++
  [0x4cc5d4becb3e42b6, 0x597f299cfc657e2a, 0x5fcb6fab3ad6faec, 0x6c44198c4a475817]

/-- The initial state. -/
def shaInit : List Nat :=
  [0xcbbb9d5dc1059ed8, 0x629a292a367cd507, 0x9159015a3070dd17, 0x152fecd8f70e5939,
   0x67332667ffc00b31, 0x8eb44a8768581511, 0xdb0c2e0d64f98fa7, 0x47b5481dbefa4fa4]

/-- A 64-bit rotation to the right. -/
def ror64 (x n : Nat) : Nat := x / 2 ^ n + x % 2 ^ n * 2 ^ (64 - n)

def add64 (l : List Nat) : Nat := l.foldl (· + ·) 0 % 2 ^ 64

/-- The next word of a message schedule, from the last sixteen. -/
def shaNext (ws : List Nat) : Nat :=
  let a := nth 0 ws 1
  let b := nth 0 ws 14
  add64 [nth 0 ws 0, ror64 a 1 ^^^ ror64 a 8 ^^^ a / 2 ^ 7, nth 0 ws 9, ror64 b 19 ^^^ ror64 b 61 ^^^ b / 2 ^ 6]

/-- One round. -/
def shaRound (v : List Nat) (kw : Nat) : List Nat :=
  let a := nth 0 v 0
  let b := nth 0 v 1
  let c := nth 0 v 2
  let e := nth 0 v 4
  let f := nth 0 v 5
  let g := nth 0 v 6
  let t1 := add64 [nth 0 v 7, ror64 e 14 ^^^ ror64 e 18 ^^^ ror64 e 41, (e &&& f) ^^^ ((2 ^ 64 - 1 - e) &&& g), kw]
  let t2 := add64 [ror64 a 28 ^^^ ror64 a 34 ^^^ ror64 a 39, (a &&& b) ^^^ (a &&& c) ^^^ (b &&& c)]
  [add64 [t1, t2], a, b, c, add64 [nth 0 v 3, t1], e, f, g]

/-- The rounds of one block: the constants left, the window of the schedule, the working state. -/
def shaRounds : List Nat → List Nat → List Nat → List Nat
  | [], _, v => v
  | k :: r, ws, v => shaRounds r (ws.drop 1 ++ [shaNext ws]) (shaRound v (k + nth 0 ws 0))

/-- One block of sixteen words into the state. -/
def shaBlock (h : List Nat) (ws : List Nat) : List Nat := h.zipWith (fun a b => (a + b) % 2 ^ 64) (shaRounds shaK ws h)

/-- Big-endian 64-bit words of a byte list, `n` of them. -/
def beWords : Nat → List Nat → List Nat
  | 0, _ => []
  | n + 1, b => (b.take 8).foldl (fun a x => a * 256 + x) 0 :: beWords n (b.drop 8)

/-- `n` blocks, in order. -/
def shaBlocks : Nat → List Nat → List Nat → List Nat
  | 0, h, _ => h
  | n + 1, h, b => shaBlocks n (shaBlock h (beWords 16 b)) (b.drop 128)

/-- SHA-384: 48 bytes. -/
def sha384 (m : List Byte) : List Byte :=
  let n := m.length
  let z := (239 - n % 128) % 128
  let p := m.map (·.toNat) ++ [0x80] ++ List.replicate z 0 ++ (upto 16).map (fun i => 8 * n / 256 ^ (15 - i) % 256)
  let h := shaBlocks ((n + 17 + z) / 128) shaInit p
  (upto 48).map (fun i => BitVec.ofNat 8 (nth 0 h (i / 8) / 256 ^ (7 - i % 8)))

end Sys2Proof.Machine
end

