-- ==== Sys2Proof/Config.lean ====
section
/-! DEFINITION. What the model leaves free: each constant has no body, so no proof can see its value, and a claim holds
for every value. The assumption log names each one. -/

namespace Sys2Proof

/-- A lane of `vexp2` or `vlog2` whose correctly rounded value the model's interval arithmetic does not decide
(15 R334, log 5): function (0 exp2, 1 log2), element type, rounding code, input image. -/
opaque Config.transcendental : Nat → Nat → Nat → Nat → BitVec 32

/-- The device's attestation signature over a report, r above s, 384 bits each (11 R250, log 8). -/
opaque Config.attestSign : List Byte → BitVec 768

/-- A value of the outside that the manual does not give, by counter (log 6). -/
opaque Config.freeWord : Nat → Word

/-- Byte offset of the ASID table in control space (04 R92 gives none; log 12). -/
opaque Config.asidTable : Nat

/-- Byte offsets in control space of the guard descriptors, 64 bytes each, and of their stamp arrays, 1,024 bytes each (07 R144 gives
none; log 51). -/
opaque Config.guardTable : Nat

opaque Config.stampTable : Nat

/-- Byte offset in control space of the word by which the supervisor sets or clears a line's poison bit (22 R411 gives none; log
40). -/
opaque Config.poisonPort : Nat

/-- The owner's host ASID, by owning port (11 R229; log 12). -/
opaque Config.hostAsid : Nat → BitVec 16

/-- The 16-byte device serial number (11 R250; log 8). -/
opaque Config.serialByte : Nat → Byte

/-- What measurement register 3 is extended with at a change of the debug enable (11 R236; log 8). -/
opaque Config.debugDigest : Bool → BitVec 384

/-- The digest of the fuse and strap configuration, which boot extends register 1 with, by the fused minimum version, the one fuse
that changes (11 R236, R235; log 8). -/
opaque Config.strapDigest : Nat → BitVec 384

/-- The digest of a firmware image, which boot extends register 0 with (11 R236; log 8): none is the image the device was
delivered with, a list of bytes one that came through the recovery area. The manual gives an image's layout nowhere. -/
opaque Config.imageDigest : Option (List (Nat × Byte)) → BitVec 384

/-- What the check of an image's digest and signature finds: 0 good, 1 digest, else signature (11 R234, R235; log 8). -/
opaque Config.imageCheck : Option (List (Nat × Byte)) → BitVec 2

/-- An image's security version (11 R234, R235; log 8). -/
opaque Config.imageVersion : Option (List (Nat × Byte)) → Nat

/-- The bank group, of its die's 256, that holds an HBM line (22 R414, R417 give no layout; log 12). -/
opaque Config.bankGroup : Nat → Byte

end Sys2Proof
end

