-- ==== Sys2Proof/Machine/Flags.lean ====
section
/-! DEFINITION. Number formats, compares and rounding (05 R99 to R112, 14 R308, 15 R332 to R340): exact values as
integers, rounded once at the end. -/

namespace Sys2Proof.Machine

open Sys2Proof

/-- An IEEE binary format: exponent width, fraction width, bias (05 R99). -/
structure FFmt where
  ew : Nat
  fw : Nat
  bias : Nat
  deriving DecidableEq, Repr

def fp32 : FFmt := ⟨8, 23, 127⟩
def bf16 : FFmt := ⟨8, 7, 127⟩
def fp16 : FFmt := ⟨5, 10, 15⟩

def FFmt.signBit (f : FFmt) : Nat := 2 ^ (f.ew + f.fw)
def FFmt.infBits (f : FFmt) : Nat := (2 ^ f.ew - 1) * 2 ^ f.fw

/-- The canonical quiet NaN (05 R100). -/
def FFmt.nanBits (f : FFmt) : Nat := f.infBits + 2 ^ (f.fw - 1)

def FFmt.width (f : FFmt) : Nat := 1 + f.ew + f.fw

def fmtOf : FType → FFmt
  | .fp32 => fp32
  | .bf16 => bf16
  | .fp16 => fp16

/-- A value: NaN, an infinity, or (−1)^neg × m × 2^e with a signed zero. -/
inductive FVal
  | nan
  | inf (neg : Bool)
  | fin (neg : Bool) (m : Nat) (e : Int)
  deriving DecidableEq, Repr, Inhabited

/-- The value of an image; subnormals are kept (05 R99). -/
def unpack (f : FFmt) (img : Nat) : FVal :=
  let neg := img / f.signBit % 2 == 1
  let ex := img / 2 ^ f.fw % 2 ^ f.ew
  let fr := img % 2 ^ f.fw
  if ex = 2 ^ f.ew - 1 then (if fr = 0 then .inf neg else .nan)
  else if ex = 0 then .fin neg fr (1 - (f.bias : Int) - f.fw)
  else .fin neg (2 ^ f.fw + fr) ((ex : Int) - f.bias - f.fw)

/-- m × 2^k as a quotient of naturals. -/
def ratNum (m : Nat) (k : Int) : Nat := if 0 ≤ k then m * 2 ^ k.toNat else m
def ratDen (k : Int) : Nat := if 0 ≤ k then 1 else 2 ^ (-k).toNat

/-- ⌊log2 (n/d)⌋ for n, d > 0. -/
def ratLog2 (n d : Nat) : Int :=
  let a : Int := (Nat.log2 n : Int) - Nat.log2 d
  if n * ratDen a < d * ratNum 1 a then a - 1 else a

def withSign (f : FFmt) (neg : Bool) (b : Nat) : Nat := if neg then f.signBit + b else b

/-- The image of an overflow (05 R101). -/
def overflowBits (f : FFmt) (mode : Rnd) (neg : Bool) : Nat :=
  match mode with
  | .rne | .rna => f.infBits
  | .rtz => f.infBits - 1
  | .rup => if neg then f.infBits - 1 else f.infBits
  | .rdn => if neg then f.infBits else f.infBits - 1

/-- Whether to round up, given the last kept bit, the half bit and the sticky bit (05 R102). -/
def roundsUp (mode : Rnd) (neg odd half sticky : Bool) : Bool :=
  match mode with
  | .rne => half && (sticky || odd)
  | .rna => half
  | .rtz => false
  | .rup => !neg && (half || sticky)
  | .rdn => neg && (half || sticky)

/-- Round a positive value v, given ⌊log2 v⌋ and, for each exponent p, ⌊v / 2^p⌋ and whether that is inexact. -/
def roundWith (f : FFmt) (mode : Rnd) (neg : Bool) (lg : Int) (scaled : Int → Nat × Bool) : Nat :=
  let qmin : Int := 1 - (f.bias : Int) - f.fw
  let q : Int := max (lg - f.fw) qmin
  let (t2, inex) := scaled (q - 1)
  let t := t2 / 2
  let up := roundsUp mode neg (t % 2 == 1) (t2 % 2 == 1) inex
  let b := (if up then t + 1 else t) + (q - qmin).toNat * 2 ^ f.fw
  withSign f neg (if f.infBits ≤ b then overflowBits f mode neg else b)

/-- Round n/d, with n, d > 0. -/
def roundRat (f : FFmt) (mode : Rnd) (neg : Bool) (n d : Nat) : Nat :=
  roundWith f mode neg (ratLog2 n d) fun p =>
    let num := n * ratDen p
    let den := d * ratNum 1 p
    (num / den, num % den != 0)

/-- The image of a value rounded to a format. -/
def round (f : FFmt) (mode : Rnd) : FVal → Nat
  | .nan => f.nanBits
  | .inf neg => withSign f neg f.infBits
  | .fin neg m e => if m = 0 then withSign f neg 0 else roundRat f mode neg (ratNum m e) (ratDen e)

def FVal.neg : FVal → FVal
  | .nan => .nan
  | .inf n => .inf !n
  | .fin n m e => .fin (!n) m e

def FVal.isNan : FVal → Bool
  | .nan => true
  | _ => false

/-- Exact product (IEEE 754-2019): infinity times zero is NaN. -/
def FVal.mul : FVal → FVal → FVal
  | .nan, _ => .nan
  | _, .nan => .nan
  | .inf a, .inf b => .inf (a != b)
  | .inf a, .fin b m _ => if m = 0 then .nan else .inf (a != b)
  | .fin b m _, .inf a => if m = 0 then .nan else .inf (a != b)
  | .fin a m e, .fin b k g => .fin (a != b) (m * k) (e + g)

/-- The signed integer of a finite value at exponent e. -/
def scaleTo (neg : Bool) (m : Nat) (ex e : Int) : Int :=
  let v : Int := m * 2 ^ (ex - e).toNat
  if neg then -v else v

/-- Exact sum; an exact zero is +0, −0 under rdn, and two zeros of one sign keep it (15 R332). -/
def FVal.add (mode : Rnd) : FVal → FVal → FVal
  | .nan, _ => .nan
  | _, .nan => .nan
  | .inf a, .inf b => if a = b then .inf a else .nan
  | .inf a, .fin _ _ _ => .inf a
  | .fin _ _ _, .inf a => .inf a
  | .fin a m e, .fin b k g =>
    let x := min e g
    let s := scaleTo a m e x + scaleTo b k g x
    if s = 0 then .fin (if m = 0 ∧ k = 0 ∧ a = b then a else mode == .rdn) 0 x
    else .fin (decide (s < 0)) s.natAbs x

/-- a < b as real numbers with infinities. -/
def FVal.lt : FVal → FVal → Bool
  | .nan, _ => false
  | _, .nan => false
  | .inf a, .inf b => a && !b
  | .inf a, .fin _ _ _ => a
  | .fin _ _ _, .inf b => !b
  | .fin a m e, .fin b k g =>
    let x := min e g
    decide (scaleTo a m e x < scaleTo b k g x)

/-- a = b as real numbers with infinities: −0 equals +0 (15 R335). -/
def FVal.eq : FVal → FVal → Bool
  | .nan, _ => false
  | _, .nan => false
  | .inf a, .inf b => a == b
  | .inf _, .fin _ _ _ => false
  | .fin _ _ _, .inf _ => false
  | .fin a m e, .fin b k g =>
    let x := min e g
    decide (scaleTo a m e x = scaleTo b k g x)

def FVal.negZero : FVal → Bool
  | .fin true 0 _ => true
  | _ => false

/-- The smaller or larger image under 14 R308. -/
def fminmax (f : FFmt) (wantMin : Bool) (x y : Nat) : Nat :=
  let a := unpack f x
  let b := unpack f y
  match a.isNan, b.isNan with
  | true, true => f.nanBits
  | true, false => y
  | false, true => x
  | false, false =>
    let less := a.lt b || (a.eq b && a.negZero && !b.negZero)
    if less == wantMin then x else y

/-! Integer results of floating values (05 R101). -/

/-- The integer nearest to m × 2^e in a mode. -/
def roundInt (mode : Rnd) (neg : Bool) (m : Nat) (e : Int) : Int :=
  let n := ratNum m e
  let d := ratDen e
  let t := n / d
  let r := n % d
  let up := roundsUp mode neg (t % 2 == 1) (decide (d ≤ 2 * r)) (decide (0 < r ∧ 2 * r ≠ d))
  let v : Int := if up then (t + 1 : Nat) else t
  if neg then -v else v

def saturate (lo hi v : Int) : Int := if v < lo then lo else if hi < v then hi else v

/-- Round to an integer, saturate; NaN gives 0. -/
def toInt (mode : Rnd) (lo hi : Int) : FVal → Int
  | .nan => 0
  | .inf neg => if neg then lo else hi
  | .fin neg m e => saturate lo hi (roundInt mode neg m e)

/-- The value of an integer. -/
def ofInt (v : Int) : FVal := .fin (decide (v < 0)) v.natAbs 0

/-! Square roots and the functions of 15 R334. -/

/-- ⌊√n⌋ bit by bit, structural on the number of bits. -/
def isqrtGo (n : Nat) : Nat → Nat → Nat
  | 0, acc => acc
  | k + 1, acc =>
    let c := acc + 2 ^ k
    isqrtGo n k (if c * c ≤ n then c else acc)

def isqrt (n : Nat) : Nat := isqrtGo n (Nat.log2 n / 2 + 1) 0

/-- Round √(n/d). -/
def roundSqrt (f : FFmt) (mode : Rnd) (n d : Nat) : Nat :=
  roundWith f mode false (ratLog2 n d / 2) fun p =>
    let num := n * ratDen (2 * p)
    let den := d * ratNum 1 (2 * p)
    let t := isqrt (num / den)
    (t, t * t * den != num)

/-- The precision of the interval arithmetic for exp2 and log2, in bits, and its slack in units of the last bit. -/
def prec : Nat := 320
def slack : Nat := 2 ^ 24

/-- Σ of z^(2k+1)/(2k+1) in fixed point: `pow` is z^(2k+1), `zz` is z². -/
def atanhGo (zz : Nat) : Nat → Nat → Nat → Nat → Nat
  | 0, _, _, acc => acc
  | n + 1, k, pow, acc => atanhGo zz n (k + 1) (pow * zz / 2 ^ prec) (acc + pow / (2 * k + 1))

/-- 2 atanh z for z = n/d, in fixed point from below: ln ((d + n)/(d − n)). -/
def twoAtanh (n d : Nat) : Nat :=
  let z := n * 2 ^ prec / d
  2 * atanhGo (z * z / 2 ^ prec) 128 0 z 0

/-- ln 2 in fixed point, from below. -/
def ln2 : Nat := twoAtanh 1 3

/-- Σ of y^k/k! in fixed point: `t` is the current term. -/
def expGo (y : Nat) : Nat → Nat → Nat → Nat → Nat
  | 0, _, _, acc => acc
  | n + 1, k, t, acc => expGo y n (k + 1) (t * y / 2 ^ prec / (k + 1)) (acc + t)

/-- Two bounds that round alike give the rounding; otherwise the model leaves the value free (log 5). -/
def roundBetween (f : FFmt) (mode : Rnd) (neg : Bool) (lo hi : Nat) (k : Int) (free : Nat) : Nat :=
  let a := roundRat f mode neg (lo * ratNum 1 k) (2 ^ prec * ratDen k)
  let b := roundRat f mode neg (hi * ratNum 1 k) (2 ^ prec * ratDen k)
  if a = b then a else free

/-- 2^v for v = ±m × 2^e: 2^k × 2^(j/2^s) with 0 ≤ j < 2^s. -/
def exp2Fin (f : FFmt) (mode : Rnd) (neg : Bool) (m : Nat) (e : Int) (free : Nat) : Nat :=
  let n : Int := if neg then -(ratNum m e : Int) else ratNum m e
  let d : Int := ratDen e
  let k := n / d
  let j := n % d
  if k > 4096 then roundRat f mode false (2 ^ 4096) 1
  else if k < -4096 then roundRat f mode false 1 (2 ^ 4096)
  else if j = 0 then roundRat f mode false (ratNum 1 k) (ratDen k)
  else
    let y := j.toNat * ln2 / d.toNat
    let s := expGo y 96 0 (2 ^ prec) 0
    roundBetween f mode false s (s + slack) k free

/-- log2 of m × 2^e with m > 0. -/
def log2Fin (f : FFmt) (mode : Rnd) (m : Nat) (e : Int) (free : Nat) : Nat :=
  let l := Nat.log2 m
  let k : Int := e + l
  let p := 2 ^ l
  if m = p then round f mode (ofInt k)
  else
    let frac := twoAtanh (m - p) (m + p)
    let lo : Int := k * (2 : Int) ^ prec + (frac : Int) * 2 ^ prec / (ln2 + slack : Nat) - slack
    let hi : Int := k * (2 : Int) ^ prec + ((frac + slack : Nat) : Int) * 2 ^ prec / (ln2 : Nat) + slack
    if 0 < lo then roundBetween f mode false lo.toNat hi.toNat 0 free
    else if hi < 0 then roundBetween f mode true (-lo).toNat (-hi).toNat 0 free
    else free

/-- The five functions of OP 0x82. -/
inductive VFun
  | rcp | rsqrt | sqrt | exp2 | log2
  deriving DecidableEq, Repr

def ftypeNum : FType → Nat
  | .fp32 => 0
  | .bf16 => 1
  | .fp16 => 2
def rndNum : Rnd → Nat
  | .rne => 0
  | .rna => 1
  | .rtz => 2
  | .rup => 3
  | .rdn => 4

/-- A lane of OP 0x82: the special values of R334, else the exact value rounded once. -/
def vfun (fn : VFun) (t : FType) (mode : Rnd) (img : Nat) : Nat :=
  let f := fmtOf t
  match fn, unpack f img with
  | _, .nan => f.nanBits
  | .rcp, .inf n => withSign f n 0
  | .rcp, .fin n m e =>
    if m = 0 then withSign f n f.infBits else roundRat f mode n (ratDen e) (ratNum m e)
  | .rsqrt, .inf n => if n then f.nanBits else 0
  | .rsqrt, .fin n m e =>
    if m = 0 then withSign f n f.infBits
    else if n then f.nanBits else roundSqrt f mode (ratDen e) (ratNum m e)
  | .sqrt, .inf n => if n then f.nanBits else f.infBits
  | .sqrt, .fin n m e =>
    if m = 0 then withSign f n 0
    else if n then f.nanBits else roundSqrt f mode (ratNum m e) (ratDen e)
  | .exp2, .inf n => if n then 0 else f.infBits
  | .exp2, .fin n m e =>
    exp2Fin f mode n m e ((Config.transcendental 0 (ftypeNum t) (rndNum mode) img).toNat % 2 ^ f.width)
  | .log2, .inf n => if n then f.nanBits else f.infBits
  | .log2, .fin n m e =>
    if m = 0 then withSign f true f.infBits
    else if n then f.nanBits
    else log2Fin f mode m e ((Config.transcendental 1 (ftypeNum t) (rndNum mode) img).toNat % 2 ^ f.width)

/-! Floating lane operations (15 R332). -/

def fpOp (fn : FpFn) (t : FType) (mode : Rnd) (a b d : Nat) : Nat :=
  let f := fmtOf t
  let x := unpack f a
  let y := unpack f b
  let z := unpack f d
  match fn with
  | .add => round f mode (x.add mode y)
  | .sub => round f mode (x.add mode y.neg)
  | .mul => round f mode (x.mul y)
  | .ma => round f mode ((x.mul y).add mode z)
  | .ms => round f mode ((x.mul y).add mode z.neg)
  | .nma => round f mode ((x.mul y).neg.add mode z)
  | .min => fminmax f true a b
  | .max => fminmax f false a b
  | .abs => if x.isNan then f.nanBits else a % f.signBit
  | .neg => if x.isNan then f.nanBits else (a + f.signBit) % (2 * f.signBit)

/-- Integer lane operations (15 R333). -/
def viOp (fn : ViFn) (a b : BitVec 32) : BitVec 32 :=
  match fn with
  | .add => a + b
  | .sub => a - b
  | .mul => a * b
  | .and => a &&& b
  | .or => a ||| b
  | .xor => a ^^^ b
  | .shl => a <<< (b.toNat % 32)
  | .shr => a >>> (b.toNat % 32)
  | .sar => a.sshiftRight (b.toNat % 32)
  | .min => if a.slt b then a else b
  | .max => if a.slt b then b else a

/-- Compares of lanes (15 R335). -/
def cmpLane (c : Cond) (t : CType) (a b : BitVec 32) : Bool :=
  let fcmp (f : FFmt) (x y : Nat) : Bool :=
    let u := unpack f x
    let v := unpack f y
    match c with
    | .eq => u.eq v
    | .ne => !u.eq v
    | .lt => u.lt v
    | .le => u.lt v || u.eq v
  match t with
  | .fp32 => fcmp fp32 a.toNat b.toNat
  | .bf16 => fcmp bf16 (a.toNat % 2 ^ 16) (b.toNat % 2 ^ 16)
  | .fp16 => fcmp fp16 (a.toNat % 2 ^ 16) (b.toNat % 2 ^ 16)
  | .i32 =>
    match c with
    | .eq => a == b
    | .ne => a != b
    | .lt => a.slt b
    | .le => a.sle b

/-- Conditions on 64-bit integers (13 R276). -/
def cmp64 (c : Cond) (a b : Word) : Bool :=
  match c with
  | .eq => a == b
  | .ne => a != b
  | .lt => a.slt b
  | .le => a.sle b

/-! PSB blocks (05 R103 to R106). -/

/-- The mantissa width of a PSB format code: 4 PSB2, 5 PSB4, 6 PSB7 (04 R71). -/
def psbW (fmt : Nat) : Nat := if fmt = 4 then 2 else if fmt = 5 then 4 else 7

/-- A PSB block: exponent, micro-exponents, elements as sign and magnitude. -/
structure Psb where
  e : Nat
  mu : List Bool
  el : List (Bool × Nat)
  deriving DecidableEq, Repr

/-- The bytes of a block of L elements: 8 + L/2 + L(1 + w) bits. -/
def psbBytes (w l : Nat) : Nat := (8 + l / 2 + l * (1 + w)) / 8

/-- The packed block as a number whose bit b is bit b of the string (R103). -/
def Psb.pack (w : Nat) (b : Psb) : Nat :=
  let l := b.el.length
  let mus := (b.mu.zipIdx.map fun (m, i) => if m then 2 ^ (8 + i) else 0).sum
  let els := (b.el.zipIdx.map fun ((s, m), j) => ((if s then 2 ^ w else 0) + m % 2 ^ w) * 2 ^ (8 + l / 2 + j * (1 + w))).sum
  b.e % 256 + mus + els

def Psb.unpack (w l : Nat) (n : Nat) : Psb where
  e := n % 256
  mu := (List.range (l / 2)).map fun i => n / 2 ^ (8 + i) % 2 == 1
  el := (List.range l).map fun j =>
    let v := n / 2 ^ (8 + l / 2 + j * (1 + w)) % 2 ^ (1 + w)
    (v / 2 ^ w == 1, v % 2 ^ w)

/-- The value of element j (R104). -/
def Psb.val (w : Nat) (b : Psb) (j : Nat) : FVal :=
  match b.el[j]? with
  | none => .nan
  | some (s, m) =>
    if b.e = 255 then .nan
    else if m = 0 then (if s then .nan else .fin false 0 0)
    else .fin s m ((b.e : Int) - 127 - (if b.mu.getD (j / 2) false then 1 else 0) - ((w : Int) - 1))

/-- Magnitude order of |x|, NaN as 0 (R106). -/
def magLt : FVal → FVal → Bool
  | _, .nan => false
  | .nan, .inf _ => true
  | .nan, .fin _ m _ => 0 < m
  | .inf _, _ => false
  | .fin _ _ _, .inf _ => true
  | .fin _ m e, .fin _ k g => (FVal.fin false m e).lt (.fin false k g)

def magMax (a b : FVal) : FVal := if magLt a b then b else a

/-- RoundInt of |v| / 2^(e − 127 − u − (w − 1)), none for an infinity. -/
def psbMag (w e u : Nat) : FVal → Option Nat
  | .nan => some 0
  | .inf _ => none
  | .fin _ m ex => some (roundInt .rne false m (ex - ((e : Int) - 127 - u - ((w : Int) - 1)))).toNat

/-- Fits(v, e, u) (R106). -/
def psbFits (w : Nat) (v : FVal) (e u : Nat) : Bool :=
  match psbMag w e u v with
  | some m => m ≤ 2 ^ w - 1
  | none => false

/-- The least E from `e` on at which the largest magnitude fits, at most 254. -/
def psbExp (w : Nat) (big : FVal) : Nat → Nat → Nat
  | 0, e => e
  | k + 1, e => if e < 254 && !psbFits w big e 0 then psbExp w big k (e + 1) else e

def FVal.sign : FVal → Bool
  | .nan => false
  | .inf n => n
  | .fin n _ _ => n

/-- Quantise (R106). -/
def quantise (w : Nat) (xs : List FVal) : Psb :=
  if xs.all FVal.isNan then ⟨255, List.replicate (xs.length / 2) false, xs.map fun _ => (true, 0)⟩
  else
    let big := xs.foldl magMax .nan
    let e := psbExp w big 255 0
    let mu := (List.range (xs.length / 2)).map fun i =>
      psbFits w (magMax (xs.getD (2 * i) .nan) (xs.getD (2 * i + 1) .nan)) e 1
    let el := xs.zipIdx.map fun (x, j) =>
      if x.isNan then (true, 0)
      else
        let u := if mu.getD (j / 2) false then 1 else 0
        let m := match psbMag w e u x with
          | some m => min m (2 ^ w - 1)
          | none => 2 ^ w - 1
        (m != 0 && x.sign, m)
    ⟨e, mu, el⟩

/-! The matrix unit's groups (05 R109, R110). -/

/-- The exact sum of a group; an exact zero rounds to +0. -/
def sumExact (xs : List FVal) : FVal := xs.foldl (FVal.add .rne) (.fin false 0 0)

/-- One group's step: acc := Round(acc + Round(s)). -/
def accStep (acc : BitVec 32) (group : List FVal) : BitVec 32 :=
  let s := match sumExact group with
    | .fin _ 0 _ => 0
    | v => round fp32 .rne v
  BitVec.ofNat 32 (round fp32 .rne ((unpack fp32 acc.toNat).add .rne (unpack fp32 s)))

/-- A product, or the square of a difference for `sqd`. -/
def term (sq : Bool) (a b : FVal) : FVal :=
  if sq then (a.add .rne b.neg).mul (a.add .rne b.neg) else a.mul b

/-! Reductions (05 R111). -/

/-- The combination of a reduction or scan. -/
inductive RedOp
  | sum | max | min
  deriving DecidableEq, Repr

def combine (op : RedOp) (t : CType) (mode : Rnd) (a b : BitVec 32) : BitVec 32 :=
  let fl (ft : FType) : BitVec 32 :=
    let f := fmtOf ft
    let x := a.toNat % 2 ^ f.width
    let y := b.toNat % 2 ^ f.width
    BitVec.ofNat 32 (match op with
      | .sum => fpOp .add ft mode x y 0
      | .max => fminmax f false x y
      | .min => fminmax f true x y)
  match t with
  | .fp32 => fl .fp32
  | .bf16 => fl .bf16
  | .fp16 => fl .fp16
  | .i32 =>
    match op with
    | .sum => a + b
    | .max => if a.slt b then b else a
    | .min => if a.slt b then a else b

/-- One level of the tree: neighbours combine, an absent child passes the other through. -/
def treeLevel (op : RedOp) (t : CType) (mode : Rnd) : List (Option (BitVec 32)) → List (Option (BitVec 32))
  | a :: b :: rest =>
    (match a, b with
     | some x, some y => some (combine op t mode x y)
     | some x, none => some x
     | none, y => y) :: treeLevel op t mode rest
  | l => l

/-- The root over 256 elements, level by level. -/
def treeRoot (op : RedOp) (t : CType) (mode : Rnd) : Nat → List (Option (BitVec 32)) → Option (BitVec 32)
  | 0, l => (l.head?).join
  | k + 1, l => treeRoot op t mode k (treeLevel op t mode l)

/-- The result of an absent root. -/
def absentRoot (op : RedOp) (t : CType) : BitVec 32 :=
  let fl (f : FFmt) : BitVec 32 :=
    match op with
    | .sum => 0
    | .max => BitVec.ofNat 32 (f.signBit + f.infBits)
    | .min => BitVec.ofNat 32 f.infBits
  match t with
  | .fp32 => fl fp32
  | .bf16 => fl bf16
  | .fp16 => fl fp16
  | .i32 =>
    match op with
    | .sum => 0
    | .max => 0x80000000
    | .min => 0x7FFFFFFF

end Sys2Proof.Machine
end

