-- ==== Sys2Proof/Machine/State.lean ====
section
/-! DEFINITION. The state of a JA80 package: everything INVENTORY.md lists under '## State', as plain data. The global
memory stands alone in `State.mem`; everything else stands in `State.dev`, so that a step that leaves global memory
alone shows it in its form. -/

namespace Sys2Proof.Machine

/-- Where a request goes: the home of a word and the place at it (02 R35, 04 R85, 06 R114). -/
inductive Loc
  | glob (pa : Nat)
  | loc (rank off : Nat)
  | acc (unit bank off : Nat)
  | ctl (off : Nat)
  | peer (p va : Nat)
  deriving DecidableEq, Repr, Inhabited

/-- The four counting classes (02 R35, 14 R300). -/
inductive Cls
  | ld | st | cp | tl | none
  deriving DecidableEq, Repr, Inhabited

/-- Full/empty operations (06 R130). -/
inductive FeOp
  | peek | take | fill | put | clr
  deriving DecidableEq, Repr, Inhabited

/-- Atomic operations (14 R307). -/
inductive AmoFn
  | add | and | or | xor | min | max | minz | maxz | swap | cas | fadd | fmin | fmax
  deriving DecidableEq, Repr, Inhabited

/-- A network message (16 R365). -/
structure Msg where
  remote : Bool
  peer : Nat
  rank : Nat
  slot : Nat
  chan : Nat
  cnt : Bool
  ctr : Nat
  endw : Bool
  payload : List Word
  target : Word
  deriving DecidableEq, Repr, Inhabited

/-- What a request asks of its home. -/
inductive ReqOp
  | load (n : Nat) (sx : Bool)
  | store (n : Nat) (v : Word)
  | fe (f : FeOp) (v : Word)
  | amo (f : AmoFn) (wide : Bool) (b e : Word)
  | red (f : AmoFn) (wide : Bool) (b : Word)
  | cas (e n : List Word)
  | enq (node : Word)
  | deq
  | chase (left taken : Nat) (off : Int) (last : Word)
  | bind (region : Word) (scope : Scope) (count code : Nat)
  | unbind
  | gacq (excl : Bool) (entry : Nat)
  | grel (entry : Nat)
  | gflush
  | copen (mask : Word)
  | cjoin (n r : Nat) (h : Word)
  | csend (n kind : Nat) (cap : Word) (payload : List Word)
  | cdeleg (n : Nat) (cap target : Word)
  | cclose (h : Word)
  | cstat (h : Word)
  | dcall (rank pc : Nat) (args : List Word)
  | spawn (head : Bool) (queue : Nat) (rec : List Word)
  | send (m : Msg)
  | start (word : Word)
  | reap (slot : Nat)
  | mcoop (xa : Word)
  /-- an engine's write packet and read to a peer: offset or element, bytes (25 R454) -/
  | block (off : Nat) (bytes : List Byte)
  | fetch (off n : Nat)
  /-- to a peer's guard manager: this core empties an entry that may be the last exclusive holder (07 R146, R155); it hands a hold
  back with a dirty mask (R148, R282) -/
  | gdrop (entry : Nat)
  | gback (entry : Nat) (dirty : Mask)
  deriving DecidableEq, Repr, Inhabited

/-- Where an answer is written at its Return step (02 R35 Deliver). -/
inductive Dst
  | none
  | x (r : XReg)
  | xs (r : XReg) (p : Option PReg)
  | lane (v l : Nat) (bytes : Nat)
  | role (n : Nat)
  deriving DecidableEq, Repr, Inhabited

/-- One request: sent to a bag, posted, waiting at a home or answered (06 R113). -/
structure Req where
  id : Nat
  cls : Cls
  op : ReqOp
  ptr : Word
  loc : Loc
  dst : Dst
  pc : PcIx
  /-- the word's OP, for records -/
  asid : Nat
  domain : Nat
  die : Bool
  pkg : Bool
  sys : Bool
  /-- kind of a store-fault record (20 R382) -/
  kind : Nat
  elem : Nat
  /-- key slot of the page, for the line's encryption (04 R90) -/
  key : Nat
  /-- the thread parks until the answer is judged (21 R395) -/
  judged : Bool
  /-- bytes that an elision section had buffered when its load was issued (08 R181) -/
  ov : List (Nat × Byte) := []
  deriving DecidableEq, Repr, Inhabited

/-- What an answer brings. -/
inductive RetVal
  | words (ws : List Word) (ok : Bool)
  | refuse (cause : Byte) (addr : Word) (opnd : BitVec 32)
  | defer (cause : Byte) (addr : Word) (opnd : BitVec 32)
  deriving DecidableEq, Repr, Inhabited

/-- A value on the return path (06 R113). -/
structure Ret where
  req : Req
  val : RetVal
  deriving DecidableEq, Repr, Inhabited

/-- A performed write's acknowledgement, or the refusal that stands in its place (06 R116, 20 R382). -/
structure Ack where
  req : Req
  fail : Option (Byte × Byte)
  deriving DecidableEq, Repr, Inhabited

/-- What is under way at a place that a `tlbinv` or `setxb` waits for (13 R292, R293): a request, or the matrix word, of a context under
an id; a copy, at one place or as a whole; a word that an output stream covers in part; a queued matrix command. -/
inductive User
  | req (r k id : Nat)
  | copy (r k id : Nat) (l : Option Loc)
  | cover (r n : Nat) (l : Loc)
  | cmd (r k id : Nat)
  deriving DecidableEq, Repr, Inhabited

/-- What a parked thread waits for (02 R35 Park; 20 R392 names the kinds). -/
inductive WaitCond
  | counts (ld st cp tl : Option Nat)
  | own (ld st cp tl posted : Bool)
  | release (s : Scope)
  | fence (s : Scope)
  | sendHold
  | coHold
  | room (w : Bool)
  | sem (n : Nat)
  | event
  | walk (asid page : Nat)
  | mailbox
  | overlay
  | channel (n k : Nat)
  | vchan (n h : Nat)
  | role (n : Nat)
  | barrier (level queue inst gen : Nat)
  | answer (id : Nat)
  | stream (n k : Nat)
  | produce (n bytes : Nat)
  | mqRoom
  | mqEmpty
  | copyRoom
  | delegRoom (rank : Nat)
  | bindEntry (e : Nat)
  | bindFreed (e : Nat)
  | dueZero (e : Nat)
  | delivered (asid page : Nat)
  | halted
  | groupStart
  | coachIdle
  | groupIdle
  | preempted (slot : Nat)
  | inval (l : List User)
  | stepped (slot : Nat)
  | lanes (id : Nat)
  | drain
  | service
  deriving DecidableEq, Repr, Inhabited

/-- An elision section (08 R181): checkpoint, read set and buffered bytes. -/
structure Elide where
  fallback : PcIx
  x : Tab Word
  p : BitVec 8
  reads : List Nat
  writes : List (Nat × Byte)
  deriving DecidableEq, Repr, Inhabited

/-- A fault that an answer or an engine brought (20 R384). -/
structure Defer where
  cause : Byte
  addr : Word
  opnd : BitVec 32
  deriving DecidableEq, Repr, Inhabited

/-- Life of a slot (03 R44, R46). -/
inductive Life
  | free | live | exited
  deriving DecidableEq, Repr, Inhabited

/-- A pending pre-emption (20 R386): its reason (1 pre-emption, 2 hand-off), when asked, and the frame. -/
structure Preempt where
  reason : Nat
  cause : Byte
  since : Nat
  frame : Nat
  rush : Bool
  /-- the register that `ctxsave` in slot 15 writes -/
  dst : Option XReg
  deriving DecidableEq, Repr, Inhabited

/-- A fence.co hold: its scope, the copies and matrix commands before it, and each output stream (number and bind) with its
position there (06 R134). -/
structure CoHold where
  scope : Scope
  ids : List Nat
  outs : List (Nat × Nat × Nat)
  deriving DecidableEq, Repr, Inhabited

/-- Engine and ordering side of a thread context. -/
structure Flow where
  nextId : Nat := 0
  ld : List (Nat × Nat) := []
  st : List (Nat × Nat) := []
  cp : List (Nat × Nat) := []
  tl : List (Nat × Nat) := []
  die : BitVec 9 := 0
  pkg : BitVec 9 := 0
  sys : BitVec 9 := 0
  bag : List Req := []
  rets : List Ret := []
  acks : List Ack := []
  posted : List Req := []
  /-- acquires whose value is awaited (06 R124) -/
  acq : List Nat := []
  /-- fence.oc holds: scope and the first operation held (06 R133) -/
  oc : List (Scope × Nat) := []
  co : List CoHold := []
  /-- walk answers of this thread's parked accesses (04 R94): asid, page, PA+1 or 0, leaf -/
  walked : List (Nat × Nat × Nat × Word) := []
  /-- posted operations that failed, whose records wait for room in the store-fault queue (06 R133) -/
  late : List Nat := []
  deferred : List Defer := []
  deriving DecidableEq, Repr, Inhabited

/-- A thread context: one of the 16 slots of a core (03 R44, 13 R288, 20 R388). -/
structure Slot where
  life : Life := .free
  owner : Option Nat := none
  x : Tab Word := []
  p : BitVec 8 := 0
  pc : PcIx := 0
  tag : BitVec 3 := 0
  asid : BitVec 16 := 0
  domain : BitVec 6 := 0
  part : Word := 0
  lmbase : BitVec 18 := 0
  lmlim : BitVec 19 := 0
  member : BitVec 4 := 0
  gsize : BitVec 4 := 0
  gdepth : BitVec 3 := 0
  /-- member 0's place: its slot, or the key of its saved context -/
  lead : Nat := 0
  /-- member 0's slot at `start`, kept across save and restore (07 R145) -/
  start : Nat := 0
  smask : BitVec 8 := 0
  /-- the number of its group's instance on the core: two groups that start in one slot differ (07 R145, 14 R315) -/
  ginst : Nat := 0
  fault : BitVec 22 := 0
  roles : Tab Word := []
  /-- receive channels: word and control mark, head first (08 R174) -/
  chans : Tab (List (Word × Bool)) := []
  bars : Tab (Option Nat) := []
  parked : Option WaitCond := none
  /-- a fault waits for a handler or is being handled (20 R379) -/
  held : Bool := false
  pre : Option Preempt := none
  elide : Option Elide := none
  /-- an abort of the innermost gate call stands, with the cause that led to it (08 R167, 24 R430) -/
  aborting : Option Byte := none
  /-- the deferred fault under handling, which a pre-emption puts back (20 R384) -/
  taken : Option Defer := none
  /-- the thread's `mcoop` made its unit a member of a cooperative group (09 R201) -/
  coop : Bool := false
  /-- `dbg.step` lets the slot issue one instruction (13 R297) -/
  stepping : Bool := false
  /-- how far an instruction that stalls has gone; a vector access: its operation's number + 1 (06 R115) -/
  sent : Nat := 0
  /-- an elision section of the thread aborted in this cycle, and it has issued nothing since (24 R428) -/
  lapsed : Bool := false
  /-- a stalled vector access: its base and each lane's byte offset, as read at issue (15 R342) -/
  vbase : Word := 0
  /-- the lane that a stalled vector access goes on at (15 R343) -/
  vlane : Nat := 0
  voffs : List Int := []
  flow : Flow := {}
  deriving DecidableEq, Repr, Inhabited

/-- A group of task threads on a core (03 R49 to R51, 13 R281, R282). -/
structure Group where
  /-- where member 0 stands: its slot, or the key of its saved context -/
  lead : Nat
  /-- its slot at `start` -/
  start : Nat
  /-- its instance's number on the core -/
  inst : Nat
  queue : Nat
  gsize : Nat
  members : List Nat
  smask : BitVec 8
  done : BitVec 32
  /-- the task record's pointer and words (03 R54) -/
  recPtr : Word
  words : List Word
  status : BitVec 32
  forced : Bool
  exited : Bool
  deriving DecidableEq, Repr, Inhabited

/-- A pending fault for slot 13 or 15 (20 R379, R380). -/
structure Pend where
  slot : Nat
  domain : BitVec 6
  cause : Byte
  /-- agent handling of a task thread's fault: end its group with this cause (20 R380) -/
  ends : Option Byte
  /-- a page-fault hand-off's record: its thread is saved (20 R391) -/
  handoff : Bool := false
  /-- the cycle it was raised in (20 R379) -/
  time : Nat := 0
  deriving DecidableEq, Repr, Inhabited

/-- A store-fault record (20 R382). -/
structure SfRec where
  cause : Byte
  sub : Byte
  slot : Nat
  kind : Nat
  lane : Nat
  pc : PcIx
  addr : Word
  deriving DecidableEq, Repr, Inhabited

/-- A bind-table entry (07 R145) with the order of its release (R146). -/
structure BindEnt where
  guard : BitVec 44 := 0
  gpeer : Option Nat := none
  /-- of a guard at a peer: the space-6 address by which the core names its guard word -/
  gva : BitVec 45 := 0
  code : BitVec 4 := 0
  count : BitVec 8 := 0
  scope : BitVec 3 := 0
  mode : BitVec 2 := 0
  asid : BitVec 16 := 0
  buffer : BitVec 18 := 0
  group : BitVec 4 := 0
  /-- the instance of that group -/
  ginst : Nat := 0
  epoch : BitVec 16 := 0xFFFF
  mark : BitVec 32 := 0
  due : BitVec 9 := 0
  dirty : Mask := 0
  valid : Bool := false
  released : Nat := 0
  deriving DecidableEq, Repr, Inhabited

/-- A delivery or refresh running on a copy engine (07 R149, R154): the sub-blocks still to move. -/
structure Xfer where
  refresh : Bool
  guard : Nat
  /-- core and entry that receive, or the home -/
  rank : Nat
  entry : Nat
  slot : Nat
  id : Nat
  /-- source core and entry; none: the home copy -/
  src : Option (Nat × Nat)
  list : List Nat
  ptr : Word
  /-- what follows a refresh: 0 nothing, 1 gflush, 2 unbind, 3 reclaim, 4 replacement -/
  after : Nat
  /-- a refresh: the high stamp it brings hmark to; a delivery: the entry's mark before the grant -/
  high : BitVec 32
  /-- a refresh: the descriptor's epoch when it began -/
  epoch : BitVec 16
  /-- the request an `unbind` answers -/
  req : Option Req
  /-- a refresh that met a page not present waits for `tlbinv` (22 R405) -/
  stuck : Bool
  /-- words of the sub-block at the head of the list that are in place, and those of them already set full (06 R116) -/
  placed : List Nat
  filled : List Nat
  deriving DecidableEq, Repr, Inhabited

/-- A 64-bit word that a matrix step writes: its bytes come together, then it is sent and performed (16 R354, 06 R116
Engine step). -/
structure EWord where
  ptr : Word
  bytes : Tab Byte
  loc : Option (Loc × Nat)
  slot : Nat
  id : Nat
  /-- the step covers the whole 64-byte line (22 R411) -/
  line : Bool
  /-- a `topk` word: its command does not wait for it (09 R185) -/
  free : Bool
  /-- in the fabric -/
  out : Bool
  /-- written at its home, and to be set full next (06 R116, R132) -/
  placed : Bool := false
  deriving DecidableEq, Repr, Inhabited

/-- A matrix command in a queue (09 R184, R185). -/
inductive MOp
  | mm (ta tb sq : Bool) (acc : Nat) (a b : Word) (k m n : Nat)
  | mmc (tgt : MmcTgt) (ta : Bool) (acc src : Nat) (b : Word) (k : Nat)
  | topk (max : Bool) (acc : Nat) (d : Word) (v : Option Word) (k nb : Nat)
  | macz (acc m n : Nat)
  | macst (rnd : Rnd) (d : Word) (acc m n : Nat)
  | macld (acc : Nat) (a : Word) (m n : Nat)
  deriving DecidableEq, Repr, Inhabited

/-- Operands of a fetched step (09 R188): A and B values in storage form, and a mark for poison or side band. -/
structure MBuf where
  step : Nat
  cmd : Nat
  a : List Nat
  b : List Nat
  bad : Option (Byte × BitVec 32 × Word)
  deriving DecidableEq, Repr, Inhabited

/-- A queued command. -/
structure MCmd where
  id : Nat
  slot : Nat
  op : MOp
  next : Nat
  /-- it was posted to a cooperative group that the core leads (09 R203) -/
  grp : Bool
  pc : PcIx
  /-- the instruction word and its register values, as a frame holds them (20 R388) -/
  word : BitVec 96
  va : Word
  vb : Word
  deriving DecidableEq, Repr, Inhabited

/-- A step that holds the array (09 R187). -/
structure MStep where
  core : Nat
  cmd : MCmd
  step : Nat
  buf : Option MBuf
  last : Bool
  /-- what it writes, fixed when it starts: units, physical banks, first row and column of the result (09 R186, R203) -/
  tiles : List (Nat × Nat × Nat × Nat)
  /-- its range of the command -/
  range : Nat
  deriving DecidableEq, Repr, Inhabited

/-- A copy's shape (16 R356, R357). -/
inductive CpKind
  | cp (dst src : Word) (len : Nat)
  | cpa (dst src : Word) (w0 w1 w2 : Word)
  | cpm (list src : Word) (len : Nat) (dsts : List Word)
  deriving DecidableEq, Repr, Inhabited

/-- A copy in flight (10 R210, 22 R410): pieces done, pieces abandoned beyond a failure. -/
structure Copy where
  id : Nat
  slot : Nat
  asid : Nat
  pc : PcIx
  kind : CpKind
  comp : BitVec 16
  ctr : Word
  start : Nat
  /-- piece numbers already complete -/
  done : List Nat
  /-- extents in place whose words are not yet set full: offset, destination, place, bytes (22 R410) -/
  inPlace : List (Nat × Nat × Loc × Nat)
  /-- source bytes that peers have answered, by offset; pieces with requests in the fabric and how many -/
  got : List (Nat × List Byte)
  awaits : List (Nat × Nat)
  /-- lowest failing byte offset with its code -/
  stop : Option (Nat × Byte)
  /-- cpm: live destinations, those that failed with their codes -/
  live : List Nat
  fails : List (Nat × Byte)
  refused : Bool
  /-- no further piece begins: its thread is halted (20 R387) -/
  parked : Bool
  /-- its group was ended: it stops at its piece boundary (20 R385) -/
  ending : Bool := false
  /-- a copy that `cpres` resumed (16 R360) -/
  resumed : Bool
  /-- 0 moving; 1, 2: whole or stopped, its record waits for room in the event queue -/
  stage : Nat
  deriving DecidableEq, Repr, Inhabited

/-- A stream register (10 R205 to R208). -/
structure Stream where
  bound : Bool := false
  slot : Nat := 0
  base : Word := 0
  w0 : Word := 0
  s0 : Word := 0
  s1 : Word := 0
  s2 : Word := 0
  pos : Nat := 0
  /-- input: elements fetched beyond the position, each a value or a held fault -/
  ahead : List (Nat × Option (Byte × Word × BitVec 32)) := []
  /-- input: words of the next element that are read already, by their offset in it (06 R116) -/
  fetched : List (Nat × List Byte) := []
  /-- output: words of the oldest element that are written already, by their offset in it -/
  written : List Nat := []
  /-- output: elements produced and not yet performed: number, value, PC of the producer -/
  out : List (Nat × Nat × PcIx) := []
  /-- output: words some of whose bytes are in place: pointer, place of the bytes written last, bytes (06 R132) -/
  cover : List (Word × Loc × BitVec 8) := []
  asid : Nat := 0
  /-- an output stream dropped: the id to retire from cp when drained -/
  dropped : Option Nat := none
  bindId : Nat := 0
  /-- the number of this binding, or of its renewal at a restore, on the core: its requests carry it (10 R208, 24 R426) -/
  serial : Nat := 0
  /-- of an output stream whose thread has ended: the window and partition mask that its elements still keep to (04 R80) -/
  heir : Option (BitVec 18 × BitVec 19 × Word) := none
  accepted : Bool := false
  deriving DecidableEq, Repr, Inhabited

/-- A cached translation (04 R94). -/
structure TlbE where
  asid : Nat
  level : Nat
  page : Nat
  leaf : Word
  deriving DecidableEq, Repr, Inhabited

/-- A walk in the miss mailbox (04 R94). -/
structure Miss where
  asid : Nat
  page : Nat
  va : Nat
  deriving DecidableEq, Repr, Inhabited

/-- A delegated call (08 R178). -/
structure DReq where
  pc : PcIx
  args : List Word
  asid : BitVec 16
  domain : BitVec 6
  rank : Nat
  slot : Nat
  id : Nat
  cancelled : Bool
  /-- it came while the die was halted and is judged when the die resumes (24 R432) -/
  unjudged : Bool := false
  /-- the caller's request -/
  req : Req
  deriving DecidableEq, Repr, Inhabited

/-- A saved context (20 R388): what its frame does not hold. Reason 1 pre-emption, 2 hand-off, 3 a thread that has ended with
requests under way (20 R385), 4 a delegated routine that has (08 R179). -/
structure Saved where
  /-- the number under which its requests go on: 16 or more -/
  key : Nat
  frame : Nat
  slot : Nat
  reason : Nat
  ctx : Slot
  group : Option Group
  mcmds : List MCmd
  streams : Tab Stream
  deriving DecidableEq, Repr, Inhabited

/-- The vector engine (15 R325): lanes by register × 256 + lane. -/
structure Vec where
  v : Tab (BitVec 32) := []
  m : Tab Mask := []
  vl : BitVec 9 := 256
  vstart : BitVec 8 := 0
  vcnt : BitVec 7 := 0
  deriving DecidableEq, Repr, Inhabited

/-- The core's control registers. -/
structure CoreRegs where
  xb : BitVec 15 := 0
  shbase : BitVec 18 := 0
  shlim : BitVec 19 := 0
  gfbase : BitVec 18 := 0
  dmask : Word := 0
  mqw : BitVec 4 := 8
  accmap : BitVec 12 := 0xFAC
  prbase : BitVec 19 := 0
  cfbase : BitVec 44 := 0
  lmstat : Word := 0
  sem : Tab (BitVec 16) := []
  agent : PcIx := 0
  /-- cycle number at which the core started (13 R288 ctl.cycle) -/
  started : Nat := 0
  deriving DecidableEq, Repr, Inhabited

/-- The core's queues and engines. -/
structure CoreEng where
  events : List (Word × Word) := []
  /-- records waiting for room (10 R215) with the copy they hold in cp -/
  eventWait : List ((Word × Word) × Option (Nat × Nat)) := []
  sfq : List SfRec := []
  /-- records waiting for room, with the request whose counters they hold (20 R382, 25 R442) -/
  sfWait : List (SfRec × Option Req) := []
  pend13 : List Pend := []
  pend15 : List Pend := []
  hand13 : Option Pend := none
  hand15 : Option Pend := none
  groups : List Group := []
  bind : Tab BindEnt := []
  bindWait : List (Nat × Nat) := []
  semWait : List (Nat × Nat × Bool) := []
  rctr : Tab (BitVec 32) := []
  armed : Tab (Option (Req × BitVec 32)) := []
  mq : List MCmd := []
  mbuf : List MBuf := []
  /-- words read already for the next operand fetch, and whether each was uncorrectable: core, word, value (06 R116, 09 R192) -/
  mfeed : List (Nat × Nat × Word × Bool) := []
  mcredit : Int := 0
  mtl : List (Nat × Nat × Nat) := []
  copies : List Copy := []
  streams : Tab Stream := []
  ewords : List EWord := []
  xfers : List Xfer := []
  tlb : List TlbE := []
  mail : List Miss := []
  dq : List DReq := []
  dserve : Option DReq := none
  saved : List Saved := []
  arbLast : Nat := 0
  arbCredit : Tab Int := []
  relTick : Nat := 0
  /-- the model's own: groups started and streams bound so far on the core -/
  groupTick : Nat := 0
  serials : Nat := 0
  deriving DecidableEq, Repr, Inhabited

/-- A core (03 R44, 04 R78 to R84). -/
structure Core where
  running : Bool := false
  failed : Bool := false
  lmem : Mem := []
  /-- empty words, by word number: an unlisted word is full (04 R84) -/
  empty : Tab Bool := []
  lpoison : Tab Bool := []
  regs : CoreRegs := {}
  eng : CoreEng := {}
  vec : Vec := {}
  slots : Tab Slot := []
  deriving DecidableEq, Repr, Inhabited

/-- A coach's matrix unit and power domain (09, 11 R239, 24 R435). -/
structure Coach where
  /-- banks by bank × 16,384 + element; FP32 images -/
  bank : Tab (BitVec 32) := []
  step : Option MStep := none
  steps : Nat := 0
  group : Option (Nat × Nat) := none
  need : BitVec 8 := 0
  volt : BitVec 8 := 50
  exhausted : Bool := false
  abin : BitVec 3 := 0
  final : Bool := false
  deriving DecidableEq, Repr, Inhabited

/-- A cooperative group being formed or formed (09 R201): the member cores by quadrant. -/
structure Coop where
  die : Nat
  g : Nat
  members : Tab Nat
  formed : Bool
  deriving DecidableEq, Repr, Inhabited

/-- A die. -/
structure Die where
  tlb : List TlbE := []
  credit : Tab Int := []
  last : Nat := 0
  halted : Bool := false
  failed : Bool := false
  /-- bank groups: 1 SRAM copies failing (held), 2 lost (22 R417, R418) -/
  remap : Tab Nat := []
  mcMask : Bool := false
  deriving DecidableEq, Repr, Inhabited

/-- A record in a launch queue (03 R54 to R56). -/
structure QRec where
  node : Nat
  words : List Word
  eligible : Bool
  /-- the core its task event went to (03 R61) -/
  core : Option Nat := none
  deriving DecidableEq, Repr, Inhabited

/-- A launch queue (03 R52). -/
structure Queue where
  num : Nat
  domain : BitVec 6
  asid : BitVec 16
  cls : Nat
  weight : Nat
  syncBase : Nat
  pool : Nat
  nodes : Nat
  mask : List Word
  dev : Nat
  counts : List Nat
  recs : List QRec
  /-- nodes dequeued and not yet started (13 R287 status 7) -/
  out : List QRec
  promo : Nat
  since : Option Nat
  wake : Bool
  deriving DecidableEq, Repr, Inhabited

/-- A barrier instance (14 R315). -/
structure Bar where
  level : Nat
  queue : Nat
  inst : Nat
  gen : Nat
  arrived : Nat
  deriving DecidableEq, Repr, Inhabited

/-- A waiter of a guard (07 R147). -/
structure GReq where
  rank : Nat
  slot : Nat
  req : Req
  deriving DecidableEq, Repr, Inhabited

/-- A guard descriptor (07 R144) with its stamps and wait list. -/
structure Guard where
  word : Nat
  base : BitVec 49
  asid : BitVec 16
  epoch : BitVec 16
  code : BitVec 4
  count : BitVec 8
  scope : Scope
  mode : BitVec 2
  shared : BitVec 12
  next : BitVec 32
  home : Bool
  last : Nat × Nat
  hmark : BitVec 32
  valid : Bool
  holder : Nat × Nat
  /-- the binding thread's peer number (07 R144) -/
  bpeer : BitVec 8
  brank : BitVec 11
  bslot : Nat
  /-- the instance of its group -/
  binst : Nat
  stamps : Tab (BitVec 32)
  wait : List GReq
  /-- words 5 and 6: physical addresses in the MSO unit's area -/
  waitAt : BitVec 44
  stampsAt : BitVec 44
  /-- an `unbind` whose refresh still runs -/
  busy : Bool
  deriving DecidableEq, Repr, Inhabited

/-- A grant on its way to a core (07 R147). -/
structure Grant where
  rank : Nat
  slot : Nat
  req : Req
  word : Nat
  excl : Bool
  entry : Nat
  list : List Nat
  high : BitVec 32
  epoch : BitVec 16
  src : Option (Nat × Nat)
  deriving DecidableEq, Repr, Inhabited

/-- A conversation (08 R169 to R177). -/
structure Conv where
  gen : BitVec 32 := 0
  /-- die of the home -/
  home : Nat := 0
  isOpen : Bool := false
  header : Word := 0
  edges : List (BitVec 32) := []
  mask : Word := 0
  opener : BitVec 6 := 0
  stage : BitVec 6 := 0
  /-- holders by role: rank, slot, channel; deleg marks an untaken delegation -/
  holders : Tab (Option (Nat × Nat × Nat)) := []
  deleg : Tab Bool := []
  held : List (Nat × Nat × Req) := []
  deriving DecidableEq, Repr, Inhabited

/-- A request in the fabric (10 R226, 25 R444). -/
structure FReq where
  rank : Nat
  slot : Nat
  req : Req
  route : List Nat
  /-- 0 at the source port, 1 sent, 2 in the next router's custody, 3 accepted by the target port -/
  stage : Nat
  /-- marked as a detour (25 R449) -/
  marked : Bool
  deriving DecidableEq, Repr, Inhabited

/-- A link (25 R445 to R447). -/
structure Link where
  retrains : BitVec 8 := 0
  replays : BitVec 16 := 0
  lanefail : BitVec 16 := 0
  far : BitVec 8 := 0
  state : BitVec 3 := 0
  txseq : BitVec 12 := 0
  rxseq : BitVec 12 := 0
  /-- the last sequence number that the far end acknowledged (25 R445) -/
  acked : BitVec 12 := 0
  recent : List Nat := []
  /-- retrain command: all 16 lanes are tested again -/
  wide : Bool := false
  /-- cycle at which training began -/
  since : Nat := 0
  deriving DecidableEq, Repr, Inhabited

/-- A migration request or move in progress (04 R88, 13 R295). -/
structure Mig where
  asid : Nat
  va : Nat
  node : Nat
  rank : Nat
  slot : Nat
  dst : XReg
  byPolicy : Bool
  deriving DecidableEq, Repr, Inhabited

/-- A key slot (04 R90, R91): versions, and the write version's number. -/
structure KeySlot where
  ver : BitVec 2 := 0
  prev : Option (BitVec 2) := none
  key : List Word := []
  prevKey : List Word := []
  pending : Option (List Word) := none
  refused : Bool := false
  deriving DecidableEq, Repr, Inhabited

/-- A die save or restore under way (11 R247). -/
structure DieOp where
  save : Bool
  base : Nat
  die : Nat
  deriving DecidableEq, Repr, Inhabited

/-- Control space and platform registers. -/
structure Plat where
  owned : Bool := false
  offered : Bool := false
  target : BitVec 2 := 0
  owner : BitVec 2 := 0
  epoch : BitVec 32 := 0
  status : BitVec 4 := 1
  failing : BitVec 4 := 0
  refused : Word := 0
  debug : Bool := false
  /-- which CXL ports are in host mode (11 R230): 1, 2 -/
  cxlHost1 : Bool := false
  cxlHost2 : Bool := false
  meas : Tab (List Byte) := []
  ext : Tab Word := []
  pfault : Bool := false
  cap : BitVec 3 := 0
  over10 : Bool := false
  over1s : Bool := false
  /-- generic supervisor registers by offset: report base, directories, policies, lists, log, exports -/
  regs : Tab Word := []
  mailbox : Tab Byte := []
  mailState : Tab (BitVec 2) := []
  recovery : Tab Byte := []
  keySlot : BitVec 10 := 0
  stage : Tab Word := []
  keys : Tab KeySlot := []
  scrubBusy : Bool := false
  /-- the lines that the pass has visited, as disjoint rising runs: the first line and the line after the last (04 R91) -/
  visited : List (Nat × Nat) := []
  period : BitVec 8 := 24
  passPeriod : BitVec 8 := 24
  loadRank : BitVec 11 := 0
  loadOff : BitVec 18 := 0
  reclaimBusy : Bool := false
  reclaimRefused : Bool := false
  reclaim : BitVec 16 := 0
  dieOp : Option DieOp := none
  dieRefused : Bool := false
  dieReg : Word := 0
  /-- the TAP's instruction (11 R241): 0 BYPASS, 1 SAMPLE/PRELOAD, 2 EXTEST, 3 IDCODE, and what IDCODE shifts out -/
  jtag : BitVec 2 := 3
  idcode : Option (BitVec 32) := some 0x1A0805A7
  dbgq : List Word := []
  /-- events posted to the resident supervisor: kind and detail -/
  posts : List (Nat × Nat) := []
  capSince : Nat := 0
  /-- a recovery image was left incomplete in flash (24 R438) -/
  flashBad : Bool := false
  farFailed0 : Bool := false
  farFailed1 : Bool := false
  deadlockRaised : List Nat := []
  /-- the claim-register commands of the present cycle: port and word written (11 R232) -/
  claims : List (Nat × Word) := []
  /-- the firmware image in flash: none is the one the device was delivered with (11 R235; log 8) -/
  image : Option (List (Nat × Byte)) := none
  /-- the fused minimum security version (11 R234, R235; log 1) -/
  minVersion : Nat := 0
  deriving DecidableEq, Repr, Inhabited

/-- Logical devices, objects at homes, and the fabric. -/
structure Objs where
  /-- 0 one, 1 two, 2 eight logical devices (01 R16) -/
  mode : BitVec 2 := 0
  dispatch : Bool := true
  /-- a dispatcher has dequeued in this cycle (03 R70) -/
  dequeued : Bool := false
  farLp6 : Bool := true
  farCxl : Bool := false
  cxl : Tab Nat := []
  queues : List Queue := []
  bars : List Bar := []
  /-- barrier arrivals under way: level, queue, instance (14 R315) -/
  arrivals : List (Nat × Nat × Nat) := []
  guards : List Guard := []
  grants : List Grant := []
  /-- each domain's partition mask, as the supervisor last set it (10 R223) -/
  parts : Tab Word := []
  /-- the range table: asid, base, length (04 R97) -/
  ranges : List (Nat × Nat × Nat) := []
  convs : Tab Conv := []
  roots : Tab Nat := []
  coops : List Coop := []
  /-- requests in the wait lists of full/empty words, oldest first (06 R131) -/
  feWait : List (Nat × Nat × Req) := []
  fabric : List FReq := []
  /-- words that a peer's engine has written in part: the peer, the word, its bytes in place (02 R35 Deliver) -/
  peerCover : List (Nat × Loc × BitVec 8) := []
  msgs : List (Nat × Nat × Req) := []
  /-- drags by peer: n and e stand for n / 2^e of line rate (10 R227), and the cycle of the last change -/
  drags : Tab (Nat × Nat) := []
  dragMark : Tab Nat := []
  /-- failed devices the source port knows of (25 R444) -/
  knownDown : List Nat := []
  /-- links between two other devices that are failed or retraining, as the source port knows (10 R225) -/
  farLinks : List (Nat × Nat) := []
  links : Tab Link := []
  /-- half-routers without power (25 R443): 2 × peer for the row half, 2 × peer + 1 for the column half -/
  routerDown : List Nat := []
  migs : List Mig := []
  peerSelf : BitVec 8 := 0
  popmap : Word := 1
  offmap : Word := 0
  deriving DecidableEq, Repr, Inhabited

/-- Line metadata (04 R89). -/
structure Meta where
  /-- empty global words by word number -/
  empty : Tab Bool := []
  poison : Tab Bool := []
  /-- lines whose integrity tag does not match their contents (04 R89; log 40) -/
  tagBad : Tab Bool := []
  kver : Tab (BitVec 2) := []
  key : Tab Nat := []
  deriving DecidableEq, Repr, Inhabited

/-- What the schedule takes next (06 R116; log 3). -/
inductive Act
  | issue (rank slot : Nat)
  | event (i : Instr)
  deriving DecidableEq, Repr, Inhabited

/-- A step of the schedule: cycles that pass, then what happens. -/
structure Move where
  dt : Nat
  act : Act
  deriving DecidableEq, Repr, Inhabited

/-- Everything but the global memory. -/
structure Dev where
  cores : Tab Core := []
  coaches : Tab Coach := []
  dies : Tab Die := []
  mmeta : Meta := {}
  objs : Objs := {}
  plat : Plat := {}
  /-- the model's own: clock, schedule, issuing thread, counter of free values (logs 3, 6) -/
  now : Nat := 0
  tick : Nat := 0
  agenda : List Move := []
  rank : Nat := 0
  who : Nat := 0
  free : Nat := 0
  deriving DecidableEq, Repr, Inhabited

/-- A JA80 package. -/
structure State where
  mem : Mem
  dev : Dev
  deriving DecidableEq, Repr, Inhabited

/-- Where a run stops. -/
inductive Fault
  /-- Raised by the steps of homes and engines (PERFORM, copies, streams, matrix words, peers' packets, migration) when an
  access reaches a physical address at which 04 R85 places no memory. Safe: the machine stops where the manual gives the
  access no effect (log 47). -/
  | noSuchAddress (pa : Nat)
  deriving DecidableEq, Repr

/-- Why a step has no meaning. -/
inductive Refusal
  /-- Raised by an arm of `exec` for an instruction that has no meaning yet. Safe. -/
  | notModelled (mnemonic : String)
  deriving DecidableEq, Repr

/-- The outcome of a step of this machine. -/
abbrev Out := Host.Outcome State Fault Refusal

/-- The machine right after reset (11 R234, 04 R82): every core stopped, memory with nothing listed, control space at
the reset values of its tables; log 1 names the values the manual does not give. -/
def State.reset : State := { mem := [], dev := {} }

end Sys2Proof.Machine
end

