-- ==== Sys2Proof/Machine/Operands.lean ====
section
/-! DEFINITION. Registers and operand forms: access to cores and slots, scalar and predicate operands (12 R257, 13
R268), the integer functions of 13 R269 to R271, the compares of R276, and the fat pointer's fields and arithmetic
(04 R71 to R75, 13 R274, R275). -/

namespace Sys2Proof.Machine

/-! ### Cores, slots and the issuing thread -/

def Dev.core (d : Dev) (r : Nat) : Core := Tab.get {} d.cores r

def Dev.onCore (d : Dev) (r : Nat) (f : Core → Core) : Dev := { d with cores := Tab.set d.cores r (f (d.core r)) }

def Core.slot (c : Core) (k : Nat) : Slot := Tab.get {} c.slots k

def Core.onSlot (c : Core) (k : Nat) (f : Slot → Slot) : Core := { c with slots := Tab.set c.slots k (f (c.slot k)) }

def Dev.slot (d : Dev) (r k : Nat) : Slot := (d.core r).slot k

def Dev.onSlot (d : Dev) (r k : Nat) (f : Slot → Slot) : Dev := d.onCore r (fun c => c.onSlot k f)

/-- The issuing thread. -/
def Dev.me (d : Dev) : Slot := d.slot d.rank d.who

def Dev.onMe (d : Dev) (f : Slot → Slot) : Dev := d.onSlot d.rank d.who f

/-- The issuing thread's core. -/
def Dev.my (d : Dev) : Core := d.core d.rank

def Dev.onMy (d : Dev) (f : Core → Core) : Dev := d.onCore d.rank f

def Dev.onEng (d : Dev) (r : Nat) (f : CoreEng → CoreEng) : Dev := d.onCore r (fun c => { c with eng := f c.eng })

def Dev.onRegs (d : Dev) (r : Nat) (f : CoreRegs → CoreRegs) : Dev := d.onCore r (fun c => { c with regs := f c.regs })

def Dev.onFlow (d : Dev) (r k : Nat) (f : Flow → Flow) : Dev := d.onSlot r k (fun t => { t with flow := f t.flow })

def Dev.onMyFlow (d : Dev) (f : Flow → Flow) : Dev := d.onFlow d.rank d.who f

def Dev.coach (d : Dev) (u : Nat) : Coach := Tab.get {} d.coaches u

def Dev.onCoach (d : Dev) (u : Nat) (f : Coach → Coach) : Dev :=
  { d with coaches := Tab.set d.coaches u (f (d.coach u)) }

def Dev.die (d : Dev) (n : Nat) : Die := Tab.get {} d.dies n

def Dev.onDie (d : Dev) (n : Nat) (f : Die → Die) : Dev := { d with dies := Tab.set d.dies n (f (d.die n)) }

def Dev.onObjs (d : Dev) (f : Objs → Objs) : Dev := { d with objs := f d.objs }

def Dev.onPlat (d : Dev) (f : Plat → Plat) : Dev := { d with plat := f d.plat }

def Dev.onMeta (d : Dev) (f : Meta → Meta) : Dev := { d with mmeta := f d.mmeta }

/-- The die of a core (01 R8). -/
def dieOf (rank : Nat) : Nat := rank / 256

/-- The coach of a core, over the package (01 R8). -/
def unitOf (rank : Nat) : Nat := rank / 8

/-! ### Scalar and predicate registers -/

/-- Reg of an `x` code: `x0` reads zero (12 R257). -/
def Slot.xr (t : Slot) (r : XReg) : Word := if r = 0 then 0 else Tab.get 0 t.x r.toNat

/-- Write an `x` register: `x0` discards (12 R257, 13 R268). -/
def Slot.setX (t : Slot) (r : XReg) (v : Word) : Slot :=
  if r = 0 then t else { t with x := Tab.set t.x r.toNat v }

/-- A predicate: `p0` reads true (12 R257, 13 R277). -/
def Slot.pr (t : Slot) (p : PReg) : Bool := p == 0 || t.p.getLsbD p.toNat

/-- Write a predicate: `p0` discards. -/
def Slot.setP (t : Slot) (p : PReg) (b : Bool) : Slot :=
  if p = 0 then t
  else { t with p := if b then t.p ||| ((1 : BitVec 8) <<< p.toNat) else t.p &&& ~~~((1 : BitVec 8) <<< p.toNat) }

/-- Set the program counter; a target is a word index modulo 2^15 (13 R279). -/
def Slot.jump (t : Slot) (pc : PcIx) : Slot := { t with pc := pc }

/-- The next instruction. -/
def Slot.advance (t : Slot) : Slot := { t with pc := t.pc + 1 }

/-- Src2 of the I-form (13 R268). -/
def Slot.src2 (t : Slot) : Src2 → Word
  | .reg b => t.xr b
  | .imm v => v.signExtend 64

/-- The second source of a format-P scalar half: a register or an 18-bit signed immediate (12 R261). -/
def Slot.psrc (t : Slot) : PSrc → Word
  | .reg b => t.xr b
  | .imm v => v.signExtend 64

def Dev.x (d : Dev) (r : XReg) : Word := d.me.xr r

/-- The issuing thread retires an instruction whose only effect is on its own slot. -/
def Dev.retire (d : Dev) (f : Slot → Slot) : Dev := d.onMe (fun t => (f t).advance)

/-! ### Integer functions (13 R269 to R271) -/

/-- Signed division truncated toward zero, with the corners of R270. -/
def sdivT (a b : Word) : Word := if b = 0 then BitVec.allOnes 64 else BitVec.sdiv a b

def udivT (a b : Word) : Word := if b = 0 then BitVec.allOnes 64 else BitVec.udiv a b

def sremT (a b : Word) : Word := if b = 0 then a else BitVec.srem a b

def uremT (a b : Word) : Word := if b = 0 then a else BitVec.umod a b

/-- Shift amounts are taken modulo 64 (R269). -/
def sh (b : Word) : Nat := b.toNat % 64

def mulHiS (a b : Word) : Word := ((a.signExtend 128) * (b.signExtend 128)).extractLsb' 64 64

def mulHiU (a b : Word) : Word := ((a.zeroExtend 128) * (b.zeroExtend 128)).extractLsb' 64 64

/-- The integer functions that format P shares with OP 0x08 (12 R261, 13 R269). -/
def intFn : IntFn → Word → Word → Word
  | .add, a, b => a + b
  | .sub, a, b => a - b
  | .and, a, b => a &&& b
  | .or, a, b => a ||| b
  | .xor, a, b => a ^^^ b
  | .andn, a, b => a &&& ~~~b
  | .shl, a, b => a <<< sh b
  | .shr, a, b => a >>> sh b
  | .sar, a, b => a.sshiftRight (sh b)
  | .rol, a, b => a.rotateLeft (sh b)
  | .min, a, b => if a.slt b then a else b
  | .max, a, b => if a.slt b then b else a
  | .minz, a, b => if a.ult b then a else b
  | .maxz, a, b => if a.ult b then b else a
  | .mul, a, b => a * b

/-- Leading zeros among the low `n` bits. -/
def clzN (a : Word) : Nat → Nat
  | 0 => 0
  | n + 1 => if a.getLsbD n then 0 else 1 + clzN a n

/-- Trailing zeros of the `n` bits from bit 64 − n. -/
def ctzN (a : Word) : Nat → Nat
  | 0 => 0
  | n + 1 => if a.getLsbD (63 - n) then 0 else 1 + ctzN a n

/-- One bits among the low `n` bits. -/
def popN (a : Word) : Nat → Nat
  | 0 => 0
  | n + 1 => b2n (a.getLsbD n) + popN a n

def clz64 (a : Word) : Word := w64 (clzN a 64)
def ctz64 (a : Word) : Word := w64 (ctzN a 64)
def pop64 (a : Word) : Word := w64 (popN a 64)

/-- The field of width `w` at `lo`, zero-extended (R271 `bextz`). -/
def fieldZ (a : Word) (lo w : Nat) : Word := (a >>> lo) &&& (BitVec.allOnes 64 >>> (64 - w))

/-- The field, sign-extended (R271 `bext`). -/
def fieldS (a : Word) (lo w : Nat) : Word := ((a <<< (64 - lo - w)).sshiftRight (64 - w))

/-- `bins`: the field of `d` takes the low bits of `a` (R271). -/
def fieldIns (d a : Word) (lo w : Nat) : Word :=
  let mask := (BitVec.allOnes 64 >>> (64 - w)) <<< lo
  (d &&& ~~~mask) ||| ((a <<< lo) &&& mask)

/-- The two-source compares, signed (13 R276). -/
def cmpInt : Cond → Word → Word → Bool
  | .eq, a, b => a == b
  | .ne, a, b => a != b
  | .lt, a, b => a.slt b
  | .le, a, b => a.sle b

/-- Sign- or zero-extension of the low `n` bytes of a loaded value (14 R302). -/
def extendN (n : Nat) (sx : Bool) (v : Nat) : Word :=
  let k := 8 * n
  if sx && v / 2 ^ (k - 1) % 2 == 1 then BitVec.ofNat 64 (2 ^ 64 - 2 ^ k + v % 2 ^ k) else BitVec.ofNat 64 (v % 2 ^ k)

/-- Bytes of an access size (12 R258). -/
def sizeBytes : Size → Nat
  | .b8 => 1
  | .b16 => 2
  | .b32 => 4
  | .b64 => 8

/-! ### The fat pointer (04 R71 to R75) -/

def pspace (p : Word) : Nat := bits p 63 60
def pfmtOf (p : Word) : Nat := bits p 59 56
def plcode (p : Word) : Nat := bits p 55 53
/-- Rank of a space-2 or space-3 pointer: die, coach and core together (R72, 01 R8). -/
def prank (p : Word) : Nat := bits p 52 42
def ppeer (p : Word) : Nat := bits p 52 45
def pbank (p : Word) : Nat := bits p 17 16

/-- Width of a space's address part (R74; 24 bits in space 5, 13 R274). -/
def addrWidth : Nat → Nat
  | 0 => 49
  | 6 => 45
  | 1 | 2 | 3 => 18
  | 4 => 16
  | 5 => 24
  | _ => 53

/-- The address part. -/
def paddr (p : Word) : Nat := bits p (addrWidth (pspace p) - 1) 0

/-- Location bits that no field of the space assigns are zero (R72). -/
def locBitsOk (p : Word) : Bool :=
  match pspace p with
  | 0 => zeroBits p 52 49
  | 1 => zeroBits p 52 18
  | 2 | 3 => zeroBits p 41 18
  | 4 => zeroBits p 52 18
  | 5 => zeroBits p 52 24
  | 6 => true
  | _ => false

/-- space, fmt and lcode are not reserved (R71). -/
def tagsKnown (p : Word) : Bool := pspace p ≤ 6 && pfmtOf p ≤ 8 && plcode p ≤ 3

/-- Replace the address part. -/
def withAddr (p : Word) (a : Nat) : Word :=
  let w := addrWidth (pspace p)
  BitVec.ofNat 64 (p.toNat / 2 ^ w * 2 ^ w + a % 2 ^ w)

/-- Advance the address part by a signed offset; none when the result leaves it (R74). -/
def padvance (p : Word) (off : Int) : Option Word :=
  let t := (paddr p : Int) + off
  if t < 0 ∨ t ≥ 2 ^ addrWidth (pspace p) then none else some (withAddr p t.toNat)

/-- PSB block length of an lcode (R71). -/
def blockLen (lcode : Nat) : Nat := 16 * 2 ^ lcode

/-- Bytes of a PSB block: exponent, micro-exponents, elements (R75). -/
def blockBytes (fmt lcode : Nat) : Nat :=
  let l := blockLen lcode
  1 + l / 16 + l * (1 + psbW fmt) / 8

def isPsb (fmt : Nat) : Bool := fmt == 4 || fmt == 5 || fmt == 6

/-- Bytes of one element of a format that is not PSB (R75); a raw element scales by one byte. -/
def elemScale : Nat → Nat
  | 2 | 3 => 2
  | 1 | 8 => 4
  | _ => 1

/-- Outcome of a pointer operation: a value, or a fault code. -/
inductive PtrRes
  | ok (v : Word)
  | bad (cause : Byte)
  deriving DecidableEq, Repr

/-- `padd` (R274, R275). -/
def paddRes (p b : Word) : PtrRes :=
  if pspace p > 6 then .bad 0x13
  else match padvance p b.toInt with
    | some v => .ok v
    | none => .bad 0x13

/-- The byte offset of an element index (R75); none when a PSB index is not a multiple of L. -/
def idxBytes (p i : Word) : Option Int :=
  if isPsb (pfmtOf p) then
    if i.toInt % blockLen (plcode p) = 0 then some (i.toInt / blockLen (plcode p) * blockBytes (pfmtOf p) (plcode p))
    else none
  else some (i.toInt * elemScale (pfmtOf p))

/-- `pidx` (R274, R275): reserved tags before the PSB alignment, as the order of 04 R77 has them. -/
def pidxRes (p i : Word) : PtrRes :=
  if !tagsKnown p then .bad 0x13
  else match idxBytes p i with
    | none => .bad 0x14
    | some o => match padvance p o with
      | some v => .ok v
      | none => .bad 0x13

/-- `ptag` (R274): space, then the tag field of spaces 2, 3 and 6. -/
def ptagRes (p : Word) (space : BitVec 4) (tag : Nat) : Word :=
  let q := p.toNat % 2 ^ 60 + fld space.toNat 60
  match space.toNat with
  | 2 | 3 => BitVec.ofNat 64 (q / 2 ^ 53 * 2 ^ 53 + fld tag 42 + q % 2 ^ 42)
  | 6 => BitVec.ofNat 64 (q / 2 ^ 53 * 2 ^ 53 + fld tag 45 + q % 2 ^ 45)
  | _ => BitVec.ofNat 64 q

/-- Whether a register's tag fits the space (R274). -/
def tagFitsReg (space : BitVec 4) (v : Word) : Bool :=
  match space.toNat with
  | 2 | 3 => v.toNat ≤ 2047
  | 6 => v.toNat ≤ 255
  | _ => v == 0

/-- `pfmt` (R274). -/
def pfmtRes (p : Word) (fmt : BitVec 4) (lcode : BitVec 3) : Word :=
  BitVec.ofNat 64 (fld (bits p 63 60) 60 + fld fmt.toNat 56 + fld lcode.toNat 53 + p.toNat % 2 ^ 53)

/-- `pget` (R274): field 0 space, 1 fmt, 2 lcode, 3 the tag. -/
def pgetRes (p : Word) (f : BitVec 2) : Word :=
  match f.toNat with
  | 0 => w64 (pspace p)
  | 1 => w64 (pfmtOf p)
  | 2 => w64 (plcode p)
  | _ => match pspace p with
    | 2 | 3 => w64 (prank p)
    | 6 => w64 (ppeer p)
    | _ => 0

/-- `plin` (R274). -/
def plinRes (p : Word) : Word := w64 (paddr p)

/-- Engine tags (03 R47, R54): codes 0 S, 1 V, 2 M, 3 C, 4 N, 5 M and C, 6 V and C. -/
def holdsV (tag : BitVec 3) : Bool := tag == 1 || tag == 6
def holdsM (tag : BitVec 3) : Bool := tag == 2 || tag == 5
def holdsC (tag : BitVec 3) : Bool := tag == 3 || tag == 5 || tag == 6
def holdsN (tag : BitVec 3) : Bool := tag == 4

/-- Whether two tag codes name one engine. -/
def tagsClash (a b : BitVec 3) : Bool :=
  (holdsV a && holdsV b) || (holdsM a && holdsM b) || (holdsC a && holdsC b) || (holdsN a && holdsN b)

/-- A helper slot. -/
def isHelper (k : Nat) : Bool := 1 ≤ k && k ≤ 10

/-- A privileged context (04 R72, 13): slots 0, 12, 14 and 15. -/
def privSlot (k : Nat) : Bool := k == 0 || k == 12 || k == 14 || k == 15

end Sys2Proof.Machine
end

