-- ==== Sys2Proof/Machine/Homes.lean ====
section
/-! DEFINITION. The named operations over memory and requests: homes and pending-write counters (06 R114), the checks of 04 R77 in
order, translation (04 R92 to R94), sending (02 R35 Send), reading and writing at a home (04 R84, R89, R90). -/

namespace Sys2Proof.Machine

/-- The issuing thread's effect on everything but global memory. -/
def devStep (s : State) (f : Dev → Dev) : Out := .next { s with dev := f s.dev }

/-! ### Logical devices, homes and counters -/

/-- Dies of each logical device (01 R16). -/
def diesPer (mode : BitVec 2) : Nat := if mode = 0 then 8 else if mode = 1 then 4 else 1

/-- The logical device of a near-tier die (01 R16). -/
def ldevOf (mode : BitVec 2) (die : Nat) : Nat := die / diesPer mode

def hbmBytes : Nat := 768 * 2 ^ 30
def lp6Base : Nat := 0x10000000000
def lp6End : Nat := 0x28000000000
def cxlBase : Nat := 0x40000000000
def cxlEnd : Nat := 0x80000000000

/-- Whether a physical address has memory (04 R85, R86). -/
def Objs.exists (o : Objs) (pa : Nat) : Bool :=
  pa < hbmBytes || (lp6Base ≤ pa && pa < lp6End && o.farLp6) ||
    (cxlBase ≤ pa && pa < cxlEnd && Tab.get 0 o.cxl ((pa - cxlBase) / 2 ^ 27) != 0)

/-- The memory node of a physical address (04 R85). -/
def nodeOf (pa : Nat) : Nat := if pa < hbmBytes then 0 else if pa < lp6End then 1 else 2

/-- The die that holds an HBM byte (01 R17). -/
def hbmDie (mode : BitVec 2) (pa : Nat) : Nat :=
  let n := diesPer mode
  let share := hbmBytes * n / 8
  pa / share * n + (pa % share / 4096) % n

/-- The die of a word's memory controller: 0 to 7, 8 for F0, 9 for F1 (04 R85, 10 R222). -/
def Objs.homeDie (o : Objs) (pa : Nat) : Nat :=
  match nodeOf pa with
  | 0 => hbmDie o.mode pa
  | 1 => 8 + ((pa - lp6Base) / 4096) % 2
  | _ => 7 + Tab.get 1 o.cxl ((pa - cxlBase) / 2 ^ 27)

/-- Which counters a write raises: die, package, system (06 R114). -/
def Objs.covers (o : Objs) (rank : Nat) : Loc → Bool × Bool × Bool
  | .glob pa =>
    if nodeOf pa = 0 then
      let h := hbmDie o.mode pa
      (h == dieOf rank, ldevOf o.mode h == ldevOf o.mode (dieOf rank), true)
    else (false, false, true)
  | .loc r _ => (dieOf r == dieOf rank, ldevOf o.mode (dieOf r) == ldevOf o.mode (dieOf rank), true)
  | .acc u _ _ => (u / 32 == dieOf rank, ldevOf o.mode (u / 32) == ldevOf o.mode (dieOf rank), true)
  | .ctl _ => (false, false, true)
  | .peer _ _ => (false, false, true)

/-- The part of a coverage that a scope's counter is (06 R114). -/
def scopeOf (s : Scope) (c : Bool × Bool × Bool) : Bool :=
  match s with
  | .grp | .core | .quad | .die => c.1
  | .dev => c.2.1
  | .sys => c.2.2

def Flow.counter (f : Flow) (s : Scope) : BitVec 9 :=
  match s with
  | .grp | .core | .quad | .die => f.die
  | .dev => f.pkg
  | .sys => f.sys

/-- The smallest scope that holds two cores (06 R128). -/
def commonScope (mode : BitVec 2) (a b : Nat) : Scope :=
  if a = b then .core
  else if a / 4 = b / 4 then .quad
  else if dieOf a = dieOf b then .die
  else if ldevOf mode (dieOf a) = ldevOf mode (dieOf b) then .dev
  else .sys

/-! ### Classes (14 R300) -/

def Flow.cls (f : Flow) : Cls → List (Nat × Nat)
  | .ld => f.ld
  | .st => f.st
  | .cp => f.cp
  | .tl => f.tl
  | .none => []

def Flow.setCls (f : Flow) (c : Cls) (l : List (Nat × Nat)) : Flow :=
  match c with
  | .ld => { f with ld := l }
  | .st => { f with st := l }
  | .cp => { f with cp := l }
  | .tl => { f with tl := l }
  | .none => f

/-- An operation of `n` parts joins a class. -/
def Flow.enter (f : Flow) (c : Cls) (id n : Nat) : Flow := f.setCls c (f.cls c ++ [(id, n)])

/-- The finished operations at the head leave, in issue order (13 R285). -/
def popDone : List (Nat × Nat) → List (Nat × Nat)
  | (_, 0) :: r => popDone r
  | l => l

def dec1 (id : Nat) (l : List (Nat × Nat)) : List (Nat × Nat) :=
  l.map (fun e => if e.1 = id then (e.1, e.2 - 1) else e)

/-- One part of an operation is done (02 R35 Retire). -/
def Flow.finish (f : Flow) (c : Cls) (id : Nat) : Flow := f.setCls c (popDone (dec1 id (f.cls c)))

/-- Whether a request is a write for the counters of 06 R114. -/
def ReqOp.writes : ReqOp → Bool
  | .store _ _ | .amo _ _ _ _ | .red _ _ _ | .cas _ _ | .enq _ | .deq => true
  | .fe f _ => f != .peek && f != .take
  | _ => false

/-- Raise or lower the counters a request holds. -/
def Flow.raiseCnt (f : Flow) (q : Req) : Flow :=
  { f with die := if q.die then f.die + 1 else f.die
           pkg := if q.pkg then f.pkg + 1 else f.pkg
           sys := if q.sys then f.sys + 1 else f.sys }

def Flow.lowerCnt (f : Flow) (q : Req) : Flow :=
  { f with die := if q.die then f.die - 1 else f.die
           pkg := if q.pkg then f.pkg - 1 else f.pkg
           sys := if q.sys then f.sys - 1 else f.sys
           oc := f.oc.filter (fun h =>
             !(f.posted.all (fun p => h.2 ≤ p.id) && f.late.all (fun i => h.2 ≤ i) && (match h.1 with
               | .grp | .core | .quad | .die => (if q.die then f.die - 1 else f.die) == 0
               | .dev => (if q.pkg then f.pkg - 1 else f.pkg) == 0
               | .sys => (if q.sys then f.sys - 1 else f.sys) == 0))) }

/-- Drop the fence.oc holds whose condition holds: no store posted before the fence waits for its walk, or, failed, for room in the
store-fault queue, and the counter is zero (06 R133). -/
def Flow.settleOc (f : Flow) : Flow :=
  { f with oc := f.oc.filter (fun h => !(f.posted.all (fun p => h.2 ≤ p.id) && f.late.all (fun i => h.2 ≤ i) && f.counter h.1 == 0)) }

/-- No fence.oc holds back the engine command with a number (06 R133). -/
def Flow.ocClear (f : Flow) (id : Nat) : Bool := f.oc.all (fun h => id < h.2)

/-- Put a request into the bag, raising its class and counters (02 R35 Send). -/
def Flow.send (f : Flow) (q : Req) : Flow :=
  { (({ f with nextId := f.nextId + 1 }.enter q.cls f.nextId 1).raiseCnt q) with
      bag := f.bag ++ [{ q with id := f.nextId }] }

/-- Outstanding writes of a thread: those that hold the system counter (06 R115). -/
def Flow.writesOut (f : Flow) : Nat := f.sys.toNat

/-- Whether a request in the fabric came from a thread's bag: an engine's reads, writes and copies did not. -/
def ReqOp.ofBag : ReqOp → Bool
  | .block _ _ | .fetch _ _ | .send _ => false
  | _ => true

/-- Requests of a thread that are sent and not yet performed: in its bag, in the wait list of a word, on their way to a peer
(06 R113, R115). -/
def Dev.unperformed (d : Dev) (r k : Nat) (f : Flow) : Nat :=
  f.bag.length + (d.objs.feWait.filter (fun w => w.1 == r && w.2.1 == k)).length +
    (d.objs.fabric.filter (fun q => q.rank == r && q.slot == k && q.req.op.ofBag)).length

/-- Room for `n` more requests of the context under a number (06 R115). -/
def Dev.roomFor (d : Dev) (r k : Nat) (f : Flow) (n : Nat) (w : Bool) : Bool :=
  d.unperformed r k f + n ≤ 64 && (!w || f.writesOut + n ≤ 256)

/-- Room for `n` more requests of a thread (06 R115). -/
def Dev.room (d : Dev) (r k n : Nat) (w : Bool) : Bool := d.roomFor r k (d.slot r k).flow n w

/-! ### The checks of 04 R77 -/

/-- Who uses a pointer. -/
inductive Use
  | scalar | vector | copy | cpmDst | matrix | stream
  deriving DecidableEq, Repr

/-- The enable bit and physical bank of an accumulator name (09 R186). -/
def accEn (m : BitVec 12) (n : Nat) : Bool := m.getLsbD (3 * n + 2)
def accBank (m : BitVec 12) (n : Nat) : Nat := (m.toNat / 2 ^ (3 * n)) % 4

/-- Check 2: tags, location bits and the space's users (04 R73). -/
def tagsOk (d : Dev) (t : Slot) (rank : Nat) (u : Use) (n : Nat) (p : Word) : Bool :=
  tagsKnown p && locBitsOk p &&
    (match pspace p with
     | 2 => prank p / 8 == rank / 8
     | 3 => u == .copy || u == .cpmDst
     | 4 => accEn (d.core rank).regs.accmap (pbank p) &&
         (match u with
          | .scalar => holdsM t.tag && (n == 4 || n == 8)
          | .copy => true
          | .matrix => true      -- refused by R200 with 0x51, subcause 2
          | _ => false)
     | 5 => u == .scalar && n == 8
     | _ => true)

/-- Check 4: the peer (10 R224). -/
def peerCheck (o : Objs) (part : Word) (peer : Nat) : Option Byte :=
  let i := 8 * (peer / 16) + peer % 16
  if peer / 16 > 7 || peer % 16 > 7 || !o.popmap.getLsbD i then some 0x40
  else if o.offmap.getLsbD i then some 0x41
  else if !part.getLsbD i then some 0x42
  else none

/-- Check 5 for `n` bytes at a local offset (04 R79 to R81): a helper's window; a delegated routine's, while slot 11 runs one
(08 R179); the whole data area otherwise. -/
def windowOk (c : Core) (k : Nat) (t : Slot) (o n : Nat) : Bool :=
  c.regs.xb.toNat * 12 ≤ o && o + n ≤ 0x40000 &&
    (if isHelper k then t.lmbase.toNat ≤ o && o + n ≤ t.lmlim.toNat
     else if k == 11 && c.eng.dserve.isSome then c.regs.shbase.toNat ≤ o && o + n ≤ c.regs.shlim.toNat
     else true)

/-- Check 5 at another core (04 R80). -/
def sharedOk (c : Core) (o n : Nat) : Bool :=
  c.regs.xb.toNat * 12 ≤ o && c.regs.shbase.toNat ≤ o && o + n ≤ c.regs.shlim.toNat

/-- Checks 1 to 5, and an address that runs past its part (R74, R77, R301). -/
def checks5 (d : Dev) (rank k : Nat) (t : Slot) (u : Use) (p : Word) (n align : Nat) : Option Byte :=
  if pspace p == 5 && !privSlot k then some 0x04
  else if !tagsOk d t rank u n p then some 0x13
  else if paddr p % align ≠ 0 then some 0x14
  else match pspace p with
    | 6 => (peerCheck d.objs t.part (ppeer p)).or (if paddr p + n > 2 ^ 45 then some 0x13 else none)
    | 1 => if windowOk (d.core rank) k t (paddr p) n then none else some 0x15
    | 2 | 3 => if sharedOk (d.core (prank p)) (paddr p) n then none else some 0x15
    | 0 => if paddr p + n > 2 ^ 49 then some 0x13 else none
    | 4 => if paddr p + n > 2 ^ 16 then some 0x13 else none
    | _ => none

/-- Bytes a page of a level covers, as a power of two (04 R92). -/
def pageShift (level : Nat) : Nat := if level = 0 then 38 else if level = 1 then 27 else 16

/-- A leaf entry's fields (04 R93). -/
def leafKey (e : Word) : Nat := bits e 63 54
def leafBase (e : Word) : Nat := bits e 43 14 * 2 ^ 14
def leafExport (e : Word) : Bool := e.getLsbD 5
def leafHost (e : Word) : Bool := e.getLsbD 4
def leafWrite (e : Word) : Bool := e.getLsbD 3
def leafRead (e : Word) : Bool := e.getLsbD 2

/-- What an entry says at a level: none not present, otherwise the leaf or the next node (04 R93). -/
def entryKind (level : Nat) (e : Word) : Option (Bool × Nat) :=
  if !e.getLsbD 0 || !zeroBits e 53 44 || !zeroBits e 13 6 then none
  else if e.getLsbD 1 then (if leafBase e % 2 ^ pageShift level = 0 then some (true, leafBase e) else none)
  else if level = 2 then none
  else some (false, leafBase e)

/-- Index of a level (04 R92). -/
def levelIndex (level va : Nat) : Nat := va / 2 ^ pageShift level % 2048

/-- Walk the tree from a node: the level and leaf, or none; `fuel` is the levels left (04 R92, R93). -/
def walkFrom (m : Mem) : Nat → Nat → Nat → Nat → Option (Nat × Word)
  | 0, _, _, _ => none
  | f + 1, level, node, va =>
    let e := m.word (node + 8 * levelIndex level va)
    match entryKind level e with
    | none => none
    | some (true, _) => some (level, e)
    | some (false, next) => walkFrom m f (level + 1) next va

/-- The addresses of the entries a walk reads. -/
def walkReads (m : Mem) : Nat → Nat → Nat → Nat → List Nat
  | 0, _, _, _ => []
  | f + 1, level, node, va =>
    let a := node + 8 * levelIndex level va
    match entryKind level (m.word a) with
    | some (false, next) => a :: walkReads m f (level + 1) next va
    | _ => [a]

def leafPa (level : Nat) (leaf : Word) (va : Nat) : Nat := leafBase leaf + va % 2 ^ pageShift level

/-- A hit in a buffer (04 R94). -/
def tlbFind (l : List TlbE) (asid va : Nat) : Option TlbE :=
  match l with
  | [] => none
  | e :: r => if e.asid = asid && e.page = va / 2 ^ pageShift e.level then some e else tlbFind r asid va

/-- A hit in the core's buffer or the die's. -/
def tlbHit (d : Dev) (rank asid va : Nat) : Option TlbE :=
  (tlbFind (d.core rank).eng.tlb asid va).or (tlbFind (d.die (dieOf rank)).tlb asid va)

/-- The answer a thread's walk left for it: page and level + 1, or 0 for not present (04 R94). -/
def walkedFind (l : List (Nat × Nat × Nat × Word)) (asid va : Nat) : Option (Option (Nat × Word)) :=
  match l with
  | [] => none
  | (a, pg, lv, leaf) :: r =>
    if a = asid && pg = va / 2 ^ 16 then some (if lv = 0 then none else some (lv - 1, leaf)) else walkedFind r asid va

/-- Bytes of a bound range touched (04 R97). -/
def rangeHit (o : Objs) (asid va n : Nat) : Bool :=
  o.ranges.any (fun e => e.1 == asid && e.2.1 < va + n && va < e.2.1 + e.2.2)

/-- Outcome of checks 1 to 8. -/
inductive Chk
  | ok (l : Loc) (key : Nat)
  | bad (cause : Byte)
  | miss (asid page : Nat)
  deriving DecidableEq, Repr

/-- Checks 7 and 8 on a translated access. -/
def checks78 (o : Objs) (asid va n : Nat) (rd wr : Bool) (level : Nat) (leaf : Word) : Chk :=
  if (rd && !leafRead leaf) || (wr && !leafWrite leaf) then .bad 0x11
  else if rangeHit o asid va n then .bad 0x12
  else .ok (.glob (leafPa level leaf va)) (leafKey leaf)

/-- Checks 1 to 8 of 04 R77 for `n` bytes at `p`, within one page. -/
def checkAcc (s : State) (rank k : Nat) (t : Slot) (u : Use) (p : Word) (n align : Nat) (rd wr : Bool) : Chk :=
  match checks5 s.dev rank k t u p n align with
  | some c => .bad c
  | none =>
    let a := paddr p
    match pspace p with
    | 1 => .ok (.loc rank a) 0
    | 2 | 3 => .ok (.loc (prank p) a) 0
    | 4 => .ok (.acc (unitOf rank) (accBank (s.dev.core rank).regs.accmap (pbank p)) a) 0
    | 5 => .ok (.ctl a) 0
    | 6 => .ok (.peer (ppeer p) a) 0
    | _ =>
      match tlbHit s.dev rank t.asid.toNat a with
      | some e => checks78 s.dev.objs t.asid.toNat a n rd wr e.level e.leaf
      | none =>
        match walkedFind t.flow.walked t.asid.toNat a with
        | some (some (level, leaf)) => checks78 s.dev.objs t.asid.toNat a n rd wr level leaf
        | some none => .bad 0x10
        | none => .miss t.asid.toNat (a / 2 ^ 16)

/-! ### Memory at homes -/

/-- Words of local memory that `n` bytes from `o` touch. -/
def touched (o n : Nat) : List Nat := if n = 0 then [] else (upto ((o + n - 1) / 8 - o / 8 + 1)).map (· + o / 8)

def Core.setEmpty (c : Core) (w : Nat) (b : Bool) : Core := { c with empty := Tab.put false c.empty w b }

/-- Set a word of global or local memory full or empty (04 R84). -/
def State.setFe (s : State) (l : Loc) (empty : Bool) : State :=
  match l with
  | .glob pa => { s with dev := s.dev.onMeta (fun m => { m with empty := Tab.put false m.empty (pa / 8) empty }) }
  | .loc r o => { s with dev := s.dev.onCore r (fun c => c.setEmpty (o / 8) empty) }
  | _ => s

def State.isEmpty (s : State) (l : Loc) : Bool :=
  match l with
  | .glob pa => Tab.get false s.dev.mmeta.empty (pa / 8)
  | .loc r o => Tab.get false (s.dev.core r).empty (o / 8)
  | _ => false

/-- The key slot that a line stands encrypted under; none for a line that nothing has written (04 R90; log 8). -/
def Dev.lineSlot (d : Dev) (line : Nat) : Option Nat :=
  let k := Tab.get 1024 d.mmeta.key line
  if k = 1024 then none else some k

/-- A line's tag fails its check: its key version is not live, or its stored tag is not the one of its contents (04 R89, 22
R416). -/
def Dev.badTag (d : Dev) (line : Nat) : Bool :=
  Tab.get false d.mmeta.tagBad line ||
    match d.lineSlot line with
    | none => false
    | some k =>
      let s := Tab.get {} d.plat.keys k
      let v := Tab.get 0 d.mmeta.kver line
      !(v == s.ver || s.prev == some v)

/-- The near-tier die that a control-space word belongs to: a coach's domain word (11 R239), the registers of the core that core load
selects (04 R82). -/
def ctlDie (p : Plat) (off : Nat) : Option Nat :=
  if 0x10000 ≤ off && off ≤ 0x107F8 then some ((off - 0x10000) / 8 / 32)
  else if 0x5010 ≤ off && off ≤ 0x5028 then some (dieOf p.loadRank.toNat)
  else none

/-- A word of control space whose die has failed (24 R434). -/
def ctlDown (d : Dev) (off : Nat) : Bool := (ctlDie d.plat off).any (fun n => (d.die n).failed)

/-- Whether a read delivers poison (04 R89, 22 R412, R416, R418, R419, 24 R434). -/
def State.poisoned (s : State) (l : Loc) : Bool :=
  match l with
  | .glob pa =>
    let h := s.dev.objs.homeDie pa
    Tab.get false s.dev.mmeta.poison (pa / 64) || s.dev.badTag (pa / 64) || (h < 8 && (s.dev.die h).failed) ||
      (h == 8 && s.dev.plat.farFailed0) || (h == 9 && s.dev.plat.farFailed1) ||
      (h < 8 && Tab.get 0 (s.dev.die h).remap (Config.bankGroup (pa / 64)).toNat == 2)
  | .loc r o => Tab.get false (s.dev.core r).lpoison (o / 8) || (s.dev.die (dieOf r)).failed
  | .acc u _ _ => (s.dev.die (u / 32)).failed
  | .ctl off => ctlDown s.dev off
  | _ => false

/-- Some 64-bit word of `n` bytes at a place delivers poison. -/
def State.poisonedIn (s : State) (l : Loc) (n : Nat) : Bool :=
  match l with
  | .glob pa => (upto ((pa + n - 1) / 64 - pa / 64 + 1)).any (fun i => s.poisoned (.glob ((pa / 64 + i) * 64)))
  | .loc r o => (upto ((o + n - 1) / 8 - o / 8 + 1)).any (fun i => s.poisoned (.loc r ((o / 8 + i) * 8)))
  | l => s.poisoned l

/-- A die has lost power or its memory controller has failed: 0 to 7, 8 for F0, 9 for F1 (24 R434). Its units serve no more
(01 R21, R22). -/
def Dev.dieDown (d : Dev) (h : Nat) : Bool :=
  (h < 8 && (d.die h).failed) || (h == 8 && d.plat.farFailed0) || (h == 9 && d.plat.farFailed1)

/-- Whether the home refuses a write: a lost bank group or a failed die (22 R418, 24 R434). -/
def State.lost (s : State) (l : Loc) : Bool :=
  match l with
  | .glob pa =>
    let h := s.dev.objs.homeDie pa
    s.dev.dieDown h || (h < 8 && Tab.get 0 (s.dev.die h).remap (Config.bankGroup (pa / 64)).toNat == 2)
  | .loc r _ => (s.dev.die (dieOf r)).failed
  | .acc u _ _ => (s.dev.die (u / 32)).failed
  | .ctl off => ctlDown s.dev off
  | _ => false

/-- Whether a bank group's activations are held (22 R417). -/
def State.heldBank (s : State) (l : Loc) : Bool :=
  match l with
  | .glob pa =>
    let h := s.dev.objs.homeDie pa
    h < 8 && Tab.get 0 (s.dev.die h).remap (Config.bankGroup (pa / 64)).toNat == 1
  | _ => false

/-- The key words of a slot at a version (04 R90). -/
def KeySlot.words (k : KeySlot) (v : BitVec 2) : List Word := if v = k.ver then k.key else k.prevKey

/-- A line's bytes as an access under key slot `key` decrypts them: another slot's key turns them into other bytes (04 R90). DESIGN
CHOICE: the XTS tweak, the 'physical line address' of R90, is the line's byte address, 64 × its number (log 8). -/
def State.lineAs (s : State) (line key : Nat) : List Byte :=
  let b := s.mem.bytes (64 * line) 64
  match s.dev.lineSlot line with
  | none => b
  | some k =>
    if k = key then b
    else
      let v := Tab.get 0 s.dev.mmeta.kver line
      let c := xtsEncrypt ((Tab.get {} s.dev.plat.keys k).words v) (64 * line) (b.map (·.toNat))
      (xtsDecrypt ((Tab.get {} s.dev.plat.keys key).words v) (64 * line) c).map (BitVec.ofNat 8)

/-- The lines that `n` bytes from a physical address touch. -/
def linesOf (pa n : Nat) : List Nat := if n = 0 then [] else (upto ((pa + n - 1) / 64 - pa / 64 + 1)).map (· + pa / 64)

/-- Global memory as an access under a key slot sees `n` bytes of it (04 R90). -/
def State.memAs (s : State) (pa n key : Nat) : Mem :=
  (linesOf pa n).foldl (fun m l => match s.dev.lineSlot l with
    | none => m
    | some k => if k = key then m else m.setBytes (64 * l) (s.lineAs l key)) s.mem

/-- The first entry of a walk that lies in a poisoned line (22 R406). -/
def walkPoison (s : State) (asid va : Nat) : Option Nat :=
  match Tab.get 0 s.dev.objs.roots asid with
  | 0 => none
  | root => (walkReads s.mem 3 0 root va).find? (fun a => s.poisoned (.glob a))

/-- Translate under an ASID by a walk of the tables (04 R92); a poisoned entry counts as not valid (22 R406). An ASID-table
entry whose root frame is 0 is taken as no root: every address of the ASID is not present (log 12). -/
def walk (s : State) (asid va : Nat) : Option (Nat × Word) :=
  match Tab.get 0 s.dev.objs.roots asid with
  | 0 => none
  | root => if (walkPoison s asid va).isSome then none else walkFrom s.mem 3 0 root va

/-- Checks 6 to 8 by a walk of the tables, for an engine that translates its own pieces (16 R358). -/
def checkWalk (s : State) (asid va n : Nat) (rd wr : Bool) : Chk :=
  match walk s asid va with
  | none => .bad 0x10
  | some (level, leaf) => checks78 s.dev.objs asid va n rd wr level leaf

/-- Element index of a bank offset (09 R193). -/
def bankIx (bank off : Nat) : Nat := bank * 16384 + off / 4

/-- `n` bytes at a place, little-endian. -/
def State.readLoc (s : State) (l : Loc) (n : Nat) : Nat :=
  match l with
  | .glob pa => s.mem.readN pa n
  | .loc r o => (s.dev.core r).lmem.readN o n
  | .acc u b o =>
    let lo := (Tab.get 0 (s.dev.coach u).bank (bankIx b o)).toNat
    if n ≤ 4 then lo % 2 ^ (8 * n) else lo + 2 ^ 32 * (Tab.get 0 (s.dev.coach u).bank (bankIx b (o + 4))).toNat
  | _ => 0

/-- `n` bytes at a place as an access under a key slot reads them (04 R90). -/
def State.readAs (s : State) (l : Loc) (n key : Nat) : Nat :=
  match l with
  | .glob pa => (s.memAs pa n key).readN pa n
  | _ => s.readLoc l n

/-- A place some bytes on. -/
def Loc.plus (l : Loc) (n : Nat) : Loc :=
  match l with
  | .glob a => .glob (a + n)
  | .loc r o => .loc r (o + n)
  | .acc u b o => .acc u b (o + n)
  | .ctl o => .ctl (o + n)
  | .peer p a => .peer p (a + n)

/-- `n` bytes at a place, lowest first, as an access under a key slot reads them. -/
def State.readBytes (s : State) (l : Loc) (key n : Nat) : List Byte :=
  match l with
  | .glob pa => (s.memAs pa n key).bytes pa n
  | .loc r o => (s.dev.core r).lmem.bytes o n
  | .acc _ _ _ => (upto n).map (fun i => BitVec.ofNat 8 (s.readLoc (l.plus (i / 4 * 4)) 4 / 256 ^ (i % 4)))
  | _ => []

/-- A 64-bit word of global memory as an access under a key slot reads it. -/
def State.wordAs (s : State) (pa key : Nat) : Word := w64 (s.readAs (.glob pa) 8 key)

/-- The bind-table entry's buffer holds some of `n` bytes from `o` (07 R150). Before the first grant the descriptor's code and
count are not known, and the buffer is taken as its first 256 bytes (log 51). -/
def BindEnt.touches (e : BindEnt) (o n : Nat) : Bool :=
  e.valid && e.buffer.toNat < o + n && o < e.buffer.toNat + 256 * 2 ^ e.code.toNat * (e.count.toNat + 1)

/-- Whether the bind table lets a write land: every buffer it touches is held exclusively (07 R150). -/
def bindAllows (c : Core) (o n : Nat) : Bool := c.eng.bind.all (fun e => !e.2.touches o n || e.2.mode == 2)

/-- Dirty bits of the sub-blocks a write touches. -/
def dirtyMask (e : BindEnt) (o n : Nat) : Mask :=
  (upto (e.count.toNat + 1)).foldl (fun m i =>
    let sz := 256 * 2 ^ e.code.toNat
    let lo := e.buffer.toNat + i * sz
    if lo < o + n && o < lo + sz then m ||| (1 <<< i) else m) 0

/-- Dirty bits in every buffer that a write touches (07 R150). -/
def Core.markDirty (c : Core) (o n : Nat) : Core :=
  { c with eng := { c.eng with bind := c.eng.bind.map (fun e =>
      if e.2.touches o n then (e.1, { e.2 with dirty := e.2.dirty ||| dirtyMask e.2 o n }) else e) } }

/-- Values still on their way to a section's registers are dropped with it (08 R182). -/
def dropDst (q : Req) : Req := { q with dst := .none }

/-- Abort an elision section (08 R182): checkpoint, `x1`, fallback. DESIGN CHOICE: a load of the section that answers later with poison,
or whose fault is deferred already, still raises it at the fallback; the rules do not say (log 11). -/
def Slot.abort (t : Slot) (cause detail : Nat) : Slot :=
  match t.elide with
  | none => t
  | some e =>
    { t with x := Tab.set e.x 1 (w64 (cause + 256 * detail)), p := e.p, pc := e.fallback, elide := none, parked := none, lapsed := true
             flow := { t.flow with bag := t.flow.bag.map dropDst
                                   rets := t.flow.rets.map (fun r => { r with req := dropDst r.req }) } }

/-- A performed write aborts the sections whose sets it touches (08 R183). -/
def Slot.conflict (ws : List Nat) (t : Slot) : Slot :=
  match t.elide with
  | none => t
  | some e =>
    if ws.any (fun w => e.reads.contains w || e.writes.any (fun b => b.1 / 8 == w)) then t.abort 1 0 else t

/-- Write bytes of local memory: dirty bits (07 R150), elision conflicts (08 R183), words made correct (22 R419). -/
def Core.writeBytes (c : Core) (o : Nat) (bs : List Byte) : Core :=
  let n := bs.length
  let ws := touched o n
  { ({ c with lmem := c.lmem.setBytes o bs }.markDirty o n) with
      slots := c.slots.map (fun e => (e.1, e.2.conflict ws))
      lpoison := (ws.filter (fun w => decide (o ≤ 8 * w) && decide (8 * w + 8 ≤ o + n))).foldl (fun t w => Tab.put false t w false) c.lpoison }

/-- The low `n` bytes of a number, lowest first. -/
def bytesOf (n v : Nat) : List Byte :=
  match n with
  | 0 => []
  | m + 1 => BitVec.ofNat 8 v :: bytesOf m (v / 256)

/-- A number from bytes, lowest first. -/
def ofBytes : List Byte → Nat
  | [] => 0
  | b :: r => b.toNat + 256 * ofBytes r

/-- A line encrypted under a key slot's write version, with a new tag (04 R89, R90). -/
def Dev.encryptLine (d : Dev) (key line : Nat) : Dev :=
  { d with mmeta := { d.mmeta with kver := Tab.set d.mmeta.kver line (Tab.get {} d.plat.keys key).ver
                                   key := Tab.set d.mmeta.key line key
                                   tagBad := Tab.put false d.mmeta.tagBad line false } }

/-- Every line that a write of `n` bytes touches is encrypted under the key slot's write version (04 R90). -/
def Dev.encrypt (d : Dev) (pa n key : Nat) : Dev := (linesOf pa n).foldl (fun d l => d.encryptLine key l) d

/-- A device write at a physical address, under no page: each line keeps its key slot and takes the write version; a line that
nothing has written stays so (log 8). -/
def Dev.encryptPhys (d : Dev) (pa n : Nat) : Dev :=
  let inside := fun (l : Nat) => decide (pa / 64 ≤ l) && decide (64 * l < pa + n)
  { d with mmeta := { d.mmeta with
      kver := d.mmeta.kver.map (fun e => if inside e.1 then (e.1, (Tab.get {} d.plat.keys ((d.lineSlot e.1).getD 0)).ver) else e)
      tagBad := d.mmeta.tagBad.filter (fun e => !inside e.1) } }

def State.withDev (s : State) (f : Dev → Dev) : State := { s with dev := f s.dev }

/-- Global memory after a device write of `n` bytes at a physical address. -/
def State.physMem (s : State) (m : Mem) (pa n : Nat) : State := { mem := m, dev := s.dev.encryptPhys pa n }

/-- Write bytes at a home. -/
def State.writeLoc (s : State) (l : Loc) (key : Nat) (bs : List Byte) : State :=
  match l with
  | .glob pa => { mem := (s.memAs pa bs.length key).setBytes pa bs, dev := s.dev.encrypt pa bs.length key }
  | .loc r o => { s with dev := s.dev.onCore r (fun c => c.writeBytes o bs) }
  | .acc u b o =>
    { s with dev := s.dev.onCoach u (fun h =>
        let b1 := Tab.set h.bank (bankIx b o) (BitVec.ofNat 32 (ofBytes (bs.take 4)))
        { h with bank := if bs.length > 4 then Tab.set b1 (bankIx b (o + 4)) (BitVec.ofNat 32 (ofBytes (bs.drop 4))) else b1 }) }
  | _ => s

end Sys2Proof.Machine
end

