-- ==== Sys2Proof/Machine/Extents.lean ====
section
/-! DEFINITION. The extents that engine commands write: of copies (16 R356 to R360), of stream elements (10 R205), of the steps of
a `macst` (09 R202, R203), and which of them a fence.co still awaits (06 R134). -/

namespace Sys2Proof.Machine

/-! ### Copies -/

/-- Bytes of a whole copy. -/
def copyLen : CpKind → Nat
  | .cp _ _ n => n
  | .cpm _ _ n _ => n
  | .cpa _ _ w0 _ _ => bits w0 31 0 * (bits w0 47 32 + 1) * (bits w0 63 48 + 1)

def pfmtPsb (p : Word) : Bool := isPsb (pfmtOf p)

/-- Bytes of one contiguous run: a `cpa` run, otherwise the whole copy. -/
def CpKind.run : CpKind → Nat
  | .cp _ _ n => n
  | .cpm _ _ n _ => n
  | .cpa _ _ w0 _ _ => bits w0 31 0

/-- The offset of byte `t` at an end with strides (16 R357). -/
def strideAt (w0 w : Word) (t : Nat) : Int :=
  let b := bits w0 31 0
  let j := t / b
  let n1 := bits w0 47 32 + 1
  (j % n1 : Nat) * (w.extractLsb' 0 32).toInt + (j / n1 : Nat) * (w.extractLsb' 32 32).toInt + (t % b : Nat)

/-- The pointer to source byte `t`; none where it leaves the address part (R74). -/
def CpKind.srcAt (k : CpKind) (t : Nat) : Option Word :=
  match k with
  | .cp _ s _ => padvance s t
  | .cpm _ s _ _ => padvance s t
  | .cpa _ s w0 w1 _ => padvance s (strideAt w0 w1 t)

/-- The pointers to destination byte `t`, by list entry. -/
def CpKind.dstAt (k : CpKind) (t : Nat) : List (Nat × Option Word) :=
  match k with
  | .cp d _ _ => [(0, padvance d t)]
  | .cpm _ _ _ l => l.zipIdx.map (fun e => (e.2, padvance e.1 t))
  | .cpa d _ w0 _ w2 => [(0, padvance d (strideAt w0 w2 t))]

/-- Byte ranges of the runs from a start: a resumed copy's first run may be partial. -/
def CpKind.runs (k : CpKind) (start : Nat) : List (Nat × Nat) :=
  let b := k.run
  (upto ((copyLen k - start / b * b) / b)).map (fun j =>
    let t := Nat.max start ((start / b + j) * b)
    (t, (start / b + j + 1) * b - t))

/-- Pieces of a copy: each of 512 bytes, the last shorter (10 R210). -/
def pieceCount (c : Copy) : Nat := (copyLen c.kind - c.start + 511) / 512

/-- The first piece not done. -/
def firstHole (done : List Nat) : Nat → Nat → Nat
  | 0, p => p
  | n + 1, p => if done.contains p then firstHole done n (p + 1) else p

/-- The resume offset (16 R360, 22 R410). -/
def resumeOffset (c : Copy) : Nat :=
  match c.stop with
  | some (t, _) => t
  | none => Nat.min (copyLen c.kind) (c.start + 512 * firstHole c.done (pieceCount c) 0)

/-- The first piece not complete. -/
def copyHole (c : Copy) : Nat := firstHole c.done (pieceCount c) 0

/-- The bytes of 64-bit words, each within one word, that `n` bytes from an offset make (06 R116). -/
def wordRanges (t n : Nat) : List (Nat × Nat) :=
  if n = 0 then []
  else (upto ((t + n - 1) / 8 - t / 8 + 1)).map (fun i =>
    let lo := Nat.max t (8 * (t / 8 + i))
    (lo, Nat.min (t + n) (8 * (t / 8 + i) + 8) - lo))

/-- Bytes of a copy are in place at a destination, their words not yet set full. -/
def Copy.placedAt (c : Copy) (j t n : Nat) : Bool :=
  c.inPlace.any (fun e => e.2.1 == j && e.1 ≤ t && t + n ≤ e.1 + e.2.2.2)

/-- Every word of `n` bytes from an offset is in place at every destination that still lives. -/
def Copy.allPlaced (c : Copy) (t n : Nat) : Bool :=
  (wordRanges t n).all (fun w => c.live.all (fun j => c.placedAt j w.1 w.2))

/-- Every byte below this offset is in place: the words up to it are set full. A failure inside the first incomplete piece moves
it on when what lies below the failure is in place. -/
def fullBelow (c : Copy) : Nat :=
  let h := c.start + 512 * copyHole c
  match c.stop with
  | some (t, _) => if h ≤ t && t < h + 512 then (if c.allPlaced h (t - h) then t else h) else Nat.min h t
  | none => h

/-- The number of the piece that holds an offset. -/
def Copy.pieceOf (c : Copy) (t : Nat) : Nat := (t - c.start) / 512

/-- The engine has begun a piece that is not complete (10 R210). -/
def Copy.begun (c : Copy) (k : Nat) : Bool :=
  !c.done.contains k && (c.awaits.any (fun e => e.1 == k) || c.got.any (fun e => c.pieceOf e.1 == k) || c.inPlace.any (fun e => c.pieceOf e.1 == k))

/-- The engine stands at a piece boundary of a copy: no piece below the offset it stops at is begun and not complete, and what may be
set full is (16 R360, 20 R385, R387). -/
def Copy.still (c : Copy) : Bool :=
  let below := fun (t : Nat) => c.stop.all (fun x => t < x.1)
  let whole := fun (k : Nat) => c.done.contains k || c.stop.any (fun x => k == c.pieceOf x.1 && c.allPlaced (c.start + 512 * k) (x.1 - (c.start + 512 * k)))
  c.stage != 0 || ((c.awaits.all (fun e => !below (c.start + 512 * e.1))) && (c.got.all (fun e => !below e.1 || whole (c.pieceOf e.1))) &&
    c.inPlace.all (fun e => !below e.1 || (whole (c.pieceOf e.1) && (c.stop.isSome || fullBelow c < e.1 + e.2.2.2))))

/-! ### Streams -/

/-- Bytes of one stream element (10 R205). -/
def streamElem (base : Word) : Nat :=
  if isPsb (pfmtOf base) then blockBytes (pfmtOf base) (plcode base)
  else if pfmtOf base = 0 then 8 else elemScale (pfmtOf base)

/-- The pointer to element `m` (R205). -/
def Stream.elemPtr (x : Stream) (m : Nat) : Option Word :=
  let c0 := bits x.w0 15 0 + 1
  let c1 := bits x.w0 31 16 + 1
  padvance x.base ((m % c0 : Nat) * x.s0.toInt + (m / c0 % c1 : Nat) * x.s1.toInt + (m / (c0 * c1) : Nat) * x.s2.toInt)

/-! ### Matrix commands -/

/-- The formed group of a unit. -/
def coopOf (d : Dev) (u : Nat) : Option Coop :=
  d.objs.coops.find? (fun c => c.formed && c.die == u / 32 && c.g == u % 32 / 4)

/-- The member of a quadrant. -/
def Coop.member (c : Coop) (q : Nat) : Option Nat := (c.members.find? (fun e => e.1 == q)).map (·.2)

/-- The unit of a quadrant. -/
def Coop.unit (c : Coop) (q : Nat) : Nat := c.die * 32 + 4 * c.g + q

/-- The formed group that a core leads. -/
def ledBy (d : Dev) (r : Nat) : Option Coop :=
  match coopOf d (unitOf r) with
  | none => none
  | some c => if c.member 0 == some r then some c else none

/-- Bytes of `rows` rows of `len` elements. -/
def rowsBytes (p : Word) (rows len : Nat) : Nat :=
  if isPsb (pfmtOf p) then rows * (len / blockLen (plcode p)) * blockBytes (pfmtOf p) (plcode p)
  else rows * len * elemScale (pfmtOf p)

/-- Whether a tile of a group's quadrant and bank lies inside M × N (R202, R203). -/
def tileIn (m n q b : Nat) : Bool := 256 * (q / 2) + 128 * (b / 2) < m && 256 * (q % 2) + 128 * (b % 2) < n

/-- M and N of a command. -/
def MOp.dims : MOp → Nat × Nat
  | .mm _ _ _ _ _ _ _ m n => (m, n)
  | .macz _ m n => (m, n)
  | .macst _ _ _ m n => (m, n)
  | .macld _ _ m n => (m, n)
  | _ => (128, 128)

/-- Some unit of a group runs a step on a bank. -/
def bankUsed (op : MOp) (b : Nat) : Bool := (upto 4).any (fun q => tileIn op.dims.1 op.dims.2 q b)

/-- Steps on one bank (R184). -/
def MOp.bankSteps : MOp → Nat
  | .mm _ _ _ _ _ _ k _ _ => (k + 127) / 128
  | .mmc _ _ _ _ _ _ => 1
  | .topk _ _ _ _ _ _ => 8
  | .macz _ _ _ => 1
  | .macst _ _ _ _ _ => 8
  | .macld _ _ _ _ => 8

/-- The steps of a command, each a range and, in a group, a physical bank: for `mm` and `sqd` every bank of a K range before
the next range, for the others every range of a bank before the next bank (R203). -/
def MOp.plan (op : MOp) (grouped : Bool) : List (Nat × Nat) :=
  if grouped then
    let bs := (upto 4).filter (bankUsed op)
    match op with
    | .mm _ _ _ _ _ _ _ _ _ => (upto op.bankSteps).flatMap (fun s => bs.map (fun b => (s, b)))
    | _ => bs.flatMap (fun b => (upto op.bankSteps).map (fun s => (s, b)))
  else (upto op.bankSteps).map (fun s => (s, 0))

/-- A command acts on the group that its core leads: one that was posted to it, while it stands (R201, R203). What the leader queued
before its group was formed keeps to the leader's unit and the banks it names (log 54). -/
def MCmd.grouped (m : MCmd) (d : Dev) (r : Nat) : Bool := m.grp && (ledBy d r).isSome

/-- The rows that step `st` of a `macst` writes: the sixteen rows of its range, in each tile (R202, R203, R354). -/
def MOp.storeRows (op : MOp) (range : Nat) (tiles : List (Nat × Nat)) : List (Word × Nat) :=
  match op with
  | .macst _ p _ _ n =>
    tiles.flatMap (fun t => (upto 16).map (fun i =>
      ((padvance p ((t.1 + 16 * range + i) * rowsBytes p 1 n + rowsBytes p 1 t.2 : Nat)).getD p, rowsBytes p 1 128)))
  | _ => []

/-- First rows and columns of the tiles that a step's bank holds, in every unit that takes part. -/
def MOp.tilesAt (op : MOp) (grp : Bool) (bank : Nat) : List (Nat × Nat) :=
  if grp then ((upto 4).filter (fun q => tileIn op.dims.1 op.dims.2 q bank)).map (fun q => (256 * (q / 2) + 128 * (bank / 2), 256 * (q % 2) + 128 * (bank % 2)))
  else [(0, 0)]

/-- The rows that a queued command has still to write. -/
def MCmd.storesLeft (m : MCmd) (grp : Bool) : List (Word × Nat) :=
  ((m.op.plan grp).drop m.next).flatMap (fun e => m.op.storeRows e.1 (m.op.tilesAt grp e.2))

/-! ### What a fence.co awaits -/

/-- Whether a scope's counter counts some destination word of an extent (06 R134). -/
def extentCovered (s : State) (r : Nat) (asid : Nat) (p : Word) (n : Nat) (sc : Scope) : Bool :=
  match pspace p with
  | 1 | 2 | 4 => true
  | 3 => scopeOf sc (s.dev.objs.covers r (.loc (prank p) 0))
  | 0 => (upto (n / 4096 + 2)).any (fun g =>
      let va := if g = 0 then paddr p else (paddr p / 4096 + g) * 4096
      va < paddr p + n &&
        (match walk s asid va with
         | some (l, leaf) => scopeOf sc (s.dev.objs.covers r (.glob (leafPa l leaf va)))
         | none => false))
  | _ => sc == .sys

def CpKind.multi : CpKind → Bool
  | .cpm _ _ _ _ => true
  | _ => false

/-- Destination extents of a copy beyond what it has set full, at the destinations it still serves. -/
def Copy.unfilled (c : Copy) : List (Word × Nat) :=
  (c.kind.runs (fullBelow c)).flatMap (fun e => (c.kind.dstAt e.1).filterMap (fun x =>
    if c.kind.multi && !c.live.contains x.1 then none else x.2.map (fun p => (p, e.2))))

/-- The engine operations of a thread that a fence.co may await: its copies, and its `macst` commands (06 R134). -/
def coIds (d : Dev) (r k : Nat) : List Nat :=
  let e := (d.core r).eng
  let isMacst := fun (op : MOp) => match op with
    | .macst _ _ _ _ _ => true
    | _ => false
  (e.copies.filter (·.slot == k)).map (·.id) ++ (e.mq.filter (fun m => m.slot == k && isMacst m.op)).map (·.id) ++
    (e.ewords.filter (fun w => w.slot == k && !w.free)).map (·.id) ++
    (match (d.coach (unitOf r)).step with
     | some m => if m.core = r && m.cmd.slot = k && isMacst m.cmd.op then [m.cmd.id] else []
     | none => [])

/-- The output streams of a thread, bound or dropped, each with its position. -/
def coOuts (d : Dev) (r k : Nat) : List (Nat × Nat × Nat) :=
  ((d.core r).eng.streams.filter (fun x => x.2.slot == k && x.2.heir.isNone && x.2.w0.getLsbD 63 && (x.2.bound || x.2.dropped.isSome))).map
    (fun x => (x.1, x.2.bindId, x.2.pos))

/-- A destination word of an earlier copy, stream output or `macst` that a fence.co's counter covers is not yet written and set
full (06 R134). -/
def coWaits (s : State) (r k : Nat) (h : CoHold) : Bool :=
  let e := (s.dev.core r).eng
  let asid := (s.dev.slot r k).asid.toNat
  let at_ := fun (l : Loc) => scopeOf h.scope (s.dev.objs.covers r l)
  let any := fun (asid : Nat) (l : List (Word × Nat)) => l.any (fun x => extentCovered s r asid x.1 x.2 h.scope)
  let mine := fun (slot id : Nat) => slot == k && h.ids.contains id
  e.copies.any (fun c => mine c.slot c.id && c.stage == 0 && (c.inPlace.any (fun x => at_ x.2.2.1) || any c.asid c.unfilled)) ||
    e.mq.any (fun m => mine m.slot m.id && any asid (m.storesLeft (m.grouped s.dev r))) ||
    (s.dev.coach (unitOf r)).step.any (fun m => m.core == r && mine m.cmd.slot m.cmd.id &&
      any asid (m.cmd.op.storeRows m.range (m.tiles.map (fun t => (t.2.2.1, t.2.2.2))))) ||
    e.ewords.any (fun w => mine w.slot w.id && (match w.loc with
      | some l => at_ l.1
      | none => extentCovered s r asid w.ptr 8 h.scope)) ||
    h.outs.any (fun o =>
      let x := Tab.get {} e.streams o.1
      x.slot == k && x.bindId == o.2.1 && (x.cover.any (fun c => at_ c.2.1) ||
        x.out.any (fun m => m.1 < o.2.2 && (x.elemPtr m.1).any (fun p => extentCovered s r x.asid p (streamElem x.base) h.scope))))

end Sys2Proof.Machine
end

