-- ==== Sys2Proof/Machine/Ops.lean ====
section
/-! DEFINITION. The named operations over threads: conditions and parking (02 R35 Park), taking a fault (02 R35 Raise, 20 R377 to
R380) and returning from one (13 R290), control-space words, the memory log and the fabric port (04 R96, 22 R414). -/

namespace Sys2Proof.Machine

/-! ### Threads, live or saved -/

/-- The context that a request's slot number names: a slot, or a saved context's key (20 R388). Ranks from 2048 on stand for
peers, whose contexts lie outside (log 7). -/
def Dev.thr (d : Dev) (r k : Nat) : Slot :=
  if k < 16 then d.slot r k
  else match (d.core r).eng.saved.find? (fun q => q.key == k) with
    | some q => q.ctx
    | none => {}

def Dev.onThr (d : Dev) (r k : Nat) (f : Slot → Slot) : Dev :=
  if 2048 ≤ r then d
  else if k < 16 then d.onSlot r k f
  else d.onEng r (fun e => { e with saved := e.saved.map (fun q => if q.key = k then { q with ctx := f q.ctx } else q) })

def Dev.onThrFlow (d : Dev) (r k : Nat) (f : Flow → Flow) : Dev := d.onThr r k (fun t => { t with flow := f t.flow })

/-! ### Conditions a thread waits for -/

/-- Whether the store-fault queue holds a record of the thread, one waiting for room included (20 R382, 25 R442). -/
def hasSf (e : CoreEng) (k : Nat) : Bool :=
  e.sfq.any (fun r => r.slot == k) || e.sfWait.any (fun r => r.1.slot == k)

/-- 06 R125: what a release at a scope waits for. -/
def releaseOk (d : Dev) (r k : Nat) (s : Scope) : Bool :=
  let f := (d.slot r k).flow
  f.ld.isEmpty && f.acq.isEmpty && f.posted.isEmpty && f.counter s == 0 && !hasSf (d.core r).eng k

/-- Every operation drained and every store translated (08 R164, 13 R283). -/
def drained (f : Flow) : Bool := f.ld.isEmpty && f.st.isEmpty && f.cp.isEmpty && f.tl.isEmpty && f.posted.isEmpty

def leNat (n : Option Nat) (l : List (Nat × Nat)) : Bool :=
  match n with
  | none => true
  | some k => l.length ≤ k

/-- Units of a semaphore promised to woken waiters (13 R284). -/
def promised (e : CoreEng) (n : Nat) : Nat := (e.semWait.filter (fun w => w.1 == n && w.2.2)).length

/-- A thread may take a unit of a semaphore: a unit stands, and it was woken or is first among the waiters (13 R284). -/
def semReady (c : Core) (n k : Nat) : Bool :=
  let l := c.eng.semWait.filter (fun w => w.1 == n)
  let some1 := 1 ≤ (Tab.get 0 c.regs.sem n).toNat
  match l.find? (fun w => w.2.1 == k) with
  | some w => some1 && (w.2.2 || (l.head?.map (·.2.1)) == some k)
  | none => l.isEmpty && some1

/-- Length of the payload words at a channel's head, before a control word (08 R174). -/
def payloadHead : List (Word × Bool) → Nat
  | (_, false) :: r => 1 + payloadHead r
  | _ => 0

/-- The receiver and length of a conversation's oldest held send (08 R173). -/
def heldMessage (c : Conv) : Option ((Nat × Nat × Nat) × Nat) :=
  match c.held with
  | (_, _, q) :: _ =>
    match q.op with
    | .csend _ kind cap ws =>
      match c.edges.find? (fun e => bits (e.setWidth 64) 31 18 == fld c.stage.toNat 8 + fld (bits cap 58 56) 5 + kind) with
      | some e => (Tab.get none c.holders (bits (e.setWidth 64) 11 9)).map (fun h => (h, 1 + ws.length + b2n (e.getLsbD 8)))
      | none => none
    | .cdeleg _ _ target => some ((bits target 10 0, bits target 14 11, bits target 16 15), 1)
    | _ => none
  | [] => none

/-- A message for a channel is held for room (15 R331). -/
def channelHeld (d : Dev) (r k n : Nat) : Bool :=
  let room := 64 - (Tab.get [] (d.slot r k).chans n).length
  d.objs.convs.any (fun e => match heldMessage e.2 with
    | some (h, len) => h == (r, k, n) && room < len
    | none => false) ||
    d.objs.msgs.any (fun e => match e.2.2.op with
      | .send m => m.rank == r && m.slot == k && m.chan == n && room < m.payload.length + b2n m.endw
      | _ => false)

/-- A generation of a barrier instance is complete (14 R315). -/
def barDone (o : Objs) (level queue inst gen : Nat) : Bool :=
  match o.bars.find? (fun b => b.level == level && b.queue == queue && b.inst == inst) with
  | none => false
  | some b => gen < b.gen

/-- Elements of a stream already fetched beyond its position, up to the first held fault included. -/
def aheadLen : List (Nat × Option (Byte × Word × BitVec 32)) → Nat
  | (_, none) :: r => 1 + aheadLen r
  | (_, some _) :: _ => 1000000
  | [] => 0

/-- A judged request is under way outside its thread's bag: in the fabric, at a server, held at a conversation (21 R395). -/
def elsewhere (d : Dev) (r k id : Nat) : Bool :=
  d.objs.fabric.any (fun q => q.rank == r && q.slot == k && q.req.id == id) ||
    d.cores.any (fun c => c.2.eng.dq.any (fun x => x.rank == r && x.slot == k && x.id == id) ||
      c.2.eng.dserve.any (fun x => x.rank == r && x.slot == k && x.id == id && !x.cancelled)) ||
    d.objs.convs.any (fun e => e.2.held.any (fun h => h.1 == r && h.2.1 == k && h.2.2.id == id))

/-- Whether a request still awaits checks 6 to 8 at its home: an `enq`, whose words the routine translates (14 R312), and a
store-class request to space 6, which the peer's port translates (04 R96; log 46). -/
def Req.unchecked (q : Req) : Bool :=
  match q.op with
  | .enq _ => true
  | .store _ _ | .red _ _ _ | .fe .fill _ | .fe .put _ | .fe .clr _ => pspace q.ptr == 6
  | _ => false

/-- A posted operation that has passed its checks waits in the posted list with its place until the bag has room (06 R115,
14 R304); an entry whose walk is awaited has no place yet. -/
def Req.ready (q : Req) : Bool := q.loc != .peer 0 0

/-- The requests of a context that are translated and not yet performed. -/
def Flow.toPerform (f : Flow) : List Req := f.bag ++ f.posted.filter Req.ready

/-- Requests translated and not yet performed that a test picks, by core, context and id: of live and of saved contexts, and in
the wait lists of words (13 R292, R293). -/
def Dev.inFlight (d : Dev) (f : Nat → Req → Bool) : List (Nat × Nat × Nat) :=
  d.cores.flatMap (fun c =>
    let pick := fun (k : Nat) (w : Flow) => (w.toPerform.filter (f c.1)).map (fun q => (c.1, k, q.id))
    c.2.slots.flatMap (fun e => pick e.1 e.2.flow) ++ c.2.eng.saved.flatMap (fun q => pick q.key q.ctx.flow)) ++
  (d.objs.feWait.filter (fun w => f w.1 w.2.2)).map (fun w => (w.1, w.2.1, w.2.2.id))

/-- A request, or a matrix word already translated, of the context under a number is not yet performed. -/
def underWay (d : Dev) (r k id : Nat) : Bool :=
  (d.thr r k).flow.toPerform.any (fun q => q.id == id) ||
    d.objs.feWait.any (fun w => w.1 == r && w.2.1 == k && w.2.2.id == id) ||
    (d.core r).eng.ewords.any (fun w => w.slot == k && w.id == id && w.loc.isSome)

/-- What a wait names is still under way. -/
def User.active (d : Dev) : User → Bool
  | .req r k id => underWay d r k id
  | .copy r k id l =>
    let e := (d.core r).eng
    e.copies.any (fun c => c.id == id && c.slot == k && l.all (fun a => c.inPlace.any (fun x => x.2.2.1 == a)))
  | .cover r n l => (Tab.get {} (d.core r).eng.streams n).cover.any (fun x => x.2.1 == l && x.2.2 == 0xFF)
  | .cmd r k id =>
    let e := (d.core r).eng
    e.mq.any (fun m => m.slot == k && m.id == id) || (d.coach (unitOf r)).step.any (fun m => m.core == r && m.cmd.id == id && m.cmd.slot == k)

/-- A peer's manager still has to say, or to be sent, what emptying a bind-table entry needs (07 R146, R155). -/
def dropping (d : Dev) (r i : Nat) : Bool :=
  d.objs.fabric.any (fun q => q.rank == r && q.req.kind == 13 && q.req.elem == i && (match q.req.op with
    | .gdrop _ | .block _ _ => true
    | _ => false))

/-- Threads that wait for a bind-table entry wake in the order they parked (07 R146). -/
def firstWaiting (e : CoreEng) (i k : Nat) : Bool :=
  match e.bindWait.find? (fun w => w.2 == i) with
  | some w => w.1 == k
  | none => true

/-- Evaluate a wait condition of the thread in slot `k` of core `r`. -/
def WaitCond.holds (s : State) (r k : Nat) : WaitCond → Bool
  | .counts a b c e =>
    let f := (s.dev.slot r k).flow
    leNat a f.ld && leNat b f.st && leNat c f.cp && leNat e f.tl
  | .own a b c e p =>
    let f := (s.dev.slot r k).flow
    (!a || f.ld.isEmpty) && (!b || f.st.isEmpty) && (!c || f.cp.isEmpty) && (!e || f.tl.isEmpty) && (!p || f.posted.isEmpty)
  | .release sc => releaseOk s.dev r k sc
  | .fence sc => releaseOk s.dev r k sc
  | .sendHold => (s.dev.slot r k).flow.acq.isEmpty
  | .coHold => (s.dev.slot r k).flow.co.all (fun h => !coWaits s r k h)
  | .room w => s.dev.room r k 1 w
  | .sem n => semReady (s.dev.core r) n k
  | .event => !(s.dev.core r).eng.events.isEmpty
  | .walk a pg => !(s.dev.core r).eng.mail.any (fun m => m.asid == a && m.page == pg)
  | .mailbox => (s.dev.core r).eng.mail.length < 16
  | .overlay => (s.dev.slot r k).pc.toNat < (s.dev.core r).regs.xb.toNat
  | .channel n m => m ≤ (Tab.get [] (s.dev.slot r k).chans n).length
  | .vchan n h =>
    let ch := Tab.get [] (s.dev.slot r k).chans n
    h ≤ payloadHead ch || ch.any (·.2) || channelHeld s.dev r k n
  | .role n => !(s.dev.slot r k).flow.bag.any (fun q => q.dst == .role n) &&
      !(s.dev.slot r k).flow.rets.any (fun q => q.req.dst == .role n)
  | .barrier l q i g => barDone s.dev.objs l q i g
  | .answer id => !((s.dev.slot r k).flow.bag.any (fun q => q.id == id && q.judged)) &&
      !((s.dev.slot r k).flow.rets.any (fun q => q.req.id == id && q.req.judged)) && !elsewhere s.dev r k id
  | .stream n m => m ≤ aheadLen (Tab.get {} (s.dev.core r).eng.streams n).ahead
  | .produce n b =>
    let st := Tab.get {} (s.dev.core r).eng.streams n
    st.dropped.isNone && st.out.length * streamElem st.base + b ≤ 4096
  | .mqRoom => (s.dev.core r).eng.mq.length < 8
  | .mqEmpty => (s.dev.core r).eng.mq.isEmpty
  | .copyRoom => (s.dev.core r).eng.copies.length < 128
  | .delegRoom q => (s.dev.core q).eng.dq.length < 32
  | .bindEntry e => (Tab.get {} (s.dev.core r).eng.bind e).mode == 0 && firstWaiting (s.dev.core r).eng e k
  | .bindFreed e => !(s.dev.core r).eng.xfers.any (fun x => x.after == 4 && x.entry == e && x.rank == r) && !dropping s.dev r e
  | .dueZero e => (Tab.get {} (s.dev.core r).eng.bind e).due == 0
  | .delivered a pg => !(s.dev.core r).eng.mail.any (fun m => m.asid == a && m.page == pg)
  | .halted => (s.dev.die (dieOf r)).halted
  | .groupStart => (s.dev.core r).eng.groups.any (fun g => g.lead == (s.dev.slot r k).lead && g.members.length == g.gsize)
  | .coachIdle => (upto 8).all (fun c => (s.dev.core (unitOf r * 8 + c)).eng.mq.isEmpty)
  | .groupIdle =>
    match (coopOf s.dev (unitOf r)).bind (fun c => c.member 0) with
    | some l => (s.dev.core l).eng.mq.isEmpty && (s.dev.core l).eng.mtl.isEmpty && !(s.dev.coach (unitOf l)).step.any (fun m => m.core == l)
    | none => true
  | .preempted v => (s.dev.slot r v).pre.isNone
  | .inval l => l.all (fun a => !a.active s.dev)
  | .stepped v => !(s.dev.slot r v).stepping
  | .lanes id => !(s.dev.slot r k).flow.ld.any (fun e => e.1 == id && e.2 != 0)
  | .drain =>
    let f := (s.dev.slot r k).flow
    f.posted.all Req.ready && !f.bag.any (·.unchecked) && !s.dev.objs.msgs.any (fun m => m.1 == r && m.2.1 == k) &&
      !s.dev.objs.fabric.any (fun q => q.rank == r && q.slot == k && (q.req.unchecked || q.req.kind == 6)) &&
      !f.acks.any (fun a => a.fail.isSome) && !(s.dev.core r).eng.sfWait.any (fun x => x.1.slot == k)
  | .service => false

/-- Park the issuing thread at its instruction (02 R35 Park). -/
def Dev.park (d : Dev) (c : WaitCond) : Dev := d.onMe (fun t => { t with parked := some c })

/-- Go on when a condition holds, else park. -/
def parkUnless (s : State) (c : WaitCond) (k : State → Out) : Out :=
  if c.holds s s.dev.rank s.dev.who then k s else devStep s (fun d => d.park c)

/-! ### Taking a fault -/

/-- The place of a slot's record in the fault-record area (20 R377). -/
def recordPlace (k : Nat) : Nat := if k = 0 then 352 else if k ≤ 11 then 32 * (k - 1) else 384 + 32 * (k - 12)

/-- The offset of a slot's fault record (20 R377). -/
def recordAt (c : Core) (k : Nat) : Nat := c.regs.gfbase.toNat + 25600 + recordPlace k

/-- The value of `ctl.fault` that names a slot's record (13 R288). -/
def faultReg (c : Core) (k : Nat) : BitVec 22 := BitVec.ofNat 22 (fld k 18 + recordAt c k % 2 ^ 18)

/-- The four words of a fault record (20 R377). -/
def recordWords (c : Core) (k : Nat) (t : Slot) (cause : Byte) (addr : Word) (opnd : BitVec 32) : List Word :=
  let op := if cause = 0x60 then 0 else (c.lmem.read (t.pc.toNat * 12 + 11)).toNat
  [w64 (fld cause.toNat 56 + fld (b2n (cause != 0x60)) 55 + fld t.gdepth.toNat 52 + fld k 48 +
      fld (if isHelper k then (if t.lead < 16 then t.lead else t.start) else 0) 44 + fld t.domain.toNat 38 + t.pc.toNat),
   addr, w64 opnd.toNat, w64 (fld t.asid.toNat 48 + fld op 40)]

/-- A domain's trap vector entry (20 R378). -/
def vectorOf (p : Plat) (domain : BitVec 6) : Word := Tab.get 0 p.regs (0x1000 + 8 * domain.toNat)

/-- Post an event to the resident supervisor. -/
def Dev.post (d : Dev) (kind detail : Nat) : Dev := d.onPlat (fun p => { p with posts := p.posts ++ [(kind, detail)] })

/-- A fault joins the pending ones: the oldest first, and the lower slot first among those of one cycle (20 R379). -/
def joinPend (l : List Pend) (p : Pend) : List Pend :=
  match l with
  | [] => [p]
  | q :: r => if q.time = p.time && p.slot < q.slot then p :: q :: r else q :: joinPend r p

/-- Queue a fault for its handling slot, or fail the core (20 R379, R380). -/
def Dev.queueFault (d : Dev) (r k : Nat) (cause : Byte) : Dev :=
  let t := d.slot r k
  let valid := (vectorOf d.plat t.domain).getLsbD 63
  let pend := fun (ends : Option Byte) => ({ slot := k, domain := t.domain, cause := cause, ends := ends, time := d.now } : Pend)
  if k = 15 then (d.onCore r (fun c => { c with failed := true })).post 1 r
  else if k = 13 then
    d.onEng r (fun e => { e with pend15 := joinPend e.pend15 (pend (e.hand13.bind (fun h => if isHelper h.slot then some h.cause else none))) })
  else if 1 ≤ k && k ≤ 11 && valid then d.onEng r (fun e => { e with pend13 := joinPend e.pend13 (pend none) })
  else d.onEng r (fun e => { e with pend15 := joinPend e.pend15 (pend (if isHelper k then some cause else none)) })

/-- The fault record of a thread, written at its slot's place (20 R377). -/
def Dev.putRecord (d : Dev) (r k : Nat) (cause : Byte) (addr : Word) (opnd : BitVec 32) : Dev :=
  d.onCore r (fun c => { c with lmem := c.lmem.setWords (recordAt c k) (recordWords c k (c.slot k) cause addr opnd) })

/-- The slot waits for a bind-table entry no longer (07 R146). -/
def endAwait (k : Nat) (e : CoreEng) : CoreEng := { e with bindWait := e.bindWait.filter (fun w => w.1 != k) }

/-- Raise at a thread's boundary: inside an elision section the section aborts (21 R401); otherwise the record is written,
the thread is held and the fault waits for its handler (02 R35, 20 R377 to R380). -/
def Dev.raiseRec (d : Dev) (r k : Nat) (cause : Byte) (addr : Word) (opnd : BitVec 32) : Dev :=
  if (d.slot r k).elide.isSome then d.onSlot r k (fun t => t.abort 5 cause.toNat)
  else (((d.putRecord r k cause addr opnd).onSlot r k (fun t =>
    { t with held := true, parked := none, flow := { t.flow with walked := [] } })).onEng r (endAwait k)).queueFault r k cause

/-- Whether a core hands off not-present translations (20 R390). -/
def handsOff (d : Dev) (r : Nat) : Bool := (d.core r).regs.cfbase.getLsbD 0

/-- The frame of a slot for a hand-off (20 R390). -/
def handFrame (d : Dev) (r k : Nat) : Nat := (d.core r).regs.cfbase.toNat / 2 ^ 20 * 2 ^ 20 + (k - 1) * 0x10000

/-- A task thread meets a translation not present while hand-off is enabled: it is halted for its frame, and a record goes
to slot 15 (20 R391). A pre-emption already asked for takes it instead (20 R384). -/
def Dev.handOff (d : Dev) (r k : Nat) (cause : Byte) (addr : Word) (opnd : BitVec 32) : Dev :=
  match (d.slot r k).pre with
  | some p => d.onSlot r k (fun t => { t with pre := some { p with rush := true } })
  | none =>
    ((d.putRecord r k cause addr opnd).onSlot r k (fun t =>
      { t with parked := none, pre := some ⟨2, cause, d.now, handFrame d r k, true, none⟩
               flow := { t.flow with walked := [] } })).onEng r (fun e =>
        { e with pend15 := joinPend e.pend15 { slot := k, domain := (d.slot r k).domain, cause := cause, ends := none, handoff := true, time := d.now } })

/-- The device raises at an instruction of the thread in slot `k` (20 R381); a not-present translation of a task thread is
handed off where that is enabled (20 R391). -/
def Dev.raiseAt (d : Dev) (r k : Nat) (cause : Byte) (addr : Word) (opnd : BitVec 32) : Dev :=
  if cause = 0x10 && isHelper k && handsOff d r && (d.slot r k).elide.isNone then d.handOff r k cause addr opnd
  else d.raiseRec r k cause addr opnd

/-- The issuing instruction raises (02 R35 Raise). -/
def Dev.raise (d : Dev) (cause : Byte) (addr : Word) (opnd : BitVec 32) : Dev := d.raiseAt d.rank d.who cause addr opnd

/-- An instruction whose effect is a fault. -/
def fault (s : State) (cause : Byte) (addr : Word) (opnd : BitVec 32) : Out := devStep s (fun d => d.raise cause addr opnd)

/-- Privileged fault (13). -/
def privFault (s : State) : Out := fault s 0x04 0 0

/-- PC × 12, the address of decoding faults (12 R267, 21 R396). -/
def Dev.pcAddr (d : Dev) : Word := w64 (d.me.pc.toNat * 12)

/-- Check 6 or 8: the illegal-instruction fault with the check's number (12 R265, 21 R396). -/
def illegal (s : State) (check : Nat) : Out := fault s 0x01 s.dev.pcAddr (BitVec.ofNat 32 check)

/-- Resume the thread under handling at a PC: what `eret` with retry, skip or redirect does to it (13 R290). -/
def Dev.resumeAt (d : Dev) (r k : Nat) (f : PcIx → PcIx) : Dev :=
  d.onSlot r k (fun t => { t with held := false, taken := none, pc := f t.pc, sent := if f t.pc = t.pc then t.sent else 0 })

/-- A deferred fault joins a thread's list (20 R384). -/
def Flow.deferFault (f : Flow) (cause : Byte) (addr : Word) (opnd : BitVec 32) : Flow :=
  { f with deferred := f.deferred ++ [⟨cause, addr, opnd⟩] }

/-- Put a store-fault record into the queue, or behind it when it is full (20 R382). -/
def Dev.storeFault (d : Dev) (r : Nat) (rec : SfRec) (q : Option Req) : Dev :=
  let e := (d.core r).eng
  if e.sfq.length < 16 && e.sfWait.isEmpty then
    let d1 := d.onEng r (fun e => { e with sfq := e.sfq ++ [rec] })
    match q with
    | some q => d1.onThrFlow r rec.slot (fun f => (f.lowerCnt q).finish q.cls q.id)
    | none => d1
  else d.onEng r (fun e => { e with sfWait := e.sfWait ++ [(rec, q)] })

/-- Post a record to the core's event queue, or behind it when it is full (10 R215). -/
def Dev.event (d : Dev) (r : Nat) (w0 w1 : Word) (hold : Option (Nat × Nat)) : Dev :=
  d.onEng r (fun e =>
    if e.events.length < 64 && e.eventWait.isEmpty then { e with events := e.events ++ [(w0, w1)] }
    else { e with eventWait := e.eventWait ++ [((w0, w1), hold)] })

/-- The issuing thread's walk answers are spent. -/
def Flow.spent (f : Flow) : Flow := { f with walked := [] }

/-- Post a miss to the mailbox, joining an entry that stands (04 R94). -/
def CoreEng.postMiss (e : CoreEng) (asid page va : Nat) : CoreEng :=
  if e.mail.any (fun m => m.asid == asid && m.page == page) then e
  else { e with mail := e.mail ++ [⟨asid, page, va⟩] }

/-- The walker's slot is live while the mailbox holds a miss (03 R44); its walk is the PAGE_WALK step. -/
def Dev.wakeWalker (d : Dev) (r : Nat) : Dev :=
  d.onSlot r 12 (fun t =>
    if (d.core r).eng.mail.isEmpty then (if t.parked = some .service then { t with life := .free, parked := none } else t)
    else if t.life = .live then t else { t with life := .live, parked := some .service })

/-- Post a miss to a core's mailbox; slot 12 wakes for it (04 R94). -/
def Dev.postMiss (d : Dev) (r asid page va : Nat) : Dev := (d.onEng r (fun e => e.postMiss asid page va)).wakeWalker r

/-- A missing translation parks the thread: on a full mailbox, or on the walk (04 R94). -/
def Dev.missPark (d : Dev) (asid page va : Nat) : Dev :=
  if (d.my.eng.mail.any (fun m => m.asid == asid && m.page == page)) || d.my.eng.mail.length < 16 then
    (d.postMiss d.rank asid page va).park (.walk asid page)
  else d.park .mailbox

/-- The engines of a core run: its die has power and the package's core rails have (01 R22, 11 R237). -/
def Dev.engineUp (d : Dev) (r : Nat) : Bool := !(d.die (dieOf r)).failed && !d.plat.pfault

/-! ### Control-space words, the memory log, the fabric port -/

/-- Reset value of a stored control-space word (11 R244). -/
def regReset (off : Nat) : Word := if off = 0x560 || off = 0x568 then w64 (fld 100 32 + 0xFFFFFFFF) else 0

/-- A stored control-space word. -/
def Plat.reg (p : Plat) (off : Nat) : Word := Tab.get (regReset off) p.regs off

def Plat.setReg (p : Plat) (off : Nat) (v : Word) : Plat := { p with regs := Tab.set p.regs off v }

def Dev.setReg (d : Dev) (off : Nat) (v : Word) : Dev := d.onPlat (fun p => p.setReg off v)

/-- A memory-error record (22 R414): written to the ring and posted, or counted as lost. -/
def memRecord (s : State) (ty die detail addr : Nat) : State :=
  let p := s.dev.plat
  let base := (p.reg 0x3000).toNat
  let head := (p.reg 0x3008).toNat
  if base = 0 || (head + 1) % 1024 = (p.reg 0x3010).toNat then
    { s with dev := s.dev.setReg 0x3018 (p.reg 0x3018 + 1) }
  else
    { mem := s.mem.setWords (base + 16 * head) [w64 (fld ty 60 + fld die 56 + fld detail 44 + addr % 2 ^ 44), w64 s.dev.now]
      dev := ((s.dev.setReg 0x3008 (w64 ((head + 1) % 1024))).post 2 ty).encryptPhys (base + 16 * head) 16 }

/-- A read that finds a line's tag wrong poisons the line and leaves a record of type 2 (22 R411, R414, R416). -/
def noteLine (s : State) (line : Nat) : State :=
  if s.dev.badTag line && !Tab.get false s.dev.mmeta.poison line then
    memRecord { s with dev := s.dev.onMeta (fun m => { m with poison := Tab.put false m.poison line true }) } 2
      (s.dev.objs.homeDie (64 * line)) 0 (64 * line)
  else s

/-- A word of local memory that a read delivers as uncorrectable is recorded (22 R419). -/
def noteWord (r : Nat) (s : State) (w : Nat) : State :=
  if Tab.get false (s.dev.core r).lpoison w then memRecord s 7 (dieOf r) (w % 16) (fld (8 * w) 11 + r) else s

/-- What a read of `n` bytes, by a thread or an engine, finds wrong with its lines or words (22 R411, R419). -/
def noteRead (s : State) (l : Loc) (n : Nat) : State :=
  match l with
  | .glob pa => (linesOf pa n).foldl noteLine s
  | .loc r o => (touched o n).foldl (noteWord r) s
  | _ => s

/-- A write of part of a line reads the rest of it: a wrong tag poisons the line (22 R411, R416). -/
def notePartial (s : State) (l : Loc) (n : Nat) : State :=
  match l with
  | .glob pa => ((linesOf pa n).filter (fun i => !(decide (pa ≤ 64 * i) && decide (64 * i + 64 ≤ pa + n)))).foldl noteLine s
  | _ => s

/-- A walk that met a poisoned entry leaves a record of type 8 (22 R406). -/
def noteWalk (s : State) (asid va : Nat) : State :=
  match walkPoison s asid va with
  | some a => memRecord s 8 (s.dev.objs.homeDie a) 0 a
  | none => s

/-- Walks for `n` bytes that met poisoned entries leave their records, one for each page (22 R406). -/
def noteWalks (s : State) (asid va n : Nat) : State :=
  let s1 := noteWalk s asid va
  if n = 0 || (va + n - 1) / 2 ^ 16 = va / 2 ^ 16 then s1 else noteWalk s1 asid (va + n - 1)

/-- The position of a peer in the population maps and the export table (10 R223, 11 R245). -/
def peerIx (p : Nat) : Nat := 8 * (p / 16) + p % 16

/-- A space-6 request at this device's own port, from a source device: the export translation (04 R96, 11 R245). -/
def portWalk (s : State) (src va n : Nat) (rd wr : Bool) : Chk :=
  let e := s.dev.plat.reg (0x600 + 8 * peerIx src)
  if !e.getLsbD 63 then .bad 0x11
  else match walk s (bits e 15 0) va with
    | none => .bad 0x10
    | some (level, leaf) =>
      if !leafExport leaf then .bad 0x11 else checks78 s.dev.objs (bits e 15 0) va n rd wr level leaf

/-- An entry that a walk would read lies in a bank group whose activations are held (22 R417). -/
def walkHeld (s : State) (asid va : Nat) : Bool :=
  match Tab.get 0 s.dev.objs.roots asid with
  | 0 => false
  | root => (walkReads s.mem 3 0 root va).any (fun a => s.heldBank (.glob a))

/-- The walk that an engine's access through a pointer needs is held (22 R417): by its thread's ASID, or at its own port. -/
def ptrHeld (s : State) (asid : Nat) (p : Word) : Bool :=
  if pspace p = 0 then walkHeld s asid (paddr p)
  else if pspace p = 6 && ppeer p == s.dev.objs.peerSelf.toNat then
    walkHeld s (bits (s.dev.plat.reg (0x600 + 8 * peerIx (ppeer p))) 15 0) (paddr p)
  else false

/-- The export translation of an address failed: a poisoned entry leaves its record (22 R406). -/
def notePort (s : State) (src va : Nat) : State := noteWalk s (bits (s.dev.plat.reg (0x600 + 8 * peerIx src)) 15 0) va

/-- A walk for one word at a pointer failed with a code, under an ASID or at the own port: a poisoned entry leaves its record (22
R406). -/
def noteCode (s : State) (asid : Nat) (c : Byte) (p : Word) : State :=
  if c ≠ 0x10 then s
  else if pspace p = 0 then noteWalk s asid (paddr p)
  else if pspace p = 6 && ppeer p == s.dev.objs.peerSelf.toNat then notePort s (ppeer p) (paddr p)
  else s

/-- A fault at a pointer that the instruction's own unit walked for: a poisoned entry leaves its record (22 R406). -/
def walkFault (s : State) (cause : Byte) (p : Word) (opnd : BitVec 32) : Out :=
  fault (noteCode s s.dev.me.asid.toNat cause p) cause p opnd

/-- The place of a space-6 access that passed check 4: the own device's words through its own port (10 R224). -/
def peerPlace (s : State) (p : Word) (n : Nat) (rd wr : Bool) : Chk :=
  if ppeer p = s.dev.objs.peerSelf.toNat then portWalk s (ppeer p) (paddr p) n rd wr else .ok (.peer (ppeer p) (paddr p)) 0

end Sys2Proof.Machine
end

