-- ==== Sys2Proof/Machine/Control.lean ====
section
/-! DEFINITION. Control transfer (13 R279). A target is a word index modulo 2^15; a target at or above the bound is no
fault, the next fetch asks for an overlay. -/

namespace Sys2Proof.Machine

/-- The issuing thread writes a link and jumps. -/
def jumpTo (s : State) (f : Slot → Slot) : Out := devStep s (fun d => d.onMe f)

/-- A register's target, modulo 2^15. -/
def target (v : Word) : PcIx := v.extractLsb' 0 15

/-- BR: PC plus the signed offset, modulo 2^15. -/
def execBr (off : BitVec 16) (s : State) : Out := jumpTo s (fun t => t.jump (t.pc + off.extractLsb' 0 15))

/-- JMP. -/
def execJmp (t : PcIx) (s : State) : Out := jumpTo s (fun u => u.jump t)

/-- CALL: the link is PC + 1. -/
def execCall (d : XReg) (t : PcIx) (s : State) : Out :=
  jumpTo s (fun u => (u.setX d ((u.pc + 1).setWidth 64)).jump t)

/-- CALLR: the target is read before the link is written. -/
def execCallr (d a : XReg) (s : State) : Out :=
  jumpTo s (fun u => (u.setX d ((u.pc + 1).setWidth 64)).jump (target (u.xr a)))

/-- RET. -/
def execRet (a : XReg) (s : State) : Out := jumpTo s (fun u => u.jump (target (u.xr a)))

/-- The counted branch's new count. -/
def lpCount (u : Slot) (d : XReg) : Word := u.xr d - 1

/-- LP: count down and branch while the result is not zero; `lp x0` always branches. -/
def execLp (d : XReg) (t : PcIx) (s : State) : Out :=
  jumpTo s (fun u => (u.setX d (lpCount u d)).jump (if lpCount u d ≠ 0 then t else u.pc + 1))

end Sys2Proof.Machine
end

