-- ==== Sys2Proof/Machine/Memory.lean ====
section
/-! DEFINITION. Loads, stores, full/empty forms, atomics, memory-side routines, fences, drains and barriers (14 R300 to
R316): what each waits for, checks and sends. What the homes do with a request stands in Perform.lean. -/

namespace Sys2Proof.Machine

/-- What an instruction of this chapter sends. -/
structure Ask where
  cls : Cls
  op : ReqOp
  dst : Dst := .none
  n : Nat
  align : Nat
  rd : Bool
  wr : Bool
  kind : Nat := 0
  /-- a store-class operation: a miss posts it (R304) -/
  posts : Bool := false
  /-- later accesses wait for its value or acknowledgement (06 R124) -/
  acq : Bool := false
  judged : Bool := false
  /-- extent of a failing pointer in the record (21 R396) -/
  ext : Nat := 0
  /-- spaces that R301 admits -/
  spaces : List Nat
  /-- a failure of checks 6 to 8 is imprecise, as for an operation already posted (21 R399) -/
  late : Bool := false
  /-- what an elision section has buffered of the word (08 R181) -/
  ov : List (Nat × Byte) := []

/-- The request of an ask at a place. -/
def Ask.req (q : Ask) (d : Dev) (p : Word) (l : Loc) (key : Nat) : Req :=
  let c := d.objs.covers d.rank l
  let w := q.op.writes
  { id := 0, cls := q.cls, op := q.op, ptr := p, loc := l, dst := q.dst, pc := d.me.pc, asid := d.me.asid.toNat,
    domain := d.me.domain.toNat, die := w && c.1, pkg := w && c.2.1, sys := w && c.2.2, kind := q.kind, elem := 0,
    key := key, judged := q.judged, ov := q.ov }

/-- The thread's flow once a request is sent: an acquire's hold joins (06 R124), the walk answers are spent. -/
def sendFlow (f : Flow) (r : Req) (acq : Bool) : Flow :=
  { (f.send r).spent with acq := if acq then f.acq ++ [f.nextId] else f.acq }

/-- Send and retire (02 R35); a judged request parks the thread on its answer (21 R395). -/
def sendNow (s : State) (q : Ask) (p : Word) (l : Loc) (key : Nat) : Out :=
  devStep s (fun d =>
    d.onMe (fun t =>
      { t.advance with flow := sendFlow t.flow (q.req d p l key) q.acq
                       parked := if q.judged then some (.answer t.flow.nextId) else none }))

/-- Post a store-class operation whose translation misses (R304): it retires and waits for the walk. -/
def postNow (s : State) (q : Ask) (p : Word) (asid page : Nat) : Out :=
  let full := !(s.dev.my.eng.mail.any (fun m => m.asid == asid && m.page == page)) && 16 ≤ s.dev.my.eng.mail.length
  if full then devStep s (fun d => d.park .mailbox)
  else devStep s (fun d =>
    (d.postMiss d.rank asid page (paddr p)).onMe (fun t =>
      { t.advance with flow :=
          { ({ t.flow with nextId := t.flow.nextId + 1 }.enter q.cls t.flow.nextId 1) with
              posted := t.flow.posted ++ [{ q.req d p (.peer 0 0) 0 with id := t.flow.nextId, die := false, pkg := false, sys := false }]
              acq := if q.acq then t.flow.acq ++ [t.flow.nextId] else t.flow.acq } }))

/-- A store-class operation that checks 6 to 8 refuse later retires, and its refusal stands in place of the acknowledgement (21
R399). -/
def sendRefused (s : State) (q : Ask) (p : Word) (c : Byte) : Out :=
  devStep s (fun d => d.onMe (fun t =>
    let r : Req := { q.req d p (.peer 0 0) 0 with id := t.flow.nextId, die := false, pkg := false, sys := false }
    { t.advance with flow :=
        { (({ t.flow with nextId := t.flow.nextId + 1 } : Flow).enter q.cls t.flow.nextId 1).spent with acks := t.flow.acks ++ [⟨r, some (c, 0)⟩] } }))

/-- A local write the bind table refuses (07 R150, 21 R399). -/
def guardRefuses (d : Dev) (q : Ask) (l : Loc) : Bool :=
  match l with
  | .loc r o => q.op.writes && !bindAllows (d.core r) o q.n
  | _ => false

/-- Check and send an ask at a pointer (R301 to R304): spaces admitted, checks 1 to 8 of 04 R77, the bind table. Space 5 has its
privilege check where R301 admits it, and is 0x13 elsewhere (10 R220, 21 R399). -/
def askAt (s : State) (q : Ask) (p : Word) : Out :=
  let x := BitVec.ofNat 32 (fld q.ext 8)
  if pspace p = 5 && q.spaces.contains 5 && !privSlot s.dev.who then fault s 0x04 p 0
  else if !q.spaces.contains (pspace p) then fault s 0x13 p x
  else match checkAcc s s.dev.rank s.dev.who s.dev.me .scalar p q.n q.align q.rd q.wr with
    | .bad c => if q.late && (c = 0x10 || c = 0x11 || c = 0x12) then sendRefused s q p c else fault s c p x
    | .ok l key => if guardRefuses s.dev q l then fault s 0x20 p 6 else sendNow s q p l key
    | .miss a pg => if q.posts then postNow s q p a pg else devStep s (fun d => d.missPark a pg (paddr p))

/-- The stalls before a request is sent: acquires (06 R124), fence.co for a load or an acquire (R134), room (R115). -/
def sendStalls (s : State) (load : Bool) (k : State → Out) (w : Bool := false) : Out :=
  parkUnless s .sendHold (fun s =>
    (if load then parkUnless s .coHold else fun k => k s) (fun s => parkUnless s (.room w) k))

/-- A release first waits under 06 R125. -/
def afterRelease (s : State) (r : Option Scope) (k : State → Out) : Out :=
  match r with
  | none => k s
  | some sc => parkUnless s (.release sc) k

/-- An M-form access (R301): stalls, the advanced pointer, then checks and sending. -/
def access (s : State) (rel : Option Scope) (load : Bool) (q : Ask) (base : Word) (off : Int) : Out :=
  sendStalls s load (fun s => afterRelease s rel (fun s =>
    match padvance base off with
    | none => fault s 0x13 base 0
    | some p => askAt s q p)) q.op.writes

/-- The release scope of an order. -/
def amoRel : AmoOrd → Option Scope
  | .rel s | .ar s => some s
  | _ => none

/-- Whether an order acquires. -/
def amoAcq : AmoOrd → Bool
  | .acq _ | .ar _ => true
  | _ => false

/-- The release scope of a store's order. -/
def stRel : StOrd → Option Scope
  | .rel s => some s
  | .plain => none

/-! ### Loads and stores, and an elision section's sets (08 R181) -/

/-- Distinct words of a section's sets with one more; a word in both sets counts once (R181 does not say; log 51). -/
def setSize (e : Elide) (w : Nat) : Nat := ((w :: e.reads) ++ e.writes.map (fun (b : Nat × Byte) => b.1 / 8)).eraseDups.length

/-- Buffer bytes in a section's write set. -/
def bufWrite (ws : List (Nat × Byte)) (o : Nat) (bs : List Byte) : List (Nat × Byte) :=
  match bs with
  | [] => ws
  | b :: r => bufWrite (ws.filter (fun e => e.1 != o) ++ [(o, b)]) (o + 1) r

/-- A section's access to a word: abort with cause 2 on the 65th word, with cause 4 outside own local memory. -/
def sectionAccess (s : State) (base : Word) (off : Int) (n : Nat) (k : State → Elide → Word → Out) : Out :=
  match s.dev.me.elide with
  | none => .next s
  | some e =>
    match padvance base off with
    | none => fault s 0x13 base 0
    | some p =>
      if pspace p = 1 then
        match checks5 s.dev s.dev.rank s.dev.who s.dev.me .scalar p n n with
        | some c => fault s c p 0
        | none =>
          if setSize e (paddr p / 8) > 64 then devStep s (fun d => d.onMe (fun t => t.abort 2 0)) else k s e p
      else devStep s (fun d => d.onMe (fun t => t.abort 4 (s.dev.my.lmem.read (t.pc.toNat * 12 + 11)).toNat))

/-- LD (R302). -/
def execLd (sz : Size) (sx : Bool) (o : LdOrd) (d a : XReg) (off : Src2) (s : State) : Out :=
  let q : Ask := { cls := .ld, op := .load (sizeBytes sz) sx, dst := .x d, n := (sizeBytes sz), align := (sizeBytes sz), rd := true, wr := false,
                   acq := o != .plain, spaces := [0, 1, 2, 4, 5, 6] }
  let base := s.dev.x a
  let i := (s.dev.me.src2 off).toInt
  if s.dev.me.elide.isSome then
    sectionAccess s base i (sizeBytes sz) (fun s e p =>
      parkUnless s .coHold (fun s => parkUnless s (.room false) (fun s =>
        askAt { s with dev := s.dev.onMe (fun t => { t with elide := some { e with reads := if e.reads.contains (paddr p / 8) then e.reads else e.reads ++ [paddr p / 8] } }) }
          { q with ov := e.writes.filter (fun b => paddr p ≤ b.1 && b.1 < paddr p + sizeBytes sz) } p)))
  else access s none true q base i

/-- ST (R303, R304). -/
def execSt (sz : Size) (o : StOrd) (a b : XReg) (off : BitVec 32) (s : State) : Out :=
  let v := s.dev.x b
  let base := s.dev.x a
  if s.dev.me.elide.isSome then
    sectionAccess s base off.toInt (sizeBytes sz) (fun s e p =>
      devStep s (fun d => d.retire (fun t =>
        { t with elide := some { e with writes := bufWrite e.writes (paddr p) (bytesOf (sizeBytes sz) v.toNat) } })))
  else
    access s (stRel o) false
      { cls := .st, op := .store (sizeBytes sz) v, n := (sizeBytes sz), align := (sizeBytes sz), rd := false, wr := true, kind := 1,
        posts := true, spaces := [0, 1, 2, 4, 5, 6] } base off.toInt

/-! ### Full/empty forms (R305, R306) -/

def feLoad (f : FeOp) (d a : XReg) (off : Src2) (s : State) : Out :=
  access s none true { cls := .ld, op := .fe f 0, dst := .x d, n := 8, align := 8, rd := true, wr := false,
                       acq := true, spaces := [0, 1, 2, 6] } (s.dev.x a) (s.dev.me.src2 off).toInt

def feStore (f : FeOp) (rel : Option Scope) (a : XReg) (v : Word) (off : BitVec 32) (s : State) : Out :=
  access s rel false { cls := .st, op := .fe f v, n := 8, align := 8, rd := false, wr := true, kind := 2, posts := true,
                       spaces := [0, 1, 2, 6] } (s.dev.x a) off.toInt

/-- LD_FE_PEEK: an acquire at its scope. -/
def execLdFePeek (_sc : Scope) (d a : XReg) (off : Src2) (s : State) : Out := feLoad .peek d a off s

/-- LD_FE_TAKE: an acquire at its scope. -/
def execLdFeTake (_sc : Scope) (d a : XReg) (off : Src2) (s : State) : Out := feLoad .take d a off s

/-- ST_FE_FILL: a release at its scope. -/
def execStFeFill (sc : Scope) (a b : XReg) (off : BitVec 32) (s : State) : Out :=
  feStore .fill (some sc) a (s.dev.x b) off s

/-- ST_FE_PUT: a release at its scope. -/
def execStFePut (sc : Scope) (a b : XReg) (off : BitVec 32) (s : State) : Out :=
  feStore .put (some sc) a (s.dev.x b) off s

/-- ST_FE_CLR. -/
def execStFeClr (a : XReg) (off : BitVec 32) (s : State) : Out := feStore .clr none a 0 off s

/-! ### Atomics (R307 to R309) -/

def amoBytes (wide : Bool) : Nat := if wide then 8 else 4

/-- `amo`: both page rights; the value returned is the acknowledgement. -/
def amo (f : AmoFn) (wide : Bool) (o : AmoOrd) (d a b : XReg) (off : BitVec 32) (s : State) : Out :=
  access s (amoRel o) (amoAcq o)
    { cls := .ld, op := .amo f wide (s.dev.x b) (s.dev.x d), dst := .x d, n := amoBytes wide, align := amoBytes wide,
      rd := true, wr := true, acq := (amoAcq o), spaces := [0, 1, 2, 6] } (s.dev.x a) off.toInt

/-- `red`: store-class, returns nothing. -/
def red (f : AmoFn) (wide : Bool) (o : StOrd) (a b : XReg) (off : BitVec 32) (s : State) : Out :=
  access s (stRel o) false
    { cls := .st, op := .red f wide (s.dev.x b), n := amoBytes wide, align := amoBytes wide, rd := true, wr := true,
      kind := 3, posts := true, spaces := [0, 1, 2, 6] } (s.dev.x a) off.toInt

/-- AMO_ADD (R307). -/
def execAmoAdd (w64 : Bool) (o : AmoOrd) (d a b : XReg) (off : BitVec 32) (s : State) : Out := amo .add w64 o d a b off s

/-- AMO_AND (R307). -/
def execAmoAnd (w64 : Bool) (o : AmoOrd) (d a b : XReg) (off : BitVec 32) (s : State) : Out := amo .and w64 o d a b off s

/-- AMO_OR (R307). -/
def execAmoOr (w64 : Bool) (o : AmoOrd) (d a b : XReg) (off : BitVec 32) (s : State) : Out := amo .or w64 o d a b off s

/-- AMO_XOR (R307). -/
def execAmoXor (w64 : Bool) (o : AmoOrd) (d a b : XReg) (off : BitVec 32) (s : State) : Out := amo .xor w64 o d a b off s

/-- AMO_MIN (R307). -/
def execAmoMin (w64 : Bool) (o : AmoOrd) (d a b : XReg) (off : BitVec 32) (s : State) : Out := amo .min w64 o d a b off s

/-- AMO_MAX (R307). -/
def execAmoMax (w64 : Bool) (o : AmoOrd) (d a b : XReg) (off : BitVec 32) (s : State) : Out := amo .max w64 o d a b off s

/-- AMO_MINZ (R307). -/
def execAmoMinz (w64 : Bool) (o : AmoOrd) (d a b : XReg) (off : BitVec 32) (s : State) : Out := amo .minz w64 o d a b off s

/-- AMO_MAXZ (R307). -/
def execAmoMaxz (w64 : Bool) (o : AmoOrd) (d a b : XReg) (off : BitVec 32) (s : State) : Out := amo .maxz w64 o d a b off s

/-- AMO_SWAP (R307). -/
def execAmoSwap (w64 : Bool) (o : AmoOrd) (d a b : XReg) (off : BitVec 32) (s : State) : Out := amo .swap w64 o d a b off s

/-- AMO_CAS (R307). -/
def execAmoCas (w64 : Bool) (o : AmoOrd) (d a b : XReg) (off : BitVec 32) (s : State) : Out := amo .cas w64 o d a b off s

/-- AMO_FADD (R307, R308). -/
def execAmoFadd (o : AmoOrd) (d a b : XReg) (off : BitVec 32) (s : State) : Out := amo .fadd false o d a b off s

/-- AMO_FMIN (R307, R308). -/
def execAmoFmin (o : AmoOrd) (d a b : XReg) (off : BitVec 32) (s : State) : Out := amo .fmin false o d a b off s

/-- AMO_FMAX (R307, R308). -/
def execAmoFmax (o : AmoOrd) (d a b : XReg) (off : BitVec 32) (s : State) : Out := amo .fmax false o d a b off s

/-- RED_ADD (R309). -/
def execRedAdd (w64 : Bool) (o : StOrd) (a b : XReg) (off : BitVec 32) (s : State) : Out := red .add w64 o a b off s

/-- RED_AND (R309). -/
def execRedAnd (w64 : Bool) (o : StOrd) (a b : XReg) (off : BitVec 32) (s : State) : Out := red .and w64 o a b off s

/-- RED_OR (R309). -/
def execRedOr (w64 : Bool) (o : StOrd) (a b : XReg) (off : BitVec 32) (s : State) : Out := red .or w64 o a b off s

/-- RED_XOR (R309). -/
def execRedXor (w64 : Bool) (o : StOrd) (a b : XReg) (off : BitVec 32) (s : State) : Out := red .xor w64 o a b off s

/-- RED_MIN (R309). -/
def execRedMin (w64 : Bool) (o : StOrd) (a b : XReg) (off : BitVec 32) (s : State) : Out := red .min w64 o a b off s

/-- RED_MAX (R309). -/
def execRedMax (w64 : Bool) (o : StOrd) (a b : XReg) (off : BitVec 32) (s : State) : Out := red .max w64 o a b off s

/-- RED_MINZ (R309). -/
def execRedMinz (w64 : Bool) (o : StOrd) (a b : XReg) (off : BitVec 32) (s : State) : Out := red .minz w64 o a b off s

/-- RED_MAXZ (R309). -/
def execRedMaxz (w64 : Bool) (o : StOrd) (a b : XReg) (off : BitVec 32) (s : State) : Out := red .maxz w64 o a b off s

/-- RED_FADD (R308, R309). -/
def execRedFadd (o : StOrd) (a b : XReg) (off : BitVec 32) (s : State) : Out := red .fadd false o a b off s

/-- RED_FMIN (R308, R309). -/
def execRedFmin (o : StOrd) (a b : XReg) (off : BitVec 32) (s : State) : Out := red .fmin false o a b off s

/-- RED_FMAX (R308, R309). -/
def execRedFmax (o : StOrd) (a b : XReg) (off : BitVec 32) (s : State) : Out := red .fmax false o a b off s

/-! ### Memory-side routines (R310 to R312, 10 R221) -/

/-- `n` registers from one on. -/
def regsFrom (t : Slot) (d : XReg) : Nat → List Word
  | 0 => []
  | n + 1 => t.xr d :: regsFrom t (d + 1) n

/-- `cas2` and `cas4`: expected values from D on, new values from B on, success into a predicate. -/
def casN (n : Nat) (o : AmoOrd) (p : PReg) (d a b : XReg) (s : State) : Out :=
  access s (amoRel o) (amoAcq o)
    { cls := .ld, op := .cas (regsFrom s.dev.me d n) (regsFrom s.dev.me b n), dst := .xs d (some p), n := 8 * n,
      align := 8 * n, rd := true, wr := true, acq := (amoAcq o), spaces := [0, 1, 2, 6] } (s.dev.x a) 0

/-- MOS_CAS2 (R311). -/
def execMosCas2 (o : AmoOrd) (p : PReg) (d a b : XReg) (s : State) : Out := casN 2 o p d a b s

/-- MOS_CAS4 (R311). -/
def execMosCas4 (o : AmoOrd) (p : PReg) (d a b : XReg) (s : State) : Out := casN 4 o p d a b s

/-- MOS_ENQ: header and node are checked in the core for space and alignment, then posted (R304, R312). -/
def execMosEnq (o : AmoOrd) (a b : XReg) (s : State) : Out :=
  let node := s.dev.x b
  sendStalls s (amoAcq o) (fun s => afterRelease s (amoRel o) (fun s =>
    if node = 0 then fault s 0x13 0 0
    else if !tagsKnown node || !locBitsOk node || pspace node ≠ 0 then fault s 0x13 node 0
    else if paddr node % 8 ≠ 0 then fault s 0x14 node 0
    else askAt s { cls := .st, op := .enq node, n := 16, align := 16, rd := true, wr := true, kind := 4, posts := true,
                   late := true, acq := (amoAcq o), spaces := [0] } (s.dev.x a))) true

/-- MOS_DEQ: parked until the routine's answer returns (R312, 21 R395). -/
def execMosDeq (o : AmoOrd) (d a : XReg) (s : State) : Out :=
  access s (amoRel o) (amoAcq o)
    { cls := .ld, op := .deq, dst := .x d, n := 16, align := 16, rd := true, wr := true, acq := (amoAcq o), judged := true,
      spaces := [0] } (s.dev.x a) 0

/-- MOS_CHASE: the core checks the start pointer; each hop is translated and read at its home (10 R221, R312). -/
def execMosChase (d a : XReg) (hops : BitVec 4) (off : BitVec 32) (s : State) : Out :=
  let p := s.dev.x a
  sendStalls s false (fun s =>
    match checks5 s.dev s.dev.rank s.dev.who s.dev.me .scalar p 8 8 with
    | some c => fault s (if pspace p = 0 then c else 0x13) p 0
    | none =>
      if pspace p ≠ 0 then fault s 0x13 p 0
      else
        sendNow s { cls := .ld, op := .chase (hops.toNat + 1) 0 off.toInt p, dst := .xs d none, n := 8, align := 8,
                    rd := true, wr := false, judged := true, spaces := [0] } p (.glob 0) 0)

/-! ### Fences and drains (R313, R314) -/

/-- FENCE: waits at issue (06 R127). -/
def execFence (sc : Scope) (s : State) : Out :=
  parkUnless s (.fence sc) (fun s => devStep s (fun d => d.retire (fun t => t)))

/-- FENCE_OC: retires at issue and holds later engine commands (06 R133). -/
def execFenceOc (sc : Scope) (s : State) : Out :=
  devStep s (fun d => d.retire (fun t => { t with flow := { t.flow with oc := t.flow.oc ++ [(sc, t.flow.nextId)] }.settleOc }))

/-- FENCE_CO: retires at issue and holds later loads and acquires (06 R134). -/
def execFenceCo (sc : Scope) (s : State) : Out :=
  devStep s (fun d => d.retire (fun t =>
    { t with flow := { t.flow with
        co := t.flow.co.filter (fun h => coWaits s d.rank d.who h) ++ [⟨sc, coIds d d.rank d.who, coOuts d d.rank d.who⟩] } }))

/-- DRAINS: earlier store-class operations have finished checks 6 to 8, sends were accepted or refused (R314). -/
def execDrains (s : State) : Out := parkUnless s .drain (fun s => devStep s (fun d => d.retire (fun t => t)))

/-! ### Barriers (R315, R316, 03 R40) -/

def levelNum : Scope → Nat
  | .grp => 0
  | .core => 1
  | .quad => 2
  | .die => 3
  | .dev => 4
  | .sys => 5

/-- The instance of a group barrier: the core and the number of the group there, so that no two groups share one (14 R315). -/
def groupInst (r inst : Nat) : Nat := r * 2 ^ 64 + inst

/-- The thread's instance of a level. -/
def barInst (d : Dev) (l : Nat) : Nat :=
  match l with
  | 0 => groupInst d.rank d.me.ginst
  | 1 => d.rank
  | 2 => d.rank / 4
  | 3 => dieOf d.rank
  | 4 => ldevOf d.objs.mode (dieOf d.rank)
  | _ => 0

/-- The launch queue of the issuing thread's group. -/
def myQueue (d : Dev) : Nat :=
  match d.my.eng.groups.find? (fun g => g.lead == d.me.lead) with
  | some g => g.queue
  | none => 0

/-- The live members of a group: those in their slots, and those saved (20 R388), which a member list names by their
keys. -/
def liveMembers (d : Dev) (r : Nat) (g : Group) : List Nat :=
  g.members.filter (fun k =>
    if k < 16 then (d.slot r k).life == .live && (d.slot r k).lead == g.lead
    else (d.core r).eng.saved.any (fun q => q.key == k && q.reason < 3))

/-- The groups of a core: those with members in slots, and those whose members are all saved (20 R388). -/
def allGroups (e : CoreEng) : List Group := e.groups ++ e.saved.filterMap (·.group)

/-- Arrivals a level needs: the group's live members, saved ones among them, or the queue's participant count (03 R40, R316). -/
def barNeed (d : Dev) (r : Nat) (l queue inst : Nat) : Nat :=
  match l with
  | 0 =>
    match (allGroups (d.core r).eng).find? (fun g => groupInst r g.inst == inst) with
    | some g => (liveMembers d r g).length
    | none => 0
  | _ =>
    match d.objs.queues.find? (fun q => q.num == queue) with
    | some q => nth 0 q.counts (l - 1)
    | none => 0

def barGet (o : Objs) (l q i : Nat) : Bar :=
  (o.bars.find? (fun b => b.level == l && b.queue == q && b.inst == i)).getD ⟨l, q, i, 0, 0⟩

def barPut (o : Objs) (b : Bar) : Objs :=
  { o with bars := b :: o.bars.filter (fun x => !(x.level == b.level && x.queue == b.queue && x.inst == b.inst)) }

/-- `bar` is for slots 1 to 10 (R316). -/
def barSlot (s : State) (k : State → Out) : Out := if isHelper s.dev.who then k s else privFault s

/-- The execution condition of R316, judged when the instruction has left its stalls (21 R394): a participant count that is not
0. -/
def barOk (s : State) (sc : Scope) (k : State → Out) : Out :=
    let l := levelNum sc
    if barNeed s.dev s.dev.rank l (myQueue s.dev) (barInst s.dev l) = 0 then fault s 0x11 0 (BitVec.ofNat 32 (fld 7 8 + l))
    else k s

/-- Wait for the generation an earlier arrival named (R315). -/
def barPrior (s : State) (sc : Scope) (k : State → Out) : Out :=
  let l := levelNum sc
  match Tab.get none s.dev.me.bars l with
  | none => k s
  | some g => parkUnless s (.barrier l (myQueue s.dev) (barInst s.dev l) g) k

/-- Send the arrival and name the current generation. -/
def barSend (d : Dev) (sc : Scope) (f : Slot → Slot) : Dev :=
  let l := levelNum sc
  let q := myQueue d
  let i := barInst d l
  (d.onObjs (fun o => { o with arrivals := o.arrivals ++ [(l, q, i)] })).onMe (fun t =>
    f { t with bars := Tab.set t.bars l (some (barGet d.objs l q i).gen) })

/-- BAR_ARRIVE (R315). -/
def execBarArrive (l : Scope) (s : State) : Out :=
  barSlot s (fun s => barPrior s l (fun s => parkUnless s (.release l) (fun s => barOk s l (fun s =>
    devStep s (fun d => barSend d l Slot.advance)))))

/-- The wait half: an acquire, which a fence.co holds back (06 R134); the completion empties the record (R315). -/
def barWait (s : State) (l : Scope) (f : Slot → Slot) : Out :=
  parkUnless s .coHold (fun s => barPrior s l (fun s => devStep s (fun d => d.retire (fun t => f { t with bars := Tab.set t.bars (levelNum l) none }))))

/-- BAR_WAIT (R315): an empty record retires at once. -/
def execBarWait (l : Scope) (s : State) : Out :=
  barSlot s (fun s => barOk s l (fun s =>
    if (Tab.get none s.dev.me.bars (levelNum l)).isNone then devStep s (fun d => d.retire (fun t => t)) else barWait s l (fun t => t)))

/-- BAR_ARRIVEWAIT (R315): arrive, then wait, as one instruction: once its arrival is sent (`sent` = 1) the thread stands
parked on the generation it named. -/
def execBarArrivewait (l : Scope) (s : State) : Out :=
  if s.dev.me.sent = 1 then barWait s l (fun t => { t with sent := 0 })
  else barSlot s (fun s => barPrior s l (fun s => parkUnless s (.release l) (fun s => barOk s l (fun s =>
    devStep s (fun d => barSend d l (fun t =>
      let n := levelNum l
      { t with parked := some (.barrier n (myQueue d) (barInst d n) (barGet d.objs n (myQueue d) (barInst d n)).gen)
               sent := 1 }))))))

/-- BARRIER_ARRIVAL: one arrival is counted; a generation with all its arrivals completes (R315). -/
def execBarrierArrival (i : Nat) (s : State) : Out :=
  match nth? s.dev.objs.arrivals i with
  | none => .next s
  | some (l, q, inst) =>
    devStep s (fun d => d.onObjs (fun o =>
      let b := barGet o l q inst
      let o := { o with arrivals := dropAt o.arrivals i }
      let need := barNeed d (if l = 0 then inst / 2 ^ 64 else 0) l q inst
      if b.arrived + 1 ≥ need then barPut o { b with gen := b.gen + 1, arrived := 0 }
      else barPut o { b with arrived := b.arrived + 1 }))

end Sys2Proof.Machine
end

