-- ==== Sys2Proof/Machine/Order.lean ====
section
/-! DEFINITION. The ordering machine's homes, acknowledgements and returns (06 R113 to R119, R130, R131; 14 R302 to R312; 10
R220, R221): what a home does with one request, and what reaches the thread afterwards. -/

namespace Sys2Proof.Machine

/-! ### Frames of saved contexts -/

/-- Header word 3 of a frame (20 R388): predicates and counters. -/
def frameWord3 (t : Slot) : Word :=
  w64 (fld (t.p.toNat / 2) 32 + fld (t.flow.tl.length % 16) 27 + fld (t.flow.cp.length % 512) 18 +
    fld (t.flow.st.length % 512) 9 + t.flow.ld.length % 512)

/-- Header word 5: pending-write counters. -/
def frameWord5 (t : Slot) : Word := w64 (fld t.flow.sys.toNat 18 + fld t.flow.pkg.toNat 9 + t.flow.die.toNat)

/-- The frame's image of the deferred faults: header word 7 with its count of parked copies kept, and the area at 0x1A00 (20
R388). -/
def frameDeferred (m : Mem) (pa : Nat) (l : List Defer) : Mem :=
  l.zipIdx.foldl (fun m e => m.setWords (pa + 0x1A00 + 16 * e.2) [w64 (fld e.1.cause.toNat 56 + e.1.opnd.toNat), e.1.addr])
    (m.setWord (pa + 56) (w64 (fld l.length 8 + bits (m.word (pa + 56)) 7 0)))

/-- A role register's image in a frame (20 R388). DESIGN CHOICE: an empty register shows as the word 0 (log 57). -/
def frameRoles (m : Mem) (pa : Nat) (t : Slot) : Mem :=
  (upto 4).foldl (fun m i => m.setWord (pa + 0x540 + 8 * i) (Tab.get 0 t.roles i)) m

/-- After a delivery to a saved context its frame's images follow (20 R388, 06 R138). -/
def State.frameSync (s : State) (r k : Nat) (xs : List XReg) : State :=
  if k < 16 then s
  else match (s.dev.core r).eng.saved.find? (fun q => q.key == k) with
    | none => s
    | some q =>
      if 3 ≤ q.reason then s
      else
        let m0 := s.mem.writeN q.frame 2 q.ctx.pc.toNat
        let m1 := (m0.setWord (q.frame + 24) (frameWord3 q.ctx)).setWord (q.frame + 40) (frameWord5 q.ctx)
        let m1 := frameRoles (frameDeferred m1 q.frame q.ctx.flow.deferred) q.frame q.ctx
        s.physMem ( xs.foldl (fun m x => if x = 0 then m else m.setWord (q.frame + 0x40 + 8 * (x.toNat - 1)) (q.ctx.xr x)) m1) q.frame 0x2000

/-! ### What a home does with one request -/

/-- The outcome at a home. -/
inductive Res
  | ret (ws : List Word) (ok : Bool)
  | ack
  | failQ (cause sub : Byte)
  | defer (cause : Byte) (opnd : BitVec 32)
  | refuse (cause : Byte) (addr : Word) (opnd : BitVec 32)
  | wait
  | again (q : Req)
  deriving DecidableEq, Repr

/-- The new value of an atomic (14 R307, R308), on `n`-bit values. -/
def amoNew (f : AmoFn) (wide : Bool) (old b e : Word) : Word :=
  let n := if wide then 64 else 32
  let o := old.toNat % 2 ^ n
  let v := b.toNat % 2 ^ n
  let sgn : Nat → Int := fun x => if x / 2 ^ (n - 1) % 2 = 1 then (x : Int) - (2 : Int) ^ n else (x : Int)
  w64 (match f with
    | .add => (o + v) % 2 ^ n
    | .and => (old &&& b).toNat % 2 ^ n
    | .or => (old ||| b).toNat % 2 ^ n
    | .xor => (old ^^^ b).toNat % 2 ^ n
    | .min => if sgn o < sgn v then o else v
    | .max => if sgn o < sgn v then v else o
    | .minz => if o < v then o else v
    | .maxz => if o < v then v else o
    | .swap => v
    | .cas => if o = e.toNat % 2 ^ n then v else o
    | .fadd => fpOp .add .fp32 .rne o v 0
    | .fmin => fminmax fp32 true o v
    | .fmax => fminmax fp32 false o v)

/-- Operand of a poisoned delivery (22 R412): element, extent 0, source. -/
def poisonOpnd (elem src : Nat) : BitVec 32 := BitVec.ofNat 32 (elem % 256 + fld src 11)

/-- Write at a home, or the refusal of a lost bank group, a failed die or a guard buffer (22 R418, 24 R434, 07 R150). -/
def homeWrite (s : State) (l : Loc) (q : Req) (bs : List Byte) : State × Res :=
  if s.lost l then (s, .failQ 0x68 0)
  else match l with
    | .loc r o => if bindAllows (s.dev.core r) o bs.length then (s.writeLoc l q.key bs, .ack) else (s, .failQ 0x20 6)
    | _ => (s.writeLoc l q.key bs, .ack)

/-- A list pointer or link a routine follows: valid, space 0, aligned (14 R312). -/
def linkBad (p : Word) : Option Byte :=
  if !tagsKnown p || !locBitsOk p || pspace p ≠ 0 then some 0x13 else if paddr p % 8 ≠ 0 then some 0x14 else none

/-- Translate a word that a routine reads or writes, under the issuing thread's ASID (14 R312). -/
def routineWord (s : State) (q : Req) (p : Word) (wr : Bool) : Except Byte (Nat × Nat) :=
  match linkBad p with
  | some c => .error c
  | none => match checkWalk s q.asid (paddr p) 8 true wr with
    | .ok (.glob pa) key => .ok (pa, key)
    | .bad c => .error c
    | _ => .error 0x10

/-- A routine writes one word. -/
def routineWrite (s : State) (pa key : Nat) (v : Word) : State := (notePartial s (.glob pa) 8).writeLoc (.glob pa) key (bytesOf 8 v.toNat)

/-- A walk or a word that a routine needs lies in a bank group whose activations are held (22 R417). -/
def wordHeld (s : State) (q : Req) (p : Word) : Bool :=
  pspace p == 0 && (walkHeld s q.asid (paddr p) || (match walk s q.asid (paddr p) with
    | some (l, leaf) => s.heldBank (.glob (leafPa l leaf (paddr p)))
    | none => false))

/-- A routine's request at a place waits for a held bank group: its header, the node, the tail's node, the next hop (22 R417). -/
def routineHeld (s : State) (l : Loc) (q : Req) : Bool :=
  match q.op, l with
  | .enq node, .glob h => wordHeld s q node || (s.wordAs (h + 8) q.key != 0 && wordHeld s q (s.wordAs (h + 8) q.key))
  | .deq, .glob h => s.wordAs h q.key != 0 && wordHeld s q (s.wordAs h q.key)
  | .chase _ _ off p, _ => (padvance p off).any (wordHeld s q)
  | _, _ => false

/-- `enq` at the header (10 R221); a lost line that it would write refuses it whole (22 R418). -/
def homeEnq (s : State) (h : Nat) (q : Req) (node : Word) : State × Res :=
  let tail := s.wordAs (h + 8) q.key
  match routineWord s q node true with
  | .error c => (noteCode s q.asid c node, .failQ c 0)
  | .ok (na, nk) =>
    if s.lost (.glob na) || s.lost (.glob h) then (s, .failQ 0x68 0)
    else if tail = 0 then
      let s1 := routineWrite s na nk 0
      let s2 := routineWrite s1 h q.key node
      (routineWrite s2 (h + 8) q.key node, .ack)
    else match routineWord s q tail true with
      | .error c => (noteCode s q.asid c tail, .failQ c 0)
      | .ok (ta, tk) =>
        if s.lost (.glob ta) then (s, .failQ 0x68 0)
        else
          let s1 := routineWrite s na nk 0
          let s2 := routineWrite s1 ta tk node
          (routineWrite s2 (h + 8) q.key node, .ack)

/-- `deq` at the header (10 R221). -/
def homeDeq (s : State) (h : Nat) (q : Req) : State × Res :=
  let node := s.wordAs h q.key
  if node = 0 then (s, .ret [0] true)
  else match routineWord s q node true with
    | .error c => (noteCode s q.asid c node, .refuse c node 0)
    | .ok (na, nk) =>
      if s.poisoned (.glob na) || s.lost (.glob h) then (noteRead s (.glob na) 8, .defer 0x68 (poisonOpnd 0 3))
      else
        let link := s.wordAs na nk
        match if link = 0 then none else linkBad link with
        | some c => (s, .refuse c link 0)
        | none =>
          let s1 := routineWrite s h q.key link
          (if link = 0 then routineWrite s1 (h + 8) q.key 0 else s1, .ret [node] true)

/-- One hop of a `chase` (10 R221, 14 R312). -/
def homeChase (s : State) (q : Req) (left taken : Nat) (off : Int) (p : Word) : State × Res :=
  match padvance p off with
  | none => (s, .refuse 0x13 p 0)
  | some a => match routineWord s q a false with
    | .error c => (noteCode s q.asid c a, .refuse c a 0)
    | .ok (pa, key) =>
      if s.poisoned (.glob pa) then (noteRead s (.glob pa) 8, .defer 0x68 (poisonOpnd 0 3))
      else
        let link := s.wordAs pa key
        if link = 0 then (s, .ret [p, w64 taken] true)
        else match linkBad link with
          | some c => (s, .refuse c link 0)
          | none =>
            if left ≤ 1 then (s, .ret [link, w64 (taken + 1)] true)
            else (s, .again { q with op := .chase (left - 1) (taken + 1) off link, ptr := q.ptr })

/-- A section's thread reads its own buffered bytes (08 R181). -/
def overlay (ws : List (Nat × Byte)) (o : Nat) (bs : List Byte) : List Byte :=
  match bs with
  | [] => []
  | b :: r => (((ws.find? (fun e => e.1 == o)).map (·.2)).getD b) :: overlay ws (o + 1) r

/-- A home performs a memory request at a place (06 R116, R118, R130). A section's load sees what the section had buffered
when the load was issued (08 R181). -/
def homeOp (s : State) (l : Loc) (q : Req) : State × Res :=
  match q.op with
  | .load n sx =>
    if s.poisoned l then (s, .defer 0x68 (poisonOpnd q.elem (if q.kind = 5 then 4 else 1)))
    else
      let v := match l with
        | .loc _ o => ofBytes (overlay q.ov o (bytesOf n (s.readLoc l n)))
        | _ => s.readAs l n q.key
      (s, .ret [extendN n sx v] true)
  | .store n v => homeWrite s l q (bytesOf n v.toNat)
  | .fe f v =>
    match f with
    | .peek =>
      if s.isEmpty l then (s, .wait)
      else if s.poisoned l then (s, .defer 0x68 (poisonOpnd 0 1)) else (s, .ret [w64 (s.readAs l 8 q.key)] true)
    | .take =>
      if s.isEmpty l then (s, .wait)
      else if s.poisoned l then (s.setFe l true, .defer 0x68 (poisonOpnd 0 1))
      else (s.setFe l true, .ret [w64 (s.readAs l 8 q.key)] true)
    | .fill =>
      if !s.isEmpty l then (s, .wait)
      else
        let r := homeWrite s l q (bytesOf 8 v.toNat)
        (if r.2 = .ack then r.1.setFe l false else r.1, r.2)
    | .put =>
      let r := homeWrite s l q (bytesOf 8 v.toNat)
      (if r.2 = .ack then r.1.setFe l false else r.1, r.2)
    | .clr => if s.lost l then (s, .failQ 0x68 0) else (s.setFe l true, .ack)
  | .amo f wide b e =>
    let n := if wide then 8 else 4
    if s.poisoned l then (s, .defer 0x68 (poisonOpnd 0 2))
    else
      let old := w64 (s.readAs l n q.key)
      let r := homeWrite s l q (bytesOf n (amoNew f wide old b e).toNat)
      (r.1, if r.2 = .ack then .ret [old] true else .defer 0x20 6)
  | .red f wide b =>
    let n := if wide then 8 else 4
    if s.poisoned l then (s, .failQ 0x68 0)
    else homeWrite s l q (bytesOf n (amoNew f wide (w64 (s.readAs l n q.key)) b 0).toNat)
  | .cas e n =>
    if s.poisonedIn l (8 * e.length) then (s, .defer 0x68 (poisonOpnd 0 3))
    else
      let old := (upto e.length).map (fun i =>
        match l with
        | .glob pa => s.wordAs (pa + 8 * i) q.key
        | .loc r o => (s.dev.core r).lmem.word (o + 8 * i)
        | _ => 0)
      if old = e then
        let r := homeWrite s l q (n.flatMap (fun w => bytesOf 8 w.toNat))
        (r.1, if r.2 = .ack then .ret old true else .defer 0x20 6)
      else (s, .ret old false)
  | .enq node =>
    match l with
    | .glob h => if s.poisoned l then (s, .failQ 0x68 0) else homeEnq s h q node
    | _ => (s, .failQ 0x13 0)
  | .deq =>
    match l with
    | .glob h => if s.poisoned l then (s, .defer 0x68 (poisonOpnd 0 3)) else homeDeq s h q
    | _ => (s, .refuse 0x13 q.ptr 0)
  | .chase left taken off p => homeChase s q left taken off p
  | _ => (s, .ack)

/-! ### What reaches the thread -/

/-- Queue an outcome for the thread: a value on its return path, or an acknowledgement (06 R116). -/
def Flow.answer (f : Flow) (q : Req) (x : Res) : Flow :=
  match x with
  | .ret ws ok => { f with rets := f.rets ++ [⟨q, .words ws ok⟩] }
  | .ack => { f with acks := f.acks ++ [⟨q, none⟩] }
  | .failQ c b => { f with acks := f.acks ++ [⟨q, some (c, b)⟩] }
  | .defer c o => { f with rets := f.rets ++ [⟨q, .defer c q.ptr o⟩] }
  | .refuse c a o => { f with rets := f.rets ++ [⟨q, .refuse c a o⟩] }
  | .wait => f
  | .again q' => { f with bag := f.bag ++ [q'] }

/-- Whether two places hold a common word. -/
def sameWord (a : Loc) (an : Nat) (b : Loc) (bn : Nat) : Bool :=
  match a, b with
  | .glob x, .glob y => x / 8 * 8 < y + bn && y / 8 * 8 < x + an
  | .loc r x, .loc q y => r == q && x / 8 * 8 < y + bn && y / 8 * 8 < x + an
  | .acc u b x, .acc v c y => u == v && b == c && x / 8 * 8 < y + bn && y / 8 * 8 < x + an
  | .ctl x, .ctl y => x == y
  | .peer p x, .peer q y => p == q && x / 8 * 8 < y + bn && y / 8 * 8 < x + an
  | _, _ => false

/-- Bytes a memory request covers; other requests cover none. -/
def ReqOp.span : ReqOp → Nat
  | .load n _ => n
  | .store n _ => n
  | .fe _ _ => 8
  | .amo _ w _ _ => if w then 8 else 4
  | .red _ w _ => if w then 8 else 4
  | .cas e _ => 8 * e.length
  | .enq _ | .deq => 16
  | _ => 0

/-- The place and bytes of the next access of a request, by the translation that now holds: the next hop of a `chase`, the
own device's word of a space-6 request (10 R224), the word of a posted operation whose walk is awaited (14 R304). -/
def nextPlace (s : State) (q : Req) : Loc × Nat :=
  let at_ := fun (c : Chk) => match c with
    | .ok l _ => l
    | _ => q.loc
  match q.op, q.loc with
  | .chase _ _ off p, _ => match padvance p off with
    | some a => (match walk s q.asid (paddr a) with
      | some (level, leaf) => (.glob (leafPa level leaf (paddr a)), 8)
      | none => (q.loc, 0))
    | none => (q.loc, 0)
  | op, .peer p va =>
    if pspace q.ptr = 0 then (match walk s q.asid (paddr q.ptr) with
      | some (level, leaf) => (.glob (leafPa level leaf (paddr q.ptr)), op.span)
      | none => (q.loc, 0))
    else if p = s.dev.objs.peerSelf.toNat then (at_ (portWalk s p va op.span false false), op.span)
    else (q.loc, op.span)
  | op, l => (l, op.span)

/-- An earlier request of the thread to a common word stands in the bag, in a wait list or posted: it goes first
(06 R117). A posted operation also precedes a later one at its own virtual address. -/
def earlierSame (s : State) (r k : Nat) (q : Req) : Bool :=
  let f := (s.dev.thr r k).flow
  let prior := fun p : Req => p.id < q.id || (p.id == q.id && p.elem < q.elem)
  let here := nextPlace s q
  let before := fun p : Req => prior p && (let there := nextPlace s p
    there.2 != 0 && sameWord there.1 there.2 here.1 here.2)
  here.2 != 0 &&
    (f.bag.any before || s.dev.objs.feWait.any (fun w => w.1 == r && w.2.1 == k && before w.2.2) ||
      f.posted.any (fun p => before p || (prior p && pspace q.ptr == 0 && p.asid == q.asid &&
        paddr p.ptr / 8 * 8 < paddr q.ptr + q.op.span && paddr q.ptr / 8 * 8 < paddr p.ptr + p.op.span)))

/-- The first waiter of a word (06 R131). -/
def firstWaiter (l : List (Nat × Nat × Req)) (a : Loc) : Option (Nat × Nat × Req) :=
  l.find? (fun w => sameWord w.2.2.loc 8 a 8)

/-- A queue with an eligible record counts time toward promotion from its first (03 R60). -/
def Queue.touch (q : Queue) (now : Nat) : Queue :=
  { q with since := if q.recs.any (·.eligible) then q.since.or (some now) else none }

/-- Tasks that a full dependence word releases (03 R56). -/
def markEligible (s : State) (pa : Nat) : State :=
  { s with dev := s.dev.onObjs (fun o => { o with queues := o.queues.map (fun q =>
      ({ q with recs := q.recs.map (fun x =>
                  if !x.eligible && q.syncBase + 8 * bits (nth 0 x.words 7) 31 0 = pa / 8 * 8 then { x with eligible := true } else x) } : Queue).touch
        s.dev.now) }) }

/-- Serve a word's wait list in order until its head must wait again (06 R131). -/
def serveWaiters : Nat → State → Loc → State
  | 0, s, _ => s
  | n + 1, s, a =>
    match firstWaiter s.dev.objs.feWait a with
    | none => s
    | some (r, k, q) =>
      match homeOp s q.loc q with
      | (_, .wait) => s
      | (s1, x) =>
        let s2 : State := { s1 with dev := (s1.dev.onObjs (fun o => { o with feWait := o.feWait.erase (r, k, q) })).onThrFlow r k
                                     (fun f => f.answer q x) }
        serveWaiters n (match q.op, q.loc with
          | .fe .fill _, .glob pa => if x = .ack then markEligible s2 pa else s2
          | _, _ => s2) a

/-- Serve the waiters of every word of an extent after an engine has set it full or empty (06 R131, R132). -/
def serveAll (s : State) (ls : List Loc) : State :=
  ls.foldl (fun s l => serveWaiters (s.dev.objs.feWait.length + 1) s l) s

/-- A physical address the map has no memory at (04 R85). -/
def noMemory (s : State) (l : Loc) : Option Nat :=
  match l with
  | .glob pa => if s.dev.objs.exists pa then none else some pa
  | _ => none

/-- A bank's word is performed between array steps (09 R193). -/
def stepHolds (d : Dev) (l : Loc) : Bool :=
  match l with
  | .acc u _ _ => (d.coach u).step.isSome
  | _ => false

/-- An access to a place is held for now: its bank group's activations (22 R417), or the array step (09 R193). -/
def placeHeld (s : State) (l : Loc) : Bool := s.heldBank l || stepHolds s.dev l

/-- An engine sets words full after their data is in place; their waiters are served and the tasks that wait for them are
released (06 R131, R132, 03 R56). -/
def fillWords (s : State) (ws : List Loc) : State :=
  let s1 := ws.foldl (fun (s : State) w => s.setFe w false) s
  let s2 := ws.foldl (fun (s : State) w => match w with
    | .glob pa => markEligible s pa
    | _ => s) s1
  serveAll s2 ws

/-- A home performs one memory request of a thread's bag (06 R116): its effect, its answer, the waiters its bit change
serves, the tasks it releases. -/
def performMem (s : State) (r k i : Nat) (q : Req) (l : Loc) : State :=
  let s0 := { s with dev := s.dev.onThrFlow r k (fun f => { f with bag := dropAt f.bag i }) }
  match homeOp s0 l q with
  | (_, .wait) => { s0 with dev := s0.dev.onObjs (fun o => { o with feWait := o.feWait ++ [(r, k, { q with loc := l })] }) }
  | (s1, x) =>
    let s2 := { s1 with dev := s1.dev.onThrFlow r k (fun f => f.answer q x) }
    match q.op, l with
    | .fe f _, .glob pa =>
      let s3 := serveWaiters (s2.dev.objs.feWait.length + 1) s2 l
      if (f = .fill || f = .put) && x = .ack then markEligible s3 pa else s3
    | .fe _ _, _ => serveWaiters (s2.dev.objs.feWait.length + 1) s2 l
    | _, _ => s2

/-- Checked posted operations enter the bag, in order, while there is room (06 R115). -/
def Dev.sendReady (d : Dev) (r k : Nat) : Dev :=
  ((d.thr r k).flow.posted.filter Req.ready).foldl (fun d q =>
    if d.roomFor r k (d.thr r k).flow 1 true then
      d.onThrFlow r k (fun f =>
        (({ f with bag := f.bag ++ [q], posted := f.posted.filter (fun p => !(p.id == q.id && p.elem == q.elem)) } : Flow).raiseCnt q).settleOc)
    else d) d

/-! ### Acknowledge and Return -/

/-- An acquire's hold ends (06 R124). -/
def Flow.acqDone (f : Flow) (id : Nat) : Flow := { f with acq := f.acq.filter (· != id) }

/-- The store-fault record of a failed request (20 R382). -/
def sfOf (k : Nat) (q : Req) (c b : Byte) : SfRec := ⟨c, b, k, q.kind, if q.kind = 5 then q.elem else 0, q.pc, q.ptr⟩

/-- ACKNOWLEDGE: an acknowledgement lowers the counters and leaves `st`; a refusal enters the store-fault queue, and the
counters fall with it (06 R116, 20 R382, 25 R442). -/
def execAcknowledge (r k i : Nat) (s : State) : Out :=
  match nth? (s.dev.thr r k).flow.acks i with
  | none => .next s
  | some a =>
    let d := s.dev.onThrFlow r k (fun f => { f with acks := dropAt f.acks i }.acqDone a.req.id)
    match a.fail with
    | none =>
      .next (({ s with dev := (d.onThrFlow r k (fun f => (f.lowerCnt a.req).finish a.req.cls a.req.id)).sendReady r k } : State).frameSync r k [])
    | some (c, b) =>
      let ended := (s.dev.core r).eng.saved.any (fun q => q.key == k && q.reason == 3)
      let d1 := if ended then d.onThrFlow r k (fun f => (f.lowerCnt a.req).finish a.req.cls a.req.id)
        else d.storeFault r (sfOf k a.req c b) (some a.req)
      .next (({ s with dev := d1.sendReady r k } : State).frameSync r k [])

/-- The registers a destination names. -/
def Dst.regs (n : Nat) : Dst → List XReg
  | .x r => [r]
  | .xs r _ => (upto n).map (fun i => r + BitVec.ofNat 6 i)
  | _ => []

/-- Deliver values to a context's registers (02 R35 Deliver). -/
def Slot.deliver (t : Slot) (dst : Dst) (ws : List Word) (ok : Bool) : Slot :=
  match dst with
  | .x r => t.setX r (nth 0 ws 0)
  | .xs r p =>
    let t1 := (upto ws.length).foldl (fun t i => t.setX (r + BitVec.ofNat 6 i) (nth 0 ws i)) t
    match p with
    | some p => t1.setP p ok
    | none => t1
  | .role n => { t with roles := Tab.set t.roles n (nth 0 ws 0) }
  | _ => t

/-- A vector element in lane form (15 R342): a byte sign-extended, a wider element zero-extended. -/
def laneImage (bytes : Nat) (w : Word) : BitVec 32 :=
  if bytes = 1 then (w.extractLsb' 0 8).signExtend 32
  else BitVec.ofNat 32 (w.toNat % 2 ^ (8 * bytes))

def Dev.deliverLane (d : Dev) (r v l bytes : Nat) (w : Word) : Dev :=
  d.onCore r (fun c => { c with vec := { c.vec with v := Tab.set c.vec.v (v * 256 + l) (laneImage bytes w) } })

/-- RETURN: a value on the return path reaches its register and the operation leaves its class; a refusal is raised at
the instruction's PC (21 R395), a poisoned or failed answer waits for the thread's boundary (20 R384). -/
def execReturnValue (r k i : Nat) (s : State) : Out :=
  match nth? (s.dev.thr r k).flow.rets i with
  | none => .next s
  | some a =>
    let q := a.req
    let d := (s.dev.onThrFlow r k (fun f =>
      (({ f with rets := dropAt f.rets i }.acqDone (if q.cls = Cls.none then f.nextId else q.id)).lowerCnt q).finish q.cls q.id)).sendReady r k
    match a.val with
    | .words ws ok =>
      let d1 := match q.dst with
        | .lane v l b => if k < 16 then d.deliverLane r v l b (nth 0 ws 0) else d
        | _ => d.onThr r k (fun t => t.deliver q.dst ws ok)
      let s1 : State := { s with dev := d1 }
      let s2 := match q.dst, (if k < 16 then none else (s.dev.core r).eng.saved.find? (fun x => x.key == k)) with
        | .lane v l b, some x =>
          if 3 ≤ x.reason then s1
          else s1.physMem (s1.mem.writeN (x.frame + 0x2000 + 1024 * v + 4 * l) 4 (laneImage b (nth 0 ws 0)).toNat) (x.frame + 0x2000 + 1024 * v + 4 * l) 4
        | _, _ => s1
      .next (s2.frameSync r k (q.dst.regs ws.length))
    | .refuse c ad o =>
      if k < 16 then
        .next { s with dev := (d.onSlot r k (fun t => { t with pc := q.pc, parked := none })).raiseAt r k c ad o }
      else
        .next (({ s with dev := d.onThr r k (fun t => { t with pc := q.pc, flow := t.flow.deferFault c ad o }) } : State).frameSync r k [])
    | .defer c ad o => .next (({ s with dev := d.onThrFlow r k (fun f => f.deferFault c ad o) } : State).frameSync r k [])

end Sys2Proof.Machine
end

