-- ==== Sys2Proof/Machine/Guards.lean ====
section
/-! DEFINITION. Guards (07 R139 to R160, 14 R317, R318, 22 R412 source 8, 24 R429): the instructions, the guard manager, the
bind table, deliveries and refreshes. -/

namespace Sys2Proof.Machine

def guardOf (o : Objs) (word : Nat) : Option Guard := o.guards.find? (fun g => g.word == word)

/-- A guard's manager has failed with its die (01 R21, R22): nothing of it is granted, released or refreshed. -/
def managerDown (d : Dev) (pa : Nat) : Bool := d.dieDown (d.objs.homeDie pa)

/-- The guard manager does not take a request now: its die has failed (01 R22), or the guard is being unbound (07 R156, 21
R400). -/
def managerBusy (s : State) (pa : Nat) : Bool := managerDown s.dev pa || (guardOf s.dev.objs pa).any (·.busy)

def putGuard (o : Objs) (g : Guard) : Objs :=
  { o with guards := o.guards.map (fun x => if x.word = g.word then g else x) }

/-- Sub-block size of a code (R139). -/
def blockSize (code : Nat) : Nat := 256 * 2 ^ code

/-- The scope code of a descriptor (R144). -/
def scopeCode : Scope → Nat
  | .grp => 0
  | .core => 1
  | .quad => 2
  | .die => 3
  | .dev => 4
  | .sys => 5

def scopeOfCode (n : Nat) : Scope :=
  match n with
  | 0 => .grp
  | 1 => .core
  | 2 => .quad
  | 3 => .die
  | 4 => .dev
  | _ => .sys

/-- A thread lies inside a guard's scope instance (R140). -/
def insideScope (o : Objs) (g : Guard) (rank ginst : Nat) : Bool :=
  let b := g.brank.toNat
  match g.scope with
  | .grp => rank == b && ginst == g.binst
  | .core => rank == b
  | .quad => rank / 4 == b / 4
  | .die => dieOf rank == dieOf b
  | .dev => ldevOf o.mode (dieOf rank) == ldevOf o.mode (dieOf b)
  | .sys => true

/-- Translation of a guard word: its presence only, for the manager finds the descriptor by its physical address
(R142). The own peer number leads through the own port to the same guard word (10 R224). -/
def guardWordAt (s : State) (p : Word) (k : Loc → Out) : Out :=
  match checks5 s.dev s.dev.rank s.dev.who s.dev.me .scalar p 8 8 with
  | some c => fault s c p 0
  | none =>
    let t := s.dev.me
    if pspace p = 6 then
      (match peerPlace s p 8 false false with
       | .ok l _ => k l
       | .bad c => walkFault s c p 0
       | .miss _ _ => walkFault s 0x10 p 0)
    else match tlbHit s.dev s.dev.rank t.asid.toNat (paddr p) with
      | some e => k (.glob (leafPa e.level e.leaf (paddr p)))
      | none => match walkedFind t.flow.walked t.asid.toNat (paddr p) with
        | some (some (level, leaf)) => k (.glob (leafPa level leaf (paddr p)))
        | some none => fault s 0x10 p 0
        | none => devStep s (fun d => d.missPark t.asid.toNat (paddr p / 2 ^ 16) (paddr p))

/-- A guard request: no memory is read or written through the pointer. -/
def guardAsk (cls : Cls) (op : ReqOp) (dst : Dst) (acq judged : Bool) : Ask :=
  { cls := cls, op := op, dst := dst, n := 8, align := 8, rd := false, wr := false, acq := acq, judged := judged,
    spaces := [0, 6] }

/-- BIND (R139, R317, R318): a release at S. -/
def execBind (sc : Scope) (d a b : XReg) (n1 : BitVec 8) (code : BitVec 4) (s : State) : Out :=
  let region := s.dev.x a
  let word := s.dev.x b
  if s.dev.who > 10 then privFault s
  else sendStalls s false (fun s => parkUnless s (.release sc) (fun s =>
    if code.toNat > 8 || pspace region ≠ 0 || pspace word ≠ 0 || paddr region % blockSize code.toNat ≠ 0 || paddr word % 8 ≠ 0
    then fault s 0x20 word 9
    else if !tagsKnown region || !locBitsOk region then fault s 0x13 region 0
    else guardWordAt s word (fun l =>
      sendNow s (guardAsk .ld (.bind region sc n1.toNat code.toNat) (.x d) false false) word l 0)))

/-- The manager's part of `bind` (R140, R141): the lowest status that applies, or the descriptor and the range entry. -/
def homeBind (s : State) (r k : Nat) (q : Req) (region : Word) (sc : Scope) (n1 code : Nat) (pa : Nat) : State × Res :=
  let o := s.dev.objs
  let base := paddr region
  let len := blockSize code * (n1 + 1)
  if o.ranges.length ≥ 4096 then (s, .ret [1] true)
  else if rangeHit o q.asid base len then (s, .ret [2] true)
  else if (guardOf o pa).isSome then (s, .ret [3] true)
  else if rangeHit o q.asid (paddr q.ptr) 8 || (base ≤ paddr q.ptr && paddr q.ptr < base + len) then (s, .ret [4] true)
  else
    let g : Guard :=
      { word := pa, base := BitVec.ofNat 49 base, asid := BitVec.ofNat 16 q.asid, epoch := 0, code := BitVec.ofNat 4 code,
        count := BitVec.ofNat 8 n1, scope := sc, mode := 0, shared := 0, next := 2, home := true, last := (0, 0), hmark := 1,
        valid := false, holder := (0, 0), bpeer := o.peerSelf, brank := BitVec.ofNat 11 r, bslot := k, binst := (s.dev.thr r k).ginst,
        stamps := (upto (n1 + 1)).map (fun i => (i, 1)), wait := [], waitAt := (Config.freeWord s.dev.free).setWidth 44,
        stampsAt := ((Config.freeWord (s.dev.free + 1)).setWidth 44 >>> 10) <<< 10, busy := false }
    ({ s with dev := { s.dev.onObjs (fun o => { o with guards := o.guards ++ [g], ranges := o.ranges ++ [(q.asid, base, len)] }) with
                         free := s.dev.free + 2 } },
     .ret [0] true)

/-- A last or current exclusive holder as words 3 and 4 show it: peer, rank and entry (R144). -/
def holderBits (o : Objs) (h : Nat × Nat) : Nat :=
  (if 2048 ≤ h.1 then fld (h.1 - 2048) 16 else fld o.peerSelf.toNat 16 + fld h.1 5) + h.2

/-- The eight words of a descriptor (R144). No rule places them in control space: 11 R244 to R250 name no offset for them (log
51). -/
def Guard.descriptor (g : Guard) (o : Objs) : List Word :=
  [w64 g.base.toNat,
   w64 (fld g.asid.toNat 48 + fld g.epoch.toNat 16 + fld g.code.toNat 12 + fld g.count.toNat 4 + fld (scopeCode g.scope) 1),
   w64 (fld g.mode.toNat 62 + fld g.shared.toNat 50 + g.next.toNat),
   w64 (fld (b2n g.home) 63 + fld (holderBits o g.last) 39 + g.hmark.toNat),
   w64 (fld (b2n g.valid) 63 + fld (holderBits o g.holder) 39),
   w64 g.waitAt.toNat, w64 g.stampsAt.toNat, w64 (fld g.bpeer.toNat 56 + fld g.brank.toNat 45)]

/-- The sub-blocks a refresh moves: those stamped above hmark (R154). -/
def staleBlocks (g : Guard) : List Nat :=
  if g.home then [] else (upto (g.count.toNat + 1)).filter (fun i => Tab.get (0 : BitVec 32) g.stamps i > g.hmark)

/-- Start a refresh on the last exclusive holder's copy engine (R154). -/
def startRefresh (d : Dev) (g : Guard) (x : Xfer) : Dev :=
  let r := if g.home then x.rank else g.last.1
  let y := { x with refresh := true, guard := g.word, src := if g.home then none else some g.last, list := staleBlocks g, high := g.next - 1,
                    epoch := g.epoch }
  d.onEng r (fun e => { e with xfers := e.xfers ++ [y] })

def blankXfer : Xfer :=
  { refresh := true, guard := 0, rank := 0, entry := 0, slot := 0, id := 0, src := none, list := [], ptr := 0, after := 0, high := 0, epoch := 0,
    req := none, stuck := false, placed := [], filled := [] }

/-- UNBIND (R156, R318): an acquire once its status returns. -/
def execUnbind (d a : XReg) (s : State) : Out :=
  let word := s.dev.x a
  if s.dev.who > 10 then privFault s
  else sendStalls s true (fun s =>
    if pspace word ≠ 0 then fault s 0x13 word 0
    else guardWordAt s word (fun l => sendNow s (guardAsk .ld .unbind (.x d) true false) word l 0))

/-- The manager's part of `unbind`: statuses 2, 3, 1 in that order, or a refresh after which the guard goes. -/
def homeUnbind (s : State) (r k : Nat) (q : Req) (pa : Nat) : State × Res :=
  match guardOf s.dev.objs pa with
  | none => (s, .ret [2] true)
  | some g =>
    if g.asid.toNat ≠ q.asid then (s, .ret [3] true)
    else if g.mode ≠ 0 || !g.wait.isEmpty || g.busy then (s, .ret [1] true)
    else
      let d := s.dev.onObjs (fun o => putGuard o { g with busy := true })
      ({ s with dev := startRefresh d g { blankXfer with rank := r, slot := k, id := q.id, ptr := q.ptr, after := 2, req := some q } }, .wait)

/-- Remove the entries of one guard from a bind table (R156). A pending one's request finds the guard gone and frees it then (R148). -/
def dropEntries (which : BindEnt → Bool) (e : CoreEng) : CoreEng :=
  { e with bind := e.bind.filterMap (fun b =>
      if !which b.2 then some b else if b.2.mode = 3 then some (b.1, { b.2 with epoch := 0xFFFF, mark := 0 }) else none) }

/-- Freeing a guard: its range entry, every core's bind entry within the scope instance, the descriptor (R156). A peer's manager that
frees one tells this device by packet (`PacketOp.gfree`). -/
def freeGuard (d : Dev) (g : Guard) : Dev :=
  let drop := fun (rc : Nat × Core) =>
    if insideScope d.objs g rc.1 g.binst then
      (rc.1, { rc.2 with eng := dropEntries (fun b => b.gpeer.isNone && b.guard.toNat == g.word) rc.2.eng })
    else rc
  { d with
    cores := d.cores.map drop
    objs := { d.objs with guards := d.objs.guards.filter (fun x => x.word ≠ g.word)
                          ranges := d.objs.ranges.filter (fun e => !(e.1 == g.asid.toNat && e.2.1 == g.base.toNat)) } }

/-! ### The bind table -/

def bindFor (e : CoreEng) (l : Loc) : Option (Nat × BindEnt) :=
  e.bind.find? (fun b => b.2.valid &&
    (match l with
     | .glob pa => b.2.gpeer == none && b.2.guard.toNat == pa
     | .peer p va => b.2.gpeer == some p && b.2.gva == BitVec.ofNat 45 va
     | _ => false))

/-- A free entry's number. -/
def freeEntry (e : CoreEng) : Option Nat := (upto 32).find? (fun i => !(Tab.get {} e.bind i).valid)

/-- The idle entry released longest ago (R146). -/
def oldestIdle (e : CoreEng) : Option Nat :=
  (upto 32).foldl (fun best i =>
    let b := Tab.get {} e.bind i
    if b.valid && b.mode == 0 then
      (match best with
       | none => some i
       | some j => if b.released < (Tab.get {} e.bind j).released then some i else best)
    else best) none

/-- An entry is its guard's last exclusive holder (R146, R155). -/
def isLast (o : Objs) (r i : Nat) (b : BindEnt) : Bool :=
  match guardOf o b.guard.toNat with
  | some g => b.gpeer.isNone && !g.home && g.last == (r, i)
  | none => false

/-- The new entry of a first `gacq` (R146, R148). The physical address of a guard word at a peer comes with the first grant (R145). -/
def newEntry (l : Loc) (t : Slot) (buf : Word) : BindEnt :=
  let b : BindEnt := { mode := 3, asid := t.asid, buffer := BitVec.ofNat 18 (paddr buf), group := BitVec.ofNat 4 t.start,
                       ginst := t.ginst, valid := true }
  match l with
  | .glob pa => { b with guard := BitVec.ofNat 44 pa }
  | .peer p va => { b with gpeer := some p, gva := BitVec.ofNat 45 va }
  | _ => b

def setEntry (d : Dev) (r i : Nat) (b : BindEnt) : Dev := d.onEng r (fun e => { e with bind := Tab.set e.bind i b })

/-- A slot's place among those that wait for an entry (R146). -/
def awaitEntry (k i : Nat) (e : CoreEng) : CoreEng :=
  if e.bindWait.contains (k, i) then e else { e with bindWait := e.bindWait ++ [(k, i)] }

/-- Send the request of a `gacq` whose entry is `i`. -/
def gacqSend (s : State) (excl : Bool) (d : XReg) (word : Word) (l : Loc) (i : Nat) (b : BindEnt) : Out :=
  sendNow { s with dev := (setEntry s.dev s.dev.rank i b).onEng s.dev.rank (endAwait s.dev.who) }
    (guardAsk .ld (.gacq excl i) (.x d) true true) word l 0

/-- A request of a core itself to the manager of a peer's guard, about one of its entries. -/
def toPeerManager (d : Dev) (r i : Nat) (b : BindEnt) (p : Nat) (op : ReqOp) : Dev :=
  let q : Req := { id := 0, cls := .none, op := op, ptr := w64 b.gva.toNat, loc := .peer p b.gva.toNat, dst := .none, pc := 0,
                   asid := b.asid.toNat, domain := 0, die := false, pkg := false, sys := false, kind := 13, elem := i, key := 0, judged := false }
  d.onObjs (fun o => { o with fabric := o.fabric ++ [⟨r, 16, q, [], 0, false⟩] })

/-- The entry to be replaced may be its guard's last exclusive holder, which the manager at a peer knows: it is asked, and the
entry's sub-blocks follow where it is (R146, R155). -/
def askPeer (d : Dev) (r i : Nat) (b : BindEnt) (p : Nat) : Dev :=
  if dropping d r i then d else toPeerManager d r i b p (.gdrop i)

/-- `gacq` (R146 to R148, 21 R400): the core's own checks, the entry, the request. Another group's thread waits for a held or
pending entry first, and its buffer's offset is judged when the entry is idle (log 51). DESIGN CHOICE: the group that holds or awaits
the entry and names another offset takes subcause 3, not 4 (log 58). -/
def gacq (excl : Bool) (d a b : XReg) (s : State) : Out :=
  let word := s.dev.x a
  let buf := s.dev.x b
  if !isHelper s.dev.who then privFault s
  else sendStalls s true (fun s =>
    if pspace word ≠ 0 && pspace word ≠ 6 then fault s 0x13 word 0
    else guardWordAt s word (fun l =>
      let e := s.dev.my.eng
      let t := s.dev.me
      if !tagsKnown buf || pspace buf ≠ 1 || !locBitsOk buf || paddr buf % 8 ≠ 0 ||
          !windowOk s.dev.my s.dev.who t (paddr buf) 8 then fault s 0x20 word 3
      else match bindFor e l with
        | some (i, x) =>
          if x.mode ≠ 0 then
            if x.ginst = t.ginst then fault s 0x20 word (if x.buffer.toNat ≠ paddr buf then 3 else 4)
            else devStep s (fun v => (v.onEng v.rank (awaitEntry v.who i)).park (.bindEntry i))
          else if x.buffer.toNat ≠ paddr buf then fault s 0x20 word 3
          else gacqSend s excl d word l i { x with mode := 3, asid := t.asid, group := BitVec.ofNat 4 t.start, ginst := t.ginst }
        | none =>
          match freeEntry e with
          | some i => gacqSend s excl d word l i (newEntry l t buf)
          | none =>
            match oldestIdle e with
            | none => fault s 0x20 word 7
            | some i =>
              let x := Tab.get {} e.bind i
              if isLast s.dev.objs s.dev.rank i x then
                match guardOf s.dev.objs x.guard.toNat with
                | none => .next s
                | some g =>
                  devStep s (fun v =>
                    (if e.xfers.any (fun y => y.after == 4 && y.guard == g.word) then v
                     else startRefresh v g { blankXfer with rank := v.rank, entry := i, after := 4 }).park (.bindFreed i))
              else match x.gpeer with
                | some p => if x.epoch = 0xFFFF then gacqSend s excl d word l i (newEntry l t buf)
                  else devStep s (fun v => (askPeer v v.rank i x p).park (.bindFreed i))
                | none => gacqSend s excl d word l i (newEntry l t buf)))

/-- GACQ_X. -/
def execGacqX (d a b : XReg) (s : State) : Out := gacq true d a b s

/-- GACQ_S. -/
def execGacqS (d a b : XReg) (s : State) : Out := gacq false d a b s

/-- An entry's pending request is gone: a new entry is freed, an old one returns to mode none (R148, R395). -/
def Dev.unpend (d : Dev) (r i : Nat) : Dev :=
  let b := Tab.get {} (d.core r).eng.bind i
  setEntry d r i (if b.epoch = 0xFFFF && b.mark = 0 then {} else { b with mode := 0 })

/-- The answer that lets a judged instruction retire while its request goes on (R395). -/
def acceptRet (q : Req) : Ret := ⟨{ q with cls := .none, dst := .none, die := false, pkg := false, sys := false }, .words [] true⟩

/-- The manager's judgement of a `gacq`: subcauses 1 and 2, or a place in the wait list (R148). -/
def homeGacq (s : State) (r k : Nat) (q : Req) (i : Nat) (pa : Nat) : State × Res :=
  match guardOf s.dev.objs pa with
  | none => ({ s with dev := s.dev.unpend r i }, .refuse 0x20 q.ptr 1)
  | some g =>
    if g.asid.toNat ≠ q.asid || !insideScope s.dev.objs g r (s.dev.thr r k).ginst then
      ({ s with dev := s.dev.unpend r i }, .refuse 0x20 q.ptr 2)
    else
      let d := s.dev.onObjs (fun o => putGuard o { g with wait := g.wait ++ [⟨r, k, { q with judged := false }⟩] })
      ({ s with dev := d.onThrFlow r k (fun f => { f with rets := f.rets ++ [acceptRet q] }) }, .wait)

/-- The manager's release of a hold (R151 to R153); `dirty` is the entry's mask. -/
def releaseHold (g : Guard) (r i : Nat) (excl : Bool) (dirty : Mask) (mark : BitVec 32) (epoch : BitVec 16) :
    Guard × BitVec 32 × BitVec 16 :=
  if excl then
    if dirty = 0 then ({ g with mode := 0, valid := false }, mark, epoch)
    else
      let n := g.next
      let stamps := g.stamps.map (fun e => if dirty.getLsbD e.1 then (e.1, n) else e)
      let g1 := { g with mode := 0, valid := false, home := false, last := (r, i) }
      if n = 0xFFFFFFFF then
        ({ g1 with stamps := g.stamps.map (fun e => (e.1, 1)), next := 2, hmark := 0, epoch := g.epoch + 1 }, 1, g.epoch + 1)
      else ({ g1 with stamps := stamps, next := n + 1 }, n, epoch)
  else
    let n := g.shared - 1
    ({ g with shared := n, mode := if n = 0 then 0 else g.mode }, mark, epoch)

/-- The manager and the entry after a release. -/
def Dev.releaseEntry (d : Dev) (g : Guard) (r i : Nat) (b : BindEnt) : Dev :=
  let x := releaseHold g r i (b.mode == 2) b.dirty b.mark b.epoch
  let d1 := d.onObjs (fun o => putGuard o x.1)
  d1.onEng r (fun e => { e with
    bind := Tab.set e.bind i { b with dirty := 0, mode := 0, mark := x.2.1, epoch := x.2.2, released := e.relTick }
    relTick := e.relTick + 1 })

/-- GREL (R151, 21 R400): waits for due to be 0, then as a release at the guard's scope. -/
def execGrel (a : XReg) (s : State) : Out :=
  let word := s.dev.x a
  if !isHelper s.dev.who then privFault s
  else sendStalls s false (fun s =>
    if pspace word ≠ 0 && pspace word ≠ 6 then fault s 0x13 word 0
    else guardWordAt s word (fun l =>
      match bindFor s.dev.my.eng l with
      | none => fault s 0x20 word 5
      | some (i, b) =>
        parkUnless s (.dueZero i) (fun s => parkUnless s (.release (scopeOfCode b.scope.toNat)) (fun s =>
          if b.mode = 0 || b.mode = 3 || b.ginst ≠ s.dev.me.ginst then fault s 0x20 word 5
          else sendNow s (guardAsk .st (.grel i) .none false true) word l 0))))

/-- The manager's part of `grel`: subcause 8, or the release (R153). -/
def homeGrel (s : State) (r k : Nat) (q : Req) (i : Nat) (pa : Nat) : State × Res :=
  match guardOf s.dev.objs pa with
  | none => (s, .refuse 0x20 q.ptr 1)
  | some g =>
    let b := Tab.get {} (s.dev.core r).eng.bind i
    if b.mode == 2 && b.dirty != 0 && g.next == 0xFFFFFFFF && g.epoch == 0xFFFF then (s, .refuse 0x20 q.ptr 8)
    else
      let d := s.dev.releaseEntry g r i b
      ({ s with dev := d.onThrFlow r k (fun f => { f with rets := f.rets ++ [acceptRet q] }) }, .ack)

/-- GFLUSH (R154): counts in `cp` until the refresh has been performed. -/
def execGflush (a : XReg) (s : State) : Out :=
  let word := s.dev.x a
  if s.dev.who > 10 then privFault s
  else sendStalls s false (fun s =>
    if pspace word ≠ 0 && pspace word ≠ 6 then fault s 0x13 word 0
    else guardWordAt s word (fun l => sendNow s (guardAsk .cp .gflush .none false true) word l 0))

def homeGflush (s : State) (r k : Nat) (q : Req) (pa : Nat) : State × Res :=
  match guardOf s.dev.objs pa with
  | none => (s, .refuse 0x20 q.ptr 1)
  | some g =>
    let d := s.dev.onObjs (fun o => putGuard o { g with wait := g.wait ++ [⟨r, k, { q with judged := false }⟩] })
    ({ s with dev := d.onThrFlow r k (fun f => { f with rets := f.rets ++ [acceptRet q] }) }, .wait)

/-! ### Grants, deliveries, refreshes -/

/-- Whether a waiting request asks for exclusive mode. -/
def GReq.excl (q : GReq) : Bool :=
  match q.req.op with
  | .gacq x _ => x
  | _ => false

/-- The delivery list (R147). -/
def deliveryList (g : Guard) (b : BindEnt) : List Nat :=
  let seen := if b.epoch = g.epoch then b.mark else 0
  (upto (g.count.toNat + 1)).filter (fun i => Tab.get (0 : BitVec 32) g.stamps i > seen)

/-- A grant to a peer leaves with its answer: what is known of the peer's entry follows, and a local last holder's copy engine
sends the listed sub-blocks (R147, R149; log 7). -/
def peerGrant (d : Dev) (g : Guard) (r k e : Nat) (x : Bool) (b : BindEnt) : Dev :=
  let l := deliveryList g b
  let d1 := setEntry d r e { b with mode := if x then 2 else 1, epoch := g.epoch, mark := g.next - 1, dirty := 0 }
  let y := { blankXfer with refresh := false, guard := g.word, rank := r, entry := e, slot := k, src := some g.last, list := l }
  if g.home || l.isEmpty || 2048 ≤ g.last.1 then d1 else d1.onEng g.last.1 (fun n => { n with xfers := n.xfers ++ [y] })

/-- GUARD_GRANT: the manager grants the head of the wait list when the mode admits it (R147); not while the guard is unbound (R156)
or its die has failed (01 R22). -/
def execGuardGrant (gi : Nat) (s : State) : Out :=
  match nth? s.dev.objs.guards gi with
  | none => .next s
  | some g =>
    match g.wait with
    | [] => .next s
    | w :: rest =>
      if managerBusy s g.word || (w.excl && g.mode ≠ 0) || (!w.excl && (g.mode = 2 || g.shared = 0xFFF)) then .next s
      else
        let ent := match w.req.op with
          | .gacq _ e => e
          | _ => 0
        let g1 := if w.excl then { g with mode := 2, valid := true, holder := (w.rank, ent), wait := rest }
          else { g with mode := 1, shared := g.shared + 1, wait := rest }
        let d := s.dev.onObjs (fun o => putGuard o g1)
        match w.req.op with
        | .gacq x e =>
          let b := Tab.get {} (s.dev.core w.rank).eng.bind e
          if 2048 ≤ w.rank then .next { s with dev := peerGrant d g w.rank w.slot e x b }
          else .next { s with dev := d.onObjs (fun o => { o with grants := o.grants ++
            [⟨w.rank, w.slot, w.req, g.word, x, e, deliveryList g b, g.next - 1, g.epoch, if g.home then none else some g.last⟩] }) }
        | _ =>
          .next { s with dev := startRefresh d g { blankXfer with rank := w.rank, slot := w.slot, id := w.req.id, ptr := w.req.ptr, after := 1 } }

/-- What a grant tells its core: the descriptor's fields, the high stamp, the delivery list and its source (R147). -/
structure Given where
  excl : Bool
  entry : Nat
  word : Nat
  code : BitVec 4
  count : BitVec 8
  scope : BitVec 3
  epoch : BitVec 16
  high : BitVec 32
  list : List Nat
  src : Option (Nat × Nat)

/-- The buffer checks that need the descriptor (R148). -/
def bufferOk (c : Core) (k : Nat) (t : Slot) (x : Given) (b : BindEnt) : Bool :=
  let n := blockSize x.code.toNat * (x.count.toNat + 1)
  windowOk c k t b.buffer.toNat n &&
    c.eng.bind.all (fun e => e.1 == x.entry || !e.2.valid ||
      !(b.buffer.toNat < e.2.buffer.toNat + blockSize e.2.code.toNat * (e.2.count.toNat + 1) &&
        e.2.buffer.toNat < b.buffer.toNat + n))

/-- The words of a list of sub-blocks made empty (R147). -/
def emptyBlocks (c : Core) (base size : Nat) (l : List Nat) : Core :=
  l.foldl (fun c i => (upto (size / 8)).foldl (fun c w => c.setEmpty ((base + i * size) / 8 + w) true) c) c

/-- A grant whose buffer fails its checks is not taken: the entry is as before, the thread takes 0x20, subcause 3, at its next
boundary (R148). -/
def grantFails (s : State) (r k : Nat) (q : Req) (i : Nat) : State :=
  ({ s with dev := (s.dev.unpend r i).onThrFlow r k (fun f => ((f.acqDone q.id).finish q.cls q.id).deferFault 0x20 q.ptr 3) } : State).frameSync r k []

/-- A grant whose buffer passes its checks (R147): the listed sub-blocks are emptied, the entry holds, the grant is delivered,
and the delivery counts in `cp` and stands at its source's copy engine (R149). -/
def grantLands (s : State) (r k : Nat) (q : Req) (x : Given) : State :=
  let b := Tab.get {} (s.dev.core r).eng.bind x.entry
  let due := x.list.length
  let b1 : BindEnt :=
    { b with code := x.code, count := x.count, scope := x.scope, mode := if x.excl then 2 else 1
             epoch := x.epoch, mark := x.high, due := BitVec.ofNat 9 due, dirty := 0 }
  let d1 := s.dev.onCore r (fun c =>
    emptyBlocks { c with eng := { c.eng with bind := Tab.set c.eng.bind x.entry b1 } } b.buffer.toNat (blockSize x.code.toNat) x.list)
  let d2 := d1.onThr r k (fun t =>
    let t1 := t.deliver q.dst [w64 (fld x.high.toNat 32 + due)] true
    let f1 := (t1.flow.acqDone q.id).finish q.cls q.id
    { t1 with flow := (if due = 0 then f1 else f1.enter .cp q.id 1) })
  let seen : BitVec 32 := if b.epoch = x.epoch then b.mark else 0
  let y := { blankXfer with refresh := false, guard := x.word, rank := r, entry := x.entry, slot := k, id := q.id, src := x.src, list := x.list,
                            ptr := q.ptr, high := seen }
  let d3 := if due = 0 then d2 else d2.onEng (x.src.elim r (·.1)) (fun e => { e with xfers := e.xfers ++ [y] })
  ({ s with dev := d3 } : State).frameSync r k (q.dst.regs 1)

/-- GRANT_ARRIVAL: the grant reaches the core (R147, R148); a hold that the core cannot take returns with nothing dirty. -/
def execGrantArrival (r k : Nat) (s : State) : Out :=
  match s.dev.objs.grants.find? (fun g => g.rank == r && g.slot == k) with
  | none => .next s
  | some gr =>
    match guardOf s.dev.objs gr.word with
    | none => .next s
    | some g =>
      let b := Tab.get {} (s.dev.core r).eng.bind gr.entry
      let x : Given := ⟨gr.excl, gr.entry, gr.word, g.code, g.count, BitVec.ofNat 3 (scopeCode g.scope), gr.epoch, gr.high, gr.list, gr.src⟩
      let d0 := s.dev.onObjs (fun o => { o with grants := o.grants.erase gr })
      if !bufferOk (s.dev.core r) (if k < 16 then k else 1) (s.dev.thr r k) x b then
        let g1 := (releaseHold g r gr.entry gr.excl 0 b.mark b.epoch).1
        .next (grantFails { s with dev := d0.onObjs (fun o => putGuard o g1) } r k gr.req gr.entry)
      else .next (grantLands { s with dev := d0 } r k gr.req x)

/-- The bytes of a region's sub-block in global memory, by a walk under the guard's ASID (R149, R158). -/
def regionAt (s : State) (g : Guard) (i : Nat) : Option (Nat × Nat) :=
  let va := g.base.toNat + i * blockSize g.code.toNat
  match walk s g.asid.toNat va with
  | some (l, leaf) => some (leafPa l leaf va, leafKey leaf)
  | none => none

/-- Lines of an extent, for poison. -/
def anyPoison (s : State) (l : Loc) (n : Nat) : Bool :=
  match l with
  | .glob pa => (upto (n / 64 + 1)).any (fun i => s.poisoned (.glob (pa + 64 * i)) && 64 * i < n)
  | .loc r o => (touched o n).any (fun w => s.poisoned (.loc r (8 * w)))
  | _ => false

/-- Some byte of an extent lies in a bank group whose activations are held (22 R417). -/
def anyHeld (s : State) (l : Loc) (n : Nat) : Bool :=
  match l with
  | .glob pa => (linesOf pa n).any (fun i => s.heldBank (.glob (64 * i)))
  | _ => false

/-- Words of an extent of local memory, as places. -/
def localWords (r o n : Nat) : List Loc := (touched o n).map (fun w => .loc r (8 * w))

/-- The delivery's end: it leaves `cp`. -/
def xferDone (s : State) (x : Xfer) : State :=
  ({ s with dev := s.dev.onThrFlow x.rank x.slot (fun f => f.finish .cp x.id) } : State).frameSync x.rank x.slot []

/-- Bytes per sub-block of a transfer: its guard's, or for a peer's guard the receiving entry's. -/
def xferSize (s : State) (x : Xfer) : Nat :=
  blockSize (match guardOf s.dev.objs x.guard with
    | some g => g.code.toNat
    | none => (Tab.get {} (s.dev.core x.rank).eng.bind x.entry).code.toNat)

/-- The sub-block at the head of a transfer is done. -/
def nextBlock (s : State) (r i : Nat) (rest : List Nat) : State :=
  { s with dev := s.dev.onEng r (fun e => { e with xfers := if rest.isEmpty then dropAt e.xfers i
                                                     else modAt (fun y => { y with list := rest, placed := [], filled := [] }) e.xfers i }) }

/-- A sub-block has arrived: due falls, and the delivery leaves `cp` with its last (R147, R149). -/
def blockArrived (s : State) (r i : Nat) (x : Xfer) (rest : List Nat) : State :=
  let b := Tab.get {} (s.dev.core x.rank).eng.bind x.entry
  let s1 := nextBlock { s with dev := setEntry s.dev x.rank x.entry { b with due := if b.due = 0 then 0 else b.due - 1 } } r i rest
  if rest.isEmpty then xferDone s1 x else s1

/-- Delivered bytes come into a buffer, unmarked in the entry's dirty mask (R147). -/
def intoBuffer (c : Core) (entry o : Nat) (bs : List Byte) : Core :=
  let b := Tab.get {} c.eng.bind entry
  let c1 := ({ c with eng := { c.eng with bind := Tab.set c.eng.bind entry { b with valid := false } } } : Core).writeBytes o bs
  { c1 with eng := { c1.eng with bind := Tab.set c1.eng.bind entry b } }

/-- A listed sub-block's bytes come to the buffer, or the error that stands in their place (R147, R149). An error leaves the
sub-block unwritten, due at 0 and the mark where the next grant lists the sub-block again, and the others follow (22 R412 source 8, 24
R429; log 50).
A sub-block for a peer leaves this device. Words that ENGINE_STEP has brought already are not written again. -/
def landBlock (s : State) (r i : Nat) (x : Xfer) (size j : Nat) (rest : List Nat) (got : Except (Byte × BitVec 32) (List Byte)) : State :=
  let b := Tab.get {} (s.dev.core x.rank).eng.bind x.entry
  let o := b.buffer.toNat + j * size
  if 2048 ≤ x.rank then nextBlock s r i rest
  else match got with
    | .error (c, v) =>
      let d := (nextBlock s r i rest).dev
      let d1 := setEntry d x.rank x.entry { b with due := 0, mark := x.high }
      let s1 : State := { s with dev := d1.onThrFlow x.rank x.slot (fun f => f.deferFault c x.ptr v) }
      if rest.isEmpty then xferDone s1 x else s1
    | .ok bs =>
      let d := s.dev.onCore x.rank (fun c =>
        if x.placed.isEmpty then intoBuffer c x.entry o bs
        else ((upto (size / 8)).filter (fun w => !x.placed.contains w)).foldl (fun c w => intoBuffer c x.entry (o + 8 * w) ((bs.drop (8 * w)).take 8)) c)
      let s1 := fillWords { s with dev := d } ((localWords x.rank o size).filter (fun l => !x.filled.any (fun w => l == .loc x.rank (o + 8 * w))))
      blockArrived s1 r i x rest

/-- Where the head sub-block of a delivery comes from: its place and key; none where its page is not present (R149, R158). -/
def blockSource (s : State) (x : Xfer) (j : Nat) : Option (Loc × Nat) :=
  match x.src with
  | some (sr, se) => if 2048 ≤ sr then none else some (.loc sr ((Tab.get {} (s.dev.core sr).eng.bind se).buffer.toNat + j * xferSize s x), 0)
  | none => match guardOf s.dev.objs x.guard with
    | some g => (regionAt s g j).map (fun e => (.glob e.1, e.2))
    | none => none

/-- The walk for a region's sub-block is held (22 R417). -/
def regionHeld (s : State) (word j : Nat) : Bool :=
  (guardOf s.dev.objs word).any (fun g => walkHeld s g.asid.toNat (g.base.toNat + j * blockSize g.code.toNat))

/-- A walk for a region's sub-block that met a poisoned entry is recorded (22 R406). -/
def noteRegion (s : State) (word j : Nat) : State :=
  match guardOf s.dev.objs word with
  | some g => noteWalk s g.asid.toNat (g.base.toNat + j * blockSize g.code.toNat)
  | none => s

/-- GUARD_DELIVERY: one listed sub-block moves into the buffer (R147, R149); a peer's copy engine sends its own by packet. -/
def execGuardDelivery (r i : Nat) (s : State) : Out :=
  match nth? (s.dev.core r).eng.xfers i with
  | none => .next s
  | some x =>
    if x.refresh || s.dev.plat.pfault then .next s
    else match x.list with
      | j :: rest =>
        let size := xferSize s x
        if x.src.isNone && regionHeld s x.guard j then .next s
        else match blockSource s x j with
        | some (l, key) =>
          if anyHeld s l size then .next s
          else .next (landBlock (noteRead s l size) r i x size j rest
            (if anyPoison s l size then .error (0x68, poisonOpnd 0 8) else .ok (s.readBytes l key size)))
        | none => .next (if x.src.isSome then s else noteRegion s x.guard j)
      | [] => .next { s with dev := s.dev.onEng r (fun e => { e with xfers := dropAt e.xfers i }) }

/-- hmark rises to the high stamp that the refresh brought, unless the stamps were renormalised since (R153, R154). -/
def refreshed (g : Guard) (x : Xfer) : Guard :=
  if g.home || g.epoch ≠ x.epoch || x.high ≤ g.hmark then g else { g with hmark := x.high }

/-- Sources that named an emptied entry's buffer read the home copy from then on (R159). -/
def toHome (d : Dev) (word r i : Nat) : Dev :=
  let src := fun (o : Option (Nat × Nat)) => if o = some (r, i) then none else o
  { d with
    cores := d.cores.map (fun c => (c.1, { c.2 with eng := { c.2.eng with
      xfers := c.2.eng.xfers.map (fun x => if !x.refresh && x.guard = word then { x with src := src x.src } else x) } }))
    objs := { d.objs with grants := d.objs.grants.map (fun g => if g.word = word then { g with src := src g.src } else g) } }

/-- The entry whose buffer was refreshed is emptied and the home copy becomes the delivery source (R155). A `gacq` of its core
meanwhile keeps the entry; a dirty release meanwhile keeps its own home bit, or, where it is this entry's, is refreshed in turn.
The flag says whether the entry is empty. -/
def emptyEntry (d : Dev) (g : Guard) (x : Xfer) : Dev × Bool :=
  let b := Tab.get {} (d.core x.rank).eng.bind x.entry
  let mine := g.last == (x.rank, x.entry) && !g.home
  let newest := mine && g.epoch == x.epoch && g.next - 1 == x.high
  if !b.valid then (d.onObjs (fun o => putGuard o g), true)
  else if b.mode ≠ 0 || b.gpeer.isSome || b.guard.toNat ≠ g.word then (d.onObjs (fun o => putGuard o g), false)
  else if mine && !newest then (startRefresh (d.onObjs (fun o => putGuard o g)) g x, false)
  else
    let d1 := d.onObjs (fun o => putGuard o (if newest then { g with home := true } else g))
    (setEntry (toHome d1 g.word x.rank x.entry) x.rank x.entry {}, true)

/-- The shared hold of a `gflush` ends and its operation leaves `cp` (R152, R154). -/
def sharedLeaves (d : Dev) (g : Guard) (x : Xfer) : Dev :=
  let n := g.shared - 1
  (d.onObjs (fun o => putGuard o { g with shared := n, mode := if n = 0 then 0 else g.mode })).onThrFlow x.rank x.slot
    (fun f => f.finish .cp x.id)

/-- The state after a refresh has ended: the saved context of a `gflush` that left `cp` shows it (20 R388). -/
def refreshEnds (s : State) (x : Xfer) (d : Dev) : State :=
  if x.after = 1 then ({ s with dev := d } : State).frameSync x.rank x.slot [] else { s with dev := d }

/-- What follows a refresh (R154 to R156, 11 R246). -/
def afterRefresh (d : Dev) (g : Guard) (x : Xfer) : Dev :=
  let g1 := refreshed g x
  match x.after with
  | 1 => sharedLeaves d g1 x
  | 2 =>
    (freeGuard d g1).onThrFlow x.rank x.slot (fun f =>
      match x.req with
      | some q => f.answer q (.ret [0] true)
      | none => f)
  | 3 =>
    let y := emptyEntry d g1 x
    let again := !y.2 && (y.1.core x.rank).eng.xfers.any (fun z => z.after == 3 && z.rank == x.rank && z.entry == x.entry)
    if again then y.1 else y.1.onPlat (fun p => { p with reclaimBusy := false, reclaimRefused := p.reclaimRefused || !y.2 })
  | 4 => (emptyEntry d g1 x).1
  | _ => d.onObjs (fun o => putGuard o g1)

/-- A record that an engine of a core sends to its slot 15, written at slot 15's place (22 R405, 20 R380). -/
def Dev.agentRecord (d : Dev) (r : Nat) (cause : Byte) (addr : Word) (opnd : BitVec 32) : Dev :=
  let d1 := d.onCore r (fun c =>
    { c with lmem := c.lmem.setWords (recordAt c 15) (recordWords c 15 (c.slot 15) cause addr opnd) })
  d1.onEng r (fun e => { e with pend15 := joinPend e.pend15 { slot := 15, domain := (d.slot r 15).domain, cause := cause, ends := none, time := d.now } })

/-- A refresh that may not write its region: hmark and the home bit stay (22 R405); the status an `unbind` then writes is
not stated and is left free (log 6). -/
def refreshDenied (d : Dev) (g : Guard) (x : Xfer) : Dev :=
  match x.after with
  | 1 => sharedLeaves d g x
  | 2 =>
    let d1 := d.onObjs (fun o => putGuard o { g with busy := false })
    let d2 := d1.onThrFlow x.rank x.slot (fun f =>
      match x.req with
      | some q => f.answer q (.ret [Config.freeWord d.free] true)
      | none => f)
    { d2 with free := d.free + 1 }
  | 3 => d.onPlat (fun p => { p with reclaimBusy := false })
  | _ => d

/-- Bytes come to a region word by word where their home performs them: a line of a lost bank group or of a failed die stays as it is
(22 R418, 24 R434); no rule says what else becomes of the refresh, and it goes on (log 50). -/
def writeKept (s : State) (pa key : Nat) (bs : List Byte) : State :=
  let s1 := notePartial s (.glob pa) bs.length
  if (linesOf pa bs.length).any (fun i => s.lost (.glob (64 * i))) then
    ((touched pa bs.length).filter (fun w => !s.lost (.glob (8 * w)))).foldl (fun s w => s.writeLoc (.glob (8 * w)) key ((bs.drop (8 * w - pa)).take 8)) s1
  else s1.writeLoc (.glob pa) key bs

/-- A stale sub-block's bytes from word `w` on come to the region (R154, 22 R405), while no bank group that this needs is held (22
R417); `f` is what the transfer then is. A peer's engine that meets a page not present sends them again. -/
def refreshBytes (s : State) (r i : Nat) (x : Xfer) (g : Guard) (j w : Nat) (bs : List Byte) (f : Xfer → Xfer) : State :=
  let va := g.base.toNat + j * blockSize g.code.toNat + 8 * w
  if walkHeld s g.asid.toNat va then s
  else match walk s g.asid.toNat va with
  | none =>
    let s1 := noteWalk s g.asid.toNat va
    if 2048 ≤ r then s1
    else { s1 with dev := (s1.dev.onEng r (fun e => { e with xfers := modAt (fun y => { y with stuck := true }) e.xfers i })).agentRecord
                           r 0x10 (w64 va) 0 }
  | some (l, leaf) =>
    if !leafWrite leaf then
      let d := s.dev.onEng r (fun e => { e with xfers := dropAt e.xfers i })
      refreshEnds s x (refreshDenied (if 2048 ≤ r then d else d.agentRecord r 0x11 (w64 va) 0) g x)
    else if anyHeld s (.glob (leafPa l leaf va)) bs.length then s
    else
      let s1 := writeKept s (leafPa l leaf va) (leafKey leaf) bs
      { s1 with dev := s1.dev.onEng r (fun e => { e with xfers := modAt f e.xfers i }) }

/-- A whole stale sub-block comes to the region, the words that ENGINE_STEP has brought already apart. -/
def refreshBlock (s : State) (r i : Nat) (x : Xfer) (g : Guard) (j : Nat) (rest : List Nat) (bs : List Byte) : State :=
  refreshBytes s r i x g j 0 bs (fun y => { y with list := rest, placed := [] })

/-- GUARD_REFRESH: one stale sub-block moves from the last holder's buffer to the region's bytes; with none left the
refresh is done (R154 to R156). A peer's copy engine sends its own by packet. -/
def execGuardRefresh (r i : Nat) (s : State) : Out :=
  match nth? (s.dev.core r).eng.xfers i with
  | none => .next s
  | some x =>
    if !x.refresh || x.stuck then .next s
    else match guardOf s.dev.objs x.guard, x.list with
      | none, _ => .next { s with dev := s.dev.onEng r (fun e => { e with xfers := dropAt e.xfers i }) }
      | some g, [] =>
        if managerDown s.dev g.word then .next s
        else .next (refreshEnds s x (afterRefresh (s.dev.onEng r (fun e => { e with xfers := dropAt e.xfers i })) g x))
      | some g, j :: rest =>
        let size := blockSize g.code.toNat
        let src := x.src.getD (0, 0)
        let o := (Tab.get {} (s.dev.core src.1).eng.bind src.2).buffer.toNat + j * size
        if 2048 ≤ src.1 || !s.dev.engineUp src.1 then .next s
        else .next (refreshBlock (noteRead s (.loc src.1 o) size) r i x g j rest ((s.dev.core src.1).lmem.bytes o size))

/-- One word of the head sub-block of transfer `i` (06 R116, R132): brought into place; or, of a delivery, set full once it is. -/
def stepBlock (s : State) (r i w : Nat) : State :=
  match nth? (s.dev.core r).eng.xfers i with
  | none => s
  | some x =>
    let size := xferSize s x
    let onX := fun (s : State) (f : Xfer → Xfer) => ({ s with dev := s.dev.onEng r (fun e => { e with xfers := modAt f e.xfers i }) } : State)
    if size / 8 ≤ w || x.stuck || s.dev.plat.pfault || x.filled.contains w then s
    else match x.list with
      | [] => s
      | j :: rest =>
        if x.refresh then
          match guardOf s.dev.objs x.guard, x.src with
          | some g, some (sr, se) =>
            if 2048 ≤ sr || !s.dev.engineUp sr || x.placed.contains w then s
            else
              let o := (Tab.get {} (s.dev.core sr).eng.bind se).buffer.toNat + j * size + 8 * w
              refreshBytes (noteRead s (.loc sr o) 8) r i x g j w ((s.dev.core sr).lmem.bytes o 8)
              (fun y => if y.placed.length + 1 = size / 8 then { y with list := rest, placed := [] } else { y with placed := y.placed ++ [w] })
          | _, _ => s
        else if 2048 ≤ x.rank then s
        else
          let o := (Tab.get {} (s.dev.core x.rank).eng.bind x.entry).buffer.toNat + j * size + 8 * w
          if x.placed.contains w then
            let s1 := fillWords s [.loc x.rank o]
            if x.filled.length + 1 = size / 8 then blockArrived s1 r i x rest else onX s1 (fun y => { y with filled := y.filled ++ [w] })
          else match blockSource s x j with
            | none => s
            | some (l, key) =>
              if (x.src.isNone && regionHeld s x.guard j) || anyHeld s l size then s
              else if anyPoison s l size then landBlock (noteRead s l size) r i x size j rest (.error (0x68, poisonOpnd 0 8))
              else onX { s with dev := s.dev.onCore x.rank (fun c => intoBuffer c x.entry o (s.readBytes (l.plus (8 * w)) key 8)) }
                (fun y => { y with placed := y.placed ++ [w] })

end Sys2Proof.Machine
end

