-- ==== Sys2Proof/Machine/Groups.lean ====
section
/-! DEFINITION. Task groups (03 R44 to R56, 13 R280 to R287, 20 R385): starting and reaping members, exits, the ending of a
group, semaphores, counter waits, events and posting of task records. -/

namespace Sys2Proof.Machine

/-! ### Requests that outlive their thread -/

def relabelReq (r k key : Nat) (l : List (Nat × Nat × Req)) : List (Nat × Nat × Req) :=
  l.map (fun e => if e.1 = r && e.2.1 = k then (e.1, key, e.2.2) else e)

/-- What a wait names follows a context to another number. -/
def User.relabel (r k key : Nat) : User → User
  | .req q j i => .req q (if q = r ∧ j = k then key else j) i
  | .copy q j i l => .copy q (if q = r ∧ j = k then key else j) i l
  | .cmd q j i => .cmd q (if q = r ∧ j = k then key else j) i
  | u => u

def WaitCond.relabel (r k key : Nat) : WaitCond → WaitCond
  | .inval l => .inval (l.map (User.relabel r k key))
  | c => c

/-- Requests and records that name a slot follow its context to another number: a saved context's key, or the slot it is
restored into (20 R389). -/
def Dev.relabel (d : Dev) (r k key : Nat) : Dev :=
  let o := d.objs
  let o1 := { o with
    feWait := relabelReq r k key o.feWait
    msgs := relabelReq r k key o.msgs
    fabric := o.fabric.map (fun (q : FReq) => if q.rank = r && q.slot = k then { q with slot := key } else q)
    grants := o.grants.map (fun (g : Grant) => if g.rank = r && g.slot = k then { g with slot := key } else g)
    guards := o.guards.map (fun (g : Guard) => { g with
      wait := g.wait.map (fun (w : GReq) => if w.rank = r && w.slot = k then { w with slot := key } else w) })
    convs := o.convs.map (fun (e : Nat × Conv) => (e.1, { e.2 with
      held := relabelReq r k key e.2.held
      holders := e.2.holders.map (fun (h : Nat × Option (Nat × Nat × Nat)) => (h.1, h.2.map (fun (t : Nat × Nat × Nat) => if t.1 = r && t.2.1 = k then (t.1, key, t.2.2) else t))) })) }
  let d1 := { d with objs := o1 }
  let d2 := { d1 with cores := d1.cores.map (fun (c : Nat × Core) => (c.1, { c.2 with
    slots := c.2.slots.map (fun (e : Nat × Slot) => (e.1, { e.2 with parked := e.2.parked.map (WaitCond.relabel r k key) }))
    eng := { c.2.eng with
    dq := c.2.eng.dq.map (fun (x : DReq) => if x.rank = r && x.slot = k then { x with slot := key } else x)
    dserve := c.2.eng.dserve.map (fun (x : DReq) => if x.rank = r && x.slot = k then { x with slot := key } else x)
    xfers := c.2.eng.xfers.map (fun (x : Xfer) => if x.rank = r && x.slot = k then { x with slot := key } else x) } })) }
  let d3 := { d2 with coaches := d2.coaches.map (fun (u : Nat × Coach) => (u.1, { u.2 with step := u.2.step.map (fun (m : MStep) =>
    if m.core = r && m.cmd.slot = k then { m with cmd := { m.cmd with slot := key } } else m) })) }
  d3.onEng r (fun e => { e with
    copies := e.copies.map (fun (c : Copy) => if c.slot = k then { c with slot := key } else c)
    eventWait := e.eventWait.map (fun (w : (Word × Word) × Option (Nat × Nat)) => (w.1, w.2.map (fun (h : Nat × Nat) => if h.1 = k then (key, h.2) else h)))
    mtl := e.mtl.map (fun (m : Nat × Nat × Nat) => if m.2.1 = k then (m.1, key, m.2.2) else m)
    ewords := e.ewords.map (fun (w : EWord) => if w.slot = k then { w with slot := key } else w)
    sfq := e.sfq.map (fun (x : SfRec) => if x.slot = k then { x with slot := key } else x)
    sfWait := e.sfWait.map (fun (x : SfRec × Option Req) => if x.1.slot = k then ({ x.1 with slot := key }, x.2) else x)
    armed := e.armed.map (fun (a : Nat × Option (Req × BitVec 32)) => (a.1, a.2.map (fun (x : Req × BitVec 32) => if x.1.elem = k then ({ x.1 with elem := key }, x.2) else x)))
    streams := e.streams.map (fun (x : Nat × Stream) => if x.2.slot = k && (x.2.bound || x.2.dropped.isSome) then (x.1, { x.2 with slot := key }) else x) })

/-- A fresh number for a saved context. -/
def Dev.freshKey (d : Dev) : Nat := 16 + d.free

/-- Requests that are withdrawn with their group: for bind-table entries, for roles, and for a cooperative group (20 R385). -/
def ReqOp.withdrawn : ReqOp → Bool
  | .gacq _ _ | .cjoin _ _ _ | .mcoop _ => true
  | _ => false

/-- Outstanding operations of an ended thread go on with their values discarded; those it had asked for that its ending frees are
withdrawn (20 R385). -/
def orphan (t : Slot) : Slot :=
  { t with x := [], flow := { t.flow with
      bag := (t.flow.bag.filter (fun q => !q.op.withdrawn)).map dropDst
      rets := t.flow.rets.map (fun a => { a with req := dropDst a.req })
      posted := t.flow.posted.map dropDst } }

/-- The slot after its thread exits: zeroed, neither live nor free (03 R46). -/
def exitedSlot (t : Slot) : Slot := { life := .exited, owner := t.owner, lead := t.lead, start := t.start, flow := { nextId := t.flow.nextId } }

/-! ### Copies' offsets -/

/-- Word 0 of a copy's event record (10 R215). -/
def copyEvent (ty slot cause sub mask : Nat) : Word := w64 (fld ty 60 + fld slot 56 + fld cause 48 + fld sub 40 + mask)

def CpKind.evType : CpKind → Nat
  | .cpm _ _ _ _ => 4
  | _ => 3

/-- The type of a stopped copy's record: 3 for a resumed copy of any kind (16 R360). -/
def Copy.stopType (c : Copy) : Nat := if c.resumed then 3 else c.kind.evType

def compTag (c : BitVec 16) : Nat := bits (c.setWidth 64) 14 8

/-- Word 1 of a copy's event record. -/
def copyDetail (c : Copy) (n : Nat) : Word := w64 (fld (compTag c.comp) 48 + n % 2 ^ 48)

/-! ### Exits -/

/-- A conversation without a thread's roles and held sends (08 R172, 20 R385). -/
def Conv.leave (c : Conv) (r k : Nat) : Conv :=
  { c with
    holders := c.holders.map (fun h => (h.1, h.2.bind (fun t => if t.1 = r && t.2.1 = k then none else some t)))
    held := c.held.filter (fun e => !(e.1 == r && e.2.1 == k)) }

/-- The streams of a thread dropped as by `sdrop` (10 R208): an input stream at once, an output stream when drained. What drains yet
keeps to the thread's window and mask (04 R80). -/
def dropStreams (l : Tab Stream) (k : Nat) (t : Slot) : Tab Stream :=
  l.map (fun e => if (e.2.bound || e.2.dropped.isSome) && e.2.slot = k then
    (e.1, if e.2.w0.getLsbD 63 && !(e.2.out.isEmpty && e.2.cover.isEmpty) then
            { e.2 with bound := false, dropped := e.2.dropped.or (some e.2.bindId), heir := some (t.lmbase, t.lmlim, t.part) }
          else {}) else e)

/-- A group barrier whose arrivals now meet its count completes (14 R316). -/
def settleGroupBar (d : Dev) (r inst : Nat) : Dev :=
  match d.objs.bars.find? (fun b => b.level == 0 && b.inst == groupInst r inst) with
  | none => d
  | some b =>
    let need := barNeed d r 0 b.queue b.inst
    if b.arrived ≥ need && b.arrived > 0 then d.onObjs (fun o => barPut o { b with gen := b.gen + 1, arrived := 0 }) else d

/-- No thread of a core is a member's thread any longer. -/
def Dev.leaveCoop (d : Dev) (r : Nat) : Dev :=
  d.onCore r (fun c => { c with
    slots := c.slots.map (fun e => (e.1, { e.2 with coop := false }))
    eng := { c.eng with saved := c.eng.saved.map (fun q => { q with ctx := { q.ctx with coop := false } }) } })

/-- A cooperative group is dissolved for all four units (09 R201). -/
def dropCoop (d : Dev) (c : Coop) : Dev :=
  let d1 := d.onObjs (fun o => { o with coops := o.coops.filter (fun x => !(x.die == c.die && x.g == c.g)) })
  let d2 := c.members.foldl (fun d m => d.leaveCoop m.2) d1
  (upto 4).foldl (fun d q => d.onCoach (c.unit q) (fun h => { h with group := none })) d2

/-- A cooperative group that a member's exit dissolves (09 R201). -/
def dissolveCoop (d : Dev) (r : Nat) : Dev :=
  match d.objs.coops.find? (fun c => c.members.any (fun m => m.2 == r)) with
  | none => d
  | some c => dropCoop d c

/-- What a thread holds is freed: its roles and held sends, its cooperative group, its streams, its place at a semaphore (03 R46, 08
R172, 09 R201, 20 R385). -/
def Dev.freeHeld (d : Dev) (r k : Nat) (t : Slot) : Dev :=
  let d1 := d.onObjs (fun o => { o with convs := o.convs.map (fun (e : Nat × Conv) => (e.1, e.2.leave r k)) })
  let d2 := if t.coop then dissolveCoop d1 r else d1
  d2.onEng r (fun e => { e with streams := dropStreams e.streams k t, semWait := e.semWait.filter (fun w => w.2.1 != k) })

/-- What a thread has sent goes on under a key of its own (20 R385). -/
def Dev.keepSent (d : Dev) (r k : Nat) (t : Slot) (reason : Nat) : Dev :=
  let key := d.freshKey
  let keep : Saved := { key := key, frame := 0, slot := k, reason := reason, ctx := orphan t, group := none, mcmds := [], streams := [] }
  { (d.relabel r k key).onEng r (fun e => { e with saved := e.saved ++ [keep] }) with free := d.free + 1 }

/-- A thread leaves its core: what it holds freed, its slot zeroed (03 R46, 13 R283). A counter action of its copies that is still on
its way goes on, and `reap` waits for it (06 R129, R135). -/
def Dev.leaveSlot (d : Dev) (r k : Nat) : Dev :=
  let t := d.slot r k
  let d1 := d.freeHeld r k t
  let d2 := if d.unperformed r k t.flow = 0 && t.flow.acks.isEmpty then d1 else d1.keepSent r k t 3
  settleGroupBar (d2.onSlot r k exitedSlot) r t.ginst

/-- The group-exit event (10 R215 type 2). -/
def groupExit (d : Dev) (r k : Nat) (g : Group) (status : BitVec 32) : Dev :=
  d.event r (w64 (fld 2 60 + fld k 56)) (w64 (fld status.toNat 32 + g.done.toNat)) none

def putGroup (e : CoreEng) (g : Group) : CoreEng :=
  { e with groups := e.groups.map (fun x => if x.lead = g.lead then g else x) }

def groupOf (e : CoreEng) (lead : Nat) : Option Group := e.groups.find? (fun g => g.lead == lead)

/-- END (R283): slots 1 to 10 at depth 0, drained; the last member's exit posts the group exit. -/
def execEndThread (a : XReg) (s : State) : Out :=
  let t := s.dev.me
  if !isHelper s.dev.who || t.gdepth ≠ 0 then illegal s 8
  else parkUnless s (.own true true true true true) (fun s =>
    devStep s (fun d =>
      let r := d.rank
      let k := d.who
      let v := (t.xr a).extractLsb' 0 32
      let d1 := d.leaveSlot r k
      match groupOf (d.core r).eng t.lead with
      | none => d1
      | some g =>
        let st := if g.forced then g.status else g.status ||| v
        let g1 := { g with status := st, exited := g.exited || (liveMembers d1 r g).isEmpty && g.members.length == g.gsize }
        let d2 := d1.onEng r (fun e => putGroup e g1)
        if g1.exited then groupExit d2 r k g1 st else d2))

/-! ### Ending a group (20 R385) -/

/-- The slot number that records show for a context: its own, or the slot it was saved from. -/
def homeSlot (e : CoreEng) (k : Nat) : Nat := if k < 16 then k else ((e.saved.find? (fun q => q.key == k)).map (·.slot)).getD 0

/-- A copy whose group was ended leaves the engine at its piece boundary with its record (20 R385). -/
def Dev.endCopy (d : Dev) (r : Nat) (c : Copy) : Dev :=
  (d.event r (copyEvent c.stopType (homeSlot (d.core r).eng c.slot) 0x58 0xFF 0) (copyDetail c (resumeOffset c)) none).onEng r
    (fun e => { e with copies := e.copies.filter (fun x => !(x.id == c.id && x.slot == c.slot)) })

/-- What a context of an ended group holds in engines, queues and wait lists goes; a copy inside a piece first comes to its boundary
(20 R385). -/
def Dev.unwindHeld (d : Dev) (r k : Nat) : Dev :=
  let mine := (d.core r).eng.copies.filter (fun c => c.slot == k)
  let d1 := (mine.filter (fun c => c.still && c.stage = 0)).foldl (fun d c => d.endCopy r c) d
  let d2 := d1.onEng r (fun e => { e with
    copies := (e.copies.filter (fun c => c.slot != k || c.stage = 0)).map (fun c => if c.slot = k then { c with ending := true, parked := true } else c)
    mq := e.mq.filter (fun m => m.slot != k)
    mbuf := e.mbuf.filter (fun b => !(e.mq.any (fun m => m.slot == k && m.id == b.cmd)))
    mfeed := []
    armed := e.armed.map (fun (a : Nat × Option (Req × BitVec 32)) => (a.1, a.2.bind (fun (x : Req × BitVec 32) => if x.1.elem = k then none else some x)))
    sfq := e.sfq.filter (fun x => x.slot != k)
    sfWait := e.sfWait.filter (fun x => x.1.slot != k)
    pend13 := e.pend13.filter (fun p => p.slot != k)
    pend15 := e.pend15.filter (fun p => p.slot != k)
    hand13 := if e.hand13.any (fun p => p.slot == k) then none else e.hand13
    hand15 := if e.hand15.any (fun p => p.slot == k) then none else e.hand15
    bindWait := e.bindWait.filter (fun w => w.1 != k) })
  let d3 := d2.onObjs (fun o => { o with guards := o.guards.map (fun (g : Guard) => { g with
    wait := g.wait.filter (fun (w : GReq) => !(w.rank == r && w.slot == k)) }) })
  { d3 with cores := d3.cores.map (fun (c : Nat × Core) => (c.1, { c.2 with eng := { c.2.eng with
    dq := c.2.eng.dq.filter (fun (x : DReq) => !(x.rank == r && x.slot == k))
    dserve := c.2.eng.dserve.map (fun (x : DReq) => if x.rank = r && x.slot = k then { x with cancelled := true } else x) } })) }

/-- A context's requests for bind-table entries are withdrawn: a grant on its way returns with nothing dirty, what has not left for a
peer goes no further (20 R385). A peer that has one already is handed its grant back (`peerGuardDone`). -/
def Dev.withdraw (d : Dev) (r k : Nat) : Dev :=
  let mine := fun (g : Grant) => g.rank == r && g.slot == k
  let d1 := (d.objs.grants.filter mine).foldl (fun d g => match guardOf d.objs g.word with
    | some x => d.onObjs (fun o => putGuard o (releaseHold x r g.entry g.excl 0 0 0).1)
    | none => d) d
  d1.onObjs (fun o => { o with
    grants := o.grants.filter (fun g => !mine g)
    fabric := o.fabric.filter (fun q => !(q.rank == r && q.slot == k && q.stage == 0 && q.req.op.withdrawn)) })

/-- Unwind one live member: engines, requests, waits. -/
def Dev.unwind (d : Dev) (r k : Nat) : Dev :=
  let t := d.slot r k
  let d1 := ((d.withdraw r k).unwindHeld r k).freeHeld r k t
  settleGroupBar ((d1.keepSent r k t 3).onSlot r k exitedSlot) r t.ginst

/-- Pending entries of an ended group return to mode none (20 R385). -/
def unpendGroup (d : Dev) (r ginst : Nat) : Dev :=
  ((d.core r).eng.bind.filter (fun b => b.2.valid && b.2.mode == 3 && b.2.ginst == ginst)).foldl
    (fun d b => d.unpend r b.1) d

/-- Stores of ended threads whose walk no mailbox entry stands for any longer miss again (22 R422). -/
def Dev.missAgain (d : Dev) (r : Nat) : Dev :=
  let waits := (d.core r).eng.saved.flatMap (fun q => if 3 ≤ q.reason then q.ctx.flow.posted.filter (fun p => !p.ready) else [])
  waits.foldl (fun d p => if (d.core r).eng.mail.length < 16 then d.postMiss r p.asid (paddr p.ptr / 2 ^ 16) (paddr p.ptr) else d) d

/-- The slot that names a group to its control context: member 0's, or where it started when its context is saved. -/
def Group.slot0 (g : Group) : Nat := if g.lead < 16 then g.lead else g.start

/-- End the group of a lead slot with a status (20 R385): its members, saved ones among them, are unwound and exit. The exit event
of a group ended as a whole names member 0's slot; the rules do not say which slot it names (log 52). -/
def Dev.endGroup (d : Dev) (r lead : Nat) (status : BitVec 32) : Dev :=
  match groupOf (d.core r).eng lead with
  | none => d
  | some g =>
    let held := g.members.filter (fun k => 16 ≤ k && (d.core r).eng.saved.any (fun q => q.key == k && q.reason < 3))
    let dh := held.foldl (fun d k => ((d.withdraw r k).unwindHeld r k).freeHeld r k
      (((d.core r).eng.saved.find? (fun q => q.key == k)).elim {} (·.ctx))) d
    let d0 := dh.onEng r (fun e => { e with saved := e.saved.map (fun q =>
      if held.contains q.key then { q with reason := 3, ctx := orphan q.ctx, streams := [], mcmds := [] } else q) })
    let live := (liveMembers d0 r g).filter (· < 16)
    let d1 := (unpendGroup (live.foldl (fun d k => d.unwind r k) d0) r g.inst).missAgain r
    let g1 := { g with status := status, forced := true, exited := true }
    let d2 := d1.onEng r (fun e => putGroup e g1)
    if g.exited then d2 else groupExit d2 r g.slot0 g1 status

/-! ### start and reap -/

/-- START (R280): the control context's request to start one member. -/
def execStart (d a b : XReg) (s : State) : Out :=
  let p := s.dev.x a
  let w := s.dev.x b
  if s.dev.who ≠ 0 then privFault s
  else sendStalls s false (fun s =>
    if !zeroBits w 63 63 || !zeroBits w 31 28 || !zeroBits w 7 4 || bits w 3 0 = 0 || bits w 3 0 > 10 || bits w 47 32 > 0x8000 then
      fault s 0x03 0 3
    else askAt s { cls := .ld, op := .start w, dst := .x d, n := 64, align := 64, rd := true, wr := false, ext := 4, spaces := [0, 1] } p)

/-- The overlap of a window with the gate-frame area (R281 status 4, 08 R163). -/
def overlapsFrames (c : Core) (lo hi : Nat) : Bool :=
  lo < c.regs.gfbase.toNat + 26112 && c.regs.gfbase.toNat < hi

/-- The live helpers' tags clash with a tag (03 R47, R281 status 3). -/
def engineTaken (c : Core) (tag : BitVec 3) : Bool :=
  (upto 11).any (fun k => (c.slot k).life == .live && k != 0 && tagsClash (c.slot k).tag tag) ||
    c.eng.saved.any (fun q => q.reason == 2 && tagsClash q.ctx.tag tag)

/-- The status of a `start` (R281), the record's words given. -/
def startStatus (d : Dev) (r : Nat) (q : Req) (w : Word) (rec : List Word) : Nat :=
  let c := d.core r
  let k := bits w 3 0
  let lead := bits w 27 24
  let t := c.slot k
  let gsize := bits (nth 0 rec 0) 33 30
  let i := if lead = 0 then 0 else (groupOf c.eng lead).elim 0 (fun g => g.members.length)
  let tag := BitVec.ofNat 3 (bits (nth 0 rec 0) 29 0 / 2 ^ (3 * i))
  if t.life ≠ .free then 1
  else if t.owner ≠ some (bits w 15 8) then 2
  else if engineTaken c tag then 3
  else if bits w 62 48 * 8 < c.regs.xb.toNat * 12 || bits w 47 32 < bits w 62 48 ||
      overlapsFrames c (bits w 62 48 * 8) (bits w 47 32 * 8) then 4
  else if lead = 0 && (groupOf c.eng k).isSome then 1
  else if lead ≠ 0 then
    match groupOf c.eng lead with
    | none => 5
    | some g => if g.recPtr ≠ q.ptr || g.exited || g.members.length ≥ gsize then 5 else 0
  else 0

/-- A started member's context (03 R36, R281). -/
def startSlot (old : Slot) (q : Queue) (part : Word) (w : Word) (rec : List Word) (g : Group) : Slot :=
  let i := g.members.length - 1
  let w0 := nth 0 rec 0
  { life := .live, owner := old.owner
    x := (upto 6).map (fun j => (j + 1, nth 0 rec (j + 1)))
    pc := BitVec.ofNat 15 (bits w0 48 34)
    tag := BitVec.ofNat 3 (bits w0 29 0 / 2 ^ (3 * i))
    asid := q.asid, domain := q.domain, part := part
    lmbase := BitVec.ofNat 18 (bits w 62 48 * 8), lmlim := BitVec.ofNat 19 (bits w 47 32 * 8)
    member := BitVec.ofNat 4 i, gsize := BitVec.ofNat 4 (bits w0 33 30), lead := g.lead, start := g.lead, smask := g.smask
    ginst := g.inst, parked := if i + 1 = g.gsize then none else some .groupStart
    flow := { nextId := old.flow.nextId } }

/-- A fresh holder of tag V finds the vector engine at its reset state (15 R325). -/
def freshVec (v : Vec) (tag : BitVec 3) : Vec := if holdsV tag then {} else v

/-- The device's part of `start` (R281): a status, and on 0 a member started. -/
def homeStart (s : State) (r : Nat) (q : Req) (w : Word) (rec : List Word) : State × Res :=
  let st := startStatus s.dev r q w rec
  if st ≠ 0 then (s, .ret [w64 st] true)
  else
    let k := bits w 3 0
    let lead := if bits w 27 24 = 0 then k else bits w 27 24
    let gsize := bits (nth 0 rec 0) 33 30
    let e := (s.dev.core r).eng
    let g : Group := match (if bits w 27 24 = 0 then none else groupOf e lead) with
      | some g => { g with members := g.members ++ [k] }
      | none => { lead := lead, start := lead, inst := e.groupTick + 1, queue := bits w 15 8, gsize := gsize, members := [k], smask := BitVec.ofNat 8 (bits w 23 16),
                  done := BitVec.ofNat 32 (bits (nth 0 rec 7) 63 32), recPtr := q.ptr, words := rec, status := 0, forced := false,
                  exited := false }
    let qu := (s.dev.objs.queues.find? (fun x => x.num == bits w 15 8)).getD default
    let whole := g.members.length == gsize
    let d1 := s.dev.onEng r (fun e => { e with groups := (e.groups.filter (fun x => x.lead != lead)) ++ [g]
                                               groupTick := Nat.max e.groupTick g.inst })
    let part := Tab.get (0 : Word) d1.objs.parts qu.domain.toNat
    let d2 := d1.onSlot r k (fun t => startSlot t qu part w rec g)
    let d3 := d2.onCore r (fun c => { c with vec := freshVec c.vec (c.slot k).tag })
    let d4 := if whole then d3.onObjs (fun o => { o with queues := o.queues.map (fun x =>
        if x.num = qu.num then { x with out := x.out.filter (fun n => n.node != paddr q.ptr) } else x) }) else d3
    ({ s with dev := d4 }, .ret [0] true)

/-- REAP (R282): the control context's request; the status counts in `ld`. -/
def execReap (d a : XReg) (s : State) : Out :=
  if s.dev.who ≠ 0 then privFault s
  else sendStalls s false (fun s =>
    sendNow s { cls := .ld, op := .reap (bits (s.dev.x a) 3 0), dst := .x d, n := 8, align := 8, rd := false, wr := false,
                spaces := [1] } 0 (.loc s.dev.rank 0) 0)

/-- Everything a group posted has ended (06 R129): acknowledgements, writes in wait lists and on their way to peers, copies, stream
outputs, matrix stores, a step in the array among them; those of members that have ended stand under their contexts' keys. -/
def groupQuiet (d : Dev) (r : Nat) (g : Group) : Bool :=
  let e := (d.core r).eng
  let ks := g.members ++ (e.saved.filter (fun q => q.reason == 3 && q.ctx.ginst == g.inst)).map (·.key)
  d.objs.feWait.all (fun w => !(w.1 == r && ks.contains w.2.1 && w.2.2.op.writes)) &&
    d.objs.fabric.all (fun q => !(q.rank == r && ks.contains q.slot && q.req.op.writes)) &&
    (d.coach (unitOf r)).step.all (fun m => !(m.core == r && ks.contains m.cmd.slot)) &&
    e.saved.all (fun q => !(q.reason == 3 && q.ctx.ginst == g.inst) ||
      (q.ctx.flow.bag.isEmpty && q.ctx.flow.acks.isEmpty && q.ctx.flow.posted.isEmpty)) &&
    e.copies.all (fun c => !ks.contains c.slot) && e.streams.all (fun x => !(ks.contains x.2.slot && !(x.2.out.isEmpty && x.2.cover.isEmpty))) &&
    e.ewords.all (fun w => !ks.contains w.slot)

/-- Hand a hold of a peer's guard back to its manager with a dirty mask (07 R148, 13 R282). -/
def handBack (d : Dev) (r i : Nat) (b : BindEnt) (p : Nat) (dirty : Mask) : Dev :=
  toPeerManager d r i b p (.gback i dirty)

/-- Release every bind-table entry a group still holds, dirty mask included (R282). -/
def releaseAll (d : Dev) (r ginst : Nat) : Dev :=
  ((d.core r).eng.bind.filter (fun b => b.2.valid && b.2.ginst == ginst && (b.2.mode == 1 || b.2.mode == 2))).foldl
    (fun d b =>
      match b.2.gpeer, guardOf d.objs b.2.guard.toNat with
      | some p, _ =>
        (handBack d r b.1 b.2 p b.2.dirty).onEng r (fun e => { e with
          bind := Tab.set e.bind b.1 { b.2 with dirty := 0, mode := 0, released := e.relTick }
          relTick := e.relTick + 1 })
      | none, some g => d.releaseEntry g r b.1 b.2
      | none, none => d) d

/-- The manager of a hold that a group keeps has failed (01 R21, R22): its release waits, and `reap` with it. -/
def holdsDown (d : Dev) (r ginst : Nat) : Bool :=
  (d.core r).eng.bind.any (fun b => b.2.valid && b.2.ginst == ginst && (b.2.mode == 1 || b.2.mode == 2) && b.2.gpeer.isNone &&
    managerDown d b.2.guard.toNat)

/-- A word set full by a put at its home: its waiters and the tasks it releases (06 R130, R131, 03 R56). A lost line stays as it is (22
R418); no rule says who learns of it (log 52). -/
def putWord (s : State) (pa : Nat) (v : Word) : State :=
  if s.lost (.glob pa) then s
  else
    let s1 := ((notePartial s (.glob pa) 8).writeLoc (.glob pa) 0 (bytesOf 8 v.toNat)).setFe (.glob pa) false
    markEligible (serveWaiters (s1.dev.objs.feWait.length + 1) s1 (.glob pa)) pa

/-- The completion word of a group lies in a bank group whose activations are held (22 R417). -/
def doneHeld (s : State) (g : Group) : Bool :=
  g.done != 0xFFFFFFFF && (s.dev.objs.queues.find? (fun x => x.num == g.queue)).any (fun q => s.heldBank (.glob (q.syncBase + 8 * g.done.toNat)))

/-- A group's barrier instance goes with it (14 R315). -/
def dropBars (o : Objs) (inst : Nat) : Objs :=
  { o with bars := o.bars.filter (fun b => !(b.level == 0 && b.inst == inst))
           arrivals := o.arrivals.filter (fun a => !(a.1 == 0 && a.2.2 == inst)) }

/-- The group that the slot of a `reap` names: the one whose member 0 stands there, or one whose member 0 started there and is
saved (R282). -/
def reapGroup (e : CoreEng) (n : Nat) : Option Group :=
  (groupOf e n).or ((allGroups e).find? (fun g => 16 ≤ g.lead && g.start == n))

/-- The device's part of `reap` (R282): statuses 2, 3, 1 in that order, or the reaping once the group is quiet. A group whose queue
is gone, destroyed or dropped by a change of mode, has no completion word to write: the rules do not say (log 52). -/
def homeReap (s : State) (r : Nat) (n : Nat) : State × Res :=
  match reapGroup (s.dev.core r).eng n with
  | none => (s, .ret [2] true)
  | some g =>
    let lead := g.lead
    let free := fun (d : Dev) => (g.members.filter (· < 16)).foldl (fun d k => d.onSlot r k (fun t =>
      { owner := t.owner, flow := { nextId := t.flow.nextId } })) d
    let gone := fun (d : Dev) => (d.onEng r (fun e => { e with
      groups := e.groups.filter (fun x => x.lead != lead)
      saved := e.saved.filter (fun q => q.ctx.ginst != g.inst) })).onObjs (fun o => dropBars o (groupInst r g.inst))
    if g.members.length < g.gsize && !g.exited then ({ s with dev := gone (free s.dev) }, .ret [3] true)
    else if !(liveMembers s.dev r g).isEmpty then (s, .ret [1] true)
    else if !groupQuiet s.dev r g || holdsDown s.dev r g.inst || doneHeld s g then (s, .wait)
    else
      let s1 : State := { s with dev := gone (free (releaseAll s.dev r g.inst)) }
      if g.done = 0xFFFFFFFF then (s1, .ret [0] true)
      else match s.dev.objs.queues.find? (fun x => x.num == g.queue) with
        | none => (s1, .ret [0] true)
        | some q => (putWord s1 (q.syncBase + 8 * g.done.toNat) (g.status.setWidth 64), .ret [0] true)

/-! ### Semaphores (R284) -/

/-- Whether the issuing slot may name a semaphore (03 R50). -/
def semAllowed (d : Dev) (n : SemReg) : Bool := d.who = 0 || (isHelper d.who && d.me.smask.getLsbD n.toNat)

def semFault (s : State) (n : SemReg) : Out := fault s 0x11 0 (BitVec.ofNat 32 (fld 7 8 + n.toNat))

/-- Wake the first `n` waiters not yet woken, in parking order. -/
def wakeSem (l : List (Nat × Nat × Bool)) (n sem : Nat) : List (Nat × Nat × Bool) :=
  match l, n with
  | [], _ => []
  | l, 0 => l
  | (m, k, w) :: r, c + 1 => if m = sem && !w then (m, k, true) :: wakeSem r c sem else (m, k, w) :: wakeSem r (c + 1) sem

/-- Post: raise the count, promise units to waiters. -/
def Core.semRaise (c : Core) (n : Nat) (v : Nat) (most : Nat) : Core :=
  let u := v - promised c.eng n
  { c with regs := { c.regs with sem := Tab.set c.regs.sem n (BitVec.ofNat 16 v) }
           eng := { c.eng with semWait := wakeSem c.eng.semWait (Nat.min most u) n } }

/-- SEM_WAIT: an acquire at `.core`. -/
def execSemWait (n : SemReg) (s : State) : Out :=
  if !semAllowed s.dev n then semFault s n
  else if semReady s.dev.my n.toNat s.dev.who then
    parkUnless s .coHold (fun s => devStep s (fun d => (d.onMy (fun c =>
      { c with regs := { c.regs with sem := Tab.set c.regs.sem n.toNat (Tab.get 0 c.regs.sem n.toNat - 1) }
               eng := { c.eng with semWait := c.eng.semWait.filter (fun w => !(w.1 == n.toNat && w.2.1 == d.who)) } })).retire
        (fun t => t)))
  else
    devStep s (fun d => (d.onEng d.rank (fun e =>
      if e.semWait.any (fun w => w.1 == n.toNat && w.2.1 == d.who) then e
      else { e with semWait := e.semWait ++ [(n.toNat, d.who, false)] })).park (.sem n.toNat))

/-- SEM_POST: a release at `.core`. -/
def execSemPost (n : SemReg) (k : BitVec 16) (s : State) : Out :=
  parkUnless s (.release .core) (fun s =>
    if !semAllowed s.dev n then semFault s n
    else devStep s (fun d => (d.onMy (fun c =>
      c.semRaise n.toNat (Nat.min ((Tab.get 0 c.regs.sem n.toNat).toNat + k.toNat) 65535) k.toNat)).retire (fun t => t)))

/-- SEM_TRY: takes a unit that no woken waiter was promised. -/
def execSemTry (p : PReg) (n : SemReg) (s : State) : Out :=
  if !semAllowed s.dev n then semFault s n
  else
    let v := (Tab.get 0 s.dev.my.regs.sem n.toNat).toNat
    if v - promised s.dev.my.eng n.toNat ≥ 1 then
      parkUnless s .coHold (fun s => devStep s (fun d =>
        (d.onRegs d.rank (fun c => { c with sem := Tab.set c.sem n.toNat (BitVec.ofNat 16 (v - 1)) })).retire (fun t => t.setP p true)))
    else devStep s (fun d => d.retire (fun t => t.setP p false))

/-- WAIT (R285). -/
def execWait (ld st cp tl : Option (BitVec 9)) (s : State) : Out :=
  parkUnless s (.counts (ld.map (·.toNat)) (st.map (·.toNat)) (cp.map (·.toNat)) (tl.map (·.toNat)))
    (fun s => devStep s (fun d => d.retire (fun t => t)))

/-- EVPOP (R286): the oldest record into D and D + 1. -/
def execEvpop (d : XReg) (s : State) : Out :=
  if s.dev.who ≠ 0 then privFault s
  else match s.dev.my.eng.events with
    | [] => devStep s (fun v => v.park .event)
    | (w0, w1) :: r =>
      devStep s (fun v => (v.onEng v.rank (fun e => { e with events := r })).retire (fun t => (t.setX d w0).setX (d + 1) w1))

/-- EVENT_QUEUE_POST: a record that waits for room enters the queue (10 R215). -/
def execEventQueuePost (r : Nat) (s : State) : Out :=
  match (s.dev.core r).eng.eventWait with
  | [] => .next s
  | (w, _) :: rest =>
    if (s.dev.core r).eng.events.length < 64 then
      devStep s (fun d => d.onEng r (fun e => { e with events := e.events ++ [w], eventWait := rest }))
    else .next s

/-! ### Posting (R287, 03 R54 to R56) -/

/-- Two members of a record name one engine (03 R55). -/
def tagsDouble (w0 : Word) (gsize : Nat) : Bool :=
  let tag := fun i => BitVec.ofNat 3 (bits w0 29 0 / 2 ^ (3 * i))
  (upto gsize).any (fun i => (upto i).any (fun j => tagsClash (tag i) (tag j)))

/-- Statuses 1 to 4 of a record (03 R55, R287). -/
def recordStatus (rec : List Word) : Nat :=
  let w0 := nth 0 rec 0
  let w7 := nth 0 rec 7
  let gsize := bits w0 33 30
  let tag := fun i => bits w0 29 0 / 2 ^ (3 * i) % 8
  let ixOk := fun v => v = 0xFFFFFFFF || v < 2 ^ 20
  if gsize = 0 || gsize > 10 then 1
  else if (upto 10).any (fun i => tag i == 7 || (i ≥ gsize && tag i != 0)) then 2
  else if tagsDouble w0 gsize then 3
  else if !ixOk (bits w7 63 32) || !ixOk (bits w7 31 0) then 4
  else 0

/-- A free node of a queue's pool. -/
def freeNode (q : Queue) : Option Nat :=
  ((upto q.nodes).find? (fun i => !(q.recs.any (fun x => x.node == q.pool + 64 * i)) &&
    !(q.out.any (fun x => x.node == q.pool + 64 * i)))).map (fun i => q.pool + 64 * i)

def depOf (rec : List Word) : Nat := bits (nth 0 rec 7) 31 0

/-- Whether a record is eligible when it enters (03 R56). -/
def eligibleNow (s : State) (q : Queue) (rec : List Word) : Bool :=
  depOf rec = 0xFFFFFFFF || !s.isEmpty (.glob (q.syncBase + 8 * depOf rec))

def putQueue (o : Objs) (q : Queue) : Objs :=
  { o with queues := o.queues.map (fun x => if x.num = q.num then q else x) }

/-- The home of a queue has failed (01 R21, 24 R434). DESIGN CHOICE: a queue's home, which the rules do not place, is the die of its node
pool's base address (log 57). -/
def queueDown (d : Dev) (q : Queue) : Bool := d.dieDown (d.objs.homeDie q.pool)

/-- The list-enqueue at a queue's home (R287): a status, and on 0 the record linked. `domain` is the poster's, none for
the host window. -/
def enqueueRecord (s : State) (head : Bool) (num : Nat) (domain : Option Nat) (ptr : Word) (rec : List Word) : State × Nat :=
  let st := recordStatus rec
  if st ≠ 0 then (s, st)
  else match s.dev.objs.queues.find? (fun q => q.num == num) with
    | none => (s, 5)
    | some q =>
      if (match domain with
          | some d => d != q.domain.toNat
          | none => false) then (s, 5)
      else if head then
        match q.out.find? (fun n => n.node == paddr ptr) with
        | none => (s, 7)
        | some n =>
          ({ s with dev := s.dev.onObjs (fun o => putQueue o
              ({ q with recs := { n with core := none } :: q.recs, out := q.out.filter (fun x => x.node != n.node) }.touch s.dev.now)) }, 0)
      else match freeNode q with
        | none => (s, 6)
        | some node =>
          let n : QRec := ⟨node, rec, eligibleNow s q rec, none⟩
          (s.physMem (s.mem.setWords node rec) node 64 |>.withDev
             (fun d => d.onObjs (fun o => putQueue o ({ q with recs := q.recs ++ [n] }.touch s.dev.now))), 0)

/-- The words of a record at a place. -/
def recordAtLoc (s : State) (l : Loc) (key : Nat) : List Word :=
  match l with
  | .glob pa => (s.memAs pa 64 key).words pa 8
  | .loc r o => (s.dev.core r).lmem.words o 8
  | _ => []

/-- SPAWN (R287): a release at `.sys`; the record is read, then the enqueue is sent. -/
def execSpawn (head : Bool) (d a b : XReg) (s : State) : Out :=
  let p := s.dev.x a
  if head && s.dev.who ≠ 0 then privFault s
  else sendStalls s false (fun s => parkUnless s (.release .sys) (fun s =>
    if !zeroBits (s.dev.x b) 63 8 then fault s 0x03 0 3
    else if pspace p ≠ 0 && pspace p ≠ 1 then fault s 0x13 p 0x400
    else match checkAcc s s.dev.rank s.dev.who s.dev.me .scalar p 64 64 true false with
      | .bad c => fault s c p 0x400
      | .miss x pg => devStep s (fun d => d.missPark x pg (paddr p))
      | .ok l key =>
        if anyHeld s l 64 then .next s
        else if s.poisonedIn l 64 then fault (noteRead s l 64) 0x68 p (poisonOpnd 0 1 + 0x400)
        else sendNow (noteRead s l 64) { cls := .ld, op := .spawn head (bits (s.dev.x b) 7 0) (recordAtLoc s l key), dst := .x d, n := 64, align := 64,
                                         rd := true, wr := false, spaces := [0, 1] } p l key))

end Sys2Proof.Machine
end

