-- ==== Sys2Proof/Machine/Gates.lean ====
section
/-! DEFINITION. Gate calls, delegated calls, conversations and lock elision (08 R161 to R183, 14 R319 to R324, 19 R373, 24
R428, R430 to R432). -/

namespace Sys2Proof.Machine

/-! ### Gate calls -/

/-- A turnpike entry (R161). -/
structure Turnpike where
  w0 : Word
  pass : Word
  ret : Word
  callers : Word
  deriving DecidableEq, Repr

def Turnpike.valid (e : Turnpike) : Bool := e.w0.getLsbD 63
def Turnpike.domain (e : Turnpike) : BitVec 6 := e.w0.extractLsb' 57 6
def Turnpike.asid (e : Turnpike) : BitVec 16 := e.w0.extractLsb' 41 16
def Turnpike.entry (e : Turnpike) : PcIx := e.w0.extractLsb' 26 15
def Turnpike.wbase (e : Turnpike) : Nat := bits e.w0 25 16 * 256
def Turnpike.wlim (e : Turnpike) : Nat := bits e.w0 15 5 * 256
def Turnpike.maxd (e : Turnpike) : Nat := bits e.w0 4 3
def Turnpike.vec (e : Turnpike) : Bool := e.w0.getLsbD 2
def Turnpike.reservedOk (e : Turnpike) : Bool := zeroBits e.w0 1 0 && !e.pass.getLsbD 0 && !e.ret.getLsbD 0

/-- Entry `i` of gate table `t`; none when the table has no such entry (R161). -/
def turnpike (s : State) (t i : Nat) : Option Turnpike :=
  let d := s.dev.plat.reg (0x1200 + 8 * t)
  if bits d 54 44 ≤ i then none
  else
    let a := bits d 43 5 * 32 + 32 * i
    some ⟨s.mem.word a, s.mem.word (a + 8), s.mem.word (a + 16), s.mem.word (a + 24)⟩

/-- Offset of the gate frame of a slot and depth (R164). -/
def gateFrame (c : Core) (k depth : Nat) : Nat := c.regs.gfbase.toNat + (k - 1) * 2560 + depth * 640

/-- The 80 words of a gate frame (R165). -/
def gateWords (t : Slot) (table entry : Nat) : List Word :=
  (upto 63).map (fun i => t.xr (BitVec.ofNat 6 (i + 1))) ++
    [w64 (t.p.toNat / 2), w64 (fld t.tag.toNat 16 + (t.pc + 1).toNat), w64 (fld t.domain.toNat 16 + t.asid.toNat),
     w64 t.lmbase.toNat, w64 t.lmlim.toNat, w64 t.smask.toNat, w64 (fld table 10 + entry)] ++ List.replicate 10 0

/-- The callee's context (R164). -/
def enterGate (t : Slot) (e : Turnpike) (part : Word) : Slot :=
  { t with
    x := ((upto 63).filter (fun i => e.pass.getLsbD (i + 1))).map (fun i => (i + 1, t.xr (BitVec.ofNat 6 (i + 1))))
    p := 0, asid := e.asid, domain := e.domain, part := part
    lmbase := BitVec.ofNat 18 e.wbase, lmlim := BitVec.ofNat 19 e.wlim
    tag := if e.vec && holdsV t.tag then 1 else 0
    smask := 0, gdepth := t.gdepth + 1, pc := e.entry }

/-- Everything the thread posted has drained (R164, R166). -/
def quiet : WaitCond := .own true true true true true

/-- GCALL (R164): the checks in order, the wait, the frame, the switch. -/
def execGcall (t : BitVec 6) (i : BitVec 10) (s : State) : Out :=
  let me := s.dev.me
  let bad := fun (c : Byte) => fault s c 0 (i.setWidth 32)
  if !isHelper s.dev.who then privFault s
  else match turnpike s t.toNat i.toNat with
    | none => bad 0x28
    | some e =>
      if !e.valid || !e.reservedOk || overlapsFrames s.dev.my e.wbase e.wlim then bad 0x28
      else if !e.callers.getLsbD me.domain.toNat then bad 0x29
      else if me.gdepth.toNat ≥ e.maxd + 1 then bad 0x2A
      else parkUnless s quiet (fun s => devStep s (fun d =>
        let f := gateFrame d.my d.who me.gdepth.toNat
        (d.onMy (fun c => { c with lmem := c.lmem.setWords f (gateWords me t.toNat i.toNat) })).onMe (fun u =>
          enterGate u e (Tab.get 0 d.objs.parts e.domain.toNat))))

/-- The caller's context from its frame: a register in `ret` keeps the callee's value (R166). -/
def leaveGate (t : Slot) (c : Core) (f : Nat) (ret : Word) (part : BitVec 6 → Word) : Slot :=
  let w := fun i => c.lmem.word (f + 8 * i)
  { t with
    x := (upto 63).map (fun i => (i + 1, if ret.getLsbD (i + 1) then t.xr (BitVec.ofNat 6 (i + 1)) else w i))
    p := BitVec.ofNat 8 (2 * bits (w 63) 6 0), pc := BitVec.ofNat 15 (bits (w 64) 14 0), tag := BitVec.ofNat 3 (bits (w 64) 18 16)
    asid := BitVec.ofNat 16 (bits (w 65) 15 0), domain := BitVec.ofNat 6 (bits (w 65) 21 16)
    part := part (BitVec.ofNat 6 (bits (w 65) 21 16))
    lmbase := BitVec.ofNat 18 (w 66).toNat, lmlim := BitVec.ofNat 19 (w 67).toNat, smask := BitVec.ofNat 8 (bits (w 68) 7 0)
    gdepth := t.gdepth - 1, aborting := none, taken := none, sent := 0, vbase := 0, voffs := [] }

/-- Return from the innermost gate call; with a code, as an abort that names it in `x1` (R166, R167, R430). -/
def gateBack (d : Dev) (ret : Word) (code : Option Byte) : Dev :=
  let f := gateFrame d.my d.who (d.me.gdepth.toNat - 1)
  d.onMe (fun t =>
    let t1 := leaveGate t d.my f ret (fun m => Tab.get 0 d.objs.parts m.toNat)
    match code with
    | some c => t1.setX 1 (w64 (0x2B + 256 * c.toNat))
    | none => t1)

/-- GRET (R166, R430): an entry no longer valid returns nothing and shows as an abort with 0x28; so does one that the directory no
longer holds, of which the rules do not speak (log 53). -/
def execGret (s : State) : Out :=
  if s.dev.me.gdepth = 0 then illegal s 8
  else parkUnless s quiet (fun s =>
    let w := s.dev.my.lmem.word (gateFrame s.dev.my s.dev.who (s.dev.me.gdepth.toNat - 1) + 8 * 69)
    match turnpike s (bits w 15 10) (bits w 9 0) with
    | some e => devStep s (fun d => if e.valid then gateBack d e.ret none else gateBack d 0 (some 0x28))
    | none => devStep s (fun d => gateBack d 0 (some 0x28)))

/-- The abort of the innermost gate call, which first waits as `gret` waits (R167, R430). -/
def doAbort (cause : Byte) (s : State) : Out :=
  parkUnless s quiet (fun s => devStep s (fun d => gateBack d 0 (some cause)))

/-! ### Delegated calls -/

/-- DCALL (R178, R320): a release at the common scope; subcause 1 is judged before sending, after every stall (21 R394). -/
def execDcall (d a : XReg) (pc : PcIx) (n : BitVec 3) (s : State) : Out :=
  let v := s.dev.x a
  let q := bits v 10 0
  if !isHelper s.dev.who then privFault s
  else sendStalls s true (fun s => parkUnless s (.release (commonScope s.dev.objs.mode s.dev.rank q)) (fun s =>
    parkUnless s (.delegRoom q) (fun s =>
      if ldevOf s.dev.objs.mode (dieOf q) ≠ ldevOf s.dev.objs.mode (dieOf s.dev.rank) then fault s 0x38 (w64 q) 1
      else sendNow s { cls := .ld, op := .dcall q pc.toNat (regsFrom s.dev.me 1 n.toNat), dst := .x d, n := 8, align := 8,
                       rd := false, wr := false, judged := true, acq := true, spaces := [] } (w64 q) (.loc q 0) 0)))

/-- A core does not serve a delegated call: its entry lies beyond the overlay's bound, or its domain is not admitted (R178). -/
def dcallBad (c : Core) (pc domain : Nat) : Bool := c.regs.xb.toNat ≤ pc || !c.regs.dmask.getLsbD domain

/-- The target core's part of `dcall` (R178): subcause 3, a full queue, or the request queued. While the core's die is halted it is
queued unjudged (24 R432). -/
def homeDcall (s : State) (r k : Nat) (q : Req) (rank pc : Nat) (args : List Word) : State × Res :=
  let c := s.dev.core rank
  let halted := (s.dev.die (dieOf rank)).halted
  if !halted && dcallBad c pc q.domain then (s, .refuse 0x38 (w64 rank) 3)
  else if 32 ≤ c.eng.dq.length then (s, .again q)
  else
    ({ s with dev := s.dev.onEng rank (fun e => { e with dq := e.dq ++
        [⟨BitVec.ofNat 15 pc, args, BitVec.ofNat 16 q.asid, BitVec.ofNat 6 q.domain, r, k, q.id, false, halted, q⟩] }) }, .wait)

/-- The calls that a core queued while its die was halted are judged as the die resumes (24 R432). -/
def judgeQueued (d : Dev) (r : Nat) : Dev :=
  let c := d.core r
  let bad := fun (x : DReq) => x.unjudged && dcallBad c x.pc.toNat x.domain.toNat
  let d1 := (c.eng.dq.filter bad).foldl (fun d x =>
    d.onThrFlow x.rank x.slot (fun f => f.answer x.req (.refuse 0x38 (w64 r) 3))) d
  d1.onEng r (fun e => { e with dq := (e.dq.filter (fun x => !bad x)).map (fun x => { x with unjudged := false }) })

/-- The server's context at the start of a request (R179). -/
def serveSlot (old : Slot) (q : DReq) (part : Word) : Slot :=
  { life := .live, owner := old.owner
    x := q.args.zipIdx.map (fun e => (e.2 + 1, e.1)) ++ [(7, w64 (fld q.slot 11 + q.rank))]
    pc := q.pc, asid := q.asid, domain := q.domain, part := part, flow := { old.flow with deferred := [], walked := [] } }

/-- A service slot with nothing of its last handling under way (20 R379; log 34). -/
def serviceIdle (t : Slot) : Bool :=
  t.life != .live && t.flow.bag.isEmpty && t.flow.rets.isEmpty && t.flow.acks.isEmpty && t.flow.posted.isEmpty && t.flow.ld.isEmpty &&
    t.flow.st.isEmpty

/-- What a routine has sent and its store-fault records go on apart from the next one's: the records stay until `sfpop` takes them (20
R383), and the next routine starts with nothing of the last one (R179; log 34). -/
def Dev.partRoutine (d : Dev) (r : Nat) : Dev :=
  let t := d.slot r 11
  let d1 := if d.unperformed r 11 t.flow = 0 && t.flow.acks.isEmpty && t.flow.rets.isEmpty && t.flow.posted.isEmpty && t.flow.st.isEmpty &&
      !hasSf (d.core r).eng 11 then d
    else d.keepSent r 11 t 4
  d1.onSlot r 11 (fun t => { owner := t.owner, flow := { nextId := t.flow.nextId } })

/-- DELEGATED_CALL_SERVE: slot 11 takes the oldest request (R179). -/
def execDelegatedCallServe (r : Nat) (s : State) : Out :=
  let c := s.dev.core r
  match c.eng.dq with
  | [] => .next s
  | q :: rest =>
    if !serviceIdle (c.slot 11) || c.eng.dserve.isSome || !c.running || (s.dev.die (dieOf r)).halted then .next s
    else devStep s (fun d =>
      let part := Tab.get 0 d.objs.parts q.domain.toNat
      (d.onEng r (fun e => { e with dq := rest, dserve := some q })).onSlot r 11 (fun t =>
        serveSlot t { q with slot := if q.slot < 16 then q.slot else homeSlot (d.core q.rank).eng q.slot } part))

/-- The routine of slot 11 ends with an answer to its caller, none where the caller is gone (R179, R180, 20 R385). -/
def endRoutine (d : Dev) (r : Nat) (v : RetVal) : Dev :=
  let d1 := match (d.core r).eng.dserve with
    | some q => if q.cancelled then d else d.onThrFlow q.rank q.slot (fun f => { f with rets := f.rets ++ [(⟨q.req, v⟩ : Ret)] })
    | none => d
  (d1.onEng r (fun e => { e with dserve := none })).partRoutine r

/-- The handler of a fault in the routine ends it (R179). -/
def refuseRoutine (d : Dev) (r : Nat) : Dev := endRoutine d r (.refuse 0x38 (w64 r) 4)

/-- DRET (R180, R320): the release that matches the call. -/
def execDret (a : XReg) (s : State) : Out :=
  if s.dev.who ≠ 11 then illegal s 8
  else
    let caller := (s.dev.my.eng.dserve.map (·.rank)).getD s.dev.rank
    parkUnless s (.release (commonScope s.dev.objs.mode s.dev.rank caller)) (fun s =>
      devStep s (fun d => endRoutine d d.rank (.words [d.x a] true)))

/-! ### Conversations -/

/-- A conversation instruction's request. -/
def convAsk (cls : Cls) (op : ReqOp) (dst : Dst) (judged : Bool) : Ask :=
  { cls := cls, op := op, dst := dst, n := 0, align := 1, rd := false, wr := false, judged := judged, spaces := [] }

/-- COPEN (R171, R321): space and alignment in the core; the home reads the table. -/
def execCopen (d a b : XReg) (s : State) : Out :=
  let p := s.dev.x a
  let mask := s.dev.x b
  sendStalls s false (fun s =>
    if pspace p = 5 && !privSlot s.dev.who then fault s 0x04 p 0
    else if pspace p ≠ 0 then fault s 0x13 p 0x400
    else match checks5 s.dev s.dev.rank s.dev.who s.dev.me .scalar p 8 8 with
      | some c => fault s c p 0x400
      | none => sendNow s (convAsk .ld (.copen mask) (.x d) true) p (.glob 0) 0)

/-- CJOIN (R172). -/
def execCjoin (n : RoleReg) (h : XReg) (r : BitVec 3) (s : State) : Out :=
  let v := s.dev.x h
  sendStalls s false (fun s => sendNow s (convAsk .ld (.cjoin n.toNat r.toNat v) (.role n.toNat) true) 0 (.glob 0) 0)

/-- A role register: none when empty. -/
def roleReg (t : Slot) (n : RoleReg) : Option Word := (t.roles.find? (fun e => e.1 == n.toNat)).map (·.2)

/-- The handle form in an address word of 0x30 to 0x32 (21 R396). -/
def handleForm (v : Word) : Word := w64 (bits v 43 0)

/-- The first error of a payload in local memory: a check of 04 R77, or a word that cannot be read (21 R401, 22 R412). -/
def payloadFault (d : Dev) (p : Word) (m : Nat) : Option Byte :=
  if m = 0 then none
  else if pspace p = 5 && !privSlot d.who then some 0x04
  else if pspace p ≠ 1 then some 0x13
  else match checks5 d d.rank d.who d.me .scalar p (8 * m) 8 with
    | some c => some c
    | none => if (touched (paddr p) (8 * m)).any (fun w => Tab.get false d.my.lpoison w) then some 0x68 else none

/-- The operand word of a payload's fault. -/
def payloadOpnd (c : Byte) : BitVec 32 := if c = 0x68 then 0xD00 else if c = 0x04 then 0 else 0x500

/-- CSEND (R173, R322): a release at `.sys`; the payload is read at issue. -/
def execCsend (n : RoleReg) (b : XReg) (k : BitVec 5) (m : BitVec 6) (s : State) : Out :=
  let p := s.dev.x b
  sendStalls s false (fun s => parkUnless s (.role n.toNat) (fun s => parkUnless s (.release .sys) (fun s =>
    match roleReg s.dev.me n with
    | none => fault s 0x31 0 (k.setWidth 32)
    | some cap =>
      match payloadFault s.dev p m.toNat with
      | some c => fault s c p (payloadOpnd c)
      | none =>
        sendNow s (convAsk .st (.csend n.toNat k.toNat cap (s.dev.my.lmem.words (paddr p) m.toNat)) .none true) 0 (.glob 0) 0)))

/-- CDELEG (R175, R322). -/
def execCdeleg (n : RoleReg) (b : XReg) (s : State) : Out :=
  let v := s.dev.x b
  sendStalls s false (fun s => parkUnless s (.role n.toNat) (fun s => parkUnless s (.release .sys) (fun s =>
    if !zeroBits v 63 17 then fault s 0x03 0 3
    else match roleReg s.dev.me n with
    | none => fault s 0x31 0 0
    | some cap => sendNow s (convAsk .st (.cdeleg n.toNat cap v) .none true) 0 (.glob 0) 0)))

/-- CCLOSE (R176). -/
def execCclose (d h : XReg) (s : State) : Out :=
  let v := s.dev.x h
  sendStalls s false (fun s => sendNow s (convAsk .ld (.cclose v) (.x d) false) 0 (.glob 0) 0)

/-- CSTAT (R176). -/
def execCstat (d h : XReg) (s : State) : Out :=
  let v := s.dev.x h
  sendStalls s false (fun s => sendNow s (convAsk .ld (.cstat v) (.x d) false) 0 (.glob 0) 0)

/-! ### The home of a conversation -/

def convOf (o : Objs) (n : Nat) : Conv := Tab.get {} o.convs n

/-- The conversation a handle or capability names, when its generation is current. -/
def convCurrent (o : Objs) (v : Word) : Option Conv :=
  let c := convOf o (bits v 43 32)
  if c.isOpen && c.gen.toNat == bits v 31 0 then some c else none

/-- A conversation's home has failed with its die (01 R22, 24 R434). -/
def convDown (d : Dev) (v : Word) : Bool := (convCurrent d.objs v).any (fun c => d.dieDown c.home)

/-- The unit that would perform a request has failed with its die: a conversation's home (08 R169), a queue's home (03 R54); such
a request stays (01 R21, R22). -/
def unitDown (d : Dev) (op : ReqOp) : Bool :=
  match op with
  | .cjoin _ _ h | .cclose h | .cstat h | .csend _ _ h _ | .cdeleg _ h _ => convDown d h
  | .spawn _ n _ => (d.objs.queues.find? (fun q => q.num == n)).any (fun q => queueDown d q)
  | _ => false

def putConv (d : Dev) (n : Nat) (c : Conv) : Dev := d.onObjs (fun o => { o with convs := Tab.set o.convs n c })

def hdrFinal (h : Word) : Nat := bits h 33 28
def hdrStart (h : Word) : Nat := bits h 27 22
def hdrKinds (h : Word) : Nat := bits h 21 17
def hdrRoles (h : Word) : Nat := bits h 16 14
def hdrStages (h : Word) : Nat := bits h 13 8
def hdrEdges (h : Word) : Nat := bits h 7 0

/-- A field of an edge word. -/
def edgeField (e : BitVec 32) (hi lo : Nat) : Nat := bits (e.setWidth 64) hi lo

/-- What an edge is found by: stage, sender and kind. -/
def edgeKey (e : BitVec 32) : Nat := edgeField e 31 18

/-- Two edges share a key. -/
def edgesDouble : List (BitVec 32) → Bool
  | [] => false
  | e :: r => r.any (fun f => edgeKey f == edgeKey e) || edgesDouble r

/-- The malformed table of R171. -/
def tableBad (h : Word) (es : List (BitVec 32)) : Bool :=
  !zeroBits h 63 34 || hdrStart h > hdrStages h || hdrFinal h > hdrStages h || edgesDouble es ||
    es.any (fun e => edgeField e 7 0 != 0 || edgeField e 31 26 > hdrStages h || edgeField e 17 12 > hdrStages h ||
      edgeField e 25 23 > hdrRoles h || edgeField e 11 9 > hdrRoles h || edgeField e 22 18 > hdrKinds h)

/-- A word of a table read by the home under the issuing thread's ASID, with checks 6 to 8 (R171). -/
def tableWord (s : State) (q : Req) (off n : Nat) : Except (Byte × Word) (Nat × Nat) :=
  match padvance q.ptr off with
  | none => .error (0x13, q.ptr)
  | some p =>
    match checkWalk s q.asid (paddr p) n true false with
    | .ok (.glob pa) key => if s.poisoned (.glob pa) then .error (0x68, p) else .ok (s.readAs (.glob pa) n key, pa)
    | .bad c => .error (c, p)
    | _ => .error (0x10, p)

/-- A walk or a word that the reading of a table needs is held (22 R417). -/
def tableHeld (s : State) (q : Req) : Bool :=
  let n := match tableWord s q 0 8 with
    | .ok v => 1 + (4 * (hdrEdges (w64 v.1) + 1) + 7) / 8
    | .error _ => 1
  (upto n).any (fun i => (padvance q.ptr (8 * i)).any (wordHeld s q))

/-- A line of a table that the home finds poisoned is recorded where its tag is wrong (22 R411). -/
def noteTable (s : State) (q : Req) (p : Word) : State :=
  match walk s q.asid (paddr p) with
  | some (l, leaf) => noteRead s (.glob (leafPa l leaf (paddr p))) 1
  | none => s

/-- The edge words from one on. -/
def tableEdges (s : State) (q : Req) (i : Nat) : Nat → Except (Byte × Word) (List (BitVec 32))
  | 0 => .ok []
  | n + 1 =>
    match tableWord s q (8 + 4 * i) 4 with
    | .error e => .error e
    | .ok v => match tableEdges s q (i + 1) n with
      | .error e => .error e
      | .ok r => .ok (BitVec.ofNat 32 v.1 :: r)

/-- A table as its home reads it: the header, its place and the edges. -/
def readTable (s : State) (q : Req) : Except (Byte × Word) (Word × Nat × List (BitVec 32)) :=
  match tableWord s q 0 8 with
  | .error e => .error e
  | .ok v => match tableEdges s q 0 (hdrEdges (w64 v.1) + 1) with
    | .error e => .error e
    | .ok es => .ok (w64 v.1, v.2, es)

/-- A free conversation number, at the device's choice (R171; log 6). -/
def freeConv (d : Dev) : Option Nat :=
  let n0 := (Config.freeWord d.free).toNat
  ((upto 4096).find? (fun i => !(convOf d.objs ((n0 + i) % 4096)).isOpen)).map (fun i => (n0 + i) % 4096)

/-- The home's part of `copen` (R171). -/
def homeCopen (s : State) (q : Req) (mask : Word) : State × Res :=
  match readTable s q with
  | .error (c, p) => (if c = 0x68 then noteTable s q p else noteCode s q.asid c p, if c = 0x68 then .defer 0x68 (poisonOpnd 0 3 + 0x400) else .refuse c p 0x400)
  | .ok (h, pa, es) =>
    match freeConv s.dev with
    | none => (s, .ret [0xFFFFFFFFFFFFFFF1] true)
    | some n =>
      if tableBad h es then (s, .ret [0xFFFFFFFFFFFFFFF2] true)
      else
        let g := (convOf s.dev.objs n).gen
        let c : Conv := { gen := g, home := s.dev.objs.homeDie pa, isOpen := true, header := h, edges := es, mask := mask,
                          opener := BitVec.ofNat 6 q.domain, stage := BitVec.ofNat 6 (hdrStart h) }
        ({ s with dev := { putConv s.dev n c with free := s.dev.free + 1 } }, .ret [w64 (fld n 32 + g.toNat)] true)

/-- The home's part of `cjoin` (R172). -/
def homeCjoin (s : State) (r k : Nat) (q : Req) (n role : Nat) (h : Word) : State × Res :=
  let no : State × Res := (s, .refuse 0x31 (handleForm h) (BitVec.ofNat 32 role))
  match convCurrent s.dev.objs h with
  | none => no
  | some c =>
    let free := match Tab.get none c.holders role with
      | none => true
      | some (r1, k1, _) => Tab.get false c.deleg role && r1 == r && k1 == k
    if role > hdrRoles c.header || !c.mask.getLsbD q.domain || !free then no
    else
      let c1 := { c with holders := Tab.set c.holders role (some (r, k, n)), deleg := Tab.set c.deleg role false }
      ({ s with dev := putConv s.dev (bits h 43 32) c1 }, .ret [w64 (fld role 56 + bits h 43 0)] true)

/-- The role of a capability (R172). -/
def capRole (cap : Word) : Nat := bits cap 58 56

/-- A control word of a channel (R174). -/
def ctlWord (ty stage role kind len recv conv : Nat) : Word × Bool :=
  (w64 (fld ty 62 + fld stage 56 + fld role 53 + fld kind 48 + fld len 42 + fld recv 39 + fld conv 27), true)

/-- The outcome of judging a send or a delegation. -/
inductive Verdict
  | refuse (cause : Byte) (addr : Word) (opnd : BitVec 32)
  | hold
  | go (c : Conv) (tgt : Nat × Nat × Nat) (ws : List (Word × Bool))
  deriving DecidableEq, Repr

/-- The thread holds the capability's role (R173 step 1). -/
def holdsRole (c : Conv) (cap : Word) (r k : Nat) : Bool :=
  match Tab.get none c.holders (capRole cap) with
  | some (r1, k1, _) => r1 == r && k1 == k && !Tab.get false c.deleg (capRole cap)
  | none => false

/-- A channel has room for `n` words; a saved receiver takes none. -/
def chanRoom (d : Dev) (tgt : Nat × Nat × Nat) (n : Nat) : Bool :=
  tgt.2.1 < 16 && (Tab.get [] (d.slot tgt.1 tgt.2.1).chans tgt.2.2).length + n ≤ 64

/-- Judge a send (R173, R373). The end word carries its type alone, as 19's worked run shows it. -/
def judgeSend (d : Dev) (num : Nat) (c : Conv) (r k : Nat) (kind : Nat) (cap : Word) (ws : List Word) : Verdict :=
  let opnd := BitVec.ofNat 32 kind
  if !holdsRole c cap r k then .refuse 0x31 (handleForm cap) opnd
  else if kind > hdrKinds c.header then .refuse 0x32 (handleForm cap) opnd
  else
    match (if c.stage.toNat = hdrFinal c.header then none
      else c.edges.find? (fun e => edgeKey e == fld c.stage.toNat 8 + fld (capRole cap) 5 + kind)) with
    | none => .refuse 0x30 (handleForm cap) (opnd + BitVec.ofNat 32 (fld c.stage.toNat 8))
    | some e =>
      let stage := edgeField e 17 12
      let recv := edgeField e 11 9
      match Tab.get none c.holders recv with
      | none => .hold
      | some tgt =>
        let msg := ctlWord 0 stage (capRole cap) kind ws.length recv num :: ws.map (fun w => (w, false)) ++
          (if edgeField e 8 8 = 1 then [ctlWord 2 0 0 0 0 0 0] else [])
        if chanRoom d tgt msg.length then .go { c with stage := BitVec.ofNat 6 stage } tgt msg else .hold

/-- Judge a delegation (R175). Where its channel has no room for the delegation word it is held as a send is; the rule states no
condition on room (log 53). -/
def judgeDeleg (d : Dev) (num : Nat) (c : Conv) (r k : Nat) (cap target : Word) : Verdict :=
  let role := capRole cap
  let tgt := (bits target 10 0, bits target 14 11, bits target 16 15)
  let t := d.slot tgt.1 tgt.2.1
  if !holdsRole c cap r k then .refuse 0x31 (handleForm cap) (BitVec.ofNat 32 role)
  else if !isHelper tgt.2.1 || t.life ≠ .live || !c.mask.getLsbD t.domain.toNat then .refuse 0x38 target 2
  else if chanRoom d tgt 1 then
    .go { c with holders := Tab.set c.holders role (some tgt), deleg := Tab.set c.deleg role true } tgt
      [ctlWord 1 c.stage.toNat role 0 0 role num]
  else .hold

/-- Judge a request of either kind. -/
def judge (d : Dev) (num : Nat) (c : Conv) (r k : Nat) (q : Req) : Verdict :=
  match q.op with
  | .csend _ kind cap ws => judgeSend d num c r k kind cap ws
  | .cdeleg _ cap target => judgeDeleg d num c r k cap target
  | _ => .hold

/-- Words enter a channel in one step (R173). -/
def Dev.toChannel (d : Dev) (tgt : Nat × Nat × Nat) (ws : List (Word × Bool)) : Dev :=
  d.onSlot tgt.1 tgt.2.1 (fun t => { t with chans := Tab.set t.chans tgt.2.2 (Tab.get [] t.chans tgt.2.2 ++ ws) })

/-- An accepted delegation clears the sender's role register (R175). -/
def clearRole (t : Slot) (q : Req) : Slot :=
  match q.op with
  | .cdeleg n _ _ => { t with roles := t.roles.filter (fun e => e.1 != n) }
  | _ => t

/-- Carry out a verdict other than `hold`. -/
def settleConv (d : Dev) (num : Nat) (r k : Nat) (q : Req) : Verdict → Dev
  | .refuse c a o => d.onThrFlow r k (fun f => f.answer q (.refuse c a o))
  | .hold => d
  | .go c tgt ws =>
    let d1 := (putConv d num c).toChannel tgt ws
    d1.onThr r k (fun t => let u := clearRole t q
                           { u with flow := { u.flow.answer q .ack with rets := u.flow.rets ++ [acceptRet q] } })

/-- A send or delegation reaches the home: judged, or held behind another or for room (R173, R177, R373). -/
def homeConv (s : State) (r k : Nat) (q : Req) (cap : Word) : State :=
  let num := bits cap 43 32
  match convCurrent s.dev.objs cap with
  | none => { s with dev := s.dev.onThrFlow r k (fun f => f.answer q (.refuse 0x31 (handleForm cap) (match q.op with
      | .csend _ kind _ _ => BitVec.ofNat 32 kind
      | _ => BitVec.ofNat 32 (capRole cap)))) }
  | some c =>
    let hold : State := { s with dev := putConv s.dev num { c with held := c.held ++ [(r, k, q)] } }
    if !c.held.isEmpty then hold
    else match judge s.dev num c r k q with
      | .hold => hold
      | v => { s with dev := settleConv s.dev num r k q v }

/-- HELD_SEND_ACCEPT: the conversation's oldest held request is judged again (R177, R373). -/
def execHeldSendAccept (n : Nat) (s : State) : Out :=
  let c := convOf s.dev.objs n
  match c.held with
  | [] => .next s
  | (r, k, q) :: rest =>
    if s.dev.dieDown c.home then .next s
    else match judge s.dev n { c with held := rest } r k q with
    | .hold => .next s
    | v => devStep s (fun d => settleConv (putConv d n { c with held := rest }) n r k q v)

/-- The home's part of `cclose` (R176, R322): 3 stale, 1 a held send, 2 not the opener's domain. -/
def homeCclose (s : State) (q : Req) (h : Word) : State × Res :=
  match convCurrent s.dev.objs h with
  | none => (s, .ret [3] true)
  | some c =>
    if !c.held.isEmpty then (s, .ret [1] true)
    else if c.opener.toNat ≠ q.domain then (s, .ret [2] true)
    else ({ s with dev := putConv s.dev (bits h 43 32) { gen := c.gen + 1 } }, .ret [0] true)

/-- The word of `cstat` (R176). -/
def homeCstat (s : State) (h : Word) : Word :=
  match convCurrent s.dev.objs h with
  | none => 0
  | some c => w64 (fld 1 14 + (upto 8).foldl (fun a i => a + (if (Tab.get none c.holders i).isSome then 2 ^ (6 + i) else 0)) 0 +
      c.stage.toNat)

/-! ### Lock elision -/

/-- ELB (R181, R324). -/
def execElb (t : PcIx) (s : State) : Out :=
  if !isHelper s.dev.who then privFault s
  else parkUnless s (.own true true false false false) (fun s =>
    devStep s (fun d => d.retire (fun u => { u with elide := some ⟨t, u.x, u.p, [], []⟩ })))

/-- The bytes a section has buffered in a word, lowest first. -/
def wordBytes (ws : List (Nat × Byte)) (w : Nat) : List (Nat × Byte) :=
  (upto 8).filterMap (fun i => ws.find? (fun e => e.1 == 8 * w + i))

/-- Perform a section's writes, word by word (R182). -/
def commitWrites (c : Core) (ws : List (Nat × Byte)) : Core :=
  ((ws.map (fun e => e.1 / 8)).eraseDups).foldl (fun c w =>
    let bs := wordBytes ws w
    if bs.length = 8 then c.writeBytes (8 * w) (bs.map (·.2)) else bs.foldl (fun c e => c.writeBytes e.1 [e.2]) c) c

/-- ELE (R182, R324, R428): commit in one step, or abort where the bind table refuses a word. -/
def execEle (s : State) : Out :=
  if s.dev.me.elide.isNone then illegal s 8
  else parkUnless s (.own true false false false false) (fun s =>
    match s.dev.me.elide with
    | none => .next s
    | some e =>
      if e.writes.all (fun w => bindAllows s.dev.my w.1 1) then
        devStep s (fun d => ((d.onMe (fun t => { t with elide := none })).onMy (fun c => commitWrites c e.writes)).retire (fun t => t))
      else devStep s (fun d => d.onMe (fun t => t.abort 5 0x20)))

/-- ELA (R182). -/
def execEla (code : BitVec 8) (s : State) : Out :=
  if s.dev.me.elide.isNone then illegal s 8 else devStep s (fun d => d.onMe (fun t => t.abort 3 code.toNat))

end Sys2Proof.Machine
end

