-- ==== Sys2Proof/Machine/Matrix.lean ====
section
/-! DEFINITION. The coach matrix unit (09, 16 R348 to R355; faults after issue 22 R412 source 6, 24 R424): the commands, the
operand fetch, the arbiter, the array steps and the words they write. -/

namespace Sys2Proof.Machine

/-! ### Engine instructions -/

/-- Check 6: the engine tag (12 R265, 16 R348). -/
def needTag (s : State) (holds : BitVec 3 → Bool) (k : State → Out) : Out :=
  if holds s.dev.me.tag then k s else illegal s 6

/-- Operand word of a record: extent (21 R396). -/
def extOpnd (e : Nat) : BitVec 32 := BitVec.ofNat 32 (fld e 8)

/-! ### Cooperative groups (R201 to R203) -/

/-- The core lies in a member coach of a formed group that it does not lead. -/
def barredByCoop (d : Dev) (r : Nat) : Bool := (coopOf d (unitOf r)).isSome && (ledBy d r).isNone

/-! ### Operands (R190, R191, R198) -/

/-- BF16 or FP16. -/
def isHalf (fmt : Nat) : Bool := fmt == 2 || fmt == 3

/-- An element's exact value as an FP32 image (R198, 05 R105). -/
def widen (fmt v : Nat) : Nat :=
  if fmt = 2 then round fp32 .rne (unpack bf16 v) else if fmt = 3 then round fp32 .rne (unpack fp16 v) else v

/-- Element (`row`, `col`) of an operand stored in local memory with rows of `len` elements, as an FP32 image. -/
def operandElem (m : Mem) (o fmt lcode len row col : Nat) : Nat :=
  if isPsb fmt then
    let l := blockLen lcode
    let n := blockBytes fmt lcode
    let b := Psb.unpack (psbW fmt) l (m.readN (o + (row * (len / l) + col / l) * n) n)
    round fp32 .rne (b.val (psbW fmt) (col % l))
  else widen fmt (m.readN (o + (row * len + col) * elemScale fmt) (elemScale fmt))

/-- The core and offset of a space-1 or space-2 operand. -/
def operandAt (r : Nat) (p : Word) : Nat × Nat := (if pspace p = 1 then r else prank p, paddr p)

/-! ### Issue (R349, R350) -/

/-- An operand pointer with its rows, row length and extent code. -/
structure MPtr where
  p : Word
  bytes : Nat
  ext : Nat

/-- The first failure of checks 1 to 3 on the pointers. -/
def mChecks13 (d : Dev) (align : Nat) : List MPtr → Option (Byte × MPtr)
  | [] => none
  | q :: rest =>
    if pspace q.p == 5 && !privSlot d.who then some (0x04, q)
    else if !tagsOk d d.me d.rank .matrix 8 q.p then some (0x13, q)
    else if paddr q.p % align ≠ 0 then some (0x14, q)
    else mChecks13 d align rest

/-- The first failure of check 4. -/
def mCheck4 (d : Dev) : List MPtr → Option (Byte × MPtr)
  | [] => none
  | q :: rest =>
    if pspace q.p = 6 then
      match peerCheck d.objs d.me.part (ppeer q.p) with
      | some c => some (c, q)
      | none => mCheck4 d rest
    else mCheck4 d rest

/-- The first failure of check 5 over the whole extents. -/
def mCheck5 (d : Dev) : List MPtr → Option MPtr
  | [] => none
  | q :: rest =>
    let ok := match pspace q.p with
      | 1 => windowOk d.my d.who d.me (paddr q.p) q.bytes
      | 2 => sharedOk (d.core (prank q.p)) (paddr q.p) q.bytes
      | _ => true
    if ok then mCheck5 d rest else some q

/-- Enter the queue: the instruction retires and counts in `tl`. -/
def mEnter (d : Dev) (op : MOp) (va vb : Word) : Dev :=
  let t := d.me
  let c : MCmd := ⟨t.flow.nextId, d.who, op, 0, (ledBy d d.rank).isSome, t.pc, wordAt d.my t.pc, va, vb⟩
  (d.onEng d.rank (fun e => { e with mq := e.mq ++ [c] })).onMe (fun t =>
    { t.advance with flow := { t.flow with nextId := t.flow.nextId + 1 }.enter .tl t.flow.nextId 1 })
where
  wordAt (c : Core) (pc : PcIx) : BitVec 96 := BitVec.ofNat 96 (c.lmem.readN (pc.toNat * 12) 12)

/-- Issue a queued command (R350): tag, acquires, room, then the checks in order, the conditions of R200 being `subs`. -/
def mIssue (s : State) (ptrs : Dev → List MPtr) (align : Nat) (subs : Dev → Option Nat) (op : Dev → MOp) (va vb : Word) : Out :=
  needTag s holdsM (fun s => parkUnless s .sendHold (fun s => parkUnless s .mqRoom (fun s =>
    let d := s.dev
    match mChecks13 d align (ptrs d) with
    | some (c, q) => fault s c q.p (if c = 0x04 then 0 else extOpnd q.ext)
    | none => match subs d with
      | some n => fault s 0x51 0 (BitVec.ofNat 32 n)
      | none => match mCheck4 d (ptrs d) with
        | some (c, q) => fault s c q.p (extOpnd q.ext)
        | none => match mCheck5 d (ptrs d) with
          | some q => fault s 0x15 q.p (extOpnd q.ext)
          | none => devStep s (fun d => mEnter d (op d) va vb))))

/-- The first condition that holds, with its subcause (R200). -/
def firstSub : List (Nat × Bool) → Option Nat
  | [] => none
  | (n, b) :: r => if b then some n else firstSub r

/-- The bank name's enable bit is clear. -/
def offName (d : Dev) (acc : Nat) : Bool := !accEn d.my.regs.accmap acc

/-- Rules of a group for a command with `D` and its field values (R203, R349). -/
def coopBad (d : Dev) (acc : Nat) (mr nc : BitVec 2) : Bool :=
  barredByCoop d d.rank || (if (ledBy d d.rank).isSome then acc != 0 else mr != 0 || nc != 0)

/-- M or N. -/
def dimOf (v : BitVec 2) : Nat := 128 * (v.toNat + 1)

def notLocal (p : Word) : Bool := pspace p != 1 && pspace p != 2

/-- A row length that is not a whole number of blocks. -/
def rowBad (p : Word) (len : Nat) : Bool := isPsb (pfmtOf p) && len % blockLen (plcode p) != 0

def kBad (k hi : Nat) : Bool := k < 16 || k > hi || k % 16 != 0

/-- `mm` and `sqd` (R190, R191, R351). -/
def mmIssue (s : State) (ta tb sq : Bool) (acc : AccReg) (a b : XReg) (k : BitVec 16) (mr nc : BitVec 2) : Out :=
  let p := s.dev.x a
  let q := s.dev.x b
  let m := dimOf mr
  let n := dimOf nc
  let kk := k.toNat
  let fa := pfmtOf p
  let fb := pfmtOf q
  mIssue s
    (fun _ => [⟨p, if ta then rowsBytes p kk m else rowsBytes p m kk, 1⟩, ⟨q, if tb then rowsBytes q n kk else rowsBytes q kk n, 1⟩]) 8
    (fun d => firstSub
      [(1, !(isPsb fa && isPsb fb) && (sq || !(isHalf fa && isHalf fb))), (2, notLocal p || notLocal q), (3, kBad kk 32768),
       (4, rowBad p (if ta then m else kk) || rowBad q (if tb then kk else n)), (5, offName d acc.toNat), (8, coopBad d acc.toNat mr nc)])
    (fun _ => .mm ta tb sq acc.toNat p q kk m n) p q

/-- MM (R351). -/
def execMm (ta tb : Bool) (acc : AccReg) (a b : XReg) (k : BitVec 16) (mrows ncols : BitVec 2) (s : State) : Out :=
  mmIssue s ta tb false acc a b k mrows ncols

/-- SQD (R196, R351). -/
def execSqd (tb : Bool) (acc : AccReg) (a b : XReg) (k : BitVec 16) (mrows ncols : BitVec 2) (s : State) : Out :=
  mmIssue s false tb true acc a b k mrows ncols

/-- The command may not stand in or beside a group at all (R203). -/
def coopRefuses (d : Dev) : Bool := (coopOf d (unitOf d.rank)).isSome

/-- MMC (R195, R352). -/
def execMmc (tgt : MmcTgt) (ta : Bool) (acc accs : AccReg) (b : XReg) (k : BitVec 16) (s : State) : Out :=
  let q := s.dev.x b
  let kk := k.toNat
  let fb := pfmtOf q
  mIssue s (fun _ => [⟨q, rowsBytes q kk 128, 1⟩]) 8
    (fun d => firstSub
      [(1, if tgt = .bf16 then !isHalf fb else !isPsb fb), (2, notLocal q), (3, kBad kk 128), (4, rowBad q 128),
       (5, offName d acc.toNat || offName d accs.toNat),
       (6, accBank d.my.regs.accmap acc.toNat == accBank d.my.regs.accmap accs.toNat), (8, coopRefuses d)])
    (fun _ => .mmc tgt ta acc.toNat accs.toNat q kk) 0 q

/-- `topk` (R197, R353): D the index destination, B the value destination. -/
def topkIssue (s : State) (max : Bool) (d : XReg) (acc : AccReg) (b : XReg) (k : BitVec 7) (nb : BitVec 3) : Out :=
  let p := s.dev.x d
  let v := s.dev.x b
  let kk := k.toNat
  let n := nb.toNat
  let vals : List MPtr := if b = 0 then [] else [⟨v, 128 * 4 * kk, 6⟩]
  let run := (upto n).map (fun i => acc.toNat + i)
  mIssue s (fun _ => vals ++ [⟨p, 128 * 2 * kk, 2⟩]) 1
    (fun d => firstSub
      [(2, notLocal p || (b != 0 && notLocal v)), (5, run.any (fun i => i ≤ 3 && offName d i)),
       (7, kk < 1 || kk > 64 || n < 1 || n > 4 || acc.toNat + n > 4 || paddr p % 8 != 0 || (b != 0 && paddr v % 8 != 0)),
       (8, coopRefuses d)])
    (fun _ => .topk max acc.toNat p (if b = 0 then none else some v) kk n) p v

/-- TOPK_MAX. -/
def execTopkMax (d : XReg) (acc : AccReg) (b : XReg) (k : BitVec 7) (nb : BitVec 3) (s : State) : Out :=
  topkIssue s true d acc b k nb

/-- TOPK_MIN. -/
def execTopkMin (d : XReg) (acc : AccReg) (b : XReg) (k : BitVec 7) (nb : BitVec 3) (s : State) : Out :=
  topkIssue s false d acc b k nb

/-- MACZ (R354). -/
def execMacz (acc : AccReg) (mrows ncols : BitVec 2) (s : State) : Out :=
  mIssue s (fun _ => []) 8 (fun d => firstSub [(5, offName d acc.toNat), (8, coopBad d acc.toNat mrows ncols)])
    (fun _ => .macz acc.toNat (dimOf mrows) (dimOf ncols)) 0 0

/-- Formats of banks' moves (R198). -/
def moveFmt (fmt : Nat) : Bool := fmt == 1 || isHalf fmt || isPsb fmt

/-- MACST (R198, R354). -/
def execMacst (rnd : Rnd) (d : XReg) (acc : AccReg) (mrows ncols : BitVec 2) (s : State) : Out :=
  let p := s.dev.x d
  let m := dimOf mrows
  let n := dimOf ncols
  mIssue s (fun _ => [⟨p, rowsBytes p m n, 2⟩]) 8
    (fun v => firstSub
      [(1, !moveFmt (pfmtOf p)), (2, notLocal p && pspace p != 0 && pspace p != 6), (4, rowBad p n), (5, offName v acc.toNat),
       (8, coopBad v acc.toNat mrows ncols), (10, isPsb (pfmtOf p) && rnd != .rne)])
    (fun _ => .macst rnd p acc.toNat m n) p 0

/-- MACLD (R198, R354). -/
def execMacld (acc : AccReg) (a : XReg) (mrows ncols : BitVec 2) (s : State) : Out :=
  let p := s.dev.x a
  let m := dimOf mrows
  let n := dimOf ncols
  mIssue s (fun _ => [⟨p, rowsBytes p m n, 1⟩]) 8
    (fun v => firstSub
      [(1, !moveFmt (pfmtOf p)), (2, notLocal p), (4, rowBad p n), (5, offName v acc.toNat), (8, coopBad v acc.toNat mrows ncols)])
    (fun _ => .macld acc.toNat p m n) p 0

/-- A command rebuilt from its instruction and its register values (20 R389). -/
def mopOf (i : Instr) (va vb : Word) : Option MOp :=
  match i with
  | .mm ta tb acc _ _ k m n => some (.mm ta tb false acc.toNat va vb k.toNat (dimOf m) (dimOf n))
  | .sqd tb acc _ _ k m n => some (.mm false tb true acc.toNat va vb k.toNat (dimOf m) (dimOf n))
  | .mmc tgt ta acc accs _ k => some (.mmc tgt ta acc.toNat accs.toNat vb k.toNat)
  | .topkMax _ acc b k n => some (.topk true acc.toNat va (if b = 0 then none else some vb) k.toNat n.toNat)
  | .topkMin _ acc b k n => some (.topk false acc.toNat va (if b = 0 then none else some vb) k.toNat n.toNat)
  | .macz acc m n => some (.macz acc.toNat (dimOf m) (dimOf n))
  | .macst rnd _ acc m n => some (.macst rnd va acc.toNat (dimOf m) (dimOf n))
  | .macld acc _ m n => some (.macld acc.toNat va (dimOf m) (dimOf n))
  | _ => none

/-! ### Queries and groups (R199, R201, R355) -/

/-- The word of `mqry`. -/
def mqryWord (d : Dev) (r : Nat) : Word :=
  let h := d.coach (unitOf r)
  let c := d.core r
  let w := if c.regs.mqw = 0 then 1 else c.regs.mqw.toNat
  let g := h.group.getD (0, 0)
  w64 (fld (h.steps % 2 ^ 32) 32 + fld g.2 24 + fld g.1 21 + fld (b2n h.group.isSome) 20 + fld c.regs.accmap.toNat 8 + fld w 4 +
    c.eng.mq.length)

/-- MQRY (R355). -/
def execMqry (d : XReg) (s : State) : Out :=
  needTag s holdsM (fun s => devStep s (fun v => v.retire (fun t => t.setX d (mqryWord v v.rank))))

/-- The core is the recorded member for a quadrant. -/
def isMember (d : Dev) (r g q : Nat) : Bool :=
  d.objs.coops.any (fun c => c.die == dieOf r && c.g == g && c.member q == some r)

/-- Another core is the recorded member for a quadrant. -/
def heldByOther (d : Dev) (r g q : Nat) : Bool :=
  d.objs.coops.any (fun c => c.die == dieOf r && c.g == g && (c.member q).any (· != r))

/-- MCOOP (R201, R355): its checks after the stall for room (21 R394); a join parks for the unit's queues unless another core holds its
quadrant, a leave for the group's commands; then it asks, and the status counts in `ld`. -/
def execMcoop (d a : XReg) (s : State) : Out :=
  let v := s.dev.x a
  let g := bits v 2 0
  let q := bits v 4 3
  needTag s holdsM (fun s => sendStalls s false (fun s =>
    if !zeroBits v 63 6 then fault s 0x03 0 2
    else if unitOf s.dev.rank % 32 ≠ 4 * g + q then fault s 0x51 0 9
    else
      let cond : State → (State → Out) → Out := fun s k =>
        if v.getLsbD 5 then (if heldByOther s.dev s.dev.rank g q then k s else parkUnless s .coachIdle k)
        else if isMember s.dev s.dev.rank g q then parkUnless s .groupIdle k else k s
      cond s (fun s => sendNow s { cls := .ld, op := .mcoop v, dst := .x d, n := 8, align := 8, rd := false, wr := false, spaces := [1] }
        0 (.loc s.dev.rank 0) 0)))

def findCoop (o : Objs) (die g : Nat) : Coop := (o.coops.find? (fun c => c.die == die && c.g == g)).getD ⟨die, g, [], false⟩

def putCoop (o : Objs) (c : Coop) : Objs :=
  { o with coops := c :: o.coops.filter (fun x => !(x.die == c.die && x.g == c.g)) }

/-- The units of a group named or freed. -/
def setUnits (d : Dev) (c : Coop) (formed : Bool) : Dev :=
  (upto 4).foldl (fun d q => d.onCoach (c.unit q) (fun h => { h with group := if formed then some (c.g, q) else none })) d

/-- The joins that wait in a core's bags learn that their group is formed (R201): bit 62 of their words. -/
def joinsFormed (g : Nat) (d : Dev) (r : Nat) : Dev :=
  let mark := fun (q : Req) => match q.op with
    | .mcoop v => if v.getLsbD 63 && bits v 2 0 == g then { q with op := .mcoop (v ||| ((1 : Word) <<< 62)) } else q
    | _ => q
  let onT := fun (t : Slot) => ({ t with flow := { t.flow with bag := t.flow.bag.map mark } } : Slot)
  d.onCore r (fun c => { c with
    slots := c.slots.map (fun e => (e.1, onT e.2))
    eng := { c.eng with saved := c.eng.saved.map (fun x => { x with ctx := onT x.ctx }) } })

/-- The device's part of `mcoop`: bit 63 of the request's word marks a join already recorded, which waits for the group; bit 62 one
whose group has been formed, whatever became of the group since. The queues are looked at again when the join is recorded. DESIGN
CHOICE: a leave, or a member's exit, before the group is formed frees every quadrant, and the other waiting joins record themselves
anew (log 57). -/
def homeMcoop (s : State) (r k : Nat) (q : Req) (v : Word) : State × Res :=
  let g := bits v 2 0
  let qd := bits v 4 3
  let c := findCoop s.dev.objs (dieOf r) g
  let mine := c.member qd == some r
  if !v.getLsbD 5 then
    if mine then ({ s with dev := dropCoop s.dev c }, .ret [0] true) else (s, .ret [3] true)
  else if v.getLsbD 62 then (s, .ret [0] true)
  else if v.getLsbD 63 && mine then (s, .wait)
  else if (c.member qd).isSome then (s, .ret [1] true)
  else if !(WaitCond.coachIdle.holds s r k) then (s, .wait)
  else
    let c1 := { c with members := Tab.set c.members qd r }
    let c2 := { c1 with formed := c1.members.length == 4 }
    let d1 := (s.dev.onObjs (fun o => putCoop o c2)).onThr r k (fun t => { t with coop := true })
    if c2.formed then ({ s with dev := setUnits ((c2.members.map (·.2)).foldl (joinsFormed g) d1) c2 true }, .ret [0] true)
    else ({ s with dev := d1 }, .again { q with op := .mcoop (v ||| ((1 : Word) <<< 63)) })

/-! ### Steps -/

def MCmd.steps (m : MCmd) (d : Dev) (r : Nat) : Nat := (m.op.plan (m.grouped d r)).length

/-- Whether a step fetches operands (R188). -/
def MOp.fetches : MOp → Bool
  | .mm _ _ _ _ _ _ _ _ _ | .mmc _ _ _ _ _ _ | .macld _ _ _ _ => true
  | _ => false

/-- The first step of a queue not yet buffered: the head's next, or the next command's first when the head's last step is
buffered or needs no fetch (R188). -/
def nextFetch (d : Dev) (r : Nat) (bufs : List MBuf) : List MCmd → Option (MCmd × Nat)
  | [] => none
  | c :: rest =>
    let have_ := (bufs.filter (fun b => b.cmd == c.id)).length
    if c.op.fetches && c.next + have_ < c.steps d r then some (c, c.next + have_)
    else match rest with
      | c2 :: _ =>
        let h2 := (bufs.filter (fun b => b.cmd == c2.id)).length
        if c2.op.fetches && h2 = 0 then some (c2, 0) else none
      | [] => none

/-- Element (`i`, `k`) of A or of Bᵀ as stored. -/
def slab (m : Mem) (o : Nat) (p : Word) (rows lo n len : Nat) (trans : Bool) : List Nat :=
  (upto rows).flatMap (fun i => (upto n).map (fun k =>
    if trans then operandElem m o (pfmtOf p) (plcode p) rows (lo + k) i
    else operandElem m o (pfmtOf p) (plcode p) len i (lo + k)))

/-- A local extent holds an uncorrectable word. -/
def extentPoison (c : Core) (o n : Nat) : Bool := (touched o n).any (fun w => Tab.get false c.lpoison w)

/-- Extents, offset and length, that K values lo to lo + n − 1 of an operand touch, by row runs: whole blocks where the format has
blocks. -/
def slabExtents (p : Word) (rows lo n len : Nat) (trans : Bool) : List (Nat × Nat) :=
  let blk := if isPsb (pfmtOf p) then blockLen (plcode p) else 1
  let at_ := fun (c : Nat) => rowsBytes p 1 c
  if trans then [(paddr p + lo * at_ rows, n * at_ rows)]
  else (upto rows).map (fun i => (paddr p + at_ len * i + at_ (lo / blk * blk), at_ ((lo + n + blk - 1) / blk * blk) - at_ (lo / blk * blk)))

/-- The operands of a step as they are read: the core, the pointer and its extents (R188, R190, R195, R354). -/
def stepReads (d : Dev) (r : Nat) (c : MCmd) (st : Nat) : List (Nat × Word × List (Nat × Nat)) :=
  let rg := nth (0, 0) (c.op.plan (c.grouped d r)) st
  match c.op with
  | .mm ta tb _ _ a b k m n =>
    let lo := 128 * rg.1
    let cnt := Nat.min 128 (k - lo)
    [((operandAt r a).1, a, slabExtents a m lo cnt k ta), ((operandAt r b).1, b, slabExtents b n lo cnt k (!tb))]
  | .mmc _ _ _ _ b k => [((operandAt r b).1, b, slabExtents b 128 0 k k true)]
  | .macld _ a m n =>
    [((operandAt r a).1, a, ((upto (Nat.min m 512)).filter (fun i => i % 128 / 16 == rg.1)).map (fun i =>
      (paddr a + i * rowsBytes a 1 n, rowsBytes a 1 n)))]
  | _ => []

/-- A core's memory as the operand fetch sees it: words that engine steps have read already keep the values they had then (R192). -/
def feedCore (s : State) (r q : Nat) : Core :=
  ((s.dev.core r).eng.mfeed.filter (fun f => f.1 == q)).foldl (fun c f =>
    { c with lmem := c.lmem.setWord (8 * f.2.1) f.2.2.1, lpoison := Tab.put false c.lpoison f.2.1 f.2.2.2 }) (s.dev.core q)

/-- Some word of an operand is uncorrectable. -/
def slabPoison (c : Core) (l : List (Nat × Nat)) : Bool := l.any (fun e => extentPoison c e.1 e.2)

/-- Uncorrectable words of a step's operands are recorded as it reads them (22 R419). -/
def noteFeed (s : State) (r : Nat) (c : MCmd) (st : Nat) : State :=
  (stepReads s.dev r c st).foldl (fun s x => x.2.2.foldl (fun s e => noteRead s (.loc x.1 e.1) e.2) s) s

/-- The operand buffers of a step (R188, R192): values as FP32 images, rows of A and columns of B, K innermost. The words that no engine
step has read before are read at one instant, the step's. -/
def fetchStep (s : State) (r : Nat) (c : MCmd) (st : Nat) : MBuf :=
  let rg := nth (0, 0) (c.op.plan (c.grouped s.dev r)) st
  let bad := ((stepReads s.dev r c st).find? (fun x => slabPoison (feedCore s r x.1) x.2.2)).map (fun x =>
    ((0x68 : Byte), BitVec.ofNat 32 (fld 1 8 + fld 6 11), x.2.1))
  match c.op with
  | .mm ta tb _ _ a b k m n =>
    let lo := 128 * rg.1
    let cnt := Nat.min 128 (k - lo)
    let ca := feedCore s r (operandAt r a).1
    let cb := feedCore s r (operandAt r b).1
    ⟨st, c.id, slab ca.lmem (paddr a) a m lo cnt k ta, slab cb.lmem (paddr b) b n lo cnt k (!tb), bad⟩
  | .mmc _ _ _ _ b k => ⟨st, c.id, [], slab (feedCore s r (operandAt r b).1).lmem (paddr b) b 128 0 k k true, bad⟩
  | .macld _ a m n =>
    let ca := feedCore s r (operandAt r a).1
    let rows := Nat.min m 512
    ⟨st, c.id, (upto rows).flatMap (fun i => (upto n).map (fun j =>
        if i % 128 / 16 = rg.1 then operandElem ca.lmem (paddr a) (pfmtOf a) (plcode a) n i j else 0)), [], bad⟩
  | _ => ⟨st, c.id, [], [], none⟩

/-- Buffers of a queue in use: those filled, and that of the step in the array. -/
def bufsUsed (d : Dev) (r : Nat) : Nat :=
  (d.core r).eng.mbuf.length +
    (match (d.coach (unitOf r)).step with
     | some m => b2n (m.core == r && m.buf.isSome)
     | none => 0)

/-- The queue's owner is being halted for its frame (20 R387). -/
def rushed (t : Slot) : Bool :=
  match t.pre with
  | some p => p.rush
  | none => false

/-- The operand of a command that a side-band mismatch strikes: its first PSB operand (05 R108). -/
def psbOperand (op : MOp) : Option Word :=
  let l := match op with
    | .mm _ _ _ _ a b _ _ _ => [a, b]
    | .mmc _ _ _ _ b _ => [b]
    | .macld _ a _ _ => [a]
    | _ => []
  l.find? (fun p => isPsb (pfmtOf p))

/-- A fetched step marked by a side-band mismatch (24 R425). DESIGN CHOICE: a step that poison marks too raises 0x50 alone; the rules
give no order (log 25). -/
def slipped (c : MCmd) (b : MBuf) : MBuf :=
  match psbOperand c.op with
  | some p => { b with bad := some (0x50, extOpnd 1, p) }
  | none => b

/-- MATRIX_OPERAND_FETCH: core `c` of coach `u` fetches its queue's next step into a free buffer (R188). `slip` is a side-band
mismatch in the feed. -/
def execMatrixOperandFetch (u c : Nat) (slip : Bool) (s : State) : Out :=
  let r := u * 8 + c % 8
  let e := (s.dev.core r).eng
  if !s.dev.engineUp r || bufsUsed s.dev r ≥ 2 then .next s
  else match nextFetch s.dev r e.mbuf e.mq with
    | none => .next s
    | some (m, st) =>
      if !(s.dev.slot r m.slot).flow.ocClear m.id || rushed (s.dev.slot r m.slot) then .next s
      else
        let b := if slip then slipped m (fetchStep s r m st) else fetchStep s r m st
        let s1 := noteFeed s r m st
        .next { s1 with dev := s1.dev.onEng r (fun e => { e with mbuf := e.mbuf ++ [b], mfeed := [] }) }

/-- ENGINE_STEP of the operand feed: one word of core `q`'s memory, an operand's core, is read for the next fetch (06 R116). -/
def stepFeed (s : State) (r q w : Nat) : State :=
  let e := (s.dev.core r).eng
  match (if bufsUsed s.dev r ≥ 2 then none else nextFetch s.dev r e.mbuf e.mq) with
  | none => s
  | some (m, st) =>
    let reads := (stepReads s.dev r m st).any (fun x => x.1 == q && x.2.2.any (fun y => (touched y.1 y.2).contains w))
    if !reads || e.mfeed.any (fun f => f.1 == q && f.2.1 == w) || !(s.dev.slot r m.slot).flow.ocClear m.id || rushed (s.dev.slot r m.slot) then s
    else
      let c := s.dev.core q
      { s with dev := s.dev.onEng r (fun e => { e with mfeed := e.mfeed ++ [(q, w, c.lmem.word (8 * w), Tab.get false c.lpoison w)] }) }

/-- The weight of a queue (R186). -/
def mqWeight (c : Core) : Int := if c.regs.mqw = 0 then 1 else c.regs.mqw.toNat

/-- A queue contends: its head's next step is buffered or needs no fetch (R189). No step is chosen for a halted core
(24 R433). -/
def contends (d : Dev) (r : Nat) : Bool :=
  let e := (d.core r).eng
  match e.mq with
  | [] => false
  | m :: _ =>
    !(d.die (dieOf r)).halted && !rushed (d.slot r m.slot) && (d.slot r m.slot).flow.ocClear m.id &&
      (!barredByCoop d r) && (!m.op.fetches || e.mbuf.any (fun b => b.cmd == m.id && b.step == m.next))

/-- Smooth weighted round robin (03 R57): the winner, and every contender's credit afterwards. -/
def swrr (l : List (Nat × Int × Int)) : Option Nat × List (Nat × Int) :=
  let added := l.map (fun e => (e.1, e.2.1 + e.2.2, e.2.2))
  let best := added.foldl (fun (b : Option (Nat × Int)) e =>
    match b with
    | none => some (e.1, e.2.1)
    | some (i, v) => if e.2.1 > v || (e.2.1 == v && e.1 < i) then some (e.1, e.2.1) else some (i, v)) none
  let sum := added.foldl (fun a e => a + e.2.2) 0
  match best with
  | none => (none, [])
  | some (w, _) => (some w, added.map (fun e => (e.1, if e.1 = w then e.2.1 - sum else e.2.1)))

/-- A command and those behind it leave the queue and `tl`; the thread takes a fault at its next boundary (22 R412 source 6, 24 R424).
Words that the command has sent already are still performed and set full. -/
def dropCmds (d : Dev) (r k : Nat) (ids : List Nat) (cause : Byte) (addr : Word) (opnd : BitVec 32) : Dev :=
  let gone := ids ++ (d.core r).eng.mq.map (·.id)
  let d1 := d.onEng r (fun e => { e with
    mq := []
    mbuf := []
    mfeed := []
    ewords := (e.ewords.filter (fun w => !(w.slot == k && ids.contains w.id && w.loc.isNone))).map (fun w =>
      if w.slot = k && ids.contains w.id then { w with free := true } else w)
    mtl := e.mtl.filter (fun m => !(m.2.1 == k && gone.contains m.1)) })
  d1.onThrFlow r k (fun f => (gone.eraseDups.foldl (fun f i => f.finish .tl i) f).deferFault cause addr opnd)

/-- The down-converter (R195, 05 R112): rows of A from a bank, as FP32 images. -/
def convertA (h : Coach) (bank : Nat) (tgt : MmcTgt) (ta : Bool) (k : Nat) : List Nat :=
  let at_ := fun i c => (Tab.get 0 h.bank (bank * 16384 + (if ta then c * 128 + i else i * 128 + c))).toNat
  (upto 128).flatMap (fun i =>
    match tgt with
    | .bf16 => (upto k).map (fun c => widen 2 (round bf16 .rne (unpack fp32 (at_ i c))))
    | t =>
      let w := if t = .psb4 then 4 else 7
      (upto (k / 16)).flatMap (fun g =>
        let b := quantise w ((upto 16).map (fun j => unpack fp32 (at_ i (16 * g + j))))
        (upto 16).map (fun j => round fp32 .rne (b.val w j))))

/-- The name of the bank that a command names in D. -/
def MOp.acc : MOp → Nat
  | .mm _ _ _ a _ _ _ _ _ => a
  | .mmc _ _ a _ _ _ => a
  | .topk _ a _ _ _ _ => a
  | .macz a _ _ => a
  | .macst _ _ a _ _ => a
  | .macld a _ _ _ => a

/-- What a step of core `r` works on: units, physical banks, first row and column of the result (R202, R203); for `topk` the banks of
its run. A bank's name is mapped, and the group that the core leads is judged, when the step starts (R186 does not say when; log
54). -/
def stepTiles (d : Dev) (r : Nat) (m : MCmd) : List (Nat × Nat × Nat × Nat) :=
  let bank := fun (n : Nat) => accBank (d.core r).regs.accmap n
  match (if m.grp then ledBy d r else none), m.op with
  | none, .topk _ acc _ _ _ nb => (upto nb).map (fun i => (unitOf r, bank (acc + i), 0, 0))
  | none, op => [(unitOf r, bank op.acc, 0, 0)]
  | some c, op =>
    let b := (nth (0, 0) (op.plan true) m.next).2
    ((upto 4).filter (fun q => tileIn op.dims.1 op.dims.2 q b)).map (fun q =>
      (c.unit q, b, 256 * (q / 2) + 128 * (b / 2), 256 * (q % 2) + 128 * (b % 2)))

/-- The units that a step of a core's command holds: its own, or all four of a group it leads (R203). -/
def stepUnits (d : Dev) (r : Nat) (m : MCmd) : List Nat :=
  match (if m.grp then ledBy d r else none) with
  | some c => (upto 4).map c.unit
  | none => [unitOf r]

/-- Take the head's next step of core `r` into the arrays of the units that run it (R187, R203). -/
def startStep (d : Dev) (r : Nat) (m : MCmd) : Dev :=
  let u := unitOf r
  let last := m.next + 1 ≥ m.steps d r
  let buf := (d.core r).eng.mbuf.find? (fun b => b.cmd == m.id && b.step == m.next)
  let buf1 := match m.op, buf with
    | .mmc tgt ta _ src _ k, some b => some { b with a := convertA (d.coach u) (accBank (d.core r).regs.accmap src) tgt ta k }
    | _, b => b
  let d1 := d.onEng r (fun e => { e with
    mbuf := e.mbuf.filter (fun b => !(b.cmd == m.id && b.step == m.next))
    mq := if last then e.mq.drop 1 else modAt (fun x => { x with next := x.next + 1 }) e.mq 0 })
  let step : MStep := ⟨r, m, m.next, buf1, last, stepTiles d r m, (nth (0, 0) (m.op.plan (m.grouped d r)) m.next).1⟩
  (stepUnits d r m).foldl (fun d v => d.onCoach v (fun h => { h with step := some step })) d1

/-- MATRIX_STEP_BOUNDARY: the unit chooses among the contending queues and starts a step, and the credit of every queue that does not
contend is 0 (R189); a step marked bad is not applied (22 R412 source 6). -/
def execMatrixStepBoundary (u : Nat) (s : State) : Out :=
  let d := s.dev
  let rs := (upto 8).map (fun c => u * 8 + c)
  if !d.engineUp (u * 8) || (d.coach u).step.isSome then .next s
  else
    let cs := rs.filter (contends d)
    match cs with
    | [] => .next { s with dev := rs.foldl (fun d r => d.onEng r (fun e => { e with mcredit := 0 })) d }
    | _ =>
      let pick := swrr (cs.map (fun r => (r, (d.core r).eng.mcredit, mqWeight (d.core r))))
      match pick.1 with
      | none => .next s
      | some w =>
        match (d.core w).eng.mq with
        | [] => .next s
        | m :: _ =>
          if (stepUnits d w m).any (fun v => (d.coach v).step.isSome) then .next s
          else
            let d1 := rs.foldl (fun d r => d.onEng r (fun e => { e with
              mcredit := ((pick.2.find? (fun p => p.1 == r)).map (·.2)).getD 0 })) d
            match ((d.core w).eng.mbuf.find? (fun b => b.cmd == m.id && b.step == m.next)).bind (·.bad) with
            | some (c, o, p) => .next { s with dev := dropCmds d1 w m.slot [m.id] c p o }
            | none => .next { s with dev := startStep d1 w m }

/-! ### The effect of a step -/

/-- Change a bank's elements (row, column). -/
def onBank (h : Coach) (bank : Nat) (rows : List Nat) (f : Nat → Nat → BitVec 32 → BitVec 32) : Coach :=
  rows.foldl (fun h i => (upto 128).foldl (fun h j =>
    let x := bank * 16384 + i * 128 + j
    { h with bank := Tab.set h.bank x (f i j (Tab.get 0 h.bank x)) }) h) h

/-- Groups of `g` terms folded into an element (05 R109, R110). -/
def foldGroups (g : Nat) : Nat → List FVal → BitVec 32 → BitVec 32
  | 0, _, acc => acc
  | n + 1, l, acc => foldGroups g n (l.drop g) (accStep acc (l.take g))

/-- A tile's product (R351): rows and columns of the slabs offset to the tile. -/
def mulTile (h : Coach) (bank : Nat) (a b : List Nat) (row0 col0 cnt : Nat) (sq half : Bool) : Coach :=
  onBank h bank (upto 128) (fun i j acc =>
    let ts := (upto cnt).map (fun k =>
      term sq (unpack fp32 (nth 0 a ((row0 + i) * cnt + k))) (unpack fp32 (nth 0 b ((col0 + j) * cnt + k))))
    let g := if half then 4 else 16
    foldGroups g (cnt / g) ts acc)

/-- `a` ranks before `b` (R197): values with their columns. -/
def ranksBefore (max : Bool) (a b : Nat × Nat) : Bool :=
  let x := unpack fp32 a.1
  let y := unpack fp32 b.1
  match x.isNan, y.isNan with
  | true, true => a.2 < b.2
  | true, false => false
  | false, true => true
  | false, false =>
    if x.eq y then a.2 < b.2 else if max then y.lt x else x.lt y

/-- Insert in ranking order, keeping at most `k`. -/
def rankInsert (max : Bool) (k : Nat) (v : Nat × Nat) (l : List (Nat × Nat)) : List (Nat × Nat) :=
  (place l).take k
where
  place : List (Nat × Nat) → List (Nat × Nat)
    | [] => [v]
    | x :: r => if ranksBefore max v x then v :: x :: r else x :: place r

/-- The selected columns of a row: values and columns, best first. -/
def topRow (h : Coach) (banks : List Nat) (max : Bool) (k i : Nat) : List (Nat × Nat) :=
  let cands := (upto banks.length).flatMap (fun b => (upto 128).map (fun j =>
    ((Tab.get 0 h.bank (nth 0 banks b * 16384 + i * 128 + j)).toNat, 128 * b + j)))
  cands.foldl (fun l v => rankInsert max k v l) []

/-- Bytes of a bank's row in a destination format (R198). -/
def rowImage (h : Coach) (bank i : Nat) (p : Word) (rnd : Rnd) : List Byte :=
  let at_ := fun j => (Tab.get 0 h.bank (bank * 16384 + i * 128 + j)).toNat
  let fmt := pfmtOf p
  if isPsb fmt then
    let l := blockLen (plcode p)
    (upto (128 / l)).flatMap (fun b =>
      bytesOf (blockBytes fmt (plcode p)) ((quantise (psbW fmt) ((upto l).map (fun j => unpack fp32 (at_ (b * l + j))))).pack (psbW fmt)))
  else if fmt = 2 then (upto 128).flatMap (fun j => bytesOf 2 (round bf16 rnd (unpack fp32 (at_ j))))
  else if fmt = 3 then (upto 128).flatMap (fun j => bytesOf 2 (round fp16 rnd (unpack fp32 (at_ j))))
  else (upto 128).flatMap (fun j => bytesOf 4 (at_ j))

/-- Bytes of an operation at an offset join their 64-bit words. -/
def joinBytes (base : Word) (k id : Nat) (topk : Bool) : List EWord → Nat → List Byte → List EWord
  | ws, _, [] => ws
  | ws, o, b :: r =>
    let p := (padvance base (o / 8 * 8)).getD base
    let ws1 :=
      if ws.any (fun w => w.slot == k && w.id == id && w.ptr == p) then
        ws.map (fun w => if w.slot = k && w.id = id && w.ptr = p then { w with bytes := Tab.set w.bytes (o % 8) b } else w)
      else ws ++ [⟨p, [(o % 8, b)], none, k, id, false, topk, false, false⟩]
    joinBytes base k id topk ws1 (o + 1) r

/-- The words whose bytes are all in place are sent: each is translated in order, and the first failure ends the command
(R354, 24 R424). -/
def sendWords (s : State) (r k : Nat) : List EWord → List EWord × Option (Byte × Word)
  | [] => ([], none)
  | w :: rest =>
    if w.loc.isSome || w.bytes.length < 8 then
      let x := sendWords s r k rest
      (w :: x.1, x.2)
    else
      let t := s.dev.thr r k
      let chk : Chk := match pspace w.ptr with
        | 1 => .ok (.loc r (paddr w.ptr)) 0
        | 2 => .ok (.loc (prank w.ptr) (paddr w.ptr)) 0
        | 6 => (match peerCheck s.dev.objs t.part (ppeer w.ptr) with
          | some c => .bad c
          | none => peerPlace s w.ptr 8 false true)
        | _ => checkWalk s t.asid.toNat (paddr w.ptr) 8 false true
      match chk with
      | .ok l key =>
        let x := sendWords s r k rest
        ({ w with loc := some (l, key) } :: x.1, x.2)
      | .bad c => (w :: rest, some (c, w.ptr))
      | .miss _ _ => (w :: rest, some (0x10, w.ptr))

/-- Lines that a step's words cover whole (22 R411). -/
def markLines (ws : List EWord) : List EWord :=
  ws.map (fun w =>
    if pspace w.ptr = 0 && (upto 8).all (fun i => ws.any (fun v => v.id == w.id && v.slot == w.slot && v.bytes.length == 8 &&
        paddr v.ptr == paddr w.ptr / 64 * 64 + 8 * i)) then { w with line := true } else w)

/-- A command still counts in its thread's `tl`: it has met no failure (24 R424). -/
def MCmd.stands (m : MCmd) (d : Dev) (r : Nat) : Bool := (d.thr r m.slot).flow.tl.any (fun e => e.1 == m.id && e.2 != 0)

/-- The bytes a step writes join the engine's words and are sent; of a command that has failed, in this unit or another, none is (24
R424). -/
def emit (s : State) (r : Nat) (m : MCmd) (topk : Bool) (parts : List (Word × Nat × List Byte)) : State :=
  if !m.stands s.dev r then s
  else
    let e := (s.dev.core r).eng
    let ws := parts.foldl (fun ws p => joinBytes p.1 m.slot m.id topk ws p.2.1 p.2.2) e.ewords
    let x := sendWords s r m.slot (markLines ws)
    let s1 : State := { s with dev := s.dev.onEng r (fun e => { e with ewords := x.1 }) }
    match x.2 with
    | none => s1
    | some (c, p) =>
      let s2 := noteCode s1 (s.dev.thr r m.slot).asid.toNat c p
      { s2 with dev := dropCmds s2.dev r m.slot [m.id] c p (extOpnd 2) }

/-- What a step does to one of its tiles (R187, R351 to R354). -/
def stepIn (s : State) (m : MStep) (e : Nat × Nat × Nat × Nat) : State :=
  let (u, bk, r0, c0) := e
  let d := s.dev
  let buf := m.buf.getD ⟨0, 0, [], [], none⟩
  let rows := (upto 16).map (fun i => 16 * m.range + i)
  let onTile := fun (f : Coach → Coach) => ({ s with dev := d.onCoach u f } : State)
  match m.cmd.op with
  | .mm _ _ sq _ a b k _ _ =>
    let cnt := Nat.min 128 (k - 128 * m.range)
    onTile (fun h => mulTile h bk buf.a buf.b r0 c0 cnt sq (isHalf (pfmtOf a) && isHalf (pfmtOf b)))
  | .mmc tgt _ _ _ _ k => onTile (fun h => mulTile h bk buf.a buf.b 0 0 k false (tgt == .bf16))
  | .macz _ _ _ => onTile (fun h => onBank h bk (upto 128) (fun _ _ _ => 0))
  | .macld _ _ _ n => onTile (fun h => onBank h bk rows (fun i j _ => BitVec.ofNat 32 (nth 0 buf.a ((r0 + i) * n + c0 + j))))
  | .macst rnd p _ _ n =>
    emit s m.core m.cmd false (rows.map (fun i => (p, (r0 + i) * rowsBytes p 1 n + rowsBytes p 1 c0, rowImage (d.coach u) bk i p rnd)))
  | .topk _ _ _ _ _ _ => s

/-- What a step of `topk` writes: the banks of its run are ranked together (R197, R353). -/
def stepTopk (s : State) (m : MStep) : State :=
  match m.cmd.op with
  | .topk mx _ p v k _ =>
    let rows := (upto 16).map (fun i => 16 * m.range + i)
    let tops := rows.map (fun i => (i, topRow (s.dev.coach (unitOf m.core)) (m.tiles.map (·.2.1)) mx k i))
    let ix := tops.map (fun t => (p, 2 * k * t.1, t.2.flatMap (fun c => bytesOf 2 c.2)))
    let vs := match v with
      | some q => tops.map (fun t => (q, 4 * k * t.1, t.2.flatMap (fun c => bytesOf 4 c.1)))
      | none => []
    emit s m.core m.cmd true (vs ++ ix)
  | _ => s

/-- The walk for some row that a step sends is held (22 R417). -/
def rowsHeld (s : State) (m : MStep) : Bool :=
  let asid := (s.dev.thr m.core m.cmd.slot).asid.toNat
  (m.cmd.op.storeRows m.range (m.tiles.map (fun t => (t.2.2.1, t.2.2.2)))).any (fun e =>
    ptrHeld s asid e.1 || ptrHeld s asid ((padvance e.1 (e.2 - 1 : Nat)).getD e.1))

/-- The step leaves every array that runs it. -/
def clearStep (d : Dev) (u : Nat) (m : MStep) : Dev :=
  (upto 4).foldl (fun d q => d.onCoach (u / 4 * 4 + q) (fun h =>
    { h with step := h.step.filter (fun x => !(x.core == m.core && x.cmd.id == m.cmd.id && x.cmd.slot == m.cmd.slot)) })) d

/-- ARRAY_STEP_END: the step in unit `u`'s array ends and is applied as a unit (R187), a group's in all its units (R203); a last step
starts the 16 cycles after which its command leaves `tl` (R185). -/
def execArrayStepEnd (u : Nat) (s : State) : Out :=
  match (s.dev.coach u).step with
  | none => .next s
  | some m =>
    if !s.dev.engineUp (u * 8) || unitOf m.core ≠ u || rowsHeld s m then .next s
    else
    let s1 := stepTopk (m.tiles.foldl (fun s e => stepIn s m e) s) m
    let d1 := ((m.tiles.map (·.1)).eraseDups).foldl (fun d v => d.onCoach v (fun h => { h with steps := h.steps + 1 })) s1.dev
    let d2 := clearStep d1 u m
    let d3 := if m.last && m.cmd.stands d2 m.core then d2.onEng m.core (fun e => { e with mtl := e.mtl ++ [(m.cmd.id, m.cmd.slot, d2.now + 16)] }) else d2
    .next { s1 with dev := d3 }

/-- MATRIX_TL_RELEASE: a command leaves `tl`: 16 cycles after its last step ended, and for a `macst` once every word is
performed and full (R185, R354). -/
def execMatrixTlRelease (r : Nat) (s : State) : Out :=
  let e := (s.dev.core r).eng
  match e.mtl.find? (fun m => m.2.2 ≤ s.dev.now && !e.ewords.any (fun w => w.id == m.1 && w.slot == m.2.1 && !w.free)) with
  | none => .next s
  | some m =>
    .next (({ s with dev := (s.dev.onEng r (fun e => { e with mtl := e.mtl.erase m })).onThrFlow r m.2.1 (fun f => f.finish .tl m.1) } : State).frameSync
      r m.2.1 [])

/-! ### Engine words -/

/-- A refused engine word ends its command (24 R424). -/
def refuseWord (s : State) (r : Nat) (w : EWord) (cause : Byte) (opnd : BitVec 32) : State :=
  { s with dev := dropCmds s.dev r w.slot [w.id] cause w.ptr opnd }

/-- The whole line of an engine write is correct again (22 R411). -/
def clearLine (s : State) (e : CoreEng) (w : EWord) : State :=
  match w.line, w.loc with
  | true, some (.glob pa, _) =>
    if e.ewords.any (fun v => v.id == w.id && v.slot == w.slot && v.ptr != w.ptr && !v.placed && paddr v.ptr / 64 == paddr w.ptr / 64) then s
    else { s with dev := s.dev.onMeta (fun m => { m with poison := Tab.put false m.poison (pa / 64) false }) }
  | _, _ => s

/-- A matrix word is written at its home; a further step sets it full (06 R116, R132). A range bound since its check refuses it (04 R98).
-/
def stepWord (r i : Nat) (s : State) : Out :=
  let e := (s.dev.core r).eng
  match nth? e.ewords i with
  | none => .next s
  | some w =>
    match w.loc with
    | none => .next s
    | some (l, key) =>
      let bs := (upto 8).map (fun j => Tab.get 0 w.bytes j)
      let gone : State := { s with dev := s.dev.onEng r (fun e => { e with ewords := dropAt e.ewords i }) }
      let put := fun (s : State) => (s.writeLoc l key bs).withDev (fun d => d.onEng r (fun e => { e with ewords := modAt (fun v => { v with placed := true }) e.ewords i }))
      if w.placed then .next (fillWords gone [l])
      else match l with
      | .peer p va =>
        if w.out then .next s
        else
          let q : Req := { id := w.id, cls := .none, op := .store 8 (w64 (ofBytes bs)), ptr := w.ptr, loc := .peer p va, dst := .none, pc := 0,
                           asid := 0, domain := 0, die := false, pkg := false, sys := false, kind := 9, elem := 0, key := 0, judged := false }
          .next { s with dev := (s.dev.onEng r (fun e => { e with ewords := modAt (fun v => { v with out := true }) e.ewords i })).onObjs
                          (fun o => { o with fabric := o.fabric ++ [⟨r, w.slot, q, [], 0, false⟩] }) }
      | .loc c o =>
        if s.lost l then .next (refuseWord gone r w 0x68 (extOpnd 2))
        else if !bindAllows (s.dev.core c) o 8 then .next (refuseWord gone r w 0x20 10)
        else .next (put s)
      | .glob pa =>
        if !s.dev.objs.exists pa then .fault (.noSuchAddress pa)
        else if s.heldBank l then .next s
        else if s.lost l then .next (refuseWord gone r w 0x68 (extOpnd 2))
        else if pspace w.ptr = 0 && rangeHit s.dev.objs (s.dev.thr r w.slot).asid.toNat (paddr w.ptr) 8 then .next (refuseWord gone r w 0x12 (extOpnd 2))
        else .next (clearLine (put (notePartial s l 8)) e w)
      | _ => .next (put s)

end Sys2Proof.Machine
end

