-- ==== Sys2Proof/Machine/Vector.lean ====
section
/-! DEFINITION. The vector unit (15 R325 to R347), stream and channel operands (R329 to R331, 10 R206, R207) and the pairs
of format P (12 R260 to R263). -/

namespace Sys2Proof.Machine

/-! ### Lanes and masks -/

/-- Elements that an instruction processes: at most the 256 lanes (R325). -/
def Vec.len (v : Vec) : Nat := Nat.min v.vl.toNat 256

def Vec.laneAt (v : Vec) (r : VReg) (i : Nat) : BitVec 32 := Tab.get 0 v.v (r.toNat * 256 + i)

/-- A mask; `m0` reads all ones (R325). -/
def Vec.mask (v : Vec) (m : MReg) : Mask := if m = 0 then BitVec.allOnes 256 else Tab.get 0 v.m m.toNat

/-- Write a mask; `m0` discards. -/
def Vec.setMask (v : Vec) (m : MReg) (x : Mask) : Vec := if m = 0 then v else { v with m := Tab.set v.m m.toNat x }

/-- The first `n` lanes of a register. -/
def Vec.lanes (v : Vec) (r : VReg) (n : Nat) : List (BitVec 32) := (upto n).map (fun i => v.laneAt r i)

/-- Write lanes given by number. -/
def Vec.setLanes (v : Vec) (r : VReg) (l : List (Nat × BitVec 32)) : Vec :=
  { v with v := l.foldl (fun t e => Tab.set t (r.toNat * 256 + e.1) e.2) v.v }

/-- The issuing core's vector engine. -/
def Dev.vec (d : Dev) : Vec := d.my.vec

def Dev.onVec (d : Dev) (f : Vec → Vec) : Dev := d.onMy (fun c => { c with vec := f c.vec })

/-- Format codes (04 R71) of the element types. -/
def fcode : FType → Nat
  | .fp32 => 1
  | .bf16 => 2
  | .fp16 => 3

def ccode : CType → Nat
  | .fp32 => 1
  | .bf16 => 2
  | .fp16 => 3
  | .i32 => 8

/-- Bytes of one element of a lane format. -/
def laneBytes (fmt : Nat) : Nat := if fmt = 7 then 1 else if fmt = 2 ∨ fmt = 3 then 2 else 4

/-- The element in a lane image (R326). -/
def laneVal (fmt : Nat) (v : BitVec 32) : Nat := v.toNat % 2 ^ (8 * laneBytes fmt)

/-- The lane image of an element (R326). -/
def laneImg (fmt v : Nat) : BitVec 32 :=
  if fmt = 7 then (BitVec.ofNat 8 v).signExtend 32 else BitVec.ofNat 32 (v % 2 ^ (8 * laneBytes fmt))

/-! ### Stream and channel operands -/

/-- The operand word of 0x02: position and reason (21 R396). -/
def opndBad (pos reason : Nat) : BitVec 32 := BitVec.ofNat 32 (pos + fld reason 8)

def Dev.stream (d : Dev) (n : Nat) : Stream := Tab.get {} d.my.eng.streams n

def Dev.onStream (d : Dev) (n : Nat) (f : Stream → Stream) : Dev :=
  d.onEng d.rank (fun e => { e with streams := Tab.set e.streams n (f (Tab.get {} e.streams n)) })

/-- Elements of a pattern (10 R205). -/
def patternLen (w0 : Word) : Nat := (bits w0 15 0 + 1) * (bits w0 31 16 + 1) * (bits w0 47 32 + 1)

/-- Why the issuing thread may not use a stream: reasons 1, 2, 3 in order (R329, R330, 10 R204, R206). -/
def streamReason (d : Dev) (n fmt need : Nat) (out : Bool) : Option Nat :=
  let x := d.stream n
  if !x.bound || x.slot != d.who || x.w0.getLsbD 63 != out || !holdsC d.me.tag then some 1
  else if pfmtOf x.base ≠ fmt then some 2
  else if x.pos + need > patternLen x.w0 then some 3
  else none

/-- Block length of a stream's base. -/
def Dev.streamL (d : Dev) (n : Nat) : Nat := blockLen (plcode (d.stream n).base)

/-- A fault that the other half of a pair would raise (12 R263). -/
abbrev Other := Option (Byte × Word × BitVec 32)

/-- Raise the other half's fault, else go on. -/
def afterOther (s : State) (o : Other) (k : State → Out) : Out :=
  match o with
  | some (c, a, x) => fault s c a x
  | none => k s

/-- The first held fault among the elements to be consumed. -/
def firstHeld : Nat → List (Nat × Option (Byte × Word × BitVec 32)) → Option (Byte × Word × BitVec 32)
  | 0, _ => none
  | _, [] => none
  | n + 1, (_, x) :: r => x.or (firstHeld n r)

/-- Consume `need` elements of an input stream (R329, 10 R206): its wait, a held fault, or the elements and what takes
them. -/
def streamIn (s : State) (n need : Nat) (k : State → (Dev → Dev) → List Nat → Out) : Out :=
  parkUnless s (.stream n need) (fun s =>
    let a := (s.dev.stream n).ahead
    match firstHeld need a with
    | some (c, p, o) => devStep s (fun d => (d.onStream n (fun x => { x with ahead := [], fetched := [] })).raise c p o)
    | none => k s (fun d => d.onStream n (fun x => { x with ahead := x.ahead.drop need, pos := x.pos + need }))
        ((a.take need).map (·.1)))

/-- The lane images of channel words: the even lane first (R331). -/
def wordLanes (ws : List (Word × Bool)) : List (BitVec 32) :=
  ws.flatMap (fun w => [w.1.extractLsb' 0 32, w.1.extractLsb' 32 32])

/-- A channel source (R331): an acquire, which a fence.co holds back (06 R134). -/
def channelIn (s : State) (n : Nat) (k : State → (Dev → Dev) → List (BitVec 32) → Out) : Out :=
  let h := s.dev.vec.len / 2
  parkUnless s .coHold (fun s => parkUnless s (.vchan n h) (fun s =>
    let ch := Tab.get [] s.dev.me.chans n
    let t := Nat.min (payloadHead ch) h
    k s (fun d => (d.onMe (fun u => { u with chans := Tab.set u.chans n (ch.drop t) })).onVec (fun v =>
        { v with vcnt := BitVec.ofNat 7 (2 * t) })) (wordLanes (ch.take t))))

/-- Elements that an instruction with this source is known to produce at issue: a channel's words tell later. -/
def srcKnown (a : VSrc) (n : Nat) : Nat :=
  match a with
  | .ch _ => 0
  | _ => n

/-- The first source of a vector operation, in lane images: its refusals and a held fault, the other half's fault (12 R263), its
wait, and what it consumes. -/
def vsource (s : State) (pos : Nat) (a : VSrc) (fmt : Nat) (o : Other) (k : State → (Dev → Dev) → List (BitVec 32) → Out) : Out :=
  let n := s.dev.vec.len
  match a with
  | .v r => afterOther s o (fun s => k s (fun d => d) (s.dev.vec.lanes r n))
  | .s x =>
    match streamReason s.dev x.toNat fmt n false with
    | some why => fault s 0x02 0 (opndBad pos why)
    | none => afterOther s (if (firstHeld n (s.dev.stream x.toNat).ahead).isSome then none else o) (fun s =>
        streamIn s x.toNat n (fun s take l => k s take (l.map (laneImg fmt))))
  | .ch x =>
    if !isHelper s.dev.who then fault s 0x02 0 (opndBad pos 1)
    else if n % 2 ≠ 0 || n > 64 then fault s 0x02 0 (opndBad pos 5)
    else afterOther s o (fun s => channelIn s x.toNat k)

/-- A destination's refusal, judged for the lanes that are to be written (R330). -/
def vdstReason (d : Dev) (x : VDst) (fmt n : Nat) : Option Nat :=
  match x with
  | .v _ => none
  | .s m => streamReason d m.toNat fmt n true

/-- The wait for room in an output stream (10 R207). -/
def vdstRoom (s : State) (x : VDst) (bytes : Nat) (k : State → Out) : Out :=
  match x with
  | .v _ => k s
  | .s m => parkUnless s (.produce m.toNat bytes) k

/-- Elements join an output stream (10 R207). -/
def streamOut (d : Dev) (n : Nat) (l : List Nat) : Dev :=
  d.onStream n (fun x => { x with out := x.out ++ l.zipIdx.map (fun e => (x.pos + e.2, e.1, d.me.pc)), pos := x.pos + l.length })

/-- Write results: active lanes of a register; every lane of a stream, an inactive one as zero (R327, R330). -/
def vput (d : Dev) (x : VDst) (fmt : Nat) (l : List (Option (BitVec 32))) : Dev :=
  match x with
  | .v r => d.onVec (fun v => v.setLanes r (l.zipIdx.filterMap (fun e => e.1.map (fun y => (e.2, y)))))
  | .s m => streamOut d m.toNat (l.map (fun e => e.elim 0 (laneVal fmt)))

/-- Lanes with those a mask leaves out marked absent. -/
def activeLanes (m : Mask) (l : List (BitVec 32)) : List (Option (BitVec 32)) :=
  l.zipIdx.map (fun e => if m.getLsbD e.2 then some e.1 else none)

/-- How a vector half ends: the effect it has. -/
abbrev VEnd := State → (Dev → Dev) → Out

/-- A vector instruction of its own retires. -/
def vretire : VEnd := fun s eff => devStep s (fun d => (eff d).retire (fun t => t))

/-- Element-wise operations: a first source, a lane function over the source's lanes, a destination (R327 to R331). -/
def vwise (s : State) (pos : Nat) (x : VDst) (dfmt : Nat) (a : VSrc) (afmt : Nat) (o : Other)
    (f : Dev → List (BitVec 32) → List (Option (BitVec 32))) (fin : VEnd) : Out :=
  match vdstReason s.dev x dfmt (srcKnown a s.dev.vec.len) with
  | some why => fault s 0x02 0 (opndBad 1 why)
  | none =>
    vsource s pos a afmt o (fun s take l =>
      match vdstReason s.dev x dfmt l.length with
      | some why => fault s 0x02 0 (opndBad 1 why)
      | none => vdstRoom s x (l.length * laneBytes dfmt) (fun s =>
          let r := f s.dev l
          fin s (fun d => vput (take d) x dfmt r)))

/-- The second source's image of lane `i`. -/
def bLane (d : Dev) (b : VSrcB) (i : Nat) : BitVec 32 :=
  match b with
  | .v r => d.vec.laneAt r i
  | .x r => (d.x r).setWidth 32
  | .imm v => v

/-- Apply a lane function to the active lanes. -/
def mapLanes (m : Mask) (l : List (BitVec 32)) (f : Nat → BitVec 32 → BitVec 32) : List (Option (BitVec 32)) :=
  l.zipIdx.map (fun e => if m.getLsbD e.2 then some (f e.2 e.1) else none)

/-! ### Arithmetic (R332 to R334) -/

/-- OP 0x80. -/
def vfp (fn : FpFn) (t : FType) (rnd : Rnd) (pos : Nat) (x : VDst) (a : VSrc) (b : VSrcB) (m : MReg) (o : Other) (fin : VEnd)
    (s : State) : Out :=
  let c := fcode t
  vwise s pos x c a c o (fun d l => mapLanes (d.vec.mask m) l (fun i v =>
    let old := match x with
      | .v r => d.vec.laneAt r i
      | .s _ => 0
    laneImg c (fpOp fn t rnd (laneVal c v) (laneVal c (bLane d b i)) (laneVal c old)))) fin

/-- OP 0x81. -/
def vint (fn : ViFn) (pos : Nat) (x : VDst) (a : VSrc) (b : VSrcB) (m : MReg) (o : Other) (fin : VEnd) (s : State) : Out :=
  vwise s pos x 8 a 8 o (fun d l => mapLanes (d.vec.mask m) l (fun i v => viOp fn v (bLane d b i))) fin

/-- OP 0x82. -/
def vfunc (fn : VFun) (t : FType) (rnd : Rnd) (x : VDst) (a : VSrc) (m : MReg) (s : State) : Out :=
  let c := fcode t
  needTag s holdsV (fun s => vwise s 2 x c a c none (fun d l => mapLanes (d.vec.mask m) l (fun _ v =>
    laneImg c (vfun fn t rnd (laneVal c v)))) vretire)

/-- A vector instruction of format F. -/
def vone (f : Other → VEnd → State → Out) (s : State) : Out := needTag s holdsV (fun s => f none vretire s)

/-- VFADD. -/
def execVfadd (t : FType) (rnd : Rnd) (d : VDst) (a : VSrc) (b : VSrcB) (m : MReg) (s : State) : Out := vone (vfp .add t rnd 2 d a b m) s

/-- VFSUB. -/
def execVfsub (t : FType) (rnd : Rnd) (d : VDst) (a : VSrc) (b : VSrcB) (m : MReg) (s : State) : Out := vone (vfp .sub t rnd 2 d a b m) s

/-- VFMUL. -/
def execVfmul (t : FType) (rnd : Rnd) (d : VDst) (a : VSrc) (b : VSrcB) (m : MReg) (s : State) : Out := vone (vfp .mul t rnd 2 d a b m) s

/-- VFMA. -/
def execVfma (t : FType) (rnd : Rnd) (d : VReg) (a : VSrc) (b : VSrcB) (m : MReg) (s : State) : Out := vone (vfp .ma t rnd 2 (.v d) a b m) s

/-- VFMS. -/
def execVfms (t : FType) (rnd : Rnd) (d : VReg) (a : VSrc) (b : VSrcB) (m : MReg) (s : State) : Out := vone (vfp .ms t rnd 2 (.v d) a b m) s

/-- VFNMA. -/
def execVfnma (t : FType) (rnd : Rnd) (d : VReg) (a : VSrc) (b : VSrcB) (m : MReg) (s : State) : Out := vone (vfp .nma t rnd 2 (.v d) a b m) s

/-- VFMIN. -/
def execVfmin (t : FType) (d : VDst) (a : VSrc) (b : VSrcB) (m : MReg) (s : State) : Out := vone (vfp .min t .rne 2 d a b m) s

/-- VFMAX. -/
def execVfmax (t : FType) (d : VDst) (a : VSrc) (b : VSrcB) (m : MReg) (s : State) : Out := vone (vfp .max t .rne 2 d a b m) s

/-- VFABS. -/
def execVfabs (t : FType) (d : VDst) (a : VSrc) (m : MReg) (s : State) : Out := vone (vfp .abs t .rne 2 d a (.imm 0) m) s

/-- VFNEG. -/
def execVfneg (t : FType) (d : VDst) (a : VSrc) (m : MReg) (s : State) : Out := vone (vfp .neg t .rne 2 d a (.imm 0) m) s

/-- VADD. -/
def execVadd (d : VDst) (a : VSrc) (b : VSrcB) (m : MReg) (s : State) : Out := vone (vint .add 2 d a b m) s

/-- VSUB. -/
def execVsub (d : VDst) (a : VSrc) (b : VSrcB) (m : MReg) (s : State) : Out := vone (vint .sub 2 d a b m) s

/-- VMUL. -/
def execVmul (d : VDst) (a : VSrc) (b : VSrcB) (m : MReg) (s : State) : Out := vone (vint .mul 2 d a b m) s

/-- VAND. -/
def execVand (d : VDst) (a : VSrc) (b : VSrcB) (m : MReg) (s : State) : Out := vone (vint .and 2 d a b m) s

/-- VOR. -/
def execVor (d : VDst) (a : VSrc) (b : VSrcB) (m : MReg) (s : State) : Out := vone (vint .or 2 d a b m) s

/-- VXOR. -/
def execVxor (d : VDst) (a : VSrc) (b : VSrcB) (m : MReg) (s : State) : Out := vone (vint .xor 2 d a b m) s

/-- VSHL. -/
def execVshl (d : VDst) (a : VSrc) (b : VSrcB) (m : MReg) (s : State) : Out := vone (vint .shl 2 d a b m) s

/-- VSHR. -/
def execVshr (d : VDst) (a : VSrc) (b : VSrcB) (m : MReg) (s : State) : Out := vone (vint .shr 2 d a b m) s

/-- VSAR. -/
def execVsar (d : VDst) (a : VSrc) (b : VSrcB) (m : MReg) (s : State) : Out := vone (vint .sar 2 d a b m) s

/-- VMIN. -/
def execVmin (d : VDst) (a : VSrc) (b : VSrcB) (m : MReg) (s : State) : Out := vone (vint .min 2 d a b m) s

/-- VMAX. -/
def execVmax (d : VDst) (a : VSrc) (b : VSrcB) (m : MReg) (s : State) : Out := vone (vint .max 2 d a b m) s

/-- VRCP. -/
def execVrcp (t : FType) (rnd : Rnd) (d : VDst) (a : VSrc) (m : MReg) (s : State) : Out := vfunc .rcp t rnd d a m s

/-- VRSQRT. -/
def execVrsqrt (t : FType) (rnd : Rnd) (d : VDst) (a : VSrc) (m : MReg) (s : State) : Out := vfunc .rsqrt t rnd d a m s

/-- VSQRT. -/
def execVsqrt (t : FType) (rnd : Rnd) (d : VDst) (a : VSrc) (m : MReg) (s : State) : Out := vfunc .sqrt t rnd d a m s

/-- VEXP2. -/
def execVexp2 (t : FType) (rnd : Rnd) (d : VDst) (a : VSrc) (m : MReg) (s : State) : Out := vfunc .exp2 t rnd d a m s

/-- VLOG2. -/
def execVlog2 (t : FType) (rnd : Rnd) (d : VDst) (a : VSrc) (m : MReg) (s : State) : Out := vfunc .log2 t rnd d a m s

/-! ### Compare, select, convert (R335 to R338) -/

/-- A source where no channel is accepted. -/
def vs : VSrcVS → VSrc
  | .v r => .v r
  | .s n => .s n

/-- The mask with the active bits given and the others kept. -/
def maskWith (old : Mask) (l : List (Option Bool)) : Mask :=
  l.zipIdx.foldl (fun m e => match e.1 with
    | some true => m ||| ((1 : Mask) <<< e.2)
    | some false => m &&& ~~~((1 : Mask) <<< e.2)
    | none => m) old

/-- OP 0x83. -/
def vcmp (c : Cond) (t : CType) (pos : Nat) (x : MReg) (a : VSrcVS) (b : VSrcB) (m : MReg) (o : Other) (fin : VEnd) (s : State) : Out :=
  vsource s pos (vs a) (ccode t) o (fun s take l =>
    let v := s.dev.vec
    let r := l.zipIdx.map (fun e => if (v.mask m).getLsbD e.2 then some (cmpLane c t e.1 (bLane s.dev b e.2)) else none)
    fin s (fun d => (take d).onVec (fun v => v.setMask x (maskWith (v.mask x) r))))

/-- VCMP_EQ. -/
def execVcmpEq (t : CType) (d : MReg) (a : VSrcVS) (b : VSrcB) (m : MReg) (s : State) : Out := vone (vcmp .eq t 2 d a b m) s

/-- VCMP_NE. -/
def execVcmpNe (t : CType) (d : MReg) (a : VSrcVS) (b : VSrcB) (m : MReg) (s : State) : Out := vone (vcmp .ne t 2 d a b m) s

/-- VCMP_LT. -/
def execVcmpLt (t : CType) (d : MReg) (a : VSrcVS) (b : VSrcB) (m : MReg) (s : State) : Out := vone (vcmp .lt t 2 d a b m) s

/-- VCMP_LE. -/
def execVcmpLe (t : CType) (d : MReg) (a : VSrcVS) (b : VSrcB) (m : MReg) (s : State) : Out := vone (vcmp .le t 2 d a b m) s

/-- OP 0x84: the mask selects, for every lane below `vl` (R336). -/
def vselect (pos : Nat) (x : VDst) (a : VSrcVS) (b : VSrcB) (m : MReg) (o : Other) (fin : VEnd) (s : State) : Out :=
  vwise s pos x 1 (vs a) 1 o (fun d l => l.zipIdx.map (fun e =>
    some (if (d.vec.mask m).getLsbD e.2 then e.1 else bLane d b e.2))) fin

/-- VSEL. -/
def execVsel (d : VDst) (a : VSrcVS) (b : VSrcB) (m : MReg) (s : State) : Out := vone (vselect 2 d a b m) s

/-- The floating format of a code. -/
def ffmtOf (code : Nat) : FFmt := if code = 2 then bf16 else if code = 3 then fp16 else fp32

def isFloat (code : Nat) : Bool := 1 ≤ code && code ≤ 3

/-- The value of an element in a format that is not PSB. -/
def elemVal (fmt v : Nat) : FVal :=
  if isFloat fmt then unpack (ffmtOf fmt) v
  else if fmt = 7 then ofInt (BitVec.ofNat 8 v).toInt else ofInt (BitVec.ofNat 32 v).toInt

/-- A converted element (R337, 05 R101). -/
def convElem (dst : Nat) (rnd : Rnd) (v : FVal) : Nat :=
  if isFloat dst then round (ffmtOf dst) rnd v
  else if dst = 7 then (BitVec.ofInt 8 (toInt rnd (-128) 127 v)).toNat
  else (BitVec.ofInt 32 (toInt rnd (-2 ^ 31) (2 ^ 31 - 1) v)).toNat

/-- A list in runs of `n`. -/
def chunks {α : Type} (n : Nat) : Nat → List α → List (List α)
  | 0, _ => []
  | k + 1, l => l.take n :: chunks n k (l.drop n)

/-- Quantise lanes into an output stream's blocks (R338). -/
def vquant (dst src : Nat) (x : VDst) (a : VSrc) (s : State) : Out :=
  match x with
  | .v _ => fault s 0x02 0 (opndBad 1 1)
  | .s n =>
    let len := s.dev.streamL n.toNat
    match streamReason s.dev n.toNat dst (srcKnown a s.dev.vec.len / len) true with
    | some why => fault s 0x02 0 (opndBad 1 why)
    | none =>
      if s.dev.vec.len % len ≠ 0 then fault s 0x02 0 (opndBad 1 5)
      else vsource s 2 a src none (fun s take l =>
        if l.length % len ≠ 0 then fault s 0x02 0 (opndBad 1 5)
        else match streamReason s.dev n.toNat dst (l.length / len) true with
          | some why => fault s 0x02 0 (opndBad 1 why)
          | none =>
            let w := psbW dst
            let bs := (chunks len (l.length / len) l).map (fun b => (quantise w (b.map (fun v => elemVal src (laneVal src v)))).pack w)
            parkUnless s (.produce n.toNat (bs.length * psbBytes w len)) (fun s =>
              devStep s (fun d => (streamOut (take d) n.toNat bs).retire (fun t => t))))

/-- Dequantise an input stream's blocks (R338). -/
def vdequant (dst src : Nat) (rnd : Rnd) (x : VDst) (a : VSrc) (s : State) : Out :=
  match a with
  | .s n =>
    let len := s.dev.streamL n.toNat
    let vl := s.dev.vec.len
    match vdstReason s.dev x dst vl with
    | some why => fault s 0x02 0 (opndBad 1 why)
    | none => match streamReason s.dev n.toNat src (vl / len) false with
      | some why => fault s 0x02 0 (opndBad 2 why)
      | none =>
        if vl % len ≠ 0 then fault s 0x02 0 (opndBad 2 5)
        else streamIn s n.toNat (vl / len) (fun s take bs => vdstRoom s x (vl * laneBytes dst) (fun s =>
          let w := psbW src
          let r := bs.flatMap (fun b => (upto len).map (fun k =>
            some (BitVec.ofNat 32 (round (ffmtOf dst) rnd ((Psb.unpack w len b).val w k)))))
          devStep s (fun d => (vput (take d) x dst r).retire (fun t => t))))
  | _ => fault s 0x02 0 (opndBad 2 1)

/-- VCVT (R337, R338). -/
def execVcvt (dstFmt srcFmt : BitVec 4) (rnd : Rnd) (d : VDst) (a : VSrc) (m : MReg) (s : State) : Out :=
  needTag s holdsV (fun s =>
    if isPsb dstFmt.toNat then vquant dstFmt.toNat srcFmt.toNat d a s
    else if isPsb srcFmt.toNat then vdequant dstFmt.toNat srcFmt.toNat rnd d a s
    else vwise s 2 d dstFmt.toNat a srcFmt.toNat none (fun v l => mapLanes (v.vec.mask m) l (fun _ e =>
      laneImg dstFmt.toNat (convElem dstFmt.toNat rnd (elemVal srcFmt.toNat (laneVal srcFmt.toNat e))))) vretire)

/-! ### Reductions and scans (R339, R340) -/

/-- The result of a reduction in a scalar register. -/
def redWord (t : CType) (v : BitVec 32) : Word :=
  match t with
  | .i32 => v.signExtend 64
  | _ => w64 (laneVal (ccode t) v)

/-- OP 0x86. -/
def vred (op : RedOp) (t : CType) (rnd : Rnd) (x : XReg) (a : VSrcVS) (m : MReg) (s : State) : Out :=
  needTag s holdsV (fun s => vsource s 2 (vs a) (ccode t) none (fun s take l =>
    let es := activeLanes (s.dev.vec.mask m) l ++ List.replicate (256 - l.length) none
    let r := (treeRoot op t rnd 8 es).getD (absentRoot op t)
    devStep s (fun d => (take d).retire (fun u => u.setX x (redWord t r)))))

/-- VRED_SUM. -/
def execVredSum (t : CType) (rnd : Rnd) (d : XReg) (a : VSrcVS) (m : MReg) (s : State) : Out := vred .sum t rnd d a m s

/-- VRED_MAX. -/
def execVredMax (t : CType) (d : XReg) (a : VSrcVS) (m : MReg) (s : State) : Out := vred .max t .rne d a m s

/-- VRED_MIN. -/
def execVredMin (t : CType) (d : XReg) (a : VSrcVS) (m : MReg) (s : State) : Out := vred .min t .rne d a m s

/-- The running results (R340). -/
def scanGo (op : RedOp) (t : CType) (rnd : Rnd) (acc : Option (BitVec 32)) : List (Option (BitVec 32)) → List (Option (BitVec 32))
  | [] => []
  | none :: r => none :: scanGo op t rnd acc r
  | some v :: r =>
    let n := match acc with
      | some a => combine op t rnd a v
      | none => v
    some n :: scanGo op t rnd (some n) r

/-- OP 0x87. -/
def vscan (op : RedOp) (t : CType) (rnd : Rnd) (x : VDst) (a : VSrcVS) (m : MReg) (s : State) : Out :=
  needTag s holdsV (fun s => vwise s 2 x (ccode t) (vs a) (ccode t) none (fun d l =>
    (scanGo op t rnd none (activeLanes (d.vec.mask m) l)).map (fun e => e.map (fun v => laneImg (ccode t) (laneVal (ccode t) v)))) vretire)

/-- VSCAN_SUM. -/
def execVscanSum (t : CType) (rnd : Rnd) (d : VDst) (a : VSrcVS) (m : MReg) (s : State) : Out := vscan .sum t rnd d a m s

/-- VSCAN_MAX. -/
def execVscanMax (t : CType) (d : VDst) (a : VSrcVS) (m : MReg) (s : State) : Out := vscan .max t .rne d a m s

/-- VSCAN_MIN. -/
def execVscanMin (t : CType) (d : VDst) (a : VSrcVS) (m : MReg) (s : State) : Out := vscan .min t .rne d a m s

/-! ### Permutes, broadcasts, slides, moves (R341, R347) -/

/-- An operation whose active lanes below `vl` take values given by lane number. -/
def vlanes (s : State) (x : VReg) (m : MReg) (f : Dev → Nat → BitVec 32) : Out :=
  needTag s holdsV (fun s =>
    let v := s.dev.vec
    let r := ((upto v.len).filter (fun i => (v.mask m).getLsbD i)).map (fun i => (i, f s.dev i))
    devStep s (fun d => (d.onVec (fun v => v.setLanes x r)).retire (fun t => t)))

/-- VPERM. -/
def execVperm (d a b : VReg) (m : MReg) (s : State) : Out :=
  vlanes s d m (fun v i => v.vec.laneAt a ((v.vec.laneAt b i).toNat % 256))

/-- VBCAST. -/
def execVbcast (d : VReg) (a : BcastSrc) (m : MReg) (s : State) : Out :=
  vlanes s d m (fun v _ => match a with
    | .lane r l => v.vec.laneAt r l.toNat
    | .x r => (v.x r).setWidth 32
    | .imm x => x)

/-- VSLIDE. -/
def execVslide (d a : VReg) (b : XReg) (n : BitVec 16) (m : MReg) (s : State) : Out :=
  vlanes s d m (fun v i =>
    let j : Int := i - n.toInt
    if 0 ≤ j ∧ j < v.vec.len then v.vec.laneAt a j.toNat else (v.x b).setWidth 32)

/-- The lane that `vget` and `vput` name. -/
def laneSel (d : Dev) (l : LaneSrc) : Nat :=
  match l with
  | .imm v => v.toNat
  | .x r => (d.x r).toNat % 256

/-- VGET. -/
def execVget (d : XReg) (a : VReg) (l : LaneSrc) (s : State) : Out :=
  needTag s holdsV (fun s => devStep s (fun v => v.retire (fun t => t.setX d ((v.vec.laneAt a (laneSel v l)).setWidth 64))))

/-- VPUT. -/
def execVput (d : VReg) (a : XReg) (l : LaneSrc) (s : State) : Out :=
  needTag s holdsV (fun s => devStep s (fun v =>
    (v.onVec (fun w => w.setLanes d [(laneSel v l, (v.x a).setWidth 32)])).retire (fun t => t)))

/-! ### Length and mask operations (R345, R346) -/

/-- VSETL: op 0. -/
def execVsetl (d a : XReg) (s : State) : Out :=
  needTag s holdsV (fun s => devStep s (fun v =>
    let n := (v.x a).toNat
    if n = 0 then v.retire (fun t => t.setX d 0)
    else (v.onVec (fun w => { w with vl := BitVec.ofNat 9 (Nat.min n 256) })).retire (fun t => t.setX d (w64 (Nat.min n 256)))))

/-- VSETL_IMM: op 1. -/
def execVsetlImm (d : XReg) (n1 : BitVec 8) (s : State) : Out :=
  needTag s holdsV (fun s => devStep s (fun v =>
    (v.onVec (fun w => { w with vl := BitVec.ofNat 9 (n1.toNat + 1) })).retire (fun t => t.setX d (w64 (n1.toNat + 1)))))

/-- VSETL_RD: op 2. -/
def execVsetlRd (d : XReg) (s : State) : Out :=
  needTag s holdsV (fun s => devStep s (fun v => v.retire (fun t =>
    t.setX d (w64 (fld v.vec.vcnt.toNat 32 + fld v.vec.vstart.toNat 16 + v.vec.vl.toNat)))))

/-- VSETL_START: op 3. -/
def execVsetlStart (a : XReg) (s : State) : Out :=
  needTag s holdsV (fun s =>
    if !zeroBits (s.dev.x a) 63 8 then fault s 0x03 0 2
    else devStep s (fun v => (v.onVec (fun w => { w with vstart := (v.x a).setWidth 8 })).retire (fun t => t)))

/-- A mask operation. -/
def vmask (s : State) (d : MReg) (f : Vec → Mask) : Out :=
  needTag s holdsV (fun s => devStep s (fun v => (v.onVec (fun w => w.setMask d (f w))).retire (fun t => t)))

/-- MAND. -/
def execMand (d a b : MReg) (s : State) : Out := vmask s d (fun v => v.mask a &&& v.mask b)

/-- MOR. -/
def execMor (d a b : MReg) (s : State) : Out := vmask s d (fun v => v.mask a ||| v.mask b)

/-- MXOR. -/
def execMxor (d a b : MReg) (s : State) : Out := vmask s d (fun v => v.mask a ^^^ v.mask b)

/-- MNOT. -/
def execMnot (d a : MReg) (s : State) : Out := vmask s d (fun v => ~~~(v.mask a))

/-- The set bits of a mask below `vl`. -/
def setBits (v : Vec) (a : MReg) : List Nat := (upto v.len).filter (fun i => (v.mask a).getLsbD i)

/-- MPOP. -/
def execMpop (d : XReg) (a : MReg) (s : State) : Out :=
  needTag s holdsV (fun s => devStep s (fun v => v.retire (fun t => t.setX d (w64 (setBits v.vec a).length))))

/-- MFIRST. -/
def execMfirst (d : XReg) (a : MReg) (s : State) : Out :=
  needTag s holdsV (fun s => devStep s (fun v => v.retire (fun t =>
    t.setX d ((setBits v.vec a).head?.elim (BitVec.allOnes 64) w64))))

/-! ### Vector loads and stores (R342 to R344) -/

/-- A vector access: width, direction, register, base, and each lane's byte offset. -/
structure VAcc where
  w : Nat
  load : Bool
  reg : VReg
  base : Word
  offs : List Int

/-- The base format fits the width (R342). -/
def widthOk (fmt w : Nat) : Bool :=
  fmt == 0 || (match w with
    | 4 => fmt == 1 || fmt == 8
    | 2 => fmt == 2 || fmt == 3
    | _ => fmt == 7)

/-- How sending stops. -/
inductive VStop
  | done
  | bad (lane : Nat) (cause : Byte) (addr : Word) (opnd : BitVec 32)
  | park (lane : Nat) (c : WaitCond)
  deriving DecidableEq, Repr

/-- An element joins its operation, entering the class with the first (R343). -/
def Flow.part (f : Flow) (c : Cls) (id : Nat) : Flow :=
  if (f.cls c).any (fun e => e.1 == id) then f.setCls c ((f.cls c).map (fun e => if e.1 = id then (e.1, e.2 + 1) else e))
  else f.enter c id 1

/-- An element's request. -/
def VAcc.req (v : VAcc) (d : Dev) (id i : Nat) (p : Word) (l : Loc) (key : Nat) : Req :=
  let c := d.objs.covers d.rank l
  { id := id, cls := if v.load then .ld else .st
    op := if v.load then .load v.w false else .store v.w (w64 (laneVal (if v.w = 4 then 8 else if v.w = 2 then 2 else 7) (d.vec.laneAt v.reg i)))
    ptr := p, loc := l, dst := if v.load then .lane v.reg.toNat i v.w else .none, pc := d.me.pc, asid := d.me.asid.toNat,
    domain := d.me.domain.toNat, die := !v.load && c.1, pkg := !v.load && c.2.1, sys := !v.load && c.2.2, kind := 5, elem := i,
    key := key, judged := false }

/-- Send one element's request (06 R114). -/
def vsend (d : Dev) (v : VAcc) (id i : Nat) (p : Word) (l : Loc) (key : Nat) : Dev :=
  let q := v.req d id i p l key
  d.onMyFlow (fun f => { ((f.part q.cls id).raiseCnt q) with bag := f.bag ++ [q] })

/-- Post one element whose translation missed (R344). -/
def vpost (d : Dev) (v : VAcc) (id i : Nat) (p : Word) (asid page : Nat) : Dev :=
  let q := { v.req d id i p (.peer 0 0) 0 with die := false, pkg := false, sys := false }
  (d.postMiss d.rank asid page (paddr p)).onMyFlow (fun f => { f.part q.cls id with posted := f.posted ++ [q] })

/-- Send the elements of the lanes given, in order, until one stops (R343). -/
def vrun (m : Mem) (d : Dev) (v : VAcc) (id : Nat) : List Nat → Dev × VStop
  | [] => (d, .done)
  | i :: r =>
    if !d.room d.rank d.who 1 (!v.load) then (d, .park i (.room (!v.load)))
    else match padvance v.base (nth 0 v.offs i) with
      | none => (d, .bad i 0x13 v.base (BitVec.ofNat 32 i))
      | some p =>
        match checkAcc ⟨m, d⟩ d.rank d.who d.me .vector p v.w v.w v.load (!v.load) with
        | .bad c => (d, .bad i c p (if c = 0x04 then 0 else BitVec.ofNat 32 i))
        | .ok l key =>
          if guardRefuses d { cls := .st, op := .store v.w 0, n := v.w, align := v.w, rd := false, wr := true, spaces := [] } l && !v.load
          then (d, .bad i 0x20 p 6)
          else vrun m (vsend d v id i p l key) v id r
        | .miss a pg =>
          let joined := d.my.eng.mail.any (fun e => e.asid == a && e.page == pg)
          if !joined && 16 ≤ d.my.eng.mail.length then (d, .park i .mailbox)
          else if v.load then (d.postMiss d.rank a pg (paddr p), .park i (.walk a pg))
          else vrun m (vpost d v id i p a pg) v id r

/-- The elements of the operation have been delivered. -/
def vdelivered (d : Dev) (id : Nat) : Bool := !d.me.flow.ld.any (fun e => e.1 == id && e.2 != 0)

/-- The access as its registers stood at issue (R342): the thread keeps it while the access stalls. -/
def VAcc.issued (v : VAcc) (t : Slot) : VAcc := if t.sent = 0 then v else { v with base := t.vbase, offs := t.voffs }

/-- The access stops before a lane: the thread keeps the operation's number, the lane and what was read at issue; `vstart` stays as it
is until the access ends or fails (R343). -/
def VAcc.stall (v : VAcc) (d : Dev) (id i : Nat) (c : WaitCond) : Dev :=
  (d.onMe (fun t => { t with sent := id + 1, vbase := v.base, vlane := i, voffs := v.offs })).park c

/-- The access is over: nothing of it is kept. -/
def Slot.vclear (t : Slot) : Slot := { t with sent := 0, vbase := 0, vlane := 0, voffs := [] }

/-- The lane that the thread's vector access begins or goes on at. -/
def vfrom (d : Dev) : Nat := if d.me.sent = 0 then d.vec.vstart.toNat else d.me.vlane

/-- A vector load or store (R343): `sent` holds its operation's number while it is under way. The base format and the spaces
are judged after the stalls at issue (21 R394, R402). -/
def vaccess (s : State) (v0 : VAcc) (m : MReg) : Out :=
  needTag s holdsV (fun s =>
    let v := v0.issued s.dev.me
    sendStalls s v.load (fun s =>
      if !widthOk (pfmtOf v.base) v.w || pspace v.base = 3 || pspace v.base = 4 then fault s 0x13 v.base 0
      else
        let d0 := s.dev
        let id := if d0.me.sent = 0 then d0.me.flow.nextId else d0.me.sent - 1
        let d1 := if d0.me.sent = 0 then d0.onMyFlow (fun f => { f with nextId := f.nextId + 1 }) else d0
        let lanes := (upto d1.vec.len).filter (fun i => vfrom d0 ≤ i && (d1.vec.mask m).getLsbD i)
        let r := vrun s.mem d1 v id lanes
        match r.2 with
        | .done => devStep s (fun _ => (r.1.onVec (fun w => { w with vstart := 0 })).retire (fun t =>
            { t.vclear with flow := t.flow.spent }))
        | .park i c => devStep s (fun _ => v.stall r.1 id i c)
        | .bad i c p o =>
          if v.load && !vdelivered r.1 id then devStep s (fun _ => v.stall r.1 id i (.lanes id))
          else devStep s (fun _ =>
            ((r.1.onVec (fun w => { w with vstart := BitVec.ofNat 8 i })).onMe Slot.vclear).raise c p o)) (!v.load))

/-- Bytes of a width. -/
def widthBytes : VWidth → Nat
  | .b32 => 4
  | .b16 => 2
  | .b8 => 1

/-- A vector access whose lane offsets depend on the lane (R342). -/
def vmem (w : VWidth) (load : Bool) (d : VReg) (a : XReg) (m : MReg) (off : Nat → Int) (s : State) : Out :=
  vaccess s { w := widthBytes w, load := load, reg := d, base := s.dev.x a, offs := (upto s.dev.vec.len).map off } m

/-- FN 0: consecutive elements. -/
def unitOff (w : VWidth) (off : BitVec 32) (i : Nat) : Int := off.toInt + i * widthBytes w

/-- FN 1: a byte stride. -/
def strideOff (s : State) (b : XReg) (off : BitVec 32) (i : Nat) : Int := off.toInt + i * (s.dev.x b).toInt

/-- FN 2: byte offsets by lane. -/
def indexOff (s : State) (b : VReg) (off : BitVec 32) (i : Nat) : Int := off.toInt + (s.dev.vec.laneAt b i).toInt

/-- VLD, FN 0. -/
def execVld (w : VWidth) (d : VReg) (a : XReg) (off : BitVec 32) (m : MReg) (s : State) : Out := vmem w true d a m (unitOff w off) s

/-- VLD_STRIDE, FN 1. -/
def execVldStride (w : VWidth) (d : VReg) (a b : XReg) (off : BitVec 32) (m : MReg) (s : State) : Out :=
  vmem w true d a m (strideOff s b off) s

/-- VLD_INDEX, FN 2. -/
def execVldIndex (w : VWidth) (d : VReg) (a : XReg) (b : VReg) (off : BitVec 32) (m : MReg) (s : State) : Out :=
  vmem w true d a m (indexOff s b off) s

/-- VST, FN 0. -/
def execVst (w : VWidth) (d : VReg) (a : XReg) (off : BitVec 32) (m : MReg) (s : State) : Out := vmem w false d a m (unitOff w off) s

/-- VST_STRIDE, FN 1. -/
def execVstStride (w : VWidth) (d : VReg) (a b : XReg) (off : BitVec 32) (m : MReg) (s : State) : Out :=
  vmem w false d a m (strideOff s b off) s

/-- VST_INDEX, FN 2. -/
def execVstIndex (w : VWidth) (d : VReg) (a : XReg) (b : VReg) (off : BitVec 32) (m : MReg) (s : State) : Out :=
  vmem w false d a m (indexOff s b off) s

/-! ### Format P (12 R260 to R263) -/

/-- The fault of the scalar half, if its pointer operation fails. -/
def scalarFault (t : Slot) (h : SHalf) : Other :=
  let bad := fun (a : XReg) (r : PtrRes) => match r with
    | .ok _ => none
    | .bad c => some (c, t.xr a, (0 : BitVec 32))
  match h with
  | .padd _ a b => bad a (paddRes (t.xr a) (t.psrc b))
  | .pidx _ a b => bad a (pidxRes (t.xr a) (t.psrc b))
  | _ => none

/-- A pointer result, once it is known to stand. -/
def okPtr (r : PtrRes) : Word :=
  match r with
  | .ok v => v
  | .bad _ => 0

/-- The scalar half's effect on the slot, PC included (R261, R263). -/
def scalarEff (h : SHalf) (t : Slot) : Slot :=
  match h with
  | .none => t.advance
  | .int f d a b => (t.setX d (intFn f (t.xr a) (t.psrc b))).advance
  | .li d v => (t.setX d (v.signExtend 64)).advance
  | .padd d a b => (t.setX d (okPtr (paddRes (t.xr a) (t.psrc b)))).advance
  | .pidx d a b => (t.setX d (okPtr (pidxRes (t.xr a) (t.psrc b)))).advance
  | .cmp c d a b => (t.setP d (cmpInt c (t.xr a) (t.psrc b))).advance
  | .cmpLtz d a => (t.setP d ((t.xr a).slt 0)).advance
  | .cmpLez d a => (t.setP d ((t.xr a).sle 0)).advance
  | .lp d l => (t.setX d (t.xr d - 1)).jump (if t.xr d - 1 ≠ 0 then l else t.pc + 1)

/-- How a pair ends: the vector half's effect, then the scalar half's; their targets never meet (R263). -/
def pairEnd (h : SHalf) : VEnd := fun s eff => devStep s (fun d => (eff d).onMe (scalarEff h))

/-- What a pair does in a thread that holds V. -/
def pairRun (v : VHalf) (o : Other) (fin : VEnd) : State → Out :=
  match v with
  | .none => fun s => afterOther s o (fun s => fin s (fun d => d))
  | .fp f t rnd d a b m => vfp f t rnd 10 (.v d) a (.v b) m o fin
  | .int f d a b m => vint f 10 (.v d) a (.v b) m o fin
  | .cmp c t d a b m => vcmp c t 10 d a (.v b) m o fin
  | .sel d a b m => vselect 10 (.v d) a (.v b) m o fin

/-- PAIR: every format-P word needs tag V, one whose vector half is empty too (12 R265 check 6, 21 R402). -/
def execPair (v : VHalf) (h : SHalf) (s : State) : Out :=
  needTag s holdsV (pairRun v (scalarFault s.dev.me h) (pairEnd h))

end Sys2Proof.Machine
end

