-- ==== Sys2Proof/Machine/Copies.lean ====
section
/-! DEFINITION. Copies (10 R210 to R214, 16 R356 to R363): issue, the pieces, completion, stopping and resumption. A piece moves
whole, or word by word in engine steps (06 R116); what lies in place beyond an earlier hole is set full only when the hole is
filled (22 R410). -/

namespace Sys2Proof.Machine

/-! ### Issue (R358, 21 R404) -/

/-- A fault that an issue check raises. -/
abbrev Raised := Byte × Word × BitVec 32

/-- A length operand: none when a register's upper half is not zero. -/
def lenOf (d : Dev) (l : LenSrc) : Option Nat :=
  match l with
  | .imm v => some v.toNat
  | .reg b => if zeroBits (d.x b) 63 32 then some (bits (d.x b) 31 0) else none

/-- Length rule of R211. -/
def lenBad (n : Nat) : Bool := n < 8 || n % 8 != 0

/-- The rules of R211 on the formats of two ends and a run; a PSB source moves whole blocks only (05 R107). -/
def endsBad (src dst : Word) (n : Nat) : Option (BitVec 32) :=
  if pfmtOf src ≠ pfmtOf dst && pfmtOf src ≠ 0 && pfmtOf dst ≠ 0 then some (opndBad 2 8)
  else if pfmtPsb src && pfmtPsb dst && plcode src ≠ plcode dst then some (opndBad 2 8)
  else if pfmtPsb src && n % blockBytes (pfmtOf src) (plcode src) ≠ 0 then some (opndBad 3 8)
  else none

/-- Step 2 of R404 on a shape. -/
def shapeBad (k : CpKind) : Option (BitVec 32) :=
  match k with
  | .cp d s n => if lenBad n then some (opndBad 3 8) else endsBad s d n
  | .cpm _ s n l => if lenBad n then some (opndBad 3 8) else (l.filterMap (fun d => endsBad s d n)).head?
  | .cpa d s w0 _ _ => if lenBad (bits w0 31 0) then some (opndBad 11 4) else endsBad s d (bits w0 31 0)

/-- Step 3 of R404: the strides of a `cpa`. -/
def stridesBad (k : CpKind) : Bool :=
  match k with
  | .cpa _ _ _ w1 w2 => bits w1 31 0 % 8 != 0 || bits w1 63 32 % 8 != 0 || bits w2 31 0 % 8 != 0 || bits w2 63 32 % 8 != 0
  | _ => false

/-- Alignment of an extent that begins at an offset: its end's, which a resumed copy need not begin at (R211, 24 R425). -/
def startAlign (start : Nat) : Nat := if start % 8 = 0 then 8 else 1

/-- Checks 1 to 5 over one extent; a failure of check 1 carries operand 0 (21 R396). -/
def extentBad (d : Dev) (base : Word) (p : Option Word) (n : Nat) (u : Use) (ext align : Nat) : Option Raised :=
  match p with
  | none => some (0x13, base, extOpnd ext)
  | some p => (checks5 d d.rank d.who d.me u p n align).map (fun c => (c, p, if c = 0x04 then 0 else extOpnd ext))

/-- The first failing extent of a list of them. -/
def firstBad {α : Type} (f : α → Option Raised) : List α → Option Raised
  | [] => none
  | x :: r => (f x).or (firstBad f r)

/-- The base pointers of a shape. -/
def CpKind.bases : CpKind → Word × Word
  | .cp d s _ => (d, s)
  | .cpa d s _ _ _ => (d, s)
  | .cpm d s _ _ => (d, s)

/-- The source's extents. -/
def srcBad (d : Dev) (k : CpKind) (start : Nat) : Option Raised :=
  match k with
  | .cpa _ s _ _ _ => firstBad (fun (e : Nat × Nat) => extentBad d s (k.srcAt e.1) e.2 .copy 1 (startAlign e.1)) (k.runs start)
  | _ => extentBad d k.bases.2 (k.srcAt start) (copyLen k - start) .copy 1 (startAlign start)

/-- The destination's extents, those of a `cpm` apart (R214). -/
def dstBad (d : Dev) (k : CpKind) (start : Nat) : Option Raised :=
  match k with
  | .cpm _ _ _ _ => none
  | .cp _ _ _ => extentBad d k.bases.1 ((k.dstAt start).head?.bind (·.2)) (copyLen k - start) .copy 2 (startAlign start)
  | .cpa p _ _ _ _ => firstBad (fun (e : Nat × Nat) => extentBad d p ((k.dstAt e.1).head?.bind (·.2)) e.2 .copy 2 (startAlign e.1)) (k.runs start)

/-- The counter's checks (R356): its space is judged with check 2, before the alignment (04 R77). -/
def counterBad (d : Dev) (ctr : Word) : Option Raised :=
  if pspace ctr = 5 && !privSlot d.who then some (0x04, ctr, 0)
  else if !([0, 1, 2, 6].contains (pspace ctr)) then some (0x13, ctr, extOpnd 3)
  else extentBad d ctr (some ctr) 8 .scalar 3 8

/-- What check fails for each entry of a `cpm` list (R214): entries that live on, and the failed ones with their codes. -/
def cpmEnds (d : Dev) (k : CpKind) (start : Nat) (among : List Nat) : List Nat × List (Nat × Byte) :=
  (k.dstAt start).foldl (fun x e =>
    if !among.contains e.1 then x
    else
      let c := match e.2 with
        | none => some (0x13 : Byte)
        | some p => if pspace p ≠ 1 && pspace p ≠ 3 then some 0x13
          else checks5 d d.rank d.who d.me .cpmDst p (copyLen k - start) (startAlign start)
      match c with
      | some c => (x.1, x.2 ++ [(e.1, c)])
      | none => (x.1 ++ [e.1], x.2)) ([], [])

/-- Steps 2 to 4 of R404 (no pointer fails by a stride: the record's address is free, log 6); the counter's pointer none where the copy has none. -/
def copyBad (d : Dev) (k : CpKind) (start : Nat) (ctr : Option Word) : Option Raised :=
  match shapeBad k with
  | some o => some (0x02, 0, o)
  | none =>
    if stridesBad k then some (0x14, Config.freeWord d.free, 0)
    else (srcBad d k start).or ((dstBad d k start).or (ctr.bind (counterBad d)))

/-- A new copy of the issuing thread. -/
def newCopy (d : Dev) (k : CpKind) (start : Nat) (among : List Nat) (comp : BitVec 16) (ctr : Word) (resumed : Bool) : Copy :=
  let m := match k with
    | .cpm _ _ _ _ => cpmEnds d k start among
    | _ => ([0], [])
  { id := d.me.flow.nextId, slot := d.who, asid := d.me.asid.toNat, pc := d.me.pc, kind := k, comp := comp, ctr := ctr, start := start,
    done := [], inPlace := [], got := [], awaits := [], stop := none, live := m.1, fails := m.2, refused := false, parked := false,
    resumed := resumed, stage := 0 }

/-- The copy enters the engine and `cp` (R358). -/
def takeCopy (d : Dev) (c : Copy) (f : Slot → Slot) : Dev :=
  (d.onEng d.rank (fun e => { e with copies := e.copies ++ [c] })).retire (fun t =>
    { f t with flow := { t.flow with nextId := t.flow.nextId + 1 }.enter .cp c.id 1 })

/-- The completion field (R356). -/
def compField (c : Comp) : BitVec 16 := BitVec.ofNat 16 (fld c.tag.toNat 8 + fld c.creg.toNat 2 + b2n c.ev)

/-- Whether a completion field names a counter register. -/
def hasCtr (c : BitVec 16) : Bool := c.extractLsb' 2 6 != 0

/-- The counter pointer, where the copy has one. -/
def compCtr (d : Dev) (creg : XReg) : Option Word := if creg = 0 then none else some (d.x creg)

/-- The stalls and the tag of the copy commands. -/
def copyStalls (s : State) (k : State → Out) : Out :=
  needTag s holdsC (fun s => parkUnless s .sendHold (fun s => parkUnless s .copyRoom k))

/-- Check and post a copy. -/
def postCopy (s : State) (k : CpKind) (start : Nat) (among : List Nat) (comp : BitVec 16) (ctr : Option Word) (f : Dev → Dev)
    (g : Slot → Slot) (resumed : Bool := false) : Out :=
  match copyBad s.dev k start ctr with
  | some (c, a, o) => fault { s with dev := { s.dev with free := s.dev.free + 1 } } c a o
  | none => devStep s (fun d => takeCopy (f d) (newCopy d k start among comp (ctr.getD 0) resumed) g)

/-- CP. -/
def execCp (d a : XReg) (len : LenSrc) (c : Comp) (s : State) : Out :=
  copyStalls s (fun s =>
    match lenOf s.dev len with
    | none => fault s 0x03 0 3
    | some n => postCopy s (.cp (s.dev.x d) (s.dev.x a) n) 0 [] (compField c) (compCtr s.dev c.creg) (fun d => d) (fun t => t))

/-- A table read at issue through a space-1 pointer (R80). -/
def tableRead (s : State) (p : Word) (n : Nat) (k : List Word → Out) : Out :=
  match payloadFault s.dev p n with
  | some c => fault s c p (if c = 0x68 then 0xC00 else if c = 0x04 then 0 else extOpnd 4)
  | none => k (s.dev.my.lmem.words (paddr p) n)

/-- CPA. -/
def execCpa (d a b : XReg) (c : Comp) (s : State) : Out :=
  copyStalls s (fun s => tableRead s (s.dev.x b) 4 (fun ws =>
    if nth 0 ws 3 ≠ 0 then fault s 0x02 0 (opndBad 11 4)
    else postCopy s (.cpa (s.dev.x d) (s.dev.x a) (nth 0 ws 0) (nth 0 ws 1) (nth 0 ws 2)) 0 [] (compField c)
      (compCtr s.dev c.creg) (fun d => d) (fun t => t)))

/-- Read a `cpm` list (R357): word 0, then the pointers. -/
def listRead (s : State) (p : Word) (k : List Word → Out) : Out :=
  tableRead s p 1 (fun w =>
    if !zeroBits (nth 0 w 0) 63 5 then fault s 0x02 0 (opndBad 11 4)
    else tableRead s p (2 + bits (nth 0 w 0) 4 0) (fun ws => k ws.tail))

/-- CPM. -/
def execCpm (d a : XReg) (len : LenSrc) (c : Comp) (s : State) : Out :=
  copyStalls s (fun s =>
    match lenOf s.dev len with
    | none => fault s 0x03 0 3
    | some n => listRead s (s.dev.x d) (fun l =>
        postCopy s (.cpm (s.dev.x d) (s.dev.x a) n l) 0 (upto l.length) (compField c) (compCtr s.dev c.creg) (fun d => d) (fun t => t)))

/-- The place of a tag's progress record (R361). -/
def progressAt (c : Core) (tag : Nat) : Nat := c.regs.prbase.toNat % 2 ^ 18 + 64 * tag

/-- CPRES (R363). -/
def execCpres (d : XReg) (tag : BitVec 7) (s : State) : Out :=
  copyStalls s (fun s =>
    let c := s.dev.my
    let at_ := progressAt c tag.toNat
    let w := fun i => c.lmem.word (at_ + 8 * i)
    let kind := bits (w 0) 63 60
    if !c.regs.prbase.getLsbD 18 || kind = 0 || kind > 3 then devStep s (fun v => v.retire (fun t => t.setX d 1))
    else if (touched at_ 64).any (fun i => Tab.get false c.lpoison i) then fault s 0x68 (w64 (fld 1 60 + at_)) 0xC00
    else
      let start := bits (w 0) 47 0
      let comp := BitVec.ofNat 16 (bits (w 4) 47 32)
      let ctr := if hasCtr comp then some (w 3) else none
      let len := bits (w 4) 31 0
      let spent := fun (v : Dev) => v.onMy (fun c => { c with lmem := c.lmem.setWord at_ (w64 (bits (w 0) 59 0)) })
      let go := fun (k : CpKind) (among : List Nat) => postCopy s k start among comp ctr spent (fun t => t.setX d 0) true
      if kind = 1 then go (.cp (w 1) (w 2) len) []
      else if kind = 2 then go (.cpa (w 1) (w 2) (w 5) (w 6) (w 7)) []
      else listRead s (w 1) (fun l => go (.cpm (w 1) (w 2) len l) ((upto l.length).filter (fun i => (w 5).getLsbD i))))

/-! ### Pieces (R358 to R360, 22 R410) -/

/-- The parts of a piece: divided at runs and, at an end in space 0 or 6, at 4 KiB boundaries, which hold every page, granule, die and
tier boundary (04 R87); a core's memory has none. -/
def splitPiece (k : CpKind) : Nat → Nat → Nat → List (Nat × Nat)
  | 0, _, _ => []
  | f + 1, t, e =>
    if e ≤ t then []
    else
      let left := fun (p : Option Word) => match p with
        | some p => if pspace p = 0 || pspace p = 6 then 4096 - paddr p % 4096 else 512
        | none => 512
      let run := k.run - t % k.run
      let n := (k.dstAt t).foldl (fun n x => Nat.min n (left x.2)) (Nat.min (Nat.min (e - t) run) (left (k.srcAt t)))
      (t, n) :: splitPiece k f (t + n) e

/-- A piece's byte range. -/
def pieceStart (c : Copy) (k : Nat) : Nat := c.start + 512 * k
def pieceEnd (c : Copy) (k : Nat) : Nat := Nat.min (c.start + 512 * (k + 1)) (copyLen c.kind)

def pieceParts (c : Copy) (k : Nat) : List (Nat × Nat) := splitPiece c.kind 512 (pieceStart c k) (pieceEnd c k)

/-- The parts below an offset. -/
def cutParts (l : List (Nat × Nat)) (t : Nat) : List (Nat × Nat) :=
  (l.filter (fun e => e.1 < t)).map (fun e => (e.1, Nat.min e.2 (t - e.1)))

/-- The parts of a piece that lie below the offset the copy stops at. -/
def partsLeft (c : Copy) (k : Nat) : List (Nat × Nat) := c.stop.elim (pieceParts c k) (fun x => cutParts (pieceParts c k) x.1)

/-- Whether the engine may move a piece now: not stopped below it, inside the window of 22 R410, and begun already where the copy is to
stop at its piece boundary (20 R385, R387). -/
def pieceOpen (c : Copy) (k : Nat) : Bool :=
  k < pieceCount c && !c.done.contains k && !c.awaits.any (fun e => e.1 == k) &&
    512 * k < 512 * copyHole c + 0x90000 && (c.stop.all (fun x => pieceStart c k < x.1)) && (!c.parked || c.begun k)

/-- Where the engine finds one end of a part: checks 6 to 8 (R358), and the own device's port (10 R224). DESIGN CHOICE: an end in space 4
is mapped through `ctl.accmap` as each piece or word is moved (log 54). -/
def copyPlace (s : State) (r : Nat) (asid : Nat) (p : Word) (n : Nat) (rd wr : Bool) : Chk :=
  match pspace p with
  | 1 => .ok (.loc r (paddr p)) 0
  | 2 | 3 => .ok (.loc (prank p) (paddr p)) 0
  | 4 => .ok (.acc (unitOf r) (accBank (s.dev.core r).regs.accmap (pbank p)) (paddr p)) 0
  | 6 => peerPlace s p n rd wr
  | _ => checkWalk s asid (paddr p) n rd wr

/-- The 64-bit words that `n` bytes at a place touch. -/
def Loc.words (l : Loc) (n : Nat) : List Loc :=
  match l with
  | .glob a => (touched a n).map (fun w => .glob (8 * w))
  | .loc r o => (touched o n).map (fun w => .loc r (8 * w))
  | _ => (upto ((n + 7) / 8)).map (fun i => l.plus (8 * i))

/-- The places that `n` bytes touch, one for each line of global memory. -/
def Loc.lines (l : Loc) (n : Nat) : List Loc :=
  match l with
  | .glob a => l :: (linesOf a n).tail.map (fun i => .glob (64 * i))
  | _ => [l]

/-- The lines that a write of `n` bytes covers whole are correct again (22 R411). -/
def clearLines (s : State) (l : Loc) (n : Nat) : State :=
  match l with
  | .glob a =>
    let whole := (linesOf a n).filter (fun i => a ≤ 64 * i && 64 * i + 64 ≤ a + n)
    { s with dev := s.dev.onMeta (fun m => { m with poison := whole.foldl (fun t i => Tab.put false t i false) m.poison }) }
  | _ => s

/-- Write words of `bs` at a place: those of the ranges given, as offsets into it. -/
def writeRanges (s : State) (l : Loc) (key : Nat) (bs : List Byte) (ws : List (Nat × Nat)) : State :=
  ws.foldl (fun s w => s.writeLoc (l.plus w.1) key ((bs.drop w.1).take w.2)) s

/-- Write bytes at a place, word by word; a line covered whole is correct again (22 R411). -/
def writeBytes (s : State) (l : Loc) (key : Nat) (bs : List Byte) : State :=
  clearLines (writeRanges s l key bs (wordRanges 0 bs.length)) l bs.length

/-- Source bytes that the engine already holds: a peer's answer, or words it has read. -/
def gotBytes (c : Copy) (t n : Nat) : Option (List Byte) :=
  (c.got.find? (fun e => e.1 ≤ t && t + n ≤ e.1 + e.2.length)).map (fun e => (e.2.drop (t - e.1)).take n)

/-- What the reading of `n` bytes from an offset finds wrong with the lines or words of the source (22 R411, R419). -/
def noteSource (s : State) (r : Nat) (c : Copy) (e : Nat × Nat) : State :=
  match c.kind.srcAt e.1 with
  | none => s
  | some p => match copyPlace s r c.asid p e.2 true false with
    | .ok l _ => if (gotBytes c e.1 e.2).isSome then s else noteRead s l e.2
    | _ => s

/-- Source bytes of a part: those the engine holds, else those read now. -/
def readPart (s : State) (r : Nat) (c : Copy) (t n : Nat) : Except (Byte × Word) (List Byte) :=
  let ws := wordRanges t n
  if ws.all (fun w => (gotBytes c w.1 w.2).isSome) then .ok (ws.flatMap (fun w => (gotBytes c w.1 w.2).getD []))
  else match c.kind.srcAt t with
    | none => .error (0x13, 0)
    | some p => match copyPlace s r c.asid p n true false with
      | .bad x => .error (x, p)
      | .miss _ _ => .error (0x10, p)
      | .ok l key =>
        if (l.words n).any (fun w => s.poisoned w) then .error (0x68, p)
        else
          let now := s.readBytes l key n
          .ok (ws.flatMap (fun w => (gotBytes c w.1 w.2).getD ((now.drop (w.1 - t)).take w.2)))

/-- Why a write at a place is refused: a lost bank group or failed die, a guard buffer (22 R418, 07 R150). -/
def writeRefused (s : State) (l : Loc) (n : Nat) : Option Byte :=
  if (l.words n).any (fun w => s.lost w) then some 0x68
  else match l with
    | .loc r o => if bindAllows (s.dev.core r) o n then none else some 0x20
    | _ => none

/-- The copy stops at an offset, unless it stops lower already (22 R410). -/
def Copy.stopAt (c : Copy) (t : Nat) (code : Byte) : Copy :=
  if c.stop.any (fun x => x.1 ≤ t) then c else { c with stop := some (t, code), refused := code = 0x20 }

/-- A destination of a `cpm` fails (R359): no further words, and none beyond the failure is set full. -/
def Copy.endFails (c : Copy) (j t : Nat) (code : Byte) : Copy :=
  { c with live := c.live.filter (· != j), fails := c.fails ++ [(j, code)]
           inPlace := c.inPlace.filter (fun e => !(e.2.1 == j && t ≤ e.1)) }

/-- A write at a destination fails in the part from `t`. -/
def Copy.writeFails (c : Copy) (j t : Nat) (code : Byte) : Copy := if c.kind.multi then c.endFails j t code else c.stopAt t code

/-- The place of `n` bytes from an offset at destination `j`, or the code that refuses a write there. -/
def endPlace (s : State) (r : Nat) (c : Copy) (p : Option Word) (n : Nat) : Except Byte (Loc × Nat) :=
  match p with
  | none => .error 0x13
  | some p => match copyPlace s r c.asid p n false true with
    | .bad x => .error x
    | .miss _ _ => .error 0x10
    | .ok l key => match writeRefused s l n with
      | some x => .error x
      | none => .ok (l, key)

/-- Write a part at one destination: what word steps have put in place there stays. -/
def writeEnd (s : State) (r : Nat) (c : Copy) (t : Nat) (bs : List Byte) (j : Nat) (p : Option Word) : State × Copy :=
  match endPlace s r c p bs.length with
  | .error x => (noteCode s c.asid x (p.getD 0), c.writeFails j t x)
  | .ok (l, key) =>
    let ws := (wordRanges t bs.length).filter (fun w => !c.placedAt j w.1 w.2)
    (clearLines (writeRanges (notePartial s l bs.length) l key bs (ws.map (fun w => (w.1 - t, w.2)))) l bs.length,
     { c with inPlace := c.inPlace.filter (fun e => !(e.2.1 == j && t ≤ e.1 && e.1 < t + bs.length)) ++ [(t, j, l, bs.length)] })

/-- Move parts in order until one fails. -/
def moveParts (r : Nat) : List (Nat × Nat) → State → Copy → State × Copy
  | [], s, c => (s, c)
  | (t, n) :: rest, s0, c =>
    let s := noteSource s0 r c (t, n)
    match readPart s r c t n with
    | .error x => (noteCode s c.asid x.1 x.2, c.stopAt t x.1)
    | .ok bs =>
      let y := (c.kind.dstAt t).foldl (fun (x : State × Copy) e =>
        if c.kind.multi && !x.2.live.contains e.1 then x else writeEnd x.1 r x.2 t bs e.1 e.2) (s, c)
      if y.2.stop.any (fun x => x.1 ≤ t) then y else moveParts r rest y.1 y.2

/-- Set full what lies below an offset and serve the words' waiters (R38, 06 R131, R132). DESIGN CHOICE: a 64-bit word that holds the
offset, where a copy's side band stopped it inside the word, is set full with what lies below (log 57). -/
def settleFull (s : State) (c : Copy) (lim : Nat) : State × Copy :=
  let now := c.inPlace.filter (fun e => e.1 + e.2.2.2 ≤ lim)
  (fillWords s (now.flatMap (fun e => e.2.2.1.words e.2.2.2)), { c with inPlace := c.inPlace.filter (fun e => !(e.1 + e.2.2.2 ≤ lim)) })

/-- The progress record of a stopped copy (R362). -/
def progressWords (c : Copy) (cause : Byte) : List Word :=
  let t := resumeOffset c
  let head := fun (k dst src : Nat) => [w64 (fld k 60 + fld cause.toNat 48 + t % 2 ^ 48), w64 dst, w64 src, c.ctr]
  match c.kind with
  | .cp d p n => head 1 d.toNat p.toNat ++ [w64 (fld c.comp.toNat 32 + n), 0, 0, 0]
  | .cpa d p w0 w1 w2 => head 2 d.toNat p.toNat ++ [w64 (fld c.comp.toNat 32), w0, w1, w2]
  | .cpm d p n _ => head 3 d.toNat p.toNat ++ [w64 (fld c.comp.toNat 32 + n), w64 (c.live.foldl (fun m i => m + 2 ^ i) 0), 0, 0]

/-- The mask of destinations delivered whole (R214, R359). -/
def deliveredMask (c : Copy) : Nat := if c.kind.multi then c.live.foldl (fun m i => m + 2 ^ i) 0 else 0

/-- A copy leaves its engine and `cp`. -/
def leaveCopy (d : Dev) (r : Nat) (c : Copy) : Dev :=
  (d.onEng r (fun e => { e with copies := e.copies.filter (fun x => !(x.id == c.id && x.slot == c.slot)) })).onThrFlow r c.slot
    (fun f => f.finish .cp c.id)

def putCopy (d : Dev) (r : Nat) (c : Copy) : Dev :=
  d.onEng r (fun e => { e with copies := e.copies.map (fun x => if x.id = c.id && x.slot = c.slot then c else x) })

/-- Post a copy's record; without room it waits and the copy stays in `cp` (10 R215). -/
def postRecord (d : Dev) (r : Nat) (c : Copy) (w0 w1 : Word) (stage : Nat) : Dev × Bool :=
  let e := (d.core r).eng
  let room := e.events.length < 64 && e.eventWait.isEmpty
  let d1 := d.event r w0 w1 (some (c.slot, c.id))
  (if room then d1 else putCopy d1 r { c with stage := stage }, room)

/-- The mask of a stopped copy's record: the destinations whole before the block, when the side band stopped a `cpm` (24 R425). -/
def stoppedMask (c : Copy) (code : Byte) : Nat := if code = 0x50 && !c.resumed then deliveredMask c else 0

/-- A copy leaves its engine, and a saved thread's frame its count (20 R388). -/
def copyLeaves (s : State) (r : Nat) (c : Copy) : State := ({ s with dev := leaveCopy s.dev r c } : State).frameSync r c.slot []

/-- A stopped copy whose lower pieces are all in place ends (R360). -/
def endStopped (s : State) (r : Nat) (c : Copy) (t : Nat) (code : Byte) : State :=
  let k := s.dev.core r
  let d0 := if k.regs.prbase.getLsbD 18 then
      s.dev.onCore r (fun k => { k with lmem := k.lmem.setWords (progressAt k (compTag c.comp)) (progressWords c code) })
    else s.dev
  let cause : Byte := if c.refused then 0x20 else 0x58
  let sub : Byte := if c.refused then 10 else code
  let x := postRecord d0 r c (copyEvent c.stopType (homeSlot k.eng c.slot) cause.toNat sub.toNat (stoppedMask c code)) (copyDetail c t) 2
  if x.2 then copyLeaves { s with dev := x.1 } r c else { s with dev := x.1 }

/-- Words below an offset set full, and the copy put back. -/
def fillBelow (s : State) (r : Nat) (c : Copy) (lim : Nat) : State × Copy :=
  let x := settleFull s c lim
  ({ x.1 with dev := putCopy x.1.dev r x.2 }, x.2)

/-- After a change to a copy: its end when it has stopped and all below the resume offset is in place, else the words of whole pieces set
full. The words of the piece it stops in are set full as it ends, so that what is in place there stays known until then. A copy of an
ended group has another end (20 R385). -/
def settleCopy (s : State) (r : Nat) (c : Copy) : State :=
  let whole := c.start + 512 * copyHole c
  match c.stop with
  | some (t, code) =>
    if c.stage = 0 && !c.ending && fullBelow c = t && c.awaits.all (fun e => t ≤ pieceStart c e.1) then
      let x := fillBelow s r c t
      endStopped x.1 r x.2 t code
    else (fillBelow s r c (Nat.min whole t)).1
  | none => (fillBelow s r c whole).1

/-- Whether an end of a copy lies at another device. -/
def remoteEnd (d : Dev) (p : Word) : Bool := pspace p = 6 && ppeer p ≠ d.objs.peerSelf.toNat

/-- A copy's request to a peer. -/
def copyReq (c : Copy) (p : Word) (op : ReqOp) : Req :=
  { id := c.id, cls := .none, op := op, ptr := p, loc := .peer (ppeer p) (paddr p), dst := .none, pc := c.pc, asid := c.asid, domain := 0,
    die := false, pkg := false, sys := false, kind := 10, elem := 0, key := 0, judged := false }

/-- Put requests into the fabric at the source port (25 R444). -/
def Dev.toFabric (d : Dev) (r k : Nat) (l : List Req) : Dev :=
  d.onObjs (fun o => { o with fabric := o.fabric ++ l.map (fun q => ⟨r, k, q, [], 0, false⟩) })

/-- Parts whose bytes follow one another at both ends make one (25 R454). -/
def joinParts (k : CpKind) (l : List (Nat × List Byte)) : List (Nat × List Byte) :=
  let dst := fun (t : Nat) => (k.dstAt t).head?.bind (·.2)
  l.foldr (fun e acc => match acc with
    | (u, b) :: rest => if u = e.1 + e.2.length && dst u == (dst e.1).bind (fun p => padvance p e.2.length) then (e.1, e.2 ++ b) :: rest else e :: acc
    | [] => [e]) []

/-- Write packets of a run of bytes: one for each 256-byte aligned block of the target's addresses (25 R454). Two runs of a `cpa` that
leave a gap in one block go in two packets (log 57). -/
def packets (c : Copy) : Nat → Word → Nat → List Byte → List Req
  | 0, _, _, _ => []
  | f + 1, p, t, bs =>
    if bs.isEmpty then []
    else
      let n := Nat.min bs.length (256 - paddr p % 256)
      copyReq c p (.block t (bs.take n)) :: packets c f ((padvance p n).getD p) (t + n) (bs.drop n)

/-- The place of `n` bytes at an end of a copy, where its checks pass. -/
def endLoc (s : State) (r : Nat) (c : Copy) (n : Nat) (rd : Bool) (p : Option Word) : List Loc :=
  match p with
  | none => []
  | some p => match copyPlace s r c.asid p n rd (!rd) with
    | .ok l _ => l.lines n
    | _ => []

/-- The walk that an end of a part needs is held (22 R417). -/
def partHeld (s : State) (c : Copy) (e : Nat × Nat) : Bool :=
  (c.kind.srcAt e.1).any (ptrHeld s c.asid) || (c.kind.dstAt e.1).any (fun x => x.2.any (ptrHeld s c.asid))

/-- The places that a piece's parts touch in this device. -/
def pieceLocs (s : State) (r : Nat) (c : Copy) (l : List (Nat × Nat)) : List Loc :=
  l.flatMap (fun e => endLoc s r c e.2 true (c.kind.srcAt e.1) ++ (c.kind.dstAt e.1).flatMap (fun x => endLoc s r c e.2 false x.2))

/-- Source bytes of every part, or the first failure. -/
def gather (s : State) (r : Nat) (c : Copy) : List (Nat × Nat) → Except (Nat × Byte × Word) (List (Nat × List Byte))
  | [] => .ok []
  | (t, n) :: rest => match readPart s r c t n with
    | .error x => .error (t, x)
    | .ok bs => match gather s r c rest with
      | .error x => .error x
      | .ok l => .ok ((t, bs) :: l)

/-- No byte of a range is in place, on its way, or part of a piece done. -/
def untouched (c : Copy) (t n : Nat) : Bool :=
  !c.inPlace.any (fun e => e.1 < t + n && t < e.1 + e.2.2.2) &&
    !(c.done ++ c.awaits.map (·.1)).any (fun k => pieceStart c k < t + n && t < pieceEnd c k)

/-- The offset at which a side-band mismatch found with piece `k` stops the copy: the first byte of the unpaired block, of a PSB
source. The receiver writes no part of that block: one of which some word is in place was paired (05 R107, R108, 24 R425). -/
def slipOffset (c : Copy) (k : Nat) (slip : Option Nat) : Option Nat :=
  let p := c.kind.bases.2
  match slip with
  | none => none
  | some b =>
    let n := blockBytes (pfmtOf p) (plcode p)
    if isPsb (pfmtOf p) && pieceStart c k < b * n + n && b * n < pieceEnd c k && c.start ≤ b * n && untouched c (b * n) n then some (b * n) else none

/-- The engine may work on a copy: it runs, the copy has not ended, and no fence.oc holds it (06 R133). -/
def copyRuns (s : State) (r : Nat) (c : Copy) : Bool :=
  s.dev.engineUp r && c.stage == 0 && (s.dev.thr r c.slot).flow.ocClear c.id

/-- COPY_PIECE: the engine translates and moves piece `k` of the copy at position `i` (R358). `slip` is the number of a PSB block
at which the side band no longer matches: the copy stops there with code 0x50. -/
def execCopyPiece (r i k : Nat) (slip : Option Nat) (s : State) : Out :=
  match nth? (s.dev.core r).eng.copies i with
  | none => .next s
  | some c0 =>
    if !copyRuns s r c0 || !pieceOpen c0 k then .next s
    else
      let c := (slipOffset c0 k slip).elim c0 (fun t => c0.stopAt t 0x50)
      let parts := partsLeft c k
      let locs := pieceLocs s r c parts
      match (locs.filterMap (fun l => noMemory s l)).head? with
      | some pa => .fault (.noSuchAddress pa)
      | none =>
        if locs.any (fun l => placeHeld s l) || parts.any (partHeld s c) then .next s
        else
          let ends := c.kind.bases
          if remoteEnd s.dev ends.2 && !parts.all (fun e => (gotBytes c e.1 e.2).isSome) then
            let qs := parts.filterMap (fun e => (c.kind.srcAt e.1).map (fun p => copyReq c p (.fetch e.1 e.2)))
            .next { s with dev := (putCopy s.dev r { c with awaits := c.awaits ++ [(k, qs.length)] }).toFabric r c.slot qs }
          else if !c.kind.multi && remoteEnd s.dev ends.1 then
            match gather s r c parts with
            | .error (t, x) =>
              let s1 := (parts.filter (fun e => e.1 ≤ t)).foldl (fun s e => noteSource s r c e) s
              .next (settleCopy (noteCode s1 c.asid x.1 x.2) r (c.stopAt t x.1))
            | .ok l0 =>
              let l := joinParts c.kind l0
              let s := parts.foldl (fun s e => noteSource s r c e) s
              let qs := l.flatMap (fun e => packets c 64 (((c.kind.dstAt e.1).head?.bind (·.2)).getD 0) e.1 e.2)
              if qs.isEmpty then .next (settleCopy s r c)
              else .next { s with dev := (putCopy s.dev r { c with awaits := c.awaits ++ [(k, qs.length)] }).toFabric r c.slot qs }
          else
            let y := moveParts r parts s c
            let whole := !y.2.stop.any (fun x => x.1 < pieceEnd c k)
            .next (settleCopy y.1 r (if whole then { y.2 with done := y.2.done ++ [k] } else y.2))

/-! ### Word steps (06 R116, R132) -/

/-- A copy after a word step: once every word of the piece is in place the piece is done. A copy that stops settles. -/
def afterWord (s : State) (r : Nat) (c : Copy) (k : Nat) : State :=
  let parts := partsLeft c k
  if parts.all (fun e => c.allPlaced e.1 e.2) && !c.stop.any (fun x => x.1 < pieceEnd c k) then
    let s1 := parts.foldl (fun (s : State) e => (c.inPlace.filter (fun x => x.1 == e.1)).foldl (fun s x => clearLines s x.2.2.1 e.2) s) s
    { s1 with dev := putCopy s1.dev r { c with done := c.done ++ [k], got := c.got.filter (fun g => (g.1 - c.start) / 512 != k) } }
  else if c.stop.isSome then settleCopy s r c
  else { s with dev := putCopy s.dev r c }

/-- The part of a piece and the bytes of the word of it that holds an offset, where the engine may work on them. -/
def wordOf (s : State) (r : Nat) (c : Copy) (t : Nat) : Option (Nat × (Nat × Nat) × (Nat × Nat)) :=
  let k := (t - c.start) / 512
  if t < c.start || !copyRuns s r c || !pieceOpen c k then none
  else match (partsLeft c k).find? (fun e => e.1 ≤ t && t < e.1 + e.2) with
    | none => none
    | some e => ((wordRanges e.1 e.2).find? (fun w => w.1 ≤ t && t < w.1 + w.2)).map (fun w => (k, e, w))

/-- The engine reads one source word of a copy. -/
def copyFetch (r i t : Nat) (s : State) : Out :=
  match nth? (s.dev.core r).eng.copies i with
  | none => .next s
  | some c => match wordOf s r c t with
    | none => .next s
    | some (k, e, w) =>
      if remoteEnd s.dev c.kind.bases.2 || (gotBytes c w.1 w.2).isSome then .next s
      else
        let locs := endLoc s r c w.2 true (c.kind.srcAt w.1)
        match (locs.filterMap (fun l => noMemory s l)).head? with
        | some pa => .fault (.noSuchAddress pa)
        | none =>
          if locs.any (fun l => placeHeld s l) || partHeld s c w then .next s
          else
          let s := noteSource s r c w
          match readPart s r c w.1 w.2 with
            | .error x => .next (afterWord (noteCode s c.asid x.1 x.2) r (c.stopAt e.1 x.1) k)
            | .ok bs => .next { s with dev := putCopy s.dev r { c with got := c.got ++ [(w.1, bs)] } }

/-- The engine writes one word of a copy at destination `j`: a word it has read. -/
def copyWrite (r i t j : Nat) (s : State) : Out :=
  match nth? (s.dev.core r).eng.copies i with
  | none => .next s
  | some c => match wordOf s r c t with
    | none => .next s
    | some (k, e, w) =>
      match gotBytes c w.1 w.2, (c.kind.dstAt w.1).find? (fun x => x.1 == j) with
      | some bs, some x =>
        if !c.live.contains j || c.placedAt j w.1 w.2 || remoteEnd s.dev (x.2.getD 0) then .next s
        else match endPlace s r c x.2 w.2 with
          | .error code => .next (afterWord (noteCode s c.asid code (x.2.getD 0)) r (c.writeFails j e.1 code) k)
          | .ok (l, key) => match noMemory s l with
            | some pa => .fault (.noSuchAddress pa)
            | none =>
              if placeHeld s l || partHeld s c w then .next s
              else .next (afterWord ((notePartial s l w.2).writeLoc l key bs) r { c with inPlace := c.inPlace ++ [(w.1, j, l, w.2)] } k)
      | _, _ => .next s

/-- The engine sets one word of a copy full: the first of the `n`-th extent in place, where all below it is in place (22 R410). -/
def copyFull (r i n : Nat) (s : State) : Out :=
  match nth? (s.dev.core r).eng.copies i with
  | none => .next s
  | some c => match nth? c.inPlace n with
    | none => .next s
    | some (t, j, l, len) =>
      if !copyRuns s r c || c.stop.isSome || fullBelow c < t + len then .next s
      else
        let rest := if len ≤ 8 then [] else [(t + 8, j, l.plus 8, len - 8)]
        .next (fillWords { s with dev := putCopy s.dev r { c with inPlace := c.inPlace.take n ++ rest ++ c.inPlace.drop (n + 1) } } ((l.words len).take 1))

/-- One awaited answer of a piece has come. -/
def Copy.heard (c : Copy) (k : Nat) : Copy :=
  { c with awaits := (c.awaits.map (fun e => if e.1 = k then (k, e.2 - 1) else e)).filter (fun e => e.2 != 0) }

/-- Every packet of a piece has been answered: it is done, up to where the copy stops. -/
def Copy.sent (c : Copy) (k : Nat) : Copy := { c with done := c.done ++ [k], got := c.got.filter (fun g => (g.1 - c.start) / 512 != k) }

/-- A peer has answered one request of a copy's piece: read bytes, or a written packet (25 R454). -/
def copyAnswered (s : State) (r : Nat) (c : Copy) (op : ReqOp) (bs : List Byte) : State :=
  let t := match op with
    | .block t _ => t
    | .fetch t _ => t
    | _ => 0
  let k := (t - c.start) / 512
  let c1 := c.heard k
  match op with
  | .fetch _ _ => settleCopy s r { c1 with got := c1.got ++ [(t, bs)] }
  | _ => settleCopy s r (if c1.awaits.any (fun e => e.1 == k) then c1 else c1.sent k)

/-- A peer's refusal or an error notice stops the copy (25 R441, R452). -/
def copyRefused (s : State) (r : Nat) (c : Copy) (op : ReqOp) (code : Byte) : State :=
  let t := match op with
    | .block t _ => t
    | .fetch t _ => t
    | _ => 0
  let k := (t - c.start) / 512
  let c1 := (c.heard k).stopAt t code
  match op with
  | .fetch _ _ => settleCopy s r c1
  | _ => settleCopy s r (if c1.awaits.any (fun e => e.1 == k) then c1 else c1.sent k)

/-- Room in the outbound bag for the counter action (06 R115). -/
def counterRoom (s : State) (r : Nat) (c : Copy) : Bool := !hasCtr c.comp || s.dev.roomFor r c.slot (s.dev.thr r c.slot).flow 1 true

/-- The counter action: `red.add.b64` of 1, a release at `.sys` of the copy (R356, 06 R135). It raises the issuing thread's
pending-write counters like any `red` of the thread, so that a later release waits for it: R126 leaves that open (log 37; the
model's choice). -/
def counterAction (s : State) (r : Nat) (c : Copy) : State :=
  if !hasCtr c.comp then s
  else
    let t := s.dev.thr r c.slot
    let q : Req := { id := 0, cls := .none, op := .red .add true 1, ptr := c.ctr, loc := .ctl 0, dst := .none, pc := c.pc, asid := c.asid,
                     domain := t.domain.toNat, die := false, pkg := false, sys := false, kind := 8, elem := 0, key := 0, judged := false }
    let sf := fun (code : Byte) => (⟨code, 0, c.slot, 8, 0, c.pc, c.ctr⟩ : SfRec)
    match copyPlace s r c.asid c.ctr 8 true true with
    | .bad x =>
      let s1 := noteCode s c.asid x c.ctr
      { s1 with dev := s1.dev.storeFault r (sf x) none }
    | .miss _ _ => { s with dev := s.dev.storeFault r (sf 0x10) none }
    | .ok l key =>
      let v := s.dev.objs.covers r l
      { s with dev := s.dev.onThrFlow r c.slot (fun f => f.send { q with loc := l, key := key, die := v.1, pkg := v.2.1, sys := v.2.2 }) }

/-- The lowest-numbered destination of a `cpm` that was not delivered whole. -/
def lowestMissing (c : Copy) : Option Nat :=
  match c.kind with
  | .cpm _ _ _ l => (upto l.length).find? (fun j => !c.live.contains j)
  | _ => none

/-- The code of a destination's failure; one that failed before the copy was resumed left no code in the record that `cpres`
read, and the value is free (24 R427; log 56). -/
def missingCode (d : Dev) (c : Copy) (j : Nat) : Nat :=
  ((c.fails.find? (fun x => x.1 == j)).map (·.2.toNat)).getD ((Config.freeWord d.free).toNat % 256)

/-- A whole copy's record: cause 0x52 with the code of the lowest failed destination when the mask lacks a bit (R359, 24
R427). -/
def wholeRecord (d : Dev) (r : Nat) (c : Copy) : Word × Word :=
  let low := lowestMissing c
  (copyEvent c.kind.evType (homeSlot (d.core r).eng c.slot) (if low.isNone then 0 else 0x52) (low.elim 0 (missingCode d c)) (deliveredMask c),
   copyDetail c (copyLen c.kind))

/-- The record stands in the queue: the counter action, and the copy leaves `cp` (06 R135). -/
def finishCopy (s : State) (r : Nat) (c : Copy) : State :=
  let s1 := counterAction s r c
  copyLeaves s1 r c

/-- COPY_COMPLETE: the words still to be set full, then the completion actions in order (06 R135), or the end of a copy whose
record waited for room. A copy of an ended group leaves at its piece boundary (20 R385). -/
def execCopyComplete (r i : Nat) (s : State) : Out :=
  match nth? (s.dev.core r).eng.copies i with
  | none => .next s
  | some c0 =>
    let waiting := (s.dev.core r).eng.eventWait.any (fun w => w.2 == some (c0.slot, c0.id))
    if !s.dev.engineUp r then .next s
    else if c0.ending then .next (if c0.still then { s with dev := s.dev.endCopy r c0 } else s)
    else if c0.parked then .next s
    else if c0.stage = 2 then .next (if waiting then s else copyLeaves s r c0)
    else if !counterRoom s r c0 then .next s
    else if c0.stage = 1 then .next (if waiting then s else finishCopy s r c0)
    else if c0.stop.isSome || copyHole c0 < pieceCount c0 then .next s
    else
      let y := settleFull s c0 (copyLen c0.kind)
      let c := y.2
      if c.comp.getLsbD 0 || (lowestMissing c).isSome then
        let w := wholeRecord y.1.dev r c
        let x := postRecord { y.1.dev with free := y.1.dev.free + 1 } r c w.1 w.2 1
        .next (if x.2 then finishCopy { y.1 with dev := x.1 } r c else { y.1 with dev := x.1 })
      else .next (finishCopy y.1 r c)

end Sys2Proof.Machine
end

