-- ==== Sys2Proof/Machine/Streams.lean ====
section
/-! DEFINITION. Streams (10 R204 to R209, 16 R364, 24 R425, R426): binding and dropping, run-ahead, draining. The transfer
unit translates each element by the tables when it touches it (R205); it moves an element whole, or word by word in engine steps (06
R116). -/

namespace Sys2Proof.Machine

def Dev.streamOf (d : Dev) (r n : Nat) : Stream := Tab.get {} (d.core r).eng.streams n

def Dev.setStream (d : Dev) (r n : Nat) (x : Stream) : Dev := d.onEng r (fun e => { e with streams := Tab.set e.streams n x })

/-! ### Binding and dropping -/

/-- A stride that fits 32 bits with its sign (R205). -/
def strideOk (w : Word) : Bool := (w.setWidth 32).signExtend 64 == w

/-- Strides of a PSB pattern are whole blocks (R364). -/
def psbStridesBad (base : Word) (ws : List Word) : Bool :=
  isPsb (pfmtOf base) && ws.any (fun w => w.toInt % blockBytes (pfmtOf base) (plcode base) ≠ 0)

/-- The operand class of a stream's base fault: source or destination (21 R396). -/
def streamExt (w0 : Word) : Nat := if w0.getLsbD 63 then 2 else 1

/-- SBIND. -/
def execSbind (n : SReg) (a b : XReg) (s : State) : Out :=
  needTag s holdsC (fun s => parkUnless s .sendHold (fun s => parkUnless s (.produce n.toNat 4096) (fun s =>
    tableRead s (s.dev.x b) 4 (fun ws =>
      let w0 := nth 0 ws 0
      let base := s.dev.x a
      if !zeroBits w0 62 48 || !(ws.tail.all strideOk) then fault s 0x02 0 (opndBad 11 4)
      else if (s.dev.stream n.toNat).bound then fault s 0x02 0 (opndBad 1 7)
      else if psbStridesBad base ws.tail then fault s 0x02 0 (opndBad 11 4)
      else if pspace base = 5 && !privSlot s.dev.who then fault s 0x04 base 0
      else if pspace base = 3 || pspace base = 4 || pspace base = 5 then fault s 0x13 base (extOpnd (streamExt w0))
      else devStep s (fun d =>
        let id := d.me.flow.nextId
        let x : Stream := { bound := true, slot := d.who, base := base, w0 := w0, s0 := nth 0 ws 1, s1 := nth 0 ws 2, s2 := nth 0 ws 3,
                            asid := d.me.asid.toNat, bindId := id, serial := d.my.eng.serials + 1 }
        ((d.setStream d.rank n.toNat x).onEng d.rank (fun e => { e with serials := e.serials + 1 })).retire (fun t => { t with flow := { t.flow with nextId := id + 1 }.enter .cp id 1 }))))))

/-- The unit has accepted a stream's pattern: the bind leaves `cp` (R205). -/
def acceptStream (d : Dev) (r n : Nat) : Dev :=
  let x := d.streamOf r n
  if x.accepted then d
  else (d.setStream r n { x with accepted := true }).onThrFlow r x.slot (fun f => f.finish .cp x.bindId)

/-- SDROP: an input stream goes at once; an output stream drains in `cp` (R208). -/
def execSdrop (d : XReg) (n : SReg) (s : State) : Out :=
  needTag s holdsC (fun s =>
    let x := s.dev.stream n.toNat
    if !x.bound || x.slot ≠ s.dev.who then devStep s (fun v => v.retire (fun t => t.setX d 0))
    else
      let d1 := acceptStream s.dev s.dev.rank n.toNat
      let y := d1.streamOf s.dev.rank n.toNat
      if y.w0.getLsbD 63 && !(y.out.isEmpty && y.cover.isEmpty) then
        devStep s (fun _ =>
          let id := d1.me.flow.nextId
          (d1.setStream d1.rank n.toNat { y with bound := false, dropped := some id }).retire (fun t =>
            { t.setX d (w64 y.pos) with flow := { t.flow with nextId := id + 1 }.enter .cp id 1 }))
      else devStep s (fun _ => (d1.setStream d1.rank n.toNat {}).retire (fun t => t.setX d (w64 y.pos))))

/-! ### Elements -/

/-- Bytes of an element from a pointer, divided at 4 KiB boundaries (04 R87). -/
def elemParts : Nat → Word → Nat → List (Word × Nat)
  | 0, _, _ => []
  | f + 1, p, n =>
    if n = 0 then []
    else
      let m := Nat.min n (4096 - paddr p % 4096)
      (p, m) :: elemParts f ((padvance p m).getD p) (n - m)

/-- Alignment of an element: natural, a PSB block starts anywhere (R75, R76). -/
def streamAlign (base : Word) : Nat := if isPsb (pfmtOf base) then 1 else streamElem base

/-- The context that a stream's elements are checked for: its thread's, or what is left of it where the thread has ended (04 R80). -/
def streamThread (d : Dev) (r : Nat) (x : Stream) : Nat × Slot :=
  let t := d.thr r x.slot
  match x.heir with
  | some h => (1, { t with lmbase := h.1, lmlim := h.2.1, part := h.2.2 })
  | none => (if x.slot < 16 then x.slot else homeSlot (d.core r).eng x.slot, t)

/-- Checks 1 to 8 on one element: its places, or the code that fails (R205, R364). -/
def elemPlaces (s : State) (r : Nat) (x : Stream) (p : Word) (rd : Bool) : Except Byte (List (Loc × Nat × Nat)) :=
  let n := streamElem x.base
  let t := streamThread s.dev r x
  match checks5 s.dev r t.1 t.2 .stream p n (streamAlign x.base) with
  | some c => .error c
  | none =>
    (elemParts 4 p n).foldl (fun acc e => match acc with
      | .error c => .error c
      | .ok l => match copyPlace s r x.asid e.1 e.2 rd (!rd) with
        | .bad c => .error c
        | .miss _ _ => .error 0x10
        | .ok q key => .ok (l ++ [(q, e.2, key)])) (.ok [])

/-- A stream's request to a peer: it carries the number of its binding, which no other binding of the core has (R208, 24 R426). -/
def streamReq (x : Stream) (n : Nat) (p : Word) (op : ReqOp) (kind : Nat) (pc : PcIx) : Req :=
  { id := x.bindId, cls := .none, op := op, ptr := p, loc := .peer (ppeer p) (paddr p), dst := .none, pc := pc, asid := x.asid, domain := 0,
    die := false, pkg := false, sys := false, kind := kind, elem := n, key := x.serial, judged := false }

/-- Requests of a stream register that stand in the fabric. -/
def streamBusy (d : Dev) (r n kind : Nat) : Bool :=
  d.objs.fabric.any (fun q => q.rank == r && q.req.kind == kind && q.req.elem == n)

/-- An element, or a fault held for its consumer, joins the run-ahead (R206). -/
def runAhead (d : Dev) (r n : Nat) (e : Nat × Option Raised) : Dev :=
  let x := d.streamOf r n
  d.setStream r n { x with ahead := x.ahead ++ [e], fetched := [] }

/-- The address of a place that a stream element may lie at. -/
def Loc.addr : Loc → Nat
  | .glob a => a
  | .loc _ o => o
  | _ => 0

/-- The 64-bit words of an element's places: offset in the element, place, bytes, key. -/
def elemWords : Nat → List (Loc × Nat × Nat) → List (Nat × Loc × Nat × Nat)
  | _, [] => []
  | o, (q, n, key) :: rest =>
    (wordRanges q.addr n).map (fun w => (o + (w.1 - q.addr), q.plus (w.1 - q.addr), w.2, key)) ++ elemWords (o + n) rest

/-- An element's walks, or its places, are held (22 R417). -/
def elemHeld (s : State) (x : Stream) (p : Word) : Bool := (elemParts 4 p (streamElem x.base)).any (fun e => ptrHeld s x.asid e.1)

/-- What the reading of an element finds wrong with its lines and words (22 R411, R419). -/
def noteElem (s : State) (l : List (Loc × Nat × Nat)) : State := l.foldl (fun s e => noteRead s e.1 e.2.1) s

/-- The value of an element: words that the unit has read already keep the values they had then. -/
def elemValue (s : State) (x : Stream) (l : List (Loc × Nat × Nat)) : Nat :=
  ofBytes ((elemWords 0 l).flatMap (fun w => ((x.fetched.find? (fun f => f.1 == w.1)).map (·.2)).getD (s.readBytes w.2.1 w.2.2.2 w.2.2.1)))

/-- The number of the element that the unit may read next: bound for input, no fault held, within the pattern and 4 KiB ahead (R206). -/
def nextAhead (s : State) (r n : Nat) (x : Stream) : Option Nat :=
  let m := x.pos + x.ahead.length
  if !s.dev.engineUp r || !x.bound || x.w0.getLsbD 63 || !(s.dev.thr r x.slot).flow.ocClear x.bindId || streamBusy s.dev r n 11 ||
    x.ahead.any (·.2.isSome) || patternLen x.w0 ≤ m || 4096 < (x.ahead.length + 1) * streamElem x.base then none
  else some m

/-- STREAM_RUNAHEAD_FETCH: the unit fetches the next element ahead of the position, at most 4 KiB ahead (R206). `slip` is a
side-band mismatch at its PSB block (05 R108, 24 R425). -/
def execStreamRunaheadFetch (r n : Nat) (slip : Bool) (s : State) : Out :=
  let x := s.dev.streamOf r n
  if !s.dev.engineUp r || !x.bound || x.w0.getLsbD 63 || !(s.dev.thr r x.slot).flow.ocClear x.bindId || streamBusy s.dev r n 11 then .next s
  else
    let s1 : State := { s with dev := acceptStream s.dev r n }
    let m := x.pos + x.ahead.length
    let size := streamElem x.base
    if x.ahead.any (·.2.isSome) || patternLen x.w0 ≤ m || 4096 < (x.ahead.length + 1) * size then .next s1
    else
      let held := fun (c : Byte) (p : Word) (o : BitVec 32) => Host.Outcome.next ({ s1 with dev := runAhead s1.dev r n (0, some (c, p, o)) } : State)
      match x.elemPtr m with
      | none => held 0x13 x.base (extOpnd 1)
      | some p =>
        match elemPlaces s1 r x p true with
        | .error c =>
          let s2 := noteCode s1 x.asid c p
          .next { s2 with dev := runAhead s2.dev r n (0, some (c, p, extOpnd 1)) }
        | .ok l =>
          if slip && isPsb (pfmtOf x.base) then held 0x50 p (extOpnd 1)
          else if remoteEnd s.dev p then
            .next { s1 with dev := s1.dev.toFabric r x.slot [streamReq x n p (.fetch m size) 11 0] }
          else match (l.filterMap (fun e => noMemory s1 e.1)).head? with
            | some pa => .fault (.noSuchAddress pa)
            | none =>
              if elemHeld s1 x p || l.any (fun e => anyHeld s1 e.1 e.2.1) then .next s1
              else
                let s2 := noteElem s1 l
                let e : Nat × Option Raised := if l.any (fun e => s1.poisonedIn e.1 e.2.1) then (0, some (0x68, p, BitVec.ofNat 32 (fld 1 8 + fld 5 11)))
                  else (elemValue s1 x l, none)
                .next { s2 with dev := runAhead s2.dev r n e }

/-- The unit reads one word of the next element ahead: a sound one (06 R116). -/
def elemFetch (r n o : Nat) (s : State) : Out :=
  let x := s.dev.streamOf r n
  match (nextAhead s r n x).bind x.elemPtr with
  | none => .next s
  | some p => match elemPlaces s r x p true, remoteEnd s.dev p with
    | .ok l, false => match (elemWords 0 l).find? (fun w => w.1 == o) with
      | none => .next s
      | some w => match noMemory s w.2.1 with
        | some pa => .fault (.noSuchAddress pa)
        | none =>
          if elemHeld s x p || s.heldBank w.2.1 || x.fetched.any (fun f => f.1 == o) || s.poisonedIn w.2.1 w.2.2.1 then .next s
          else .next { s with dev := s.dev.setStream r n { x with fetched := x.fetched ++ [(o, s.readBytes w.2.1 w.2.2.2 w.2.2.1)] } }
    | _, _ => .next s

/-! ### Draining (R207) -/

/-- The place of the word that holds a place. -/
def Loc.wordOf : Loc → Loc
  | .glob a => .glob (a / 8 * 8)
  | .loc r o => .loc r (o / 8 * 8)
  | l => l

/-- A word of an element at pointer `p`: the word's own pointer, its place, and the bytes that the element has there. -/
def coverBits (p : Word) (w : Nat × Loc × Nat × Nat) : Word × Loc × BitVec 8 :=
  let q := (padvance p w.1).getD p
  let o := paddr q % 8
  (q - BitVec.ofNat 64 o, w.2.1.wordOf, (upto w.2.2.1).foldl (fun m i => m ||| (1 <<< (o + i))) 0)

/-- Join a coverage list. -/
def joinCover (l : List (Word × Loc × BitVec 8)) (e : Word × Loc × BitVec 8) : List (Word × Loc × BitVec 8) :=
  if l.any (fun x => x.1 == e.1) then l.map (fun x => if x.1 = e.1 then (x.1, e.2.1, x.2.2 ||| e.2.2) else x) else l ++ [e]

/-- Words whose bytes are all in place are set full and leave the list; at a stream's end the others too, where they are translated
still. -/
def settleCover (s : State) (r n : Nat) (all : Bool) : State :=
  let x := s.dev.streamOf r n
  let now := x.cover.filterMap (fun (e : Word × Loc × BitVec 8) =>
    if e.2.2 = 0xFF then some e.2.1
    else if !all then none
    else match copyPlace s r x.asid e.1 8 false true with
      | .ok l _ => some l
      | _ => none)
  fillWords { s with dev := s.dev.setStream r n { x with cover := x.cover.filter (fun e => !(all || e.2.2 == 0xFF)) } } now

/-- The unit sets one word full whose bytes are all in place (06 R116, R132). -/
def coverFill (s : State) (r n i : Nat) : State :=
  let x := s.dev.streamOf r n
  match nth? x.cover i with
  | none => s
  | some e =>
    if e.2.2 = 0xFF then fillWords { s with dev := s.dev.setStream r n { x with cover := dropAt x.cover i } } [e.2.1] else s

/-- A drained output stream that was dropped leaves `cp` (R208). -/
def endDropped (d : Dev) (r n : Nat) : Dev :=
  let x := d.streamOf r n
  match x.dropped with
  | some id =>
    if x.out.isEmpty && x.cover.isEmpty then (d.setStream r n {}).onThrFlow r x.slot (fun f => f.finish .cp id) else d
  | none => d

/-- The element at the head has gone; a stream that is dropped or halted settles its last words (R208, 20 R387). -/
def afterDrain (s : State) (r n : Nat) : State :=
  let x := s.dev.streamOf r n
  let last := x.out.isEmpty && (x.dropped.isSome || (x.heir.isNone && (s.dev.thr r x.slot).pre.any (·.rush)))
  let s1 := settleCover s r n last
  { s1 with dev := endDropped s1.dev r n }

/-- The element at the head leaves the stream. -/
def dropHead (s : State) (r n : Nat) : State :=
  let x := s.dev.streamOf r n
  { s with dev := s.dev.setStream r n { x with out := x.out.tail, written := [] } }

/-- A drain's store-fault record of kind 7 (20 R382): the element leaves the stream, and what of it is not yet written stays so. Of a
stream whose thread has ended no record is left, as of its stores (20 R385). -/
def drainFault (s : State) (r n : Nat) (c sub : Byte) (p : Word) (pc : PcIx) : State :=
  let x := s.dev.streamOf r n
  let s1 := dropHead s r n
  afterDrain { s1 with dev := if x.heir.isSome then s1.dev else s1.dev.storeFault r ⟨c, sub, x.slot, 7, 0, pc, p⟩ none } r n

/-- Write words of an element: each covers its bytes of the 64-bit word. -/
def writeElem (s : State) (r n : Nat) (p : Word) (ws : List (Nat × Loc × Nat × Nat)) (bs : List Byte) : State :=
  ws.foldl (fun s w =>
    let s1 := (notePartial s w.2.1 w.2.2.1).writeLoc w.2.1 w.2.2.2 ((bs.drop w.1).take w.2.2.1)
    let x := s1.dev.streamOf r n
    { s1 with dev := s1.dev.setStream r n { x with written := x.written ++ [w.1], cover := joinCover x.cover (coverBits p w) } }) s

/-- Why a place of an element refuses a write: a lost bank group or failed die, a guard buffer (22 R418, 07 R150). -/
def elemRefused (s : State) (l : List (Loc × Nat × Nat)) : Option Byte := (l.filterMap (fun e => writeRefused s e.1 e.2.1)).head?

/-- The unit may drain a stream's oldest element: for output, no fence.oc before it, no element at a peer. -/
def drains (s : State) (r n : Nat) (x : Stream) : Bool :=
  s.dev.engineUp r && x.w0.getLsbD 63 && (s.dev.thr r x.slot).flow.ocClear x.bindId && !streamBusy s.dev r n 12

/-- A side-band mismatch at the head of a drain: the position goes back to it, what was produced from there on is discarded, and
the thread takes 0x50 with that element (05 R108, 24 R425). -/
def drainSlip (s : State) (r n m : Nat) (p : Word) : State :=
  let x := s.dev.streamOf r n
  let d := s.dev.setStream r n { x with out := [], pos := m }
  afterDrain { s with dev := d.onThrFlow r x.slot (fun f => f.deferFault 0x50 p (extOpnd 2)) } r n

/-- STREAM_DRAIN: the oldest produced element is performed, and its word set full when its bytes are in place (R207). `slip` is a
side-band mismatch at its PSB block. -/
def execStreamDrain (r n : Nat) (slip : Bool) (s : State) : Out :=
  let x := s.dev.streamOf r n
  if !drains s r n x then .next s
  else
    let s1 : State := { s with dev := if x.bound then acceptStream s.dev r n else s.dev }
    match x.out with
    | [] => .next (afterDrain s1 r n)
    | (m, v, pc) :: _ =>
      match x.elemPtr m with
      | none => .next (drainFault s1 r n 0x13 0 x.base pc)
      | some p =>
        match elemPlaces s1 r x p false with
        | .error c => .next (drainFault (noteCode s1 x.asid c p) r n c 0 p pc)
        | .ok l =>
          let bs := bytesOf (streamElem x.base) v
          if slip && isPsb (pfmtOf x.base) && x.written.isEmpty then .next (drainSlip s1 r n m p)
          else if remoteEnd s.dev p then
            .next { s1 with dev := s1.dev.toFabric r x.slot [streamReq x n p (.block m bs) 12 pc] }
          else match (l.filterMap (fun e => noMemory s1 e.1)).head? with
            | some pa => .fault (.noSuchAddress pa)
            | none =>
              if elemHeld s1 x p || l.any (fun e => anyHeld s1 e.1 e.2.1) then .next s1
              else match elemRefused s1 l with
                | some c => .next (drainFault s1 r n c (if c = 0x20 then 10 else 0) p pc)
                | none =>
                  let left := (elemWords 0 l).filter (fun w => !x.written.contains w.1)
                  .next (afterDrain (dropHead (writeElem s1 r n p left bs) r n) r n)

/-- The unit writes one word of the oldest element, and does not yet set it full (06 R116, R132). -/
def elemWrite (r n o : Nat) (s : State) : Out :=
  let x := s.dev.streamOf r n
  match (if drains s r n x then x.out.head? else none).bind (fun e => (x.elemPtr e.1).map (fun p => (e.2.1, p))) with
  | none => .next s
  | some (v, p) => match elemPlaces s r x p false, remoteEnd s.dev p with
    | .ok l, false => match (elemWords 0 l).find? (fun w => w.1 == o) with
      | none => .next s
      | some w => match noMemory s w.2.1 with
        | some pa => .fault (.noSuchAddress pa)
        | none =>
          if elemHeld s x p || s.heldBank w.2.1 || x.written.contains o || (elemRefused s l).isSome then .next s
          else .next (writeElem s r n p [w] (bytesOf (streamElem x.base) v))
    | _, _ => .next s

/-- ENGINE_STEP: an engine reads or writes one word at its home, or sets one word full (06 R116). -/
def execEngineStep (r : Nat) (u : EngWord) (s : State) : Out :=
  if !s.dev.engineUp r then .next s
  else match u with
    | .word i => stepWord r i s
    | .fetch i t => copyFetch r i t s
    | .write i t j => copyWrite r i t j s
    | .full i n => copyFull r i n s
    | .block i w => .next (stepBlock s r i w)
    | .feed q w => .next (stepFeed s r q w)
    | .elem n o => if (s.dev.streamOf r n).w0.getLsbD 63 then elemWrite r n o s else elemFetch r n o s
    | .cover n i => .next (coverFill s r n i)

/-- A peer has answered a stream's request (25 R441, R452): an element, a performed write, or a failure. -/
def streamAnswered (s : State) (r : Nat) (q : Req) (bs : List Byte) : State :=
  let n := q.elem
  let x := s.dev.streamOf r n
  match q.op with
  | .fetch m _ =>
    if x.bound && x.serial = q.key && !x.w0.getLsbD 63 && m = x.pos + x.ahead.length then { s with dev := runAhead s.dev r n (ofBytes bs, none) } else s
  | .block m _ =>
    match x.out with
    | (j, _, _) :: _ => if j = m && x.serial = q.key then afterDrain (dropHead s r n) r n else s
    | [] => s
  | _ => s

/-- A failed stream request: held for the consumer, or a record of kind 7. -/
def streamRefused (s : State) (r : Nat) (q : Req) (c sub : Byte) (opnd : BitVec 32) : State :=
  let n := q.elem
  let x := s.dev.streamOf r n
  match q.op with
  | .fetch m _ =>
    if x.bound && x.serial = q.key && !x.w0.getLsbD 63 && m = x.pos + x.ahead.length then { s with dev := runAhead s.dev r n (0, some (c, q.ptr, opnd)) } else s
  | .block m _ =>
    match x.out with
    | (j, _, _) :: _ => if j = m && x.serial = q.key then drainFault s r n c sub q.ptr q.pc else s
    | [] => s
  | _ => s

end Sys2Proof.Machine
end

