-- ==== Sys2Proof/Machine/Network.lean ====
section
/-! DEFINITION. Network sends and receive counters (10 R216 to R219, 16 R365 to R368). -/

namespace Sys2Proof.Machine

/-! ### Sends -/

/-- The message of a target word (R365). -/
def msgOf (w : Word) (e : Bool) (payload : List Word) : Msg :=
  { remote := w.getLsbD 32, peer := bits w 31 24, rank := bits w 10 0, slot := bits w 14 11, chan := bits w 16 15, cnt := w.getLsbD 17,
    ctr := bits w 22 18, endw := e, payload := payload, target := w }

/-- A message leaves its sender: to a core of this device, or to the fabric (R216, R224). -/
def postMsg (d : Dev) (r k : Nat) (q : Req) (m : Msg) : Dev :=
  if m.remote && m.peer ≠ d.objs.peerSelf.toNat then d.toFabric r k [q]
  else d.onObjs (fun o => { o with msgs := o.msgs ++ [(r, k, q)] })

/-- The request of a send. -/
def sendReq (d : Dev) (w : Word) (e : Bool) (payload : List Word) : Req :=
  { id := d.me.flow.nextId, cls := .st, op := .send (msgOf w e payload), ptr := w, loc := .peer (bits w 31 24) 0, dst := .none, pc := d.me.pc,
    asid := d.me.asid.toNat, domain := d.me.domain.toNat, die := false, pkg := false, sys := false, kind := 6, elem := d.who, key := 0,
    judged := false }

/-- Checks of a target word and a payload at issue (R365): the message's request, and the state it is sent from. -/
def sendChecks (s : State) (e : Bool) (m : Nat) (a b : XReg) (k : State → Req → Out) : Out :=
  let w := s.dev.x a
  let p := s.dev.x b
  if !zeroBits w 63 33 || w.getLsbD 23 then fault s 0x03 0 2
  else match payloadFault s.dev p m with
    | some c => fault s c (if c = 0x68 then p else w) (payloadOpnd c)
    | none =>
      match (if w.getLsbD 32 then peerCheck s.dev.objs s.dev.me.part (bits w 31 24) else none) with
      | some c => fault s c w 0
      | none => k s (sendReq s.dev w e (s.dev.my.lmem.words (paddr p) m))

/-- A send counts in `st` from its issue (R216). -/
def sendEnters (d : Dev) (q : Req) : Dev :=
  d.retire (fun t => { t with flow := { t.flow with nextId := q.id + 1 }.enter .st q.id 1 })

/-- NSEND. -/
def execNsend (e : Bool) (m : BitVec 6) (a b : XReg) (s : State) : Out :=
  needTag s holdsN (fun s => parkUnless s .sendHold (fun s => sendChecks s e m.toNat a b (fun s q =>
    devStep s (fun d => postMsg (sendEnters d q) d.rank d.who q (msgOf q.ptr e (s.dev.my.lmem.words (paddr (s.dev.x b)) m.toNat))))))

/-! ### Receive counters and armed sends -/

def Dev.counterOf (d : Dev) (r c : Nat) : BitVec 32 := Tab.get 0 (d.core r).eng.rctr c

/-- The message a request carries. -/
def Req.msg? (q : Req) : Option Msg :=
  match q.op with
  | .send m => some m
  | _ => none

/-- An armed send whose counter has reached its threshold fires, once (R218). -/
def fireArmed (d : Dev) (r c : Nat) : Dev :=
  match Tab.get none (d.core r).eng.armed c with
  | none => d
  | some (q, thr) =>
    if (d.counterOf r c).toNat < thr.toNat then d
    else
      let d1 := d.onEng r (fun e => { e with armed := Tab.set e.armed c none })
      match q.msg? with
      | some m => postMsg d1 r q.elem q m
      | none => d1

/-- Set a counter, and fire what that reaches (R217, R367). -/
def setCounter (d : Dev) (r c : Nat) (v : BitVec 32) : Dev :=
  fireArmed (d.onEng r (fun e => { e with rctr := Tab.set e.rctr c v })) r c

/-- A sum that stays at 0xFFFF_FFFF (R217). -/
def satAdd (a b : BitVec 32) : BitVec 32 := BitVec.ofNat 32 (Nat.min 0xFFFFFFFF (a.toNat + b.toNat))

/-- TSEND: arms a send on a counter (R218, R366). The position that reason 6 records for a counter in IMM is not given (log 6). -/
def execTsend (e : Bool) (m : BitVec 6) (c : BitVec 4) (thr : BitVec 32) (a b : XReg) (s : State) : Out :=
  needTag s holdsN (fun s => parkUnless s .sendHold (fun s => sendChecks s e m.toNat a b (fun s q =>
    if (Tab.get none s.dev.my.eng.armed c.toNat).isSome then
      fault { s with dev := { s.dev with free := s.dev.free + 1 } } 0x02 0 (opndBad ((Config.freeWord s.dev.free).toNat % 256) 6)
    else devStep s (fun d =>
      fireArmed ((sendEnters d q).onEng d.rank (fun x => { x with armed := Tab.set x.armed c.toNat (some (q, thr)) })) d.rank c.toNat))))

/-- An operation on the issuing core's counter that returns its old value (R367). -/
def rcset (s : State) (d : XReg) (c : BitVec 4) (v : Word) (f : BitVec 32 → BitVec 32 → Option (BitVec 32)) : Out :=
  needTag s holdsN (fun s =>
    if !zeroBits v 63 32 then fault s 0x03 0 3
    else devStep s (fun x =>
      let old := x.counterOf x.rank c.toNat
      let x1 := match f old (v.setWidth 32) with
        | some n => setCounter x x.rank c.toNat n
        | none => x
      x1.retire (fun t => t.setX d (old.setWidth 64))))

/-- RCSET_RD. -/
def execRcsetRd (d : XReg) (c : BitVec 4) (s : State) : Out := rcset s d c 0 (fun _ _ => none)

/-- RCSET_WR. -/
def execRcsetWr (d : XReg) (c : BitVec 4) (b : XReg) (s : State) : Out := rcset s d c (s.dev.x b) (fun _ v => some v)

/-- RCSET_ADD. -/
def execRcsetAdd (d : XReg) (c : BitVec 4) (b : XReg) (s : State) : Out := rcset s d c (s.dev.x b) (fun o v => some (satAdd o v))

/-! ### Placement -/

/-- The words a message places: its payload, and an end word of type 2 (R216, 08 R174). -/
def Msg.placed (m : Msg) : List (Word × Bool) := m.payload.map (fun w => (w, false)) ++ (if m.endw then [(w64 (fld 2 62), true)] else [])

/-- Why the target refuses a message: 1 no live helper in the slot, 2 no such counter (R216). -/
def Msg.refused (d : Dev) (m : Msg) : Option Byte :=
  if !isHelper m.slot || (d.slot m.rank m.slot).life ≠ .live then some 1
  else if m.cnt && m.ctr > 15 then some 2
  else none

/-- Room for every word of a message. -/
def Msg.fits (d : Dev) (m : Msg) : Bool := (Tab.get [] (d.slot m.rank m.slot).chans m.chan).length + m.placed.length ≤ 64

/-- Place a message whole and raise its counter (R216, R217). -/
def Msg.place (d : Dev) (m : Msg) : Dev :=
  let d1 := d.onSlot m.rank m.slot (fun t => { t with chans := Tab.set t.chans m.chan (Tab.get [] t.chans m.chan ++ m.placed) })
  if m.cnt then setCounter d1 m.rank m.ctr (satAdd (d1.counterOf m.rank m.ctr) 1) else d1

/-- Two messages of one sender for one channel (R216). -/
def sameStream (a b : Msg) : Bool := a.rank == b.rank && a.slot == b.slot && a.chan == b.chan

/-- MESSAGE_PLACEMENT: the target takes message `i` when it fits, in issue order of its sender and channel, or refuses it; the
sender's acceptance or refusal returns (R216). -/
def execMessagePlacement (i : Nat) (s : State) : Out :=
  match nth? s.dev.objs.msgs i with
  | none => .next s
  | some (r, k, q) =>
    match q.msg? with
    | none => .next s
    | some m =>
      let before := (s.dev.objs.msgs.take i).any (fun e => e.1 == r && e.2.1 == k && e.2.2.msg?.any (fun x => sameStream x m))
      if before then .next s
      else
        let gone := fun (d : Dev) => d.onObjs (fun o => { o with msgs := dropAt o.msgs i })
        match m.refused s.dev with
        | some c => devStep s (fun d => (gone d).onThrFlow r k (fun f => { f with acks := f.acks ++ [⟨q, some (0x60, c)⟩] }))
        | none =>
          if !m.fits s.dev then .next s
          else devStep s (fun d => (m.place (gone d)).onThrFlow r k (fun f => { f with acks := f.acks ++ [⟨q, none⟩] }))

/-- TSEND_FIRE: the send armed on counter `c` of core `r` fires when the counter has reached its threshold (R218). -/
def execTsendFire (r c : Nat) (s : State) : Out := devStep s (fun d => fireArmed d r c)

end Sys2Proof.Machine
end

