-- ==== Sys2Proof/Machine/Preempt.lean ====
section
/-! DEFINITION. What interrupts a thread (20 R377 to R392): handlers, deferred and imprecise faults, page walks (04 R94, 22
R405 to R407), pre-emption and its frames, the die save (11 R247) and the deadlock report (03 R65 to R67). -/

namespace Sys2Proof.Machine

/-! ### Frames (R388) -/

/-- Write `n` zero bytes. -/
def Mem.zero (m : Mem) (a n : Nat) : Mem := (upto n).foldl (fun m i => m.write (a + i) 0) m

/-- Words written at places relative to a base. -/
def Mem.put (m : Mem) (base : Nat) (l : List (Nat × Word)) : Mem := l.foldl (fun m e => m.setWord (base + e.1) e.2) m

/-- Bit `i` set for each control word at position `i` of a channel. -/
def ctlBits (l : List (Word × Bool)) : Nat :=
  match l with
  | [] => 0
  | (_, b) :: r => b2n b + 2 * ctlBits r

/-- The queue of a group's record. -/
def queueOf (d : Dev) (r : Nat) (t : Slot) : Nat := ((allGroups (d.core r).eng).find? (fun g => g.lead == t.lead)).elim 0 (·.queue)

/-- The header, words 0 to 7. -/
def frameHeader (d : Dev) (r k : Nat) (t : Slot) (p : Preempt) : List (Nat × Word) :=
  let parked := ((d.core r).eng.copies.filter (fun c => c.slot == k)).length
  [(0, w64 (fld r 53 + fld k 49 + fld (queueOf d r t) 41 + fld t.tag.toNat 38 + fld t.member.toNat 34 + fld t.gsize.toNat 30 +
      fld t.start 26 + fld t.gdepth.toNat 23 + t.pc.toNat)),
   (8, w64 (fld t.asid.toNat 48 + fld t.domain.toNat 42 + fld t.smask.toNat 34)),
   (16, w64 (fld t.lmlim.toNat 32 + t.lmbase.toNat)),
   (24, frameWord3 t), (32, t.part), (40, frameWord5 t),
   (48, w64 (fld 1 63 + fld p.reason 60 + (if p.reason = 2 then fld p.cause.toNat 52 else 0))),
   (56, w64 (fld t.flow.deferred.length 8 + parked))]

/-- A saved command's 32 bytes. -/
def frameCmd (m : MCmd) : List Byte := bytesOf 12 m.word.toNat ++ bytesOf 4 m.next ++ bytesOf 8 m.va.toNat ++ bytesOf 8 m.vb.toNat

/-- A stream's 48 bytes. -/
def frameStream (x : Stream) : List Word := [x.base, x.w0, x.s0, x.s1, x.s2, w64 x.pos]

/-- The frame of a context in the order of R388. -/
def frameMem (m : Mem) (d : Dev) (r k : Nat) (t : Slot) (p : Preempt) (pa : Nat) : Mem :=
  let c := d.core r
  let m0 := (m.zero pa 40960).put pa (frameHeader d r k t p)
  let m1 := (upto 63).foldl (fun m i => m.setWord (pa + 0x40 + 8 * i) (Tab.get 0 t.x (i + 1))) m0
  let m2 := (c.eng.mq.filter (fun q => q.slot == k)).zipIdx.foldl (fun m e => m.setBytes (pa + 0x240 + 32 * e.2) (frameCmd e.1)) m1
  let m3 := (c.eng.streams.filter (fun e => e.2.bound && e.2.slot == k)).foldl (fun m e => m.setWords (pa + 0x340 + 48 * e.1) (frameStream e.2)) m2
  let m4 := t.bars.foldl (fun m e => match e.2 with
    | some g => m.setWord (pa + 0x500 + 8 * e.1) (w64 (2 ^ 32 + g % 2 ^ 32))
    | none => m) m3
  let m5 := (upto 4).foldl (fun m i => m.setWord (pa + 0x540 + 8 * i) (Tab.get 0 t.roles i)) m4
  let m6 := (upto 4).foldl (fun m i =>
    let ch := Tab.get [] t.chans i
    ((m.setWord (pa + 0x560 + 8 * i) (w64 ch.length)).setWord (pa + 0x580 + 8 * i) (w64 (ctlBits ch))).setWords
      (pa + 0x800 + 512 * i) (ch.map (·.1))) m5
  let m7 := (upto t.gdepth.toNat).foldl (fun m i =>
    m.setBytes (pa + 0x1000 + 640 * i) (c.lmem.bytes (c.regs.gfbase.toNat + (k - 1) * 2560 + 640 * i) 640)) m6
  let m8 := t.flow.deferred.zipIdx.foldl (fun m e =>
    m.setWords (pa + 0x1A00 + 16 * e.2) [w64 (fld e.1.cause.toNat 56 + e.1.opnd.toNat), e.1.addr]) m7
  if holdsV t.tag then
    let m9 := (upto 7).foldl (fun m i => m.setBytes (pa + 0x600 + 32 * i) (bytesOf 32 (Tab.get (0 : Mask) c.vec.m (i + 1)).toNat)) m8
    let m10 := m9.setWord (pa + 0x6E0) (w64 (fld c.vec.vcnt.toNat 32 + fld c.vec.vstart.toNat 16 + c.vec.vl.toNat))
    c.vec.v.foldl (fun m e => m.setBytes (pa + 0x2000 + 4 * e.1) (bytesOf 4 e.2.toNat)) m10
  else m8

/-! ### Halting and saving (R386, R387) -/

/-- The engines that must stop before a frame is complete have stopped (R387). -/
def enginesStill (d : Dev) (r k : Nat) : Bool :=
  let e := (d.core r).eng
  (match (d.coach (unitOf r)).step with
   | some m => !(m.core == r && m.cmd.slot == k)
   | none => true) &&
    e.streams.all (fun x => !(x.2.slot == k && x.2.heir.isNone && !(x.2.out.isEmpty && x.2.cover.isEmpty))) &&
    d.cores.all (fun c => c.2.eng.xfers.all (fun x => x.refresh || x.rank != r || x.slot != k)) &&
    !e.ewords.any (fun w => w.slot == k && w.bytes.length == 8) && e.copies.all (fun c => c.slot != k || c.still)

/-- The instruction at PC carries HT.pp (12 R256). -/
def ppAt (c : Core) (pc : PcIx) : Bool :=
  match decode (wordOfBytes (c.lmem.bytes (pc.toNat * 12) 12)) with
  | .ok i => i.hints.pp
  | .error _ => false

/-- The wait of a thread whose request is under way outlives the save; every other instruction reissues (R386). -/
def keepWait : Option WaitCond → Option WaitCond
  | some (.answer i) => some (.answer i)
  | some .groupStart => some .groupStart
  | _ => none

/-- Halt at a boundary: a section aborts with cause 6 (14 R324), and one that aborted in this cycle reports cause 6 (24 R428); a fault
being handled is withdrawn, and a deferred one stays pending (R384). The thread's copies begin no further piece (R387). -/
def haltThread (d : Dev) (r k : Nat) : Dev :=
  let d1 := d.onSlot r k (fun t =>
    let t0 := t.abort 6 0
    let t1 := if t0.lapsed then { t0 with x := Tab.set t0.x 1 6, lapsed := false } else t0
    { t1 with held := false, taken := none, flow := { t1.flow with deferred := t1.taken.toList ++ t1.flow.deferred }, pre := t1.pre.map (fun p => { p with rush := true }) })
  d1.onEng r (fun e => { e with
    pend13 := e.pend13.filter (fun p => p.slot != k)
    pend15 := e.pend15.filter (fun p => p.slot != k || p.handoff)
    hand13 := if e.hand13.any (fun p => p.slot == k) then none else e.hand13
    hand15 := if e.hand15.any (fun p => p.slot == k && !p.handoff) then none else e.hand15
    copies := e.copies.map (fun (c : Copy) => if c.slot = k then { c with parked := true } else c) })

/-- Member 0 of a group goes from one place to another, and the members' lead slot follows; its barrier instance and its bind-table
entries carry the group's own number (14 R315, R316). -/
def renameLead (d : Dev) (r old new : Nat) : Dev :=
  let ren := fun (l : Nat) => if l = old then new else l
  let slot := fun (t : Slot) => { t with lead := ren t.lead }
  let group := fun (g : Group) => { g with lead := ren g.lead }
  d.onCore r (fun c => { c with
    slots := c.slots.map (fun e => (e.1, slot e.2))
    eng := { c.eng with groups := c.eng.groups.map group
                        saved := c.eng.saved.map (fun q => { q with ctx := slot q.ctx, group := q.group.map group }) } })

/-- A group with no member left in a slot waits beside its saved contexts. -/
def stashGroup (e : CoreEng) (lead : Nat) : CoreEng :=
  match groupOf e lead with
  | none => e
  | some g =>
    if g.members.any (· < 16) then e
    else { e with groups := e.groups.filter (fun x => x.lead != lead)
                  saved := e.saved.map (fun q => if g.members.contains q.key then { q with group := some g } else q) }

/-- A halted copy keeps what lies below its resume offset; the pieces beyond it are moved again (R387). One that has met a failure
comes to its end. -/
def Copy.rest (c : Copy) : Copy :=
  if c.stop.isSome || c.stage ≠ 0 then c
  else { c with done := c.done.filter (fun k => k < copyHole c), inPlace := c.inPlace.filter (fun e => c.pieceOf e.1 < copyHole c), got := [], awaits := [] }

/-- Write the frame and free the slot, its owner unchanged (R299, R388). -/
def saveContext (s : State) (r k : Nat) (p : Preempt) : State :=
  let d := s.dev
  let t := d.slot r k
  let e := (d.core r).eng
  let key := d.freshKey
  let q : Saved :=
    { key := key, frame := p.frame, slot := k, reason := p.reason
      ctx := { t with parked := keepWait t.parked, held := false, pre := none, flow := { t.flow with walked := [] } }
      group := none, mcmds := e.mq.filter (fun m => m.slot == k)
      streams := e.streams.filter (fun x => x.2.bound && x.2.slot == k) }
  let d1 := d.onEng r (fun e => { e with
    mq := e.mq.filter (fun m => m.slot != k)
    mbuf := e.mbuf.filter (fun b => !(e.mq.any (fun m => m.slot == k && m.id == b.cmd)))
    mfeed := []
    copies := e.copies.map (fun (c : Copy) => if c.slot = k then c.rest else c)
    streams := e.streams.map (fun (x : Nat × Stream) => if x.2.bound && x.2.slot = k then (x.1, {}) else x)
    semWait := e.semWait.filter (fun w => w.2.1 != k)
    bindWait := e.bindWait.filter (fun w => w.1 != k)
    groups := e.groups.map (fun (g : Group) => if g.lead = t.lead then { g with members := g.members.map (fun m => if m = k then key else m) } else g)
    saved := e.saved ++ [q] })
  let d2 := { d1.relabel r k key with free := d.free + 1 }
  let lead := if t.lead = k then key else t.lead
  let d3 := ((if t.lead = k then renameLead d2 r k key else d2).onSlot r k
    (fun _ => { owner := t.owner, flow := { nextId := t.flow.nextId } })).onEng r (fun e => stashGroup e lead)
  let d4 := match p.dst with
    | some x => d3.onSlot r 15 (fun a => { (a.setX x 0).advance with parked := none })
    | none => d3
  State.physMem { s with dev := d4 } (frameMem s.mem d r k t p p.frame) p.frame 40960

/-- Complete a halted context's frame once its engines are still. -/
def finishSave (s : State) (r k : Nat) : State :=
  match (s.dev.slot r k).pre with
  | some p => if p.rush && enginesStill s.dev r k then saveContext s r k p else s
  | none => s

/-! ### Restoring (R299, R389) -/

/-- A class whose count is the frame's: the operations still under way that the device knows, the latest first to stay, and
for a count beyond them parts that nothing will finish (R389: "sets each counter from the frame"). -/
def fitClass (l : List (Nat × Nat)) (n : Nat) : List (Nat × Nat) :=
  l.drop (l.length - n) ++ (upto (n - l.length)).map (fun i => (2 ^ 64 + i, 1))

/-- Counters of a flow set from header words 3 and 5 of a frame (R388, R389). -/
def Flow.fromFrame (f : Flow) (w3 w5 : Word) : Flow :=
  { f with ld := fitClass f.ld (bits w3 8 0), st := fitClass f.st (bits w3 17 9), cp := fitClass f.cp (bits w3 26 18)
           tl := fitClass f.tl (bits w3 30 27)
           die := BitVec.ofNat 9 (bits w5 8 0), pkg := BitVec.ofNat 9 (bits w5 17 9), sys := BitVec.ofNat 9 (bits w5 26 18) }

/-- The context that a frame holds. -/
def frameSlot (m : Mem) (pa : Nat) (owner : Option Nat) (flow : Flow) : Slot :=
  let w := fun i => m.word (pa + 8 * i)
  { life := .live, owner := owner
    x := (upto 63).map (fun i => (i + 1, m.word (pa + 0x40 + 8 * i)))
    p := BitVec.ofNat 8 (2 * bits (w 3) 38 32)
    pc := BitVec.ofNat 15 (bits (w 0) 14 0)
    tag := BitVec.ofNat 3 (bits (w 0) 40 38)
    asid := BitVec.ofNat 16 (bits (w 1) 63 48), domain := BitVec.ofNat 6 (bits (w 1) 47 42), part := w 4
    lmbase := BitVec.ofNat 18 (bits (w 2) 17 0), lmlim := BitVec.ofNat 19 (bits (w 2) 50 32)
    member := BitVec.ofNat 4 (bits (w 0) 37 34), gsize := BitVec.ofNat 4 (bits (w 0) 33 30)
    gdepth := BitVec.ofNat 3 (bits (w 0) 25 23), lead := bits (w 0) 29 26, start := bits (w 0) 29 26, smask := BitVec.ofNat 8 (bits (w 1) 41 34)
    roles := (upto 4).map (fun i => (i, m.word (pa + 0x540 + 8 * i)))
    chans := (upto 4).map (fun i =>
      (i, ((m.words (pa + 0x800 + 512 * i) (Nat.min 64 (m.word (pa + 0x560 + 8 * i)).toNat)).zipIdx.map (fun e =>
        (e.1, (m.word (pa + 0x580 + 8 * i)).getLsbD e.2)))))
    bars := ((upto 6).filter (fun i => (m.word (pa + 0x500 + 8 * i)).getLsbD 32)).map (fun i =>
      (i, some (bits (m.word (pa + 0x500 + 8 * i)) 31 0)))
    flow := { flow.fromFrame (w 3) (w 5) with deferred := (upto (bits (w 7) 15 8)).map (fun i =>
      let a := m.word (pa + 0x1A00 + 16 * i)
      ⟨BitVec.ofNat 8 (bits a 63 56), m.word (pa + 0x1A00 + 16 * i + 8), BitVec.ofNat 32 (bits a 31 0)⟩) } }

/-- The saved context of a frame on a core. -/
def savedAt (e : CoreEng) (pa : Nat) : Option Saved := e.saved.find? (fun q => q.frame == pa && q.reason < 3)

/-- The statuses of `ctxrest`, lowest first (R299). -/
def restoreStatus (d : Dev) (m : Mem) (r k pa : Nat) : Nat :=
  let c := d.core r
  let w0 := m.word pa
  let own := savedAt c.eng pa
  let tag := BitVec.ofNat 3 (bits w0 40 38)
  if (c.slot k).life ≠ .free then 1
  else if (c.slot k).owner ≠ some (bits w0 48 41) then 2
  else if (upto 11).any (fun j => j != 0 && (c.slot j).life == .live && tagsClash (c.slot j).tag tag) ||
      c.eng.saved.any (fun q => q.reason == 2 && tagsClash q.ctx.tag tag && own.all (fun o => o.key != q.key)) then 3
  else if bits w0 63 53 ≠ r then 4
  else 0

/-- The vector engine that a frame holds. -/
def frameVec (m : Mem) (pa : Nat) : Vec :=
  let w := m.word (pa + 0x6E0)
  { v := (upto 8192).map (fun i => (i, BitVec.ofNat 32 (m.readN (pa + 0x2000 + 4 * i) 4)))
    m := (upto 7).map (fun i => (i + 1, BitVec.ofNat 256 (m.readN (pa + 0x600 + 32 * i) 32)))
    vl := BitVec.ofNat 9 (bits w 8 0), vstart := BitVec.ofNat 8 (bits w 23 16), vcnt := BitVec.ofNat 7 (bits w 38 32) }

/-- A frame's matrix commands, in frame order, for the slot restored into. -/
def frameCmds (m : Mem) (pa k : Nat) (saved : List MCmd) : List MCmd :=
  (upto 8).filterMap (fun i =>
    let a := pa + 0x240 + 32 * i
    let w := BitVec.ofNat 96 (m.readN a 12)
    let va := m.word (a + 16)
    let vb := m.word (a + 24)
    match decode w with
    | .error _ => none
    | .ok c => (mopOf c.instr va vb).map (fun op =>
        ⟨(nth? saved i).elim i (·.id), k, op, m.readN (a + 12) 2, (nth? saved i).elim false (·.grp), (nth? saved i).elim 0 (·.pc), w, va, vb⟩))

/-- A frame's stream, bound again at its position under a number of its own: what the old binding fetches yet is not taken (24 R426). -/
def frameStreamAt (m : Mem) (pa k i : Nat) (asid serial : Nat) (saved : Tab Stream) : Option Stream :=
  let w := fun j => m.word (pa + 0x340 + 48 * i + 8 * j)
  if (upto 6).all (fun j => w j == 0) then none
  else
    let old : Stream := Tab.get {} saved i
    some { bound := true, slot := k, base := w 0, w0 := w 1, s0 := w 2, s1 := w 3, s2 := w 4, pos := (w 5).toNat, asid := asid,
           bindId := old.bindId, serial := serial, accepted := old.accepted }

/-- A restored member's group returns to the core, with the member where it now stands; the second part is where member 0 stands. -/
def regroup (d : Dev) (r k : Nat) (q : Saved) : Dev × Nat :=
  let back := fun (g : Group) => { g with members := g.members.map (fun m => if m = q.key then k else m) }
  let keys := q.group.elim [] (·.members)
  let d1 := d.onEng r (fun e => { e with
    groups := (e.groups ++ q.group.toList).map back
    saved := e.saved.map (fun x => if keys.contains x.key then { x with group := none } else x) })
  if q.ctx.lead = q.key then (renameLead d1 r q.key k, k) else (d1, q.ctx.lead)

/-- The roles that a frame holds: a word 0 is the role that the context held under that word, otherwise an empty register (R388, R389,
08 R172). DESIGN CHOICE: in a frame of no context that the core saved, a word 0 is an empty register (log 57). -/
def restoredRoles (roles : Tab Word) (own : Option Saved) : Tab Word :=
  roles.filter (fun e => e.2 != 0 || own.any (fun q => q.ctx.roles.any (fun h => h.1 == e.1 && h.2 == 0)))

/-- Restore a frame into a slot (R389). -/
def restoreContext (s : State) (r k pa : Nat) : State :=
  let d := s.dev
  let c := d.core r
  let own := savedAt c.eng pa
  let old := c.slot k
  let t0 := frameSlot s.mem pa old.owner (own.elim { nextId := old.flow.nextId } (·.ctx.flow))
  let rg := own.elim (d, t0.lead) (regroup d r k)
  let t1 := { t0 with lead := rg.2, aborting := own.bind (fun q => q.ctx.aborting)
                      ginst := own.elim ((groupOf c.eng rg.2).elim 0 (·.inst)) (·.ctx.ginst)
                      coop := own.elim false (·.ctx.coop)
                      roles := restoredRoles t0.roles own
                      parked := own.bind (fun q => q.ctx.parked)
                      sent := own.elim 0 (fun q => if q.ctx.pc = t0.pc then q.ctx.sent else 0)
                      vbase := own.elim 0 (·.ctx.vbase)
                      vlane := own.elim 0 (·.ctx.vlane)
                      voffs := own.elim [] (·.ctx.voffs) }
  let d1 := match own with
    | some q => rg.1.relabel r q.key k
    | none => rg.1
  let d2 := d1.onEng r (fun e => { e with saved := e.saved.filter (fun q => own.all (fun o => o.key != q.key)) })
  let d3 := d2.onSlot r k (fun _ => t1)
  let d4 := d3.onEng r (fun e => { e with
    copies := e.copies.map (fun (x : Copy) => if x.slot = k then { x with parked := false } else x)
    mq := e.mq ++ frameCmds s.mem pa k (own.elim [] (·.mcmds))
    serials := e.serials + 8
    streams := (upto 8).foldl (fun l i =>
      match frameStreamAt s.mem pa k i t1.asid.toNat (e.serials + 1 + i) (own.elim [] (·.streams)) with
      | some x => Tab.set l i x
      | none => l) e.streams })
  let d5 := d4.onCore r (fun c => { c with
    vec := if holdsV t1.tag then frameVec s.mem pa else c.vec
    lmem := (upto t1.gdepth.toNat).foldl (fun m i =>
      m.setBytes (c.regs.gfbase.toNat + (k - 1) * 2560 + 640 * i) (s.mem.bytes (pa + 0x1000 + 640 * i) 640)) c.lmem })
  let d6 := t1.flow.posted.foldl (fun d q => if q.ready then d else d.postMiss r q.asid (paddr q.ptr / 2 ^ 16) (paddr q.ptr)) (d5.sendReady r k)
  { s with dev := d6 }

/-! ### Die save and restore (11 R247) -/

/-- The cores of a die. -/
def dieCores (d : Nat) : List Nat := (upto 256).map (fun c => d * 256 + c)

/-- Place of a core in the save area. -/
def saveBase (o : DieOp) (r : Nat) : Nat := o.base + (r % 256) * 0x100000

/-- Begin a save: every live helper of the die is asked to halt, its frame in the area. -/
def beginSave (d : Dev) (o : DieOp) : Dev :=
  (dieCores o.die).foldl (fun d r => ((upto 11).filter isHelper).foldl (fun d k =>
    if (d.slot r k).life == .live then
      d.onSlot r k (fun t => { t with pre := t.pre.or (some ⟨1, 0, d.now, saveBase o r + 0x40000 + (k - 1) * 0x10000, false, none⟩) })
    else d) d) d

/-- The die may be written out: no helper live, no delivery due, service slots and control contexts parked. -/
def saveReady (d : Dev) (o : DieOp) : Bool :=
  (dieCores o.die).all (fun r =>
    let c := d.core r
    ((upto 11).filter isHelper).all (fun k => (c.slot k).life != .live) &&
      c.eng.bind.all (fun b => b.2.due == 0) &&
      ((c.slot 0).life != .live || (c.slot 0).parked == some .event) &&
      [11, 12, 13, 14].all (fun k => (c.slot k).life != .live))

/-- Write the images: local memories, and word 6 of frames of slots that held no thread. -/
def writeImages (s : State) (o : DieOp) : State :=
  let m0 := (dieCores o.die).foldl (fun m r =>
      let c := s.dev.core r
      let m1 := m.setBytes (saveBase o r) (c.lmem.bytes 0 0x40000)
      ((upto 11).filter isHelper).foldl (fun m k =>
        let f := saveBase o r + 0x40000 + (k - 1) * 0x10000
        if c.eng.saved.any (fun q => q.frame == f && q.slot == k) then m else m.setWord (f + 48) 0) m1) s.mem
  (s.physMem m0 o.base 0x10000000).withDev (fun d => d.onPlat (fun p => { p with dieOp := none }))

/-- A save under way ends once the die is ready. -/
def stepDieSave (s : State) : State :=
  match s.dev.plat.dieOp with
  | some o => if o.save && saveReady s.dev o then writeImages s o else s
  | none => s

/-- Restore a die: images above the bound, then each valid frame, with its status. -/
def restoreDie (s : State) (o : DieOp) : State :=
  (dieCores o.die).foldl (fun s r =>
    let lo := (s.dev.core r).regs.xb.toNat * 12
    let s1 : State := { s with dev := s.dev.onCore r (fun c => { c with lmem := c.lmem.setBytes lo (s.mem.bytes (saveBase o r + lo) (0x40000 - lo)) }) }
    ((upto 11).filter isHelper).foldl (fun s k =>
      let f := saveBase o r + 0x40000 + (k - 1) * 0x10000
      if (s.mem.word (f + 48)).getLsbD 63 then
        let st := restoreStatus s.dev s.mem r k f
        let s2 := if st = 0 then restoreContext s r k f else s
        s2.physMem (s2.mem.write (saveBase o r + 0xE0000 + k) (BitVec.ofNat 8 st)) (saveBase o r + 0xE0000 + k) 1
      else s.physMem (s.mem.write (saveBase o r + 0xE0000 + k) 0xFF) (saveBase o r + 0xE0000 + k) 1) s1) s

/-! ### The pre-emption steps -/

/-- PREEMPT_HALT: a thread under request reaches a pre-emption point, or stands parked, stalled or held, and is halted; its
frame is complete once its engines are still (R386, R387). -/
def execPreemptHalt (r k : Nat) (s : State) : Out :=
  let t := s.dev.slot r k
  match t.pre with
  | none => .next (stepDieSave s)
  | some p =>
    if t.life ≠ .live then .next s
    else if p.rush || t.parked.isSome || t.held || ppAt (s.dev.core r) t.pc then
      .next (stepDieSave (finishSave { s with dev := haltThread s.dev r k } r k))
    else .next s

/-- 4 µs at 1.8 GHz. -/
def preemptCycles : Nat := 7200

/-- PREEMPT_TIMEOUT: 4 µs after the request the thread is halted at its next boundary (R386). -/
def execPreemptTimeout (r k : Nat) (s : State) : Out :=
  let t := s.dev.slot r k
  match t.pre with
  | none => .next s
  | some p =>
    if t.life == .live && p.since + preemptCycles ≤ s.dev.now then
      .next (stepDieSave (finishSave { s with dev := haltThread s.dev r k } r k))
    else .next s

/-! ### Handlers (R379, R380) -/

/-- TRAP_HANDLER_START: slot 13 takes the oldest pending fault. -/
def execTrapHandlerStart (r : Nat) (s : State) : Out :=
  let c := s.dev.core r
  match c.eng.pend13 with
  | [] => .next s
  | p :: rest =>
    if !serviceIdle (c.slot 13) || !s.dev.engineUp r then .next s
    else
      let v := vectorOf s.dev.plat p.domain
      devStep s (fun d =>
        let d1 := d.onEng r (fun e => { e with pend13 := rest, hand13 := some p })
        let w := faultReg c p.slot
        d1.onSlot r 13 (fun t =>
          { life := .live, owner := t.owner, x := [(1, w.setWidth 64)], pc := BitVec.ofNat 15 (bits v 46 32),
            asid := BitVec.ofNat 16 (bits v 62 47), domain := p.domain, part := Tab.get 0 d.objs.parts p.domain.toNat, fault := w,
            flow := { nextId := t.flow.nextId } }))

/-- A hand-off's record reaches slot 15 once the thread's frame is written (R391). -/
def frameAwaited (c : Core) (p : Pend) : Bool := p.handoff && (c.slot p.slot).pre.any (fun q => q.reason == 2)

/-- Slot 15 begins a pre-emption for the resident supervisor (03 R44, R386): its entry and its registers as for a fault, with no
record named in `x1` (log 26). -/
def wakeAgent (d : Dev) (r : Nat) : Dev :=
  d.onSlot r 15 (fun t =>
    { life := .live, owner := t.owner, pc := (d.core r).regs.agent, asid := t.asid, domain := t.domain, part := t.part,
      flow := { nextId := t.flow.nextId } })

/-- AGENT_FAULT_TAKE: slot 15 takes the oldest fault sent to it; for a task thread its group ends (R380). With none pending,
`preempt` is the resident supervisor's request for a pre-emption on the core. -/
def execAgentFaultTake (wake : AgentWake) (s : State) : Out :=
  let r := wake.rank
  let c := s.dev.core r
  match c.eng.pend15 with
  | [] => if wake.preempt && c.running && s.dev.engineUp r && serviceIdle (c.slot 15) then .next { s with dev := wakeAgent s.dev r } else .next s
  | p :: rest =>
    if !serviceIdle (c.slot 15) || frameAwaited c p || !s.dev.engineUp r then .next s
    else
      devStep s (fun d =>
        let d1 := d.onEng r (fun e => { e with pend15 := rest, hand15 := some p })
        let w := faultReg c p.slot
        let d2 := d1.onSlot r 15 (fun t =>
          { life := .live, owner := t.owner, x := [(1, w.setWidth 64)], pc := c.regs.agent,
            asid := BitVec.ofNat 16 (bits (vectorOf s.dev.plat p.domain) 62 47), domain := p.domain,
            part := Tab.get 0 d1.objs.parts p.domain.toNat, fault := w, flow := { nextId := t.flow.nextId } })
        match p.ends with
        | some cause =>
          let k := if p.slot = 13 then c.eng.hand13.elim 13 (·.slot) else p.slot
          d2.endGroup r (c.slot k).lead (0x80000000 + cause.setWidth 32)
        | none => d2)

/-- The thread stands at a boundary where the device may deliver a fault: it is live, not held, not waiting for an answer and
not being halted. -/
def atBoundary (t : Slot) : Bool :=
  t.life == .live && !t.held && !rushed t &&
    (match t.parked with
     | some (.answer _) => false
     | _ => true)

/-- DEFERRED_FAULT: the oldest fault that an answer or an engine brought is taken at the thread's boundary (R384). -/
def execDeferredFault (r k : Nat) (s : State) : Out :=
  let t := s.dev.slot r k
  match t.flow.deferred with
  | [] => .next s
  | f :: rest =>
    if k < 16 && atBoundary t then
      devStep s (fun d =>
        ((d.onFlow r k (fun f => { f with deferred := rest })).raiseRec r k f.cause f.addr f.opnd).onSlot r k (fun t =>
          { t with taken := if t.held then some f else none }))
    else .next s

/-- IMPRECISE_STORE_FAULT: a thread with a record in the queue takes 0x60 at its boundary (R383). -/
def execImpreciseStoreFault (r k : Nat) (s : State) : Out :=
  let t := s.dev.slot r k
  match (s.dev.core r).eng.sfq.find? (fun x => x.slot == k) with
  | none => .next s
  | some x =>
    if k < 16 && atBoundary t && t.flow.deferred.isEmpty then
      devStep s (fun d => d.raiseRec r k 0x60 x.addr (BitVec.ofNat 32 (fld x.kind 16 + fld x.cause.toNat 8 + x.sub.toNat)))
    else .next s

/-- STORE_FAULT_RECORD_ENTER: the oldest record that waits for room enters the queue, and its request is finished (R382). -/
def execStoreFaultRecordEnter (r : Nat) (s : State) : Out :=
  match (s.dev.core r).eng.sfWait with
  | [] => .next s
  | (x, q) :: rest =>
    if (s.dev.core r).eng.sfq.length < 16 then
      let d1 := s.dev.onEng r (fun e => { e with sfq := e.sfq ++ [x], sfWait := rest })
      .next (({ s with dev := match q with
        | some q => d1.onThrFlow r x.slot (fun f =>
            ({ (((f.lowerCnt q).finish q.cls q.id).acqDone q.id) with late := f.late.erase q.id } : Flow).settleOc)
        | none => d1 } : State).frameSync r x.slot [])
    else .next s

/-! ### Page walks (04 R94, 22 R406) -/

/-- A buffer with a new entry; a full one loses the entry at `victim` (log 9). -/
def tlbPut (l : List TlbE) (cap victim : Nat) (e : TlbE) : List TlbE :=
  let l1 := l.filter (fun x => !(x.asid == e.asid && x.level == e.level && x.page == e.page))
  if l1.length < cap then l1 ++ [e] else dropAt l1 (victim % cap) ++ [e]

/-- Rights that a posted store-class operation needs. -/
def ReqOp.reads : ReqOp → Bool
  | .red _ _ _ | .enq _ => true
  | _ => false

/-- A posted operation after its walk: checked and on its way to the bag, refused, or held for a hand-off (14 R304, 20 R391).
A store of an ended thread that is refused leaves no record (20 R385); a fence.oc waits for a record that itself waits for room (06
R133). -/
def settlePosted (s : State) (r k : Nat) (ans : Option (Nat × Word)) (q : Req) : State :=
  let s0 : State := { s with dev := s.dev.onThrFlow r k (fun f => { f with posted := f.posted.filter (fun p => !(p.id == q.id && p.elem == q.elem)) }) }
  let ended := (s.dev.core r).eng.saved.any (fun x => x.key == k && x.reason == 3)
  let bad := fun (c : Byte) =>
    let d1 := if ended then s0.dev.onThrFlow r k (fun f => f.finish q.cls q.id) else s0.dev.storeFault r (sfOf k q c 0) (some q)
    let waits := !((d1.core r).eng.sfWait.length == (s0.dev.core r).eng.sfWait.length)
    ({ s0 with dev := d1.onThrFlow r k (fun f =>
        ({ f.acqDone q.id with late := if waits then q.id :: f.late else f.late } : Flow).settleOc) } : State)
  match ans with
  | none =>
    if isHelper k && handsOff s.dev r then { s with dev := s.dev.handOff r k 0x10 q.ptr 0 } else bad 0x10
  | some (level, leaf) =>
    match checks78 s.dev.objs q.asid (paddr q.ptr) q.op.span q.op.reads true level leaf with
    | .ok l key =>
      let c := s.dev.objs.covers r l
      let q1 := { q with loc := l, key := key, die := c.1, pkg := c.2.1, sys := c.2.2 }
      { s with dev := (s.dev.onThrFlow r k (fun f =>
          { f with posted := f.posted.map (fun p => if p.id = q.id && p.elem = q.elem then q1 else p) })).sendReady r k }
    | .bad c => bad c
    | .miss _ _ => bad 0x10

/-- PAGE_WALK: slot 12 ends the walk of a mailbox entry: both buffers are filled, the threads that wait get its answer, and
posted operations run checks 6 to 8. -/
def execPageWalk (r i evCore evDie : Nat) (s : State) : Out :=
  match nth? (s.dev.core r).eng.mail i with
  | none => .next s
  | some m =>
    if walkHeld s m.asid m.va || !s.dev.engineUp r then .next s
    else
    let bad := walkPoison s m.asid m.va
    let ans := if bad.isSome then none else walk s m.asid m.va
    let d1 := (s.dev.onEng r (fun e => { e with mail := dropAt e.mail i })).wakeWalker r
    let d2 := match ans with
      | some (level, leaf) =>
        let e : TlbE := ⟨m.asid, level, m.va / 2 ^ pageShift level, leaf⟩
        (d1.onEng r (fun x => { x with tlb := tlbPut x.tlb 64 evCore e })).onDie (dieOf r) (fun x => { x with tlb := tlbPut x.tlb 4096 evDie e })
      | none => d1
    let ent := match ans with
      | some (level, leaf) => (m.asid, m.page, level + 1, leaf)
      | none => (m.asid, m.page, 0, 0)
    let d3 := d2.onCore r (fun c => { c with slots := c.slots.map (fun (e : Nat × Slot) =>
      if e.2.parked = some (.walk m.asid m.page) then (e.1, { e.2 with flow := { e.2.flow with walked := e.2.flow.walked ++ [ent] } }) else e) })
    let s1 : State := { s with dev := d3 }
    let ended := ((s.dev.core r).eng.saved.filter (fun q => 3 ≤ q.reason)).map (·.key)
    let s2 := (upto 16 ++ ended).foldl (fun s k =>
      ((s.dev.thr r k).flow.posted.filter (fun q => !q.ready && q.asid == m.asid && paddr q.ptr / 2 ^ 16 == m.page)).foldl
        (fun s q => settlePosted s r k ans q) s) s1
    let s3 : State := { s2 with dev := s2.dev.missAgain r }
    .next (match bad with
      | some a => memRecord s3 8 (s3.dev.objs.homeDie a) 0 a
      | none => s3)

/-! ### Deadlock (03 R65 to R67, R392) -/

/-- A request that a failed die's unit will not answer (01 R22, 24 R434). -/
def stuckRequest (d : Dev) (q : Req) : Bool :=
  unitDown d q.op || (match q.op, q.loc with
    | .bind _ _ _ _, .glob pa | .unbind, .glob pa | .gacq _ _, .glob pa | .grel _, .glob pa | .gflush, .glob pa => d.dieDown (d.objs.homeDie pa)
    | .dcall rank _ _, _ => (d.die (dieOf rank)).failed
    | _, _ => false)

/-- Requests that keep a network busy; a join waiting for its group does not, nor a request to a failed unit. -/
def inFlight (d : Dev) (f : Flow) : Bool :=
  f.bag.any (fun q => !stuckRequest d q && (match q.op with
    | .mcoop v => !v.getLsbD 63
    | _ => true)) || !f.rets.isEmpty || !f.acks.isEmpty || !f.posted.isEmpty

/-- Slot 15 handles, or is to handle, a deadlock report: its own activation does not end the state it reports (log 28). -/
def reporting (e : CoreEng) : Bool := e.hand15.any (·.cause == 0x70) || e.pend15.any (·.cause == 0x70)

/-- A core's engines are idle; a queued `dcall` waits for a routine that stands parked. -/
def coreIdle (d : Dev) (r : Nat) : Bool :=
  let e := (d.core r).eng
  e.copies.all (fun c => c.parked && !c.ending && c.still) && e.ewords.isEmpty && e.xfers.isEmpty && e.mq.isEmpty && e.mtl.isEmpty && e.mail.isEmpty &&
    (e.dq.isEmpty || e.dserve.isSome || (d.die (dieOf r)).failed) && e.eventWait.isEmpty && e.sfWait.isEmpty && (d.coach (unitOf r)).step.isNone &&
    e.streams.all (fun x => x.2.out.isEmpty && !(x.2.bound && (match (d.slot r x.2.slot).parked with
      | some (.stream n _) => n == x.1
      | _ => false))) &&
    (upto 16).all (fun k => !inFlight d (d.slot r k).flow) && e.saved.all (fun q => !inFlight d q.ctx.flow) &&
    e.pend13.isEmpty && e.pend15.all (·.cause == 0x70)

/-- A context stands parked: it waits for what has not come about, and no fault of it is pending (R65). -/
def standsParked (s : State) (r k : Nat) : Bool :=
  let t := s.dev.slot r k
  !t.held && t.pre.isNone && t.flow.deferred.isEmpty && !hasSf (s.dev.core r).eng k &&
    (match t.parked with
     | some w => !w.holds s r k
     | none => false)

/-- A core raises its all-parked line (R65): every live context is parked, none is held, and the control context is parked in
`evpop`. -/
def allParked (s : State) (r : Nat) : Bool :=
  let c := s.dev.core r
  (upto 16).all (fun k => (c.slot k).life != .live || standsParked s r k || (k == 15 && reporting c.eng)) &&
    (c.slot 0).life == .live && (c.slot 0).parked == some .event && c.eng.events.isEmpty

/-- The dies of a logical device that have not failed. -/
def ldevDies (d : Dev) (j : Nat) : List Nat :=
  (upto 8).filter (fun n => ldevOf d.objs.mode n == j && !(d.die n).failed)

/-- The logical device that a barrier arrival under way belongs to: a group's instance carries its core (14 R315). -/
def arrivalDev (d : Dev) (level queue inst : Nat) : Option Nat :=
  let mode := d.objs.mode
  match level with
  | 0 => some (ldevOf mode (dieOf (inst / 2 ^ 64)))
  | 1 => some (ldevOf mode (dieOf inst))
  | 2 => some (ldevOf mode (dieOf (inst * 4)))
  | 3 => some (ldevOf mode inst)
  | 4 => some inst
  | _ => (d.objs.queues.find? (fun q => q.num == queue)).map (·.dev)

/-- The state of R65. -/
def deadlocked (s : State) (j : Nat) : Bool :=
  let d := s.dev
  let cores := (ldevDies d j).flatMap dieCores
  (upto 8).all (fun n => !(d.die n).halted) && cores.all (fun r => allParked s r && coreIdle d r) &&
    cores.any (fun r => (upto 16).any (fun k => k != 0 && (d.slot r k).life == .live && standsParked s r k)) &&
    d.cores.all (fun c => c.1 < 2048 || c.2.eng.xfers.all (fun x => ldevOf d.objs.mode (d.objs.homeDie x.guard) != j)) && d.objs.msgs.all (fun m => !cores.contains m.1) && d.objs.fabric.all (fun m => !cores.contains m.rank) &&
    d.objs.grants.all (fun g => !cores.contains g.rank) && d.objs.arrivals.all (fun a => arrivalDev d a.1 a.2.1 a.2.2 != some j) &&
    d.objs.queues.all (fun q => q.dev != j || (!q.wake && !q.recs.any (·.eligible)))

/-- The mask of a thread's own operations still unmet. -/
def ownMask (f : Flow) : Nat :=
  b2n (!f.ld.isEmpty) + 2 * b2n (!f.st.isEmpty) + 4 * b2n (!f.cp.isEmpty) + 8 * b2n (!f.tl.isEmpty) + 16 * b2n (f.die != 0) +
    32 * b2n (f.pkg != 0) + 64 * b2n (f.sys != 0) + 128 * b2n (!f.posted.isEmpty)

/-- The conditions that a parked instruction still waits for (R392): those of its own wait, of the thread's operations as a whole where
its wait names no part of them. -/
def unmet (f : Flow) (c : WaitCond) : Nat :=
  let m := ownMask f
  let only := fun (l : List Nat) => (l.map (fun i => if m.testBit i then 2 ^ i else 0)).sum
  match c with
  | .own a b c e p => only ((if a then [0] else []) ++ (if b then [1] else []) ++ (if c then [2] else []) ++ (if e then [3] else []) ++ (if p then [7] else []))
  | .release sc | .fence sc => only [0, (match sc with
      | .dev => 5
      | .sys => 6
      | _ => 4), 7]
  | .counts a b c e =>
    b2n (!leNat a f.ld) + 2 * b2n (!leNat b f.st) + 4 * b2n (!leNat c f.cp) + 8 * b2n (!leNat e f.tl)
  | .drain => only [7]
  | _ => m

/-- What an acquire that has not returned waits in. -/
def acqWait (d : Dev) (r k : Nat) : Nat × Word :=
  match d.objs.feWait.find? (fun w => w.1 == r && w.2.1 == k) with
  | some w => (1, w.2.2.ptr)
  | none => match (d.objs.guards.flatMap (·.wait)).find? (fun w => w.rank == r && w.slot == k) with
    | some w => (8, w.req.ptr)
    | none => (12, w64 (ownMask (d.slot r k).flow &&& 3))

/-- The wait value and object of a parked thread (R392). An event queue has no number or address of its own: the word is free
(log 28). -/
def waitKind (d : Dev) (r k : Nat) (c : WaitCond) : Nat × Word :=
  let own := (12, w64 (unmet (d.slot r k).flow c))
  match c with
  | .sendHold => acqWait d r k
  | .sem n => (2, w64 n)
  | .barrier l _ _ _ => (3, w64 l)
  | .channel n _ | .vchan n _ => (4, w64 n)
  | .stream n _ | .produce n _ => (5, w64 n)
  | .event => (6, Config.freeWord d.free)
  | .counts _ _ _ _ => (7, w64 (unmet (d.slot r k).flow c))
  | .bindEntry e | .bindFreed e | .dueZero e => (8, (Tab.get {} (d.core r).eng.bind e).guard.setWidth 64)
  | .answer id =>
    if d.objs.convs.any (fun e => e.2.held.any (fun h => h.1 == r && h.2.1 == k && h.2.2.id == id)) then
      (9, w64 (((d.objs.convs.find? (fun e => e.2.held.any (fun h => h.1 == r && h.2.1 == k && h.2.2.id == id))).map (·.1)).getD 0))
    else (10, w64 (((d.cores.find? (fun c => c.2.eng.dserve.any (fun q => q.rank == r && q.slot == k))).map (·.1)).getD 0))
  | .overlay => (11, w64 (d.slot r k).pc.toNat)
  | _ => own

/-- The report's entries in rank and then slot order: one for each parked thread, control contexts among them (wait value 6 is
theirs alone; log 28). -/
def reportEntries (d : Dev) (j : Nat) : List (List Word) :=
  ((ldevDies d j).flatMap dieCores).flatMap (fun r => (upto 16).flatMap (fun k =>
    let t := d.slot r k
    match t.parked with
    | none => []
    | some c =>
      if t.life ≠ .live then []
      else
        let w := waitKind d r k c
        [[w64 (fld r 53 + fld k 49 + fld (queueOf d r t) 41 + fld w.1 37 + t.pc.toNat), w.2]]))

/-- DEADLOCK_TRAP: slot 15 of the lowest core of logical device `j` takes 0x70 with the report, once for each occurrence. -/
def execDeadlockTrap (j : Nat) (s : State) : Out :=
  if !deadlocked s j then .next { s with dev := s.dev.onPlat (fun p => { p with deadlockRaised := p.deadlockRaised.filter (· != j) }) }
  else if s.dev.plat.deadlockRaised.contains j then .next s
  else
    let base := bits (s.dev.plat.reg 0x200) 43 4 * 16
    let es := if base = 0 then [] else reportEntries s.dev j
    let r := (nth 0 (ldevDies s.dev j) 0) * 256
    let d1 := s.dev.agentRecord r 0x70 (w64 base) (BitVec.ofNat 32 es.length)
    .next (State.physMem { s with dev := { d1.onPlat (fun p => { p with deadlockRaised := j :: p.deadlockRaised }) with free := s.dev.free + 1 } }
      (es.zipIdx.foldl (fun m e => m.setWords (base + 16 * e.2) e.1) s.mem) base (16 * es.length))

end Sys2Proof.Machine
end

