-- ==== Sys2Proof/Machine/Platform.lean ====
section
/-! DEFINITION. Control space: its registers, who writes them and what a write does (11 R229 to R250, 04 R82, 20 R378, R392,
22 R414, 24 R434, 25 R447, R456), and the events by which masters and the resident supervisor reach it. -/

namespace Sys2Proof.Machine

/-! ### Masters and the owner (R231 to R233) -/

/-- Who writes control space: a master at its port, the resident supervisor on F0 and F1, or a privileged core context. -/
inductive CtlWho
  | port (p : Nat)
  | super
  | core
  deriving DecidableEq, Repr

def whoOf : Writer → CtlWho
  | .port p => .port p.toNat
  | .supervisor => .super

/-- The ports that are masters (R230): a CXL port only in host mode. -/
def isMaster (p : Plat) (n : Nat) : Bool := n == 0 || n == 3 || (n == 1 && p.cxlHost1) || (n == 2 && p.cxlHost2)

def isOwner (p : Plat) (n : Nat) : Bool := p.owned && p.owner.toNat == n

/-- The claim register as it reads (R231). -/
def claimWord (p : Plat) : Word :=
  w64 (fld p.epoch.toNat 32 + fld (b2n p.owned) 7 + fld (b2n p.offered) 6 + fld p.target.toNat 4 + p.owner.toNat)

/-- Ownership ends (R232, 24 R436). -/
def Plat.releaseOwner (p : Plat) : Plat := { p with owned := false, offered := false, epoch := p.epoch + 1 }

/-- A claim-register command that a master wrote, as the device performs it (R231, R232). -/
def claimCmd (p : Plat) (n : Nat) (v : Word) : Plat :=
  let cmd := bits v 9 8
  let t := bits v 5 4
  if !zeroBits v 63 10 || !zeroBits v 7 6 || !zeroBits v 3 0 || (cmd ≠ 2 && t ≠ 0) then p
  else match cmd with
    | 1 =>
      if p.status = 6 && (!p.owned || (p.offered && p.target.toNat == n)) then
        { p with owner := BitVec.ofNat 2 n, owned := true, offered := false, epoch := p.epoch + 1 }
      else p
    | 2 => if isOwner p n && t ≠ n && isMaster p t then { p with offered := true, target := BitVec.ofNat 2 t } else p
    | 3 => if isOwner p n then p.releaseOwner else p
    | _ => p

/-- A command is a claim. -/
def isClaim (v : Word) : Bool := bits v 9 8 == 1

/-- The commands of one cycle are performed: the owner's in the order they came, then the claims, the lowest port first, so that
it wins among those that would each be accepted (R232, 01 R7). That the owner's go first is read from R232's example (log 3). -/
def settleClaims (p : Plat) : Plat :=
  let owners := p.claims.filter (fun e => !isClaim e.2)
  let claims := (upto 4).flatMap (fun n => p.claims.filter (fun e => isClaim e.2 && e.1 == n))
  (owners ++ claims).foldl (fun p e => claimCmd p e.1 e.2) { p with claims := [] }

/-! ### What stands where -/

/-- Kinds of control-space words, by who writes them. -/
inductive CtlPlace
  | claim | recovery | mailbox (p : Nat) | debug | coreLoad | block | power | shared | fixed
  deriving DecidableEq, Repr

def between (off lo hi : Nat) : Bool := lo ≤ off && off ≤ hi

/-- An ASID's place in the ASID table (04 R92), which lies clear of every register the manual places (log 12). -/
def asidOf (off : Nat) : Option Nat :=
  if 0x10800 ≤ off && !between off 0x800000 0xFFFFFF && Config.asidTable ≤ off && off < Config.asidTable + 8 * 65536 then
    some ((off - Config.asidTable) / 8)
  else none

/-- Offsets clear of every register the manual places. -/
def unplaced (off : Nat) : Bool := 0x10800 ≤ off && !between off 0x800000 0xFFFFFF

/-- The word by which the supervisor sets or clears a line's poison bit (22 R411; log 40). -/
def poisonWord (off : Nat) : Bool := unplaced off && off == Config.poisonPort

/-- The kind of a word (R233, R242, R456, 22 R414, 25 R447). -/
def ctlPlace (off : Nat) : CtlPlace :=
  if off = 0x100 then .claim
  else if off = 0x118 || between off 0x800000 0xFFFFFF then .recovery
  else if between off 0x800 0xFFF then .mailbox ((off - 0x800) / 0x200)
  else if off = 0x120 then .debug
  else if between off 0x5000 0x5028 then .coreLoad
  else if between off 0x140 0x170 || between off 0x500 0x550 || between off 0x560 0x580 || off = 0x590 ||
      between off 0x5A0 0x5B8 || between off 0x600 0x7F8 || between off 0x1000 0x13F8 || poisonWord off then .block
  else if off = 0x180 then .power
  else if off = 0x200 || off = 0x3000 || off = 0x3010 || off = 0x3018 || between off 0x4000 0x4068 || (asidOf off).isSome then .shared
  else .fixed

/-- What becomes of a write: it acts, it is discarded, or it is discarded and counted at 0x110. -/
inductive CtlVerdict
  | acts
  | drops
  | counts
  deriving DecidableEq, Repr

/-- Who may write where (R233, R235, R242, R250, R456, 04 R82). The supervisor runs from step 5 of the boot on (R234). DESIGN CHOICE: the
owner's write to the recovery area outside status 15 is discarded and not counted; the rules speak only of recovery-go (24 R438; logs 12,
57). -/
def ctlVerdict (p : Plat) (w : CtlWho) (off : Nat) : CtlVerdict :=
  let place := ctlPlace off
  if w = .super && p.status < 5 then .drops
  else if p.status = 15 then
    match place, w with
    | .recovery, .port 0 | .claim, .port _ => .acts
    | _, _ => .counts
  else match place, w with
    | .claim, .port _ => .acts
    | .claim, _ => .counts
    | .recovery, .port n => if isOwner p n then .drops else .counts
    | .recovery, _ => .counts
    | .mailbox q, .port n => if n ≠ q then .counts else if Tab.get 0 p.mailState q = 1 then .drops else .acts
    | .mailbox _, _ => .counts
    | .debug, .port n => if isOwner p n then .acts else .counts
    | .debug, _ => .counts
    | .coreLoad, .super => .acts
    | .coreLoad, _ => .counts
    | .block, .port _ => .counts
    | .block, _ => .acts
    | .power, .port _ => .counts
    | .power, _ => .drops
    | .shared, .port n => if isOwner p n then .acts else .counts
    | .shared, _ => .acts
    | .fixed, .port n => if isOwner p n then .drops else .counts
    | .fixed, _ => .drops

/-- A discarded write that is counted at 0x110 (R233). -/
def countRefused (d : Dev) : Dev := d.onPlat (fun p => { p with refused := p.refused + 1 })

/-! ### Reading (R231 to R250) -/

/-- The mailbox words of R250. -/
def mailWord (p : Plat) (off : Nat) : Word :=
  if (off - 0x800) % 0x200 = 0x30 then (Tab.get 0 p.mailState ((off - 0x800) / 0x200)).setWidth 64
  else Mem.word p.mailbox (off - 0x800)

/-- The die-status register (24 R434). -/
def dieStatus (d : Dev) : Word :=
  let sum := fun (f : Nat → Bool) => (upto 8).foldl (fun a k => a + fld (b2n (f k)) k) 0
  w64 (fld (sum (fun k => (d.die k).halted)) 16 + fld (b2n d.plat.farFailed1) 9 + fld (b2n d.plat.farFailed0) 8 +
    sum (fun k => (d.die k).failed))

/-- A link-status register (25 R447). -/
def linkWord (l : Link) : Word :=
  w64 (fld l.retrains.toNat 48 + fld l.replays.toNat 32 + fld l.lanefail.toNat 16 + fld l.far.toNat 4 + l.state.toNat)

/-- The bin in force in a coach's domain (R237). -/
def binOf (d : Dev) (u : Nat) : Nat := Nat.max (d.coach u).abin.toNat d.plat.cap.toNat

/-- A domain state word (R239). -/
def domainWord (d : Dev) (u : Nat) : Word :=
  let c := d.coach u
  w64 (fld c.need.toNat 16 + fld c.volt.toNat 8 + fld (b2n c.exhausted) 7 + fld c.abin.toNat 4 + binOf d u)

/-- State of a key slot's staging (R243). -/
def keyState (k : KeySlot) : Nat := if k.refused then 2 else if k.pending.isSome then 1 else 0

/-- A word of a guard's descriptor or of its stamp array (07 R144), by the guard's number among those bound; the arrays' places are free
(log 51). -/
def guardTableWord (o : Objs) (off : Nat) : Option Word :=
  let at_ := fun (base unit : Nat) => if unplaced off && base ≤ off && off < base + unit * o.guards.length then some ((off - base) / unit, (off - base) % unit / 8) else none
  match at_ Config.guardTable 64, at_ Config.stampTable 1024 with
  | some (i, j), _ => (nth? o.guards i).map (fun g => nth 0 (g.descriptor o) j)
  | _, some (i, j) => (nth? o.guards i).map (fun g =>
      w64 (fld (Tab.get (0 : BitVec 32) g.stamps (2 * j + 1)).toNat 32 + (Tab.get (0 : BitVec 32) g.stamps (2 * j)).toNat))
  | _, _ => none

/-- A word of control space as it reads. -/
def ctlRead (d : Dev) (off : Nat) : Word :=
  let p := d.plat
  let c := d.core p.loadRank.toNat
  if off = 0x100 then claimWord p
  else if off = 0x108 then w64 (fld p.failing.toNat 4 + p.status.toNat)
  else if off = 0x110 then p.refused
  else if off = 0x120 then w64 (b2n p.debug)
  else if between off 0x140 0x168 then Tab.get 0 p.ext ((off - 0x140) / 8)
  else if off = 0x180 then w64 (fld (b2n p.pfault) 7 + fld p.cap.toNat 4 + fld (b2n p.over10) 1 + b2n p.over1s)
  else if off = 0x300 then dieStatus d
  else if off = 0x500 then p.keySlot.setWidth 64
  else if off = 0x548 then w64 (keyState (Tab.get {} p.keys p.keySlot.toNat))
  else if off = 0x550 then w64 (fld (b2n p.scrubBusy) 62 + p.period.toNat)
  else if off = 0x580 then w64 (fld (b2n p.reclaimBusy) 62 + fld (b2n p.reclaimRefused) 61 + p.reclaim.toNat)
  else if off = 0x590 then w64 (fld (b2n p.dieOp.isSome) 60 + fld (b2n p.dieRefused) 59 + p.dieReg.toNat)
  else if between off 0x800 0xFFF then mailWord p off
  else if between off 0x4000 0x4068 then linkWord (Tab.get {} d.objs.links ((off - 0x4000) / 8))
  else if off = 0x5000 then p.loadRank.setWidth 64
  else if off = 0x5008 then p.loadOff.setWidth 64
  else if off = 0x5010 then (if c.running then 0 else w64 (c.lmem.readN p.loadOff.toNat 4))
  else if off = 0x5018 then c.regs.xb.setWidth 64
  else if off = 0x5020 then w64 (b2n c.running)
  else if off = 0x5028 then c.regs.agent.setWidth 64
  else if between off 0x10000 0x107F8 then domainWord d ((off - 0x10000) / 8)
  else if between off 0x800000 0xFFFFFF then Mem.word p.recovery (off - 0x800000)
  else match ctlPlace off, asidOf off with
    | .fixed, _ => (guardTableWord d.objs off).getD (p.reg off)
    | .block, _ => p.reg off
    | _, some a => w64 (Tab.get 0 d.objs.roots a)
    | _, none => p.reg off

/-! ### Measurements and reports (R236, R249, R250) -/

def measOf (p : Plat) (i : Nat) : List Byte := Tab.get (List.replicate 48 0) p.meas i

/-- An extension of a measurement register (R236). -/
def Plat.measure (p : Plat) (i : Nat) (digest : List Byte) : Plat :=
  { p with meas := Tab.set p.meas i (sha384 (measOf p i ++ digest)) }

/-- A change of the debug enable extends register 3 (R236, R241). -/
def Plat.setDebug (p : Plat) (b : Bool) : Plat :=
  if p.debug = b then p else { p.measure 3 (bytesOf 48 (Config.debugDigest b).toNat) with debug := b }

/-- Bytes 0x040 to 0x147 of a report (R250). -/
def reportBytes (p : Plat) (n : Nat) : List Byte :=
  Mem.bytes p.mailbox (0x200 * n) 48 ++ (upto 4).flatMap (fun i => measOf p i) ++ bytesOf 8 p.epoch.toNat ++
    (upto 16).map Config.serialByte

/-! ### Keys and the scrub (R243, 04 R91) -/

/-- A memory-error record of a die that the manual does not name (log 6). -/
def freeDie (d : Dev) : Nat := (Config.freeWord d.free).toNat % 10

/-- A stage: refused during a pass with a record of type 10 (22 R416). -/
def stageKey (s : State) : State :=
  let p := s.dev.plat
  let i := p.keySlot.toNat
  let k := Tab.get {} p.keys i
  if p.scrubBusy then
    let s1 := memRecord { s with dev := s.dev.onPlat (fun p => { p with keys := Tab.set p.keys i { k with refused := true } }) }
      10 (freeDie s.dev) (i % 256) 0
    { s1 with dev := { s1.dev with free := s.dev.free + 1 } }
  else
    let k1 := { k with refused := false, pending := some ((upto 8).map (fun j => Tab.get 0 p.stage j)) }
    { s with dev := s.dev.onPlat (fun p => { p with keys := Tab.set p.keys i k1 }) }

/-- A pending key becomes the write version (04 R91). -/
def KeySlot.commit (k : KeySlot) : KeySlot :=
  match k.pending with
  | none => k
  | some w => { ver := k.ver + 1, prev := some k.ver, key := w, prevKey := k.key, pending := none, refused := false }

/-- A write of scrub control (R243). -/
def scrubWrite (p : Plat) (v : Word) : Plat :=
  let n := bits v 7 0
  if n < 6 || 168 < n || (v.getLsbD 63 && p.scrubBusy) then p
  else if v.getLsbD 63 then
    let keys := p.keys.map (fun (e : Nat × KeySlot) => (e.1, e.2.commit))
    { p with period := BitVec.ofNat 8 n, passPeriod := BitVec.ofNat 8 n, scrubBusy := true, visited := [], keys := keys }
  else { p with period := BitVec.ofNat 8 n }

/-! ### Reclaim, die save and restore, core load (R246, R247, 04 R82) -/

/-- A write of the buffer-reclaim register (R246). -/
def reclaimWrite (d : Dev) (v : Word) : Dev :=
  if d.plat.reclaimBusy then d
  else
    let d0 := d.onPlat (fun p => { p with reclaim := v.setWidth 16 })
    let r := bits v 10 0
    let e := bits v 15 11
    let b := Tab.get {} (d.core r).eng.bind e
    let done := fun (d : Dev) (no : Bool) => d.onPlat (fun p => { p with reclaimRefused := no })
    if !v.getLsbD 63 then d0
    else if b.mode ≠ 0 || (d.die (dieOf r)).failed then done d0 true
    else if isLast d.objs r e b then
      match guardOf d.objs b.guard.toNat with
      | some g => (startRefresh (done d0 false) g { blankXfer with rank := r, entry := e, after := 3 }).onPlat
          (fun p => { p with reclaimBusy := true })
      | none => done d0 false
    else match b.gpeer with
      | some p =>
        if b.valid && b.epoch ≠ 0xFFFF then (askPeer (done d0 false) r e b p).onPlat (fun p => { p with reclaimBusy := true })
        else (done d0 false).onEng r (fun x => { x with bind := Tab.set x.bind e {} })
      | none => (done d0 false).onEng r (fun x => { x with bind := Tab.set x.bind e {} })

/-- Every helper slot of a die is free. -/
def helpersFree (d : Dev) (die : Nat) : Bool :=
  (dieCores die).all (fun r => ((upto 11).filter isHelper).all (fun k => (d.slot r k).life == .free))

/-- A write of the die-save register (R247); it is refused while the core rails have no power (R237, 24 R438; log 41). -/
def dieOpWrite (s : State) (v : Word) : State :=
  let reg := w64 (fld (bits v 62 61) 61 + bits v 43 20 * 2 ^ 20 + bits v 2 0)
  let o : DieOp := ⟨bits v 62 61 == 1, bits v 43 20 * 2 ^ 20, bits v 2 0⟩
  let h := s.dev.die o.die
  let no : State := { s with dev := s.dev.onPlat (fun p => { p with dieRefused := true }) }
  if !v.getLsbD 63 then (if s.dev.plat.dieOp.isSome then s else { s with dev := s.dev.onPlat (fun p => { p with dieReg := reg }) })
  else if s.dev.plat.dieOp.isSome || o.base = 0 || h.halted || h.failed || s.dev.plat.pfault || bits v 62 61 = 0 || bits v 62 61 = 3 then no
  else if bits v 62 61 = 2 then
    if !helpersFree s.dev o.die then no
    else restoreDie { s with dev := s.dev.onPlat (fun p => { p with dieRefused := false, dieReg := reg }) } o
  else
    stepDieSave { s with dev := beginSave (s.dev.onPlat (fun p => { p with dieRefused := false, dieReg := reg, dieOp := some o })) o }

/-- A stopped core (04 R82): its fault entry is kept. -/
def stopCore (c : Core) : Core := { regs := { agent := c.regs.agent } }

/-- A write of the core-load registers (04 R82); it has no effect once the core rails have no power (11 R237; log 41). -/
def coreLoadWrite (d : Dev) (off : Nat) (v : Word) : Dev :=
  let p := d.plat
  let r := p.loadRank.toNat
  let c := d.core r
  if p.pfault then d
  else match off with
  | 0x5000 => d.onPlat (fun p => { p with loadRank := v.setWidth 11 })
  | 0x5008 => d.onPlat (fun p => { p with loadOff := BitVec.ofNat 18 (bits v 17 2 * 4) })
  | 0x5010 =>
    if c.running then countRefused d
    else (d.onCore r (fun c => { c with lmem := c.lmem.setBytes p.loadOff.toNat (bytesOf 4 (bits v 31 0)) })).onPlat
      (fun p => { p with loadOff := p.loadOff + 4 })
  | 0x5018 =>
    if c.running then countRefused d
    else if bits v 14 0 > 21845 then d
    else d.onRegs r (fun x => { x with xb := v.setWidth 15 })
  | 0x5020 =>
    if v.getLsbD 63 && v.getLsbD 62 then countRefused d
    else if v.getLsbD 63 then
      if c.running || c.regs.xb.toNat ≤ bits v 14 0 || (d.die (dieOf r)).failed then countRefused d
      else d.onCore r (fun c => { c with
        running := true
        regs := { c.regs with started := d.now }
        slots := Tab.set c.slots 0 { life := .live, pc := v.setWidth 15 } })
    else if v.getLsbD 62 then
      if (upto 11).any (fun k => isHelper k && (c.slot k).life == .live) then countRefused d else d.onCore r stopCore
    else d
  | 0x5028 => d.onRegs r (fun x => { x with agent := v.setWidth 15 })
  | _ => d

/-! ### Boot, reset and recovery (R234, R235, 24 R438) -/

/-- The state right after a reset, at boot status 1: every core stopped, the registers at their reset values; the image in flash
and the fused minimum stay, and the model's schedule goes on. -/
def bootState (s : State) : State :=
  let p := s.dev.plat
  { mem := [], dev := { plat := { flashBad := p.flashBad, image := p.image, minVersion := p.minVersion }, tick := s.dev.tick,
                        agenda := s.dev.agenda, free := s.dev.free + 1 } }

/-- The check of step 2 (R234, R235): 0 good, 1 the digest, 2 the signature, 3 the security version. -/
def imageVerdict (p : Plat) (image : Option (List (Nat × Byte))) : BitVec 4 :=
  if Config.imageCheck image = 1 then 1
  else if Config.imageCheck image ≠ 0 then 2
  else if Config.imageVersion image < p.minVersion then 3
  else 0

/-- The recovery-go register in status 15 (R235): the image is checked; a good one goes to flash and the device resets. -/
def recoveryStart (s : State) (v : Word) : State :=
  if v ≠ 1 then s
  else
    let c := imageVerdict s.dev.plat (some s.dev.plat.recovery)
    if c = 0 then bootState { s with dev := s.dev.onPlat (fun p => { p with flashBad := false, image := some p.recovery }) }
    else { s with dev := s.dev.onPlat (fun p => { p with failing := c }) }

/-- One step of the boot ROM, where the status stands at it (R234): 1 the image is read, 2 it is checked, 3 the measurements are
extended and the image loaded, which sets the CXL ports' modes (R230), 4 every global word becomes zero and full, and the supervisor
starts, which configures the far tier (04 R86). -/
def bootStep (s : State) (failing : Bool) (setup : BootSetup) : State :=
  let plat := fun (f : Plat → Plat) => ({ s with dev := s.dev.onPlat f } : State)
  match s.dev.plat.status.toNat with
  | 1 => plat (fun p => { p with status := if failing then 15 else 2 })
  | 2 => plat (fun p => { p with status := if failing || p.flashBad || imageVerdict p p.image ≠ 0 then 15 else 3 })
  | 3 => plat (fun p => { (p.measure 0 (bytesOf 48 (Config.imageDigest p.image).toNat)).measure 1 (bytesOf 48 (Config.strapDigest p.minVersion).toNat) with
                            status := 4, cxlHost1 := setup.cxl1, cxlHost2 := setup.cxl2 })
  | 4 => { mem := [], dev := { (s.dev.onPlat (fun p => { p with status := 5 })).onObjs (fun o => { o with farLp6 := setup.far != .cxl, farCxl := setup.far != .lp6 })
                              with mmeta := {} } }
  | _ => s

/-! ### Writing -/

/-- The bits a stored register keeps (R161, R244, R245, 20 R378, R392, 22 R414); reserved bits stay zero (log 12). -/
def storedBits (off : Nat) (v : Word) : Word :=
  if off = 0x560 || off = 0x568 then w64 (fld (bits v 63 63) 63 + bits v 47 0)
  else if between off 0x600 0x7F8 then w64 (fld (bits v 63 63) 63 + bits v 15 0)
  else if between off 0x1000 0x11F8 then w64 (fld (bits v 63 32) 32)
  else if between off 0x1200 0x13F8 then w64 (fld (bits v 54 5) 5)
  else if off = 0x3010 then w64 (bits v 9 0)
  else if off = 0x3018 then v
  else w64 (fld (bits v 43 4) 4)

/-- A saturating count of 8 bits. -/
def satByte (b : Byte) : Byte := if b = 0xFF then b else b + 1

/-- A link's retrain command (25 R447). -/
def retrain (d : Dev) (i : Nat) : Dev :=
  let l := Tab.get {} d.objs.links i
  let l1 := { l with state := 1, wide := true, since := d.now, retrains := satByte l.retrains }
  let d1 := d.onObjs (fun o => { o with links := Tab.set o.links i l1 })
  if l.state = 1 then d1 else d1.post 7 i

/-- The supervisor sets or clears the poison bit of the line at [43:6]: [0] is its new value (22 R411; the layout is the model's, log
40). -/
def setPoison (d : Dev) (v : Word) : Dev :=
  d.onMeta (fun m => { m with poison := Tab.put false m.poison (bits v 43 6) (v.getLsbD 0) })

/-- The effect of a permitted write. -/
def ctlEffect (s : State) (w : CtlWho) (off : Nat) (v : Word) : State :=
  let plat := fun (f : Plat → Plat) => ({ s with dev := s.dev.onPlat f } : State)
  match ctlPlace off with
  | .claim =>
    match w with
    | .port n => plat (fun p => { p with claims := p.claims ++ [(n, v)] })
    | _ => s
  | .recovery =>
    if off = 0x118 then recoveryStart s v
    else plat (fun p => { p with recovery := Mem.setWord p.recovery (off - 0x800000) v })
  | .mailbox n =>
    let o := (off - 0x800) % 0x200
    if o < 0x30 then plat (fun p => { p with mailbox := Mem.setWord p.mailbox (off - 0x800) v })
    else if o = 0x30 && v = 1 then plat (fun p => { p with mailState := Tab.set p.mailState n 1 })
    else s
  | .debug => plat (fun p => p.setDebug (v = 1))
  | .coreLoad => { s with dev := coreLoadWrite s.dev off v }
  | .block =>
    if between off 0x140 0x168 then plat (fun p => { p with ext := Tab.set p.ext ((off - 0x140) / 8) v })
    else if off = 0x170 then
      (if v = 1 then plat (fun p => p.measure 2 ((upto 6).flatMap (fun i => bytesOf 8 (Tab.get 0 p.ext i).toNat))) else s)
    else if off = 0x500 then plat (fun p => { p with keySlot := v.setWidth 10 })
    else if between off 0x508 0x540 then plat (fun p => { p with stage := Tab.set p.stage ((off - 0x508) / 8) v })
    else if off = 0x548 then (if v.getLsbD 63 then stageKey s else s)
    else if off = 0x550 then plat (fun p => scrubWrite p v)
    else if off = 0x580 then { s with dev := reclaimWrite s.dev v }
    else if off = 0x590 then dieOpWrite s v
    else if poisonWord off then { s with dev := setPoison s.dev v }
    else if (off = 0x560 || off = 0x568) && bits v 47 32 = 0 then s
    else { s with dev := s.dev.setReg off (storedBits off v) }
  | .shared =>
    if between off 0x4000 0x4068 then
      (if v.getLsbD 63 then { s with dev := retrain s.dev ((off - 0x4000) / 8) } else s)
    else match asidOf off with
      | some a => { s with dev := s.dev.onObjs (fun o => { o with roots := Tab.set o.roots a (bits v 43 14 * 2 ^ 14) }) }
      | none => { s with dev := s.dev.setReg off (storedBits off v) }
  | _ => s

/-- A write of a 64-bit word of control space (R233, R456); a failed die's words take none (24 R434). -/
def ctlWrite (s : State) (w : CtlWho) (off : Nat) (v : Word) : State :=
  if (match w with
      | .port n => !isMaster s.dev.plat n
      | _ => false) || ctlDown s.dev off then s
  else match ctlVerdict s.dev.plat w off with
    | .acts => ctlEffect s w off v
    | .drops => s
    | .counts => { s with dev := countRefused s.dev }

/-! ### The events of masters and the supervisor -/

/-- CLAIM (R232). -/
def execClaim (p : BitVec 2) (s : State) : Out := .next (ctlWrite s (.port p.toNat) 0x100 0x100)

/-- OFFER (R232). -/
def execOffer (p t : BitVec 2) (s : State) : Out := .next (ctlWrite s (.port p.toNat) 0x100 (w64 (0x200 + fld t.toNat 4)))

/-- RELEASE (R232). -/
def execRelease (p : BitVec 2) (s : State) : Out := .next (ctlWrite s (.port p.toNat) 0x100 0x300)

/-- CONTROL_SPACE_WRITE (R233). -/
def execControlSpaceWrite (w : Writer) (off : Nat) (v : Word) (s : State) : Out := .next (ctlWrite s (whoOf w) (off / 8 * 8) v)

/-- CORE_LOAD_DATA_WRITE (04 R82). -/
def execCoreLoadDataWrite (w : Writer) (v : Word) (s : State) : Out := .next (ctlWrite s (whoOf w) 0x5010 v)

/-- CORE_LOAD_BOUND_WRITE (04 R82). -/
def execCoreLoadBoundWrite (w : Writer) (v : Word) (s : State) : Out := .next (ctlWrite s (whoOf w) 0x5018 v)

/-- CORE_START (04 R82). -/
def execCoreStart (w : Writer) (entry : PcIx) (s : State) : Out := .next (ctlWrite s (whoOf w) 0x5020 (w64 (fld 1 63 + entry.toNat)))

/-- CORE_STOP (04 R82). -/
def execCoreStop (w : Writer) (s : State) : Out := .next (ctlWrite s (whoOf w) 0x5020 (w64 (fld 1 62)))

/-- KEY_STAGE (R243). -/
def execKeyStage (w : Writer) (s : State) : Out := .next (ctlWrite s (whoOf w) 0x548 (w64 (fld 1 63)))

/-- SCRUB_START (R243, 04 R91). -/
def execScrubStart (w : Writer) (period : BitVec 8) (s : State) : Out :=
  .next (ctlWrite s (whoOf w) 0x550 (w64 (fld 1 63 + period.toNat)))

/-- BUFFER_RECLAIM (R246). -/
def execBufferReclaim (w : Writer) (v : Word) (s : State) : Out := .next (ctlWrite s (whoOf w) 0x580 v)

/-- DIE_SAVE (R247): go with op 1, the base and die of `v`. -/
def execDieSave (w : Writer) (v : Word) (s : State) : Out := .next (ctlWrite s (whoOf w) 0x590 (w64 (fld 5 61 + bits v 60 0)))

/-- DIE_RESTORE (R247): go with op 2. -/
def execDieRestore (w : Writer) (v : Word) (s : State) : Out := .next (ctlWrite s (whoOf w) 0x590 (w64 (fld 6 61 + bits v 60 0)))

/-- MEASUREMENT_EXTEND (R249). -/
def execMeasurementExtend (w : Writer) (s : State) : Out := .next (ctlWrite s (whoOf w) 0x170 1)

/-- ATTESTATION_REQUEST (R250). -/
def execAttestationRequest (p : BitVec 2) (s : State) : Out :=
  .next (ctlWrite s (.port p.toNat) (0x800 + 0x200 * p.toNat + 0x30) 1)

/-- ATTESTATION_REPORT_READY (R250): served from boot status 6 on. -/
def execAttestationReportReady (p : BitVec 2) (s : State) : Out :=
  let n := p.toNat
  if s.dev.plat.status ≠ 6 || Tab.get 0 s.dev.plat.mailState n ≠ 1 then .next s
  else devStep s (fun d => d.onPlat (fun q =>
    let r := reportBytes q n
    let sig := (bytesOf 96 (Config.attestSign r).toNat).reverse
    { q with mailbox := Mem.setBytes q.mailbox (0x200 * n + 0x40) (r ++ sig)
             mailState := Tab.set q.mailState n 2 }))

/-- DEBUG_ENABLE_WRITE (R241). -/
def execDebugEnableWrite (w : Writer) (v : Word) (s : State) : Out := .next (ctlWrite s (whoOf w) 0x120 v)

/-- RECOVERY_GO (R235, 24 R438). -/
def execRecoveryGo (p : BitVec 2) (s : State) : Out := .next (ctlWrite s (.port p.toNat) 0x118 1)

/-- LINK_RETRAIN (25 R447). -/
def execLinkRetrain (w : Writer) (l : Nat) (s : State) : Out :=
  if l < 14 then .next (ctlWrite s (whoOf w) (0x4000 + 8 * l) (w64 (fld 1 63))) else .next s

/-- RESET (R230, R234, R235): the reset itself, or one of the boot ROM's steps, each of which the status shows. -/
def execReset (stage : BootStage) (failing : Bool) (setup : BootSetup) (s : State) : Out :=
  match stage with
  | .start => .next (bootState s)
  | .rom => .next (bootStep s failing setup)

/-- BOOT_READY (R234): every near-tier core was started. The boot has then succeeded, and an image of a higher security version
raises the fused minimum (R235; that this is the moment is the model's choice, log 8). -/
def execBootReady (s : State) : Out :=
  if s.dev.plat.status = 5 && 2048 ≤ (s.dev.cores.filter (fun c => c.2.running)).length then
    devStep s (fun d => d.onPlat (fun p => { p with status := 6, minVersion := Nat.max p.minVersion (Config.imageVersion p.image) }))
  else .next s

/-- POWER_LOSS (24 R438). -/
def execPowerLoss (duringFlash : Bool) (s : State) : Out :=
  let p := s.dev.plat
  .next (bootState { s with dev := s.dev.onPlat (fun q => { q with flashBad := p.flashBad || (duringFlash && p.status == 15) }) })

/-- OWNER_LINK_DOWN (24 R436). -/
def execOwnerLinkDown (p : BitVec 2) (s : State) : Out :=
  if isOwner s.dev.plat p.toNat && p ≠ 3 then devStep s (fun d => d.onPlat (fun q => q.releaseOwner.setDebug false)) else .next s

/-- I3C_TARGET_RESET (24 R436). -/
def execI3cTargetReset (s : State) : Out :=
  if isOwner s.dev.plat 3 then devStep s (fun d => d.onPlat (fun q => q.releaseOwner.setDebug false)) else .next s

/-! ### The host window and aperture (R229, 03 R66) -/

/-- The ports that present a host window. -/
def hasWindow (p : Plat) (n : Nat) : Bool := n != 3 && isMaster p n

/-- HOST_WINDOW_POST: only the owner posts; an enqueued record disarms the queue's wake word. At a queue whose home has failed the post
waits (01 R21). -/
def execHostWindowPost (p : BitVec 2) (q : Nat) (rec : List Word) (s : State) : Out :=
  if !hasWindow s.dev.plat p.toNat then .next s
  else if !isOwner s.dev.plat p.toNat then devStep s countRefused
  else if s.dev.objs.queues.any (fun x => x.num == q && queueDown s.dev x) then .next s
  else
    let r := enqueueRecord s false q none 0 rec
    if r.2 = 0 then
      .next { r.1 with dev := r.1.dev.onObjs (fun o => { o with queues := o.queues.map (fun (x : Queue) => if x.num = q then { x with wake := false } else x) }) }
    else .next s

/-- A write of a host-wake word. -/
def hostWake (p : BitVec 2) (q : Nat) (b : Bool) (s : State) : Out :=
  if !hasWindow s.dev.plat p.toNat then .next s
  else if !isOwner s.dev.plat p.toNat then devStep s countRefused
  else devStep s (fun d => d.onObjs (fun o => { o with queues := o.queues.map (fun (x : Queue) => if x.num = q then { x with wake := b } else x) }))

/-- HOST_WAKE_ARM (03 R66). -/
def execHostWakeArm (p : BitVec 2) (q : Nat) (s : State) : Out := hostWake p q true s

/-- HOST_WAKE_DISARM (03 R66). -/
def execHostWakeDisarm (p : BitVec 2) (q : Nat) (s : State) : Out := hostWake p q false s

/-- One byte written through the aperture; a byte that translation refuses is not written. -/
def apertureByte (s : State) (asid va : Nat) (b : Byte) : State :=
  match walk s asid va with
  | none => s
  | some (level, leaf) =>
    if !leafHost leaf then s
    else match checks78 s.dev.objs asid va 1 false true level leaf with
      | .ok l key => if (noMemory s l).isSome || s.lost l then s else s.writeLoc l key [b]
      | _ => s

/-- HOST_APERTURE_ACCESS (R229, 04 R93): under the owner's host ASID, leaves with host = 1 alone; a read changes nothing. -/
def execHostApertureAccess (va n : Nat) (w : Option (List Byte)) (s : State) : Out :=
  match w with
  | none => .next s
  | some bs =>
    if !s.dev.plat.owned || 2 ^ 36 < va + n then .next s
    else
      let asid := (Config.hostAsid s.dev.plat.owner.toNat).toNat
      .next ((bs.take n).zipIdx.foldl (fun s e => apertureByte s asid (va + e.2) e.1) s)

end Sys2Proof.Machine
end

