-- ==== Sys2Proof/Machine/Fabric.lean ====
section
/-! DEFINITION. The fabric port (10 R224 to R228, 25): links, routes, custody, what a peer's answer or an error notice does to
its requester, and what a peer's packet does here. The peers themselves lie outside: what they answer and send stands in the
events (log 7). -/

namespace Sys2Proof.Machine

/-! ### Links and routes -/

/-- The device at the far end of a link (25 R448). -/
def linkFar (d : Dev) (l : Nat) : Nat :=
  let r := d.objs.peerSelf.toNat / 16
  let c := d.objs.peerSelf.toNat % 16
  if l < 7 then 16 * r + (if l < c then l else l + 1) else 16 * (if l - 7 < r then l - 7 else l - 6) + c

def sameRow (a b : Nat) : Bool := a / 16 == b / 16
def sameCol (a b : Nat) : Bool := a % 16 == b % 16

/-- A link carries packets: it is up, and its far-tier die has not failed (25 R447, 24 R434). -/
def linkUp (d : Dev) (l : Nat) : Bool :=
  let st := (Tab.get {} d.objs.links l).state
  (st == 2 || st == 3) && !(if l < 7 then d.plat.farFailed0 else d.plat.farFailed1)

/-- This device's link to a neighbour. -/
def linkTo (d : Dev) (p : Nat) : Option Nat := (upto 14).find? (fun l => linkFar d l == p)

/-- A device stands in the fabric as far as the source port knows. `ctl.popmap` is asked by check 4 alone (25 R439). -/
def standing (d : Dev) (p : Nat) : Bool := p / 16 ≤ 7 && p % 16 ≤ 7 && !d.objs.knownDown.contains p

/-- A link between two other devices, whichever end is named first. -/
def farLink (a b : Nat) : Nat × Nat := (Nat.min a b, Nat.max a b)

/-- One hop is usable as far as the source port knows: its own links' states, the failures and the far links announced to it. -/
def hopOk (d : Dev) (a b : Nat) : Bool :=
  let half := if sameRow a b then 0 else 1
  standing d b && !d.objs.routerDown.contains (2 * a + half) && !d.objs.routerDown.contains (2 * b + half) &&
    !d.objs.farLinks.contains (farLink a b) && (a != d.objs.peerSelf.toNat || (linkTo d b).any (linkUp d))

def routeOk (d : Dev) : Nat → List Nat → Bool
  | _, [] => true
  | a, b :: r => hopOk d a b && routeOk d b r

/-- Minimal routes, row first (10 R225). -/
def minimal (a b : Nat) : List (List Nat) :=
  if sameRow a b || sameCol a b then [[b]] else [[a / 16 * 16 + b % 16, b], [b / 16 * 16 + a % 16, b]]

/-- Devices of a device's row or column. -/
def neighbours (a : Nat) : List Nat :=
  ((upto 128).filter (fun x => x % 16 ≤ 7 && x != a && (sameRow a x || sameCol a x)))

/-- Detours: one hop more than a minimal route, over a third device of the same row or column (10 R225, 25 R449). -/
def detours (a b : Nat) : List (List Nat) :=
  let n := ((minimal a b).head?.getD []).length
  (neighbours a).flatMap (fun x =>
    if x = b || (minimal a b).any (fun m => m.head? == some x) then []
    else (minimal x b).filterMap (fun m => if m.length = n then some (x :: m) else none))

/-- Usable routes to a target: minimal ones, then detours. -/
def routesTo (d : Dev) (b : Nat) : List (List Nat) :=
  let a := d.objs.peerSelf.toNat
  (minimal a b ++ detours a b).filter (routeOk d a)

/-- Flits of a request: header, payload, trailer (10 R228). -/
def flits (op : ReqOp) : Nat :=
  match op with
  | .block _ bs => 2 + (bs.length + 31) / 32
  | .gback _ _ => 3
  | .send m => 2 + (8 * m.payload.length + 31) / 32
  | .store _ _ | .fe _ _ | .amo _ _ _ _ | .red _ _ _ => 3
  | .cas e _ => 2 + (16 * e.length + 31) / 32
  | _ => 2

/-! ### Links' own events -/

/-- Change a link; a change of its state posts a link event (25 R447). -/
def setLink (d : Dev) (i : Nat) (l : Link) : Dev :=
  let d1 := d.onObjs (fun o => { o with links := Tab.set o.links i l })
  if (Tab.get {} d.objs.links i : Link).state = l.state then d1 else d1.post 7 i

/-- Retraining begins (25 R446). -/
def startTraining (d : Dev) (i : Nat) : Dev :=
  let l := Tab.get {} d.objs.links i
  setLink d i { l with state := 1, since := d.now, retrains := satByte l.retrains, recent := [] }

/-- 100 µs at 1.8 GHz. -/
def linkWindow : Nat := 180000

/-- FLIT_REPLAY (25 R445): a replay is asked for. The flits after the last acknowledged number go again, in order and under their
numbers, and the receiver accepts each number once: `txseq`, `acked` and `rxseq` stay. -/
def execFlitReplay (l : Nat) (s : State) : Out :=
  if 14 ≤ l || !linkUp s.dev l then .next s
  else devStep s (fun d =>
    let k := Tab.get {} d.objs.links l
    setLink d l { k with replays := if k.replays = 0xFFFF then k.replays else k.replays + 1
                         recent := (d.now :: k.recent.filter (fun t => d.now < t + linkWindow)).take 16 })

/-- REPLAY_THRESHOLD (25 R446): 16 replays within 100 µs retrain the link. -/
def execReplayThreshold (l : Nat) (s : State) : Out :=
  let k := Tab.get {} s.dev.objs.links l
  if l < 14 && linkUp s.dev l && 16 ≤ (k.recent.filter (fun t => s.dev.now < t + linkWindow)).length then
    devStep s (fun d => startTraining d l)
  else .next s

/-- Lanes in use: all, or the half that is whole, low first (25 R446). -/
def laneUsed (k : Link) (lane : Nat) : Bool :=
  if k.state = 2 then lane < 16
  else if k.lanefail.toNat % 256 = 0 then lane < 8
  else 8 ≤ lane && lane < 16

/-- The state in which training ends, by the marked lanes. -/
def trainedState (bad : BitVec 16) : BitVec 3 :=
  if bad = 0 then 2 else if bad.toNat % 256 = 0 || bad.toNat / 256 = 0 then 3 else 4

/-! ### Answers to the requester (25 R441, R452) -/

/-- The peer of a request. -/
def Req.target (q : Req) : Nat :=
  match q.loc with
  | .peer p _ => p
  | _ => 0

/-- Operations that return a value. -/
def ReqOp.returns : ReqOp → Bool
  | .load _ _ | .amo _ _ _ _ | .cas _ _ | .deq | .chase _ _ _ _ => true
  | .fe f _ => f == .peek || f == .take
  | _ => false

/-- Requests of guards at a peer's manager. -/
def ReqOp.guardOp : ReqOp → Bool
  | .gacq _ _ | .grel _ | .gflush => true
  | _ => false

/-- Poison's source number by consumer (22 R412). -/
def poisonSource (q : Req) : Nat :=
  match q.op with
  | .amo _ _ _ _ => 2
  | .cas _ _ | .deq | .chase _ _ _ _ => 3
  | _ => if q.kind = 5 then 4 else 1

/-- The value that a peer's words give an operation. -/
def peerValue (op : ReqOp) (ws : List Word) : List Word :=
  match op with
  | .load n sx => [extendN n sx (nth 0 ws 0).toNat]
  | .amo _ wide _ _ => [if wide then nth 0 ws 0 else w64 (bits (nth 0 ws 0) 31 0)]
  | .fe _ _ => [nth 0 ws 0]
  | _ => ws

/-- A failure of checks 6 to 8 at a peer's port: it comes with extent 0 (25 R452). -/
def portCode (c : Byte) : Bool := c == 0x10 || c == 0x11 || c == 0x12

/-- The operand beside a peer's code. -/
def codeOpnd (c : Byte) (o : BitVec 32) : BitVec 32 := if portCode c then 0 else o

/-- The outcome that a peer's answer gives a thread's memory operation. -/
def peerRes (q : Req) (a : Answer) : Res :=
  if q.op.returns then
    match a with
    | .words ws ok => .ret (peerValue q.op ws) ok
    | .data bs => .ret (peerValue q.op [w64 (ofBytes bs)]) true
    | .done => .ret (peerValue q.op []) true
    | .poison => .defer 0x68 (poisonOpnd q.elem (poisonSource q))
    | .code c o => .defer c (if portCode c then BitVec.ofNat 32 (q.elem % 256) else o)
  else
    match a with
    | .poison => .failQ 0x68 0
    | .code c o => .failQ c ((codeOpnd c o).setWidth 8)
    | _ => .ack

/-- An operation that the thread awaited retires with a fault at its next boundary (25 R441). -/
def Flow.retireWith (f : Flow) (q : Req) (c : Byte) (o : BitVec 32) : Flow :=
  (((f.lowerCnt q).finish q.cls q.id).acqDone q.id).deferFault c q.ptr o

/-- The thread of a request has ended, and only its requests go on (20 R385). -/
def threadGone (d : Dev) (r k : Nat) : Bool := 16 ≤ k && !(d.core r).eng.saved.any (fun q => q.key == k && q.reason < 3)

/-- Where a peer's grant has its delivery come from: bit 63 for the home copy at the manager's device, else the last exclusive holder as
word 3 of a descriptor names it, a core of this device or an entry at another (07 R144, R149; log 7). -/
def givenSource (o : Objs) (manager : Nat) (w : Word) : Nat × Nat :=
  if w.getLsbD 63 then (2048 + manager, 0)
  else if bits w 62 55 = o.peerSelf.toNat then (bits w 54 44, bits w 43 39)
  else (2048 + bits w 62 55, bits w 43 39)

/-- The guard word of a request at a peer, as its entry holds it. -/
def askedEntry (q : Req) : BindEnt := { gva := BitVec.ofNat 45 (paddr q.ptr), asid := BitVec.ofNat 16 q.asid }

/-- A guard request granted, released or refreshed at a peer (07 R147 to R154, log 7): for a grant the words are the high stamp, the
descriptor's code, count, scope and epoch, the guard word's physical address, the delivery's source, and the numbers of the sub-blocks
that follow; for a release the mark and the epoch. A buffer that fails its checks hands the hold back (R148), and so does the core for a
thread that has ended (20 R385). -/
def peerGuardDone (s : State) (r k : Nat) (q : Req) (ws : List Word) : State :=
  match q.op with
  | .gacq excl i =>
    if threadGone s.dev r k then { s with dev := handBack (s.dev.onThrFlow r k (fun f => f.finish q.cls q.id)) r i (askedEntry q) q.target 0 }
    else
      let b : BindEnt := { (Tab.get {} (s.dev.core r).eng.bind i : BindEnt) with guard := (nth 0 ws 5).setWidth 44 }
      let x : Given := ⟨excl, i, 2 ^ 64 + b.guard.toNat, (nth 0 ws 1).setWidth 4, (nth 0 ws 2).setWidth 8, (nth 0 ws 3).setWidth 3,
        (nth 0 ws 4).setWidth 16, (nth 0 ws 0).setWidth 32, (ws.drop 7).map (·.toNat), some (givenSource s.dev.objs q.target (nth 0 ws 6))⟩
      let d := (setEntry s.dev r i b).onThrFlow r k (fun f => { f with rets := f.rets ++ [acceptRet q] })
      if bufferOk (s.dev.core r) (if k < 16 then k else 1) (s.dev.thr r k) x b then grantLands { s with dev := d } r k q x
      else (grantFails { s with dev := d } r k q i).withDev (fun d => handBack d r i b q.target 0)
  | .grel i =>
    let b := Tab.get {} (s.dev.core r).eng.bind i
    let moved := b.mode == 2 && b.dirty != 0
    let d := s.dev.onEng r (fun e => { e with
      bind := Tab.set e.bind i { b with dirty := 0, mode := 0, mark := if moved then (nth 0 ws 0).setWidth 32 else b.mark,
                                        epoch := if moved then (nth 0 ws 1).setWidth 16 else b.epoch, released := e.relTick }
      relTick := e.relTick + 1 })
    { s with dev := d.onThrFlow r k (fun f => { f.answer q .ack with rets := f.rets ++ [acceptRet q] }) }
  | _ => { s with dev := s.dev.onThrFlow r k (fun f => { f.finish q.cls q.id with rets := f.rets ++ [acceptRet q] }) }

/-- Deliveries out of an emptied entry of a peer's guard come from the home copy at the peer from then on (07 R159). -/
def toPeerHome (d : Dev) (r i p : Nat) : Dev :=
  let mine := fun (x : Xfer) => !x.refresh && x.src == some (r, i) && 2 ^ 64 ≤ x.guard
  let moved := (d.core r).eng.xfers.filter mine
  if moved.isEmpty then d
  else (d.onEng r (fun e => { e with xfers := e.xfers.filter (fun x => !mine x) })).onEng (2048 + p)
    (fun e => { e with xfers := e.xfers ++ moved.map (fun x => { x with src := some (2048 + p, 0) }) })

/-- The entry whose guard's manager lies at a peer is emptied: nothing of it is stale there, or all of it has arrived (07 R155, 11
R246). A `gacq` of its core meanwhile keeps it. The flag says whether the peer knows of nothing more to send. -/
def entryDropped (d : Dev) (r i : Nat) (whole : Bool) : Dev :=
  let b := Tab.get {} (d.core r).eng.bind i
  let empty := whole && b.mode == 0
  let d1 := if empty then setEntry (toPeerHome d r i (b.gpeer.getD 0)) r i {} else d
  d1.onPlat (fun p => if p.reclaimBusy && p.reclaim.toNat == fld i 11 + r then { p with reclaimBusy := false, reclaimRefused := !empty } else p)

/-- A sub-block of an entry's buffer goes to a peer's manager, in packets of up to 512 bytes (10 R228, 07 R154). -/
def sendBlock (s : State) (r i : Nat) (b : BindEnt) (p j : Nat) : State :=
  let size := blockSize b.code.toNat
  let o := b.buffer.toNat + j * size
  let part := fun (n : Nat) => ReqOp.block (j * size + 512 * n) ((s.dev.core r).lmem.bytes (o + 512 * n) (Nat.min 512 (size - 512 * n)))
  (noteRead s (.loc r o) size).withDev (fun d => (upto ((size + 511) / 512)).foldl (fun d n => toPeerManager d r i b p (part n)) d)

/-- An answer to a request of a core itself about one of its entries: which sub-blocks a peer's manager wants before the entry is
emptied, that it has a packet of them, the mark and epoch after a hold was handed back (07 R146, R153, R155; log 7). -/
def coreAnswered (s : State) (f : FReq) (ws : List Word) : State :=
  let r := f.rank
  let i := f.req.elem
  let b := Tab.get {} (s.dev.core r).eng.bind i
  match f.req.op with
  | .gdrop _ =>
    if ws.isEmpty then { s with dev := entryDropped s.dev r i true }
    else ws.foldl (fun s j => sendBlock s r i b f.req.target j.toNat) s
  | .block _ _ => { s with dev := if dropping s.dev r i then s.dev else entryDropped s.dev r i true }
  | .gback _ dirty =>
    if dirty = 0 || ws.isEmpty || b.mode ≠ 0 || b.gpeer ≠ some f.req.target || w64 b.gva.toNat ≠ f.req.ptr then s
    else { s with dev := setEntry s.dev r i { b with mark := (nth 0 ws 0).setWidth 32, epoch := (nth 0 ws 1).setWidth 16 } }
  | _ => s

/-- A guard request that failed at a peer: refused there, or lost on the way with an outcome (25 R441). -/
def peerGuardFails (s : State) (r k : Nat) (q : Req) (notice : Option Byte) (c : Byte) (o : BitVec 32) : State :=
  let acted := notice.any (fun n => n.toNat % 16 == 2)
  let ent := fun (i : Nat) => (Tab.get {} (s.dev.core r).eng.bind i : BindEnt)
  let d := if threadGone s.dev r k then s.dev else match q.op with
    | .gacq excl i =>
      if acted then setEntry s.dev r i { ent i with mode := if excl then 2 else 1 } else s.dev.unpend r i
    | .grel i => if acted then setEntry s.dev r i { ent i with mode := 0, dirty := 0 } else s.dev
    | _ => s.dev
  let s1 : State := match notice with
    | some n => { s with dev := d.onThrFlow r k (fun f => f.retireWith q 0x48 (BitVec.ofNat 32 (fld n.toNat 16))) }
    | none => { s with dev := d.onThrFlow r k (fun f => f.answer q (.refuse c q.ptr o)) }
  s1.frameSync r k []

/-- An engine word that a peer answered leaves its engine. -/
def wordGone (d : Dev) (r : Nat) (f : FReq) : Dev :=
  d.onEng r (fun e => { e with ewords := e.ewords.filter (fun w => !(w.out && w.slot == f.slot && w.id == f.req.id && w.ptr == f.req.ptr)) })

/-- The engine word of a request in the fabric. -/
def ewordOf (d : Dev) (f : FReq) : Option EWord :=
  (d.core f.rank).eng.ewords.find? (fun w => w.out && w.slot == f.slot && w.id == f.req.id && w.ptr == f.req.ptr)

/-- The copy of a request in the fabric. -/
def copyOf (d : Dev) (f : FReq) : Option Copy := (d.core f.rank).eng.copies.find? (fun c => c.id == f.req.id && c.slot == f.slot)

/-- What a failed request becomes for its requester (25 R441, R452): cause, subcause of a record, operand. -/
def failRequest (s : State) (f : FReq) (c sub : Byte) (o : BitVec 32) : State :=
  let q := f.req
  match q.kind with
  | 6 => { s with dev := s.dev.onThrFlow f.rank f.slot (fun x => { x with acks := x.acks ++ [⟨q, some (c, sub)⟩] }) }
  | 9 => match ewordOf s.dev f with
    | some w => refuseWord { s with dev := wordGone s.dev f.rank f } f.rank w c (extOpnd 2 + o)
    | none => s
  | 10 => match copyOf s.dev f with
    | some x => copyRefused s f.rank x q.op c
    | none => s
  | 11 => streamRefused s f.rank q c sub (extOpnd 1 + o)
  | 12 => streamRefused s f.rank q c sub o
  | 13 => { s with dev := entryDropped s.dev f.rank q.elem false }
  | _ =>
    let res : Res := if q.op.returns then .defer c (o + BitVec.ofNat 32 q.elem) else .failQ c sub
    { s with dev := s.dev.onThrFlow f.rank f.slot (fun x => x.answer q res) }

/-- An error notice reaches the requester (25 R441). -/
def noticeTo (s : State) (f : FReq) (n : Byte) : State :=
  if f.req.op.guardOp then peerGuardFails s f.rank f.slot f.req (some n) 0x48 0
  else failRequest s f 0x48 n (BitVec.ofNat 32 (fld n.toNat 16))

/-- A peer's response reaches the requester. -/
def answerTo (s : State) (f : FReq) (a : Answer) : State :=
  let q := f.req
  if q.op.guardOp then
    match a with
    | .code c o => peerGuardFails s f.rank f.slot q none c o
    | .words ws _ => peerGuardDone s f.rank f.slot q ws
    | _ => peerGuardDone s f.rank f.slot q []
  else match q.kind, a with
    | 9, .poison | 10, .poison => failRequest s f 0x68 0 0
    | 11, .poison | 12, .poison => failRequest s f 0x68 0 (BitVec.ofNat 32 (fld 5 11))
    | 6, .code c o | 9, .code c o | 10, .code c o | 11, .code c o | 12, .code c o =>
      failRequest s f c ((codeOpnd c o).setWidth 8) (codeOpnd c o)
    | 6, _ => { s with dev := s.dev.onThrFlow f.rank f.slot (fun x => { x with acks := x.acks ++ [⟨q, none⟩] }) }
    | 9, _ => { s with dev := wordGone s.dev f.rank f }
    | 10, .data bs => (match copyOf s.dev f with
      | some x => copyAnswered s f.rank x q.op bs
      | none => s)
    | 10, _ => (match copyOf s.dev f with
      | some x => copyAnswered s f.rank x q.op []
      | none => s)
    | 11, .data bs => streamAnswered s f.rank q bs
    | 13, .words ws _ => coreAnswered s f ws
    | 13, .code _ _ | 13, .poison => failRequest s f 0x48 0 0
    | 13, _ => coreAnswered s f []
    | 11, _ | 12, _ => streamAnswered s f.rank q []
    | _, a => { s with dev := s.dev.onThrFlow f.rank f.slot (fun x => x.answer q (peerRes q a)) }

/-! ### Custody (10 R225, R226, 25 R443, R444) -/

/-- A request of one of a core's engines, as against one of a thread. -/
def Req.byEngine (q : Req) : Bool := 9 ≤ q.kind

/-- An earlier request goes before a later one, until the target port has accepted it: to one word by one thread, whatever the
operation (10 R225), messages of one sender to one channel (R216). -/
def sameOrder (b a : FReq) : Bool :=
  a.stage < 3 && a.rank == b.rank && a.slot == b.slot &&
    (match a.req.msg?, b.req.msg? with
     | some x, some y => x.peer == y.peer && sameStream x y
     | none, none => (a.req.kind == b.req.kind || (!a.req.byEngine && !b.req.byEngine)) && sameWord a.req.loc (Nat.max 8 a.req.op.span) b.req.loc (Nat.max 8 b.req.op.span)
     | _, _ => false)

/-- A route's place in the source port's choice, by the occupancy of each link: its first link's occupancy, a row link before a column
link, the third device's number (10 R225). -/
def routeRank (d : Dev) (occ : Nat → Nat) (route : List Nat) : Nat × Nat × Nat :=
  let x := route.head?.getD 0
  let l := (linkTo d x).getD 0
  (occ l, l / 7, x)

def rankLt (a b : Nat × Nat × Nat) : Bool := a.1 < b.1 || (a.1 == b.1 && (a.2.1 < b.2.1 || (a.2.1 == b.2.1 && a.2.2 < b.2.2)))

/-- The first of the best routes. -/
def leastRoute (f : List Nat → Nat × Nat × Nat) : List (List Nat) → Option (List Nat)
  | [] => none
  | r :: rs => match leastRoute f rs with
    | none => some r
    | some b => if rankLt (f b) (f r) then some b else some r

/-- The route of a request: a minimal one while one is usable, else a detour (10 R225). -/
def chooseRoute (d : Dev) (occ : Nat → Nat) (b : Nat) : Option (List Nat) :=
  let a := d.objs.peerSelf.toNat
  (leastRoute (routeRank d occ) ((minimal a b).filter (routeOk d a))).or (leastRoute (routeRank d occ) ((detours a b).filter (routeOk d a)))

/-- Occupancy of the links at a moment, a byte each: which measure it is, the manual does not say, and the event brings it (log 7). -/
def occupancy (occ l : Nat) : Nat := occ / 256 ^ l % 256

/-- The link over which a request leaves. -/
def FReq.link (d : Dev) (f : FReq) : Nat := (linkTo d (f.route.head?.getD f.req.target)).getD 0

/-- The next router acknowledges the custody of a packet, and its flits (10 R226, 25 R445). -/
def acknowledged (d : Dev) (l n : Nat) : Dev :=
  let k := Tab.get {} d.objs.links l
  d.onObjs (fun o => { o with links := Tab.set o.links l { k with acked := k.acked + BitVec.ofNat 12 n } })

/-- Room for a packet among the 2,048 flits of a link that are not acknowledged (25 R445). -/
def linkRoom (k : Link) (n : Nat) : Bool := (k.txseq - k.acked).toNat + n ≤ 2048

/-- PACKET_CUSTODY: the source port sends request `i` over the route it chooses, or answers it at once where none remains (10 R225, 25
R444); of a request on its way, the router after the first link takes custody, which acknowledges its flits there, and then the target
port accepts it (10 R226). -/
def execPacketCustody (i occ : Nat) (s : State) : Out :=
  match nth? s.dev.objs.fabric i with
  | none => .next s
  | some f =>
    let on := fun (n : Nat) (d : Dev) => d.onObjs (fun o => { o with fabric := modAt (fun x => { x with stage := n }) o.fabric i })
    if f.stage = 1 then
      if linkUp s.dev (f.link s.dev) then devStep s (fun d => acknowledged (on 2 d) (f.link d) (flits f.req.op)) else .next s
    else if f.stage = 2 then devStep s (on 3)
    else if f.stage ≠ 0 || (s.dev.objs.fabric.take i).any (sameOrder f) then .next s
    else
      let t := f.req.target
      match chooseRoute s.dev (occupancy occ) t with
      | none =>
        let n : Byte := if s.dev.objs.knownDown.contains t then 0x31 else 0x21
        .next (noticeTo { s with dev := s.dev.onObjs (fun o => { o with fabric := dropAt o.fabric i }) } f n)
      | some route =>
        let detour := !(minimal s.dev.objs.peerSelf.toNat t).contains route
        let l := (linkTo s.dev (route.head?.getD t)).getD 0
        let k := Tab.get {} s.dev.objs.links l
        if !linkRoom k (flits f.req.op) then .next s
        else devStep s (fun d => d.onObjs (fun o => { o with
          fabric := modAt (fun x => { x with route := route, stage := 1, marked := detour }) o.fabric i
          links := Tab.set o.links l { k with txseq := k.txseq + BitVec.ofNat 12 (flits f.req.op) } }))

/-- Flits of a payload (10 R228). -/
def payloadFlits (n : Nat) : Nat := (n + 31) / 32

/-- Flits of a response. -/
def answerFlits : Answer → Nat
  | .words ws _ => 2 + payloadFlits (8 * ws.length)
  | .data bs => 2 + payloadFlits bs.length
  | _ => 2

/-- A packet's flits reach link `l` (10 R228). -/
def Dev.received (d : Dev) (l n : Nat) : Dev :=
  let k := Tab.get {} d.objs.links l
  d.onObjs (fun o => { o with links := Tab.set o.links l { k with rxseq := k.rxseq + BitVec.ofNat 12 n } })

/-- The drag toward a peer after a marked response (10 R227). -/
def markDrag (d : Dev) (p : Nat) : Dev :=
  let x := Tab.get (1, 0) d.objs.drags p
  let y : Nat × Nat := (7 * x.1, x.2 + 3)
  d.onObjs (fun o => { o with drags := Tab.set o.drags p (if 64 * y.1 < 2 ^ y.2 then (1, 6) else y), dragMark := Tab.set o.dragMark p d.now })

/-- A request leaves the fabric with its answer: if the next router had not acknowledged it yet, its flits are so now. -/
def fabricDone (d : Dev) (i : Nat) (f : FReq) : Dev :=
  let d1 := d.onObjs (fun o => { o with fabric := dropAt o.fabric i })
  if f.stage = 1 then acknowledged d1 (f.link d) (flits f.req.op) else d1

/-- RESPONSE_ARRIVAL (10 R227, 25 R451, R452), once the target port has accepted the request. DESIGN CHOICE: it comes over the first link
of the request's own route, whose receive sequence it advances (log 57). -/
def execResponseArrival (i : Nat) (crcOk mark : Bool) (a : Answer) (s : State) : Out :=
  match nth? s.dev.objs.fabric i with
  | none => .next s
  | some f =>
    if f.stage ≠ 3 then .next s
    else
      let d1 := (fabricDone s.dev i f).received (f.link s.dev) (answerFlits a)
      let s1 : State := { s with dev := if mark then markDrag d1 f.req.target else d1 }
      .next (if crcOk then answerTo s1 f a else noticeTo s1 f 0x42)

/-- ERROR_NOTICE (25 R440): a notice of reason 1 to 4 and outcome 1 to 3 for a request in custody, over the link of a response (log 57). -/
def execErrorNotice (i : Nat) (notice : Byte) (s : State) : Out :=
  let reason := notice.toNat / 16
  let outcome := notice.toNat % 16
  if reason = 0 || 4 < reason || outcome = 0 || 3 < outcome then .next s
  else match nth? s.dev.objs.fabric i with
    | none => .next s
    | some f =>
      if f.stage = 0 then .next s
      else
        .next (noticeTo { s with dev := (fabricDone s.dev i f).received (f.link s.dev) 2 } f notice)

/-- 2 µs at 1.8 GHz. -/
def dragWindow : Nat := 3600

/-- DRAG_RECOVERY (10 R227): 2 µs without a mark add 1/64 of line rate. -/
def execDragRecovery (p : Nat) (s : State) : Out :=
  let x := Tab.get (1, 0) s.dev.objs.drags p
  let y : Nat × Nat := (64 * x.1 + 2 ^ x.2, x.2 + 6)
  if s.dev.now < Tab.get 0 s.dev.objs.dragMark p + dragWindow then .next s
  else devStep s (fun d => d.onObjs (fun o => { o with
    drags := Tab.set o.drags p (if 2 ^ y.2 ≤ y.1 then (1, 0) else y)
    dragMark := Tab.set o.dragMark p d.now }))

/-- After a failure is known: requests in custody whose route it cuts, or to whose target no usable route remains, get a notice of
outcome 3 (25 R444). A packet on a link that retrains waits there (10 R228). -/
def cutRequests (s : State) : Nat → State
  | 0 => s
  | n + 1 =>
    match s.dev.objs.fabric.find? (fun f => 1 ≤ f.stage && (!routeKnown s.dev f.route || (!waits s.dev f && (routesTo s.dev f.req.target).isEmpty))) with
    | none => s
    | some f =>
      let reason : Byte := if s.dev.objs.knownDown.contains f.req.target || !(routesTo s.dev f.req.target).isEmpty then 0x33 else 0x23
      cutRequests (noticeTo { s with dev := s.dev.onObjs (fun o => { o with fabric := o.fabric.erase f }) } f reason) n
where
  /-- The packet waits on this device's own link, which retrains. -/
  waits (d : Dev) (f : FReq) : Bool := f.stage == 1 && (Tab.get {} d.objs.links (f.link d)).state == 1
  /-- No device or half-router of a route is known to have failed. -/
  routeKnown (d : Dev) (route : List Nat) : Bool :=
    let hops := (d.objs.peerSelf.toNat :: route).zip route
    hops.all (fun h => !d.objs.knownDown.contains h.2 &&
      !d.objs.routerDown.contains (2 * h.1 + (if sameRow h.1 h.2 then 0 else 1)) &&
      !d.objs.routerDown.contains (2 * h.2 + (if sameRow h.1 h.2 then 0 else 1)))

/-- The packets that wait on a link become notices of reason 1, not performed (10 R226, 25 R440, R455). -/
def linkNotices (l : Nat) (s : State) : Nat → State
  | 0 => s
  | n + 1 =>
    match s.dev.objs.fabric.find? (fun f => f.stage == 1 && f.link s.dev == l) with
    | none => s
    | some f => linkNotices l (noticeTo { s with dev := s.dev.onObjs (fun o => { o with fabric := o.fabric.erase f }) } f 0x11) n

/-- A link fails: what is held on it is answered and nothing of it stays to be acknowledged, and what its loss cuts is too (25 R444,
R446). -/
def linkFails (s : State) (l : Nat) (k : Link) : State :=
  let n := s.dev.objs.fabric.length
  cutRequests (linkNotices l { s with dev := setLink s.dev l { k with state := 4, wide := false, acked := k.txseq } } n) n

/-- LANE_LOSS (25 R446): a 16-lane link retrains; an 8-lane link that loses a lane in use fails. -/
def execLaneLoss (l lane : Nat) (s : State) : Out :=
  let k := Tab.get {} s.dev.objs.links l
  if 14 ≤ l || !linkUp s.dev l || !laneUsed k lane then .next s
  else if k.state = 2 then devStep s (fun d => startTraining d l)
  else .next (linkFails s l k)

/-- LINK_TRAINING_DONE (25 R446, R447): lanes marked before stay marked but for the retrain command. -/
def execLinkTrainingDone (l : Nat) (bad : BitVec 16) (s : State) : Out :=
  let k := Tab.get {} s.dev.objs.links l
  if 14 ≤ l || k.state ≠ 1 || k.since + linkWindow < s.dev.now then .next s
  else
    let lanes := if k.wide then bad else k.lanefail ||| bad
    let k1 := { k with state := trainedState lanes, lanefail := lanes, wide := false, far := BitVec.ofNat 8 (linkFar s.dev l) }
    if k1.state = 4 then .next (linkFails s l k1) else devStep s (fun d => setLink d l k1)

/-- LINK_TRAINING_TIMEOUT (25 R446). -/
def execLinkTrainingTimeout (l : Nat) (s : State) : Out :=
  let k := Tab.get {} s.dev.objs.links l
  if l < 14 && k.state = 1 && k.since + linkWindow ≤ s.dev.now then .next (linkFails s l k) else .next s

/-- ROUTER_POWER_LOSS (25 R443): a neighbour's half-router lost power, and the link to it is marked as failed. -/
def execRouterPowerLoss (peer : Nat) (col : Bool) (s : State) : Out :=
  let s0 : State := { s with dev := s.dev.onObjs (fun o => { o with routerDown := (2 * peer + b2n col) :: o.routerDown }) }
  .next (match linkTo s.dev peer with
    | some l => if (l < 7) == !col then linkFails s0 l (Tab.get {} s.dev.objs.links l) else cutRequests s0 s.dev.objs.fabric.length
    | none => cutRequests s0 s.dev.objs.fabric.length)

/-- A link between two other devices fails or retrains, or carries packets again (10 R225; log 57). -/
def farLinkNews (o : Objs) (a b : Nat) (up : Bool) : Objs :=
  let e := farLink a b
  { o with farLinks := if up then o.farLinks.filter (· != e) else if o.farLinks.contains e then o.farLinks else o.farLinks ++ [e] }

/-- FAILURE_ANNOUNCE (25 R443, R444): a device is announced as failed, or a link between two others as unusable or usable. -/
def execFailureAnnounce (news : FabricNews) (s : State) : Out :=
  let d := match news with
    | .device peer => s.dev.onObjs (fun o => { o with knownDown := peer :: o.knownDown })
    | .link a b up => s.dev.onObjs (fun o => farLinkNews o a b up)
  .next (cutRequests { s with dev := d } s.dev.objs.fabric.length)

/-! ### A peer's packet at this device's port (04 R96, 11 R245, 25 R451, R454) -/

/-- The pseudo-rank under which a peer's requests stand in this device's wait lists (log 7). -/
def peerRank (src : Nat) : Nat := 2048 + src

def feOpOf (f : BitVec 3) : FeOp :=
  match f.toNat with
  | 0 => .peek
  | 1 => .take
  | 2 => .fill
  | 3 => .put
  | _ => .clr

def amoFnOf (f : BitVec 4) : AmoFn :=
  match f.toNat with
  | 0 => .add
  | 1 => .and
  | 2 => .or
  | 3 => .xor
  | 4 => .min
  | 5 => .max
  | 6 => .minz
  | 7 => .maxz
  | 8 => .swap
  | 9 => .cas
  | 10 => .fadd
  | 11 => .fmin
  | _ => .fmax

/-- A peer's request as a home takes it. -/
def peerReq (va : Nat) (op : ReqOp) : Req :=
  { id := 0, cls := .none, op := op, ptr := w64 va, loc := .glob 0, dst := .none, pc := 0, asid := 0, domain := 0, die := false, pkg := false,
    sys := false, kind := 0, elem := 0, key := 0, judged := false }

/-- A home of this device performs a peer's operation on one word. -/
def peerOp (s : State) (src : Nat) (l : Loc) (q : Req) : State :=
  match homeOp s l q with
  | (_, .wait) => { s with dev := s.dev.onObjs (fun o => { o with feWait := o.feWait ++ [(peerRank src, 0, { q with loc := l })] }) }
  | (s1, x) =>
    match q.op, l with
    | .fe f _, .glob pa =>
      let s2 := serveWaiters (s1.dev.objs.feWait.length + 1) s1 l
      if (f = .fill || f = .put) && x = .ack then markEligible s2 pa else s2
    | _, _ => s1

/-- Bytes and rights of a packet. -/
def packetShape : PacketOp → Nat × Bool × Bool
  | .read n => (n, true, false)
  | .write bs | .engineWrite bs => (bs.length, false, true)
  | .fe f _ => (8, f.toNat ≤ 1, 1 < f.toNat)
  | .amo _ w _ _ | .red _ w _ => (if w then 8 else 4, true, true)
  | .cas e _ => (8 * e.length, true, true)
  | .message _ _ _ | .block _ _ _ _ | .barrier _ | .gfree _ => (0, false, false)
  | .gacq _ _ _ _ _ _ | .grel _ _ | .gflush _ | .gdrop _ => (8, false, false)

/-- Flits of a packet (10 R228). -/
def packetFlits : PacketOp → Nat
  | .write bs | .engineWrite bs | .block _ _ bs _ => 2 + payloadFlits bs.length
  | .fe _ _ | .amo _ _ _ _ | .red _ _ _ => 3
  | .cas e _ => 2 + payloadFlits (16 * e.length)
  | .message _ _ ws => 2 + payloadFlits (8 * ws.length)
  | _ => 2

/-- Flits of the response to a packet: what it returns, or two (10 R228, 25 R454). -/
def responseFlits : PacketOp → Nat
  | .read n => 2 + payloadFlits n
  | .fe f _ => if f.toNat ≤ 1 then 3 else 2
  | .amo _ _ _ _ => 3
  | .cas e _ => 2 + payloadFlits (8 * e.length + 8)
  | _ => 2

/-- The response to a packet of a peer leaves over the link the packet came on (log 57). -/
def Dev.responded (d : Dev) (l n : Nat) : Dev :=
  let k := Tab.get {} d.objs.links l
  acknowledged (d.onObjs (fun o => { o with links := Tab.set o.links l { k with txseq := k.txseq + BitVec.ofNat 12 n } })) l n

/-- Bytes of a word that `n` bytes from an offset cover. -/
def wordMask (o n w : Nat) : BitVec 8 :=
  (upto 8).foldl (fun m i => if o ≤ 8 * w + i && 8 * w + i < o + n then m ||| (1 <<< i) else m) 0

/-- The words that an engine write covers, each with its bytes. -/
def Loc.masks (l : Loc) (n : Nat) : List (Loc × BitVec 8) :=
  match l with
  | .glob a => (touched a n).map (fun w => (.glob (8 * w), wordMask a n w))
  | .loc r o => (touched o n).map (fun w => (.loc r (8 * w), wordMask o n w))
  | _ => []

/-- One word of a peer's engine: with its last byte it leaves the words written in part, and is set full. -/
def coverPeer (src : Nat) (x : List (Nat × Loc × BitVec 8) × List Loc) (e : Loc × BitVec 8) : List (Nat × Loc × BitVec 8) × List Loc :=
  let old := (x.1.find? (fun y => y.1 == src && y.2.1 == e.1)).elim 0 (·.2.2)
  let rest := x.1.filter (fun y => !(y.1 == src && y.2.1 == e.1))
  if old ||| e.2 = 0xFF then (rest, x.2 ++ [e.1]) else (rest ++ [(src, e.1, old ||| e.2)], x.2)

/-- Words written by an engine of a peer: the bytes, then each word full once all of it is in place, its waiters and the tasks it
releases (02 R35 Deliver, 25 R454, 06 R132). -/
def engineBytes (s : State) (src : Nat) (l : Loc) (key : Nat) (bs : List Byte) : State :=
  let s1 := writeBytes (notePartial s l bs.length) l key bs
  let x := (l.masks bs.length).foldl (coverPeer src) (s1.dev.objs.peerCover, [])
  fillWords { s1 with dev := s1.dev.onObjs (fun o => { o with peerCover := x.1 }) } x.2

/-- A peer's guard request at this device's manager (07 R147 to R155). The entries and transfers of a peer stand under the number
`peerRank`, as far as the manager knows them; a request that the manager refuses changes nothing here. -/
def peerGuard (s : State) (src pa : Nat) (op : PacketOp) : State :=
  let r := peerRank src
  match guardOf s.dev.objs pa with
  | none => s
  | some g =>
    if managerBusy s pa then s
    else
    let ent := fun (e : Nat) => (Tab.get {} (s.dev.core r).eng.bind e : BindEnt)
    let wait := fun (d : Dev) (k : Nat) (q : Req) => d.onObjs (fun o => putGuard o { g with wait := g.wait ++ [⟨r, k, q⟩] })
    match op with
    | .gacq k e x asid epoch mark =>
      if g.asid ≠ asid || g.scope ≠ .sys || (ent e).mode ≠ 0 then s
      else
        let b : BindEnt := { guard := BitVec.ofNat 44 pa, epoch := epoch, mark := mark, mode := 3, valid := true }
        { s with dev := wait (setEntry s.dev r e b) k { peerReq 0 (.gacq x e) with asid := asid.toNat } }
    | .grel e dirty =>
      let b := ent e
      if b.guard.toNat ≠ pa || b.mode = 0 || b.mode = 3 || (b.mode = 2 && dirty ≠ 0 && g.next = 0xFFFFFFFF && g.epoch = 0xFFFF) then s
      else { s with dev := s.dev.releaseEntry g r e { b with dirty := dirty } }
    | .gflush k => { s with dev := wait s.dev k (peerReq 0 .gflush) }
    | .gdrop e =>
      if g.home || g.last ≠ (r, e) then s else { s with dev := startRefresh s.dev g { blankXfer with rank := r, entry := e, after := 4 } }
    | _ => s

/-- Words of a sub-block that a peer's copy engine delivers come into the buffer and are set full; with the last of them the sub-block has
arrived (07 R147, R149). -/
def peerWords (s : State) (r i : Nat) (x : Xfer) (size j : Nat) (rest : List Nat) (ws : List Nat) (bs : List Byte) : State :=
  let o := fun (w : Nat) => (Tab.get {} (s.dev.core x.rank).eng.bind x.entry).buffer.toNat + j * size + 8 * w
  let new := ws.filter (fun w => !x.filled.contains w)
  let d := s.dev.onCore x.rank (fun c => (new.filter (fun w => !x.placed.contains w)).foldl
    (fun c w => intoBuffer c x.entry (o w) ((bs.drop (8 * (w - ws.head?.getD 0))).take 8)) c)
  let s1 := fillWords { s with dev := d } (new.map (fun w => .loc x.rank (o w)))
  let filled := x.filled ++ new
  if filled.length = size / 8 then blockArrived s1 r i x rest
  else { s1 with dev := s1.dev.onEng r (fun e => { e with xfers := modAt (fun y => { y with placed := filled, filled := filled }) e.xfers i }) }

/-- A packet of up to 512 bytes, from an offset on, of a sub-block that a peer's copy engine sends for a delivery or a refresh (07 R149,
R154, 10 R228, 24 R429). -/
def peerBlock (s : State) (src i off : Nat) (bs : List Byte) (fail : Option Byte) : State :=
  let r := peerRank src
  match nth? (s.dev.core r).eng.xfers i with
  | none => s
  | some x =>
    match x.list with
    | j :: rest =>
      let size := xferSize s x
      match fail with
      | some n =>
        if x.refresh then s
        else landBlock s r i x size j rest (.error (if n = 0 then (0x68, poisonOpnd 0 8) else (0x48, BitVec.ofNat 32 (fld n.toNat 16))))
      | none =>
        let ws := (upto (bs.length / 8)).map (· + off / 8)
        if off % 8 ≠ 0 || bs.length % 8 ≠ 0 || bs.isEmpty || 512 < bs.length || size < off + bs.length then s
        else if x.refresh then
          match guardOf s.dev.objs x.guard with
          | some g => refreshBytes s r i x g j (off / 8) bs (fun y =>
              let placed := y.placed ++ ws.filter (fun w => !y.placed.contains w)
              if placed.length = size / 8 then { y with list := rest, placed := [] } else { y with placed := placed })
          | none => s
        else if 2048 ≤ x.rank then s
        else peerWords s r i x size j rest ws bs
    | [] => s

/-- The packet's operation at its place. -/
def packetEffect (s : State) (src va : Nat) (l : Loc) (key : Nat) (op : PacketOp) : State :=
  let at_ := fun (o : ReqOp) => peerOp s src l { peerReq va o with key := key }
  match op with
  | .read _ => s
  | .write bs => if s.lost l then s else s.writeLoc l key bs
  | .engineWrite bs => if s.lost l then s else engineBytes s src l key bs
  | .fe f v => at_ (.fe (feOpOf f) v)
  | .amo f w b e => at_ (.amo (amoFnOf f) w b e)
  | .red f w b => at_ (.red (amoFnOf f) w b)
  | .cas e n => at_ (.cas e n)
  | .gacq _ _ _ _ _ _ | .grel _ _ | .gflush _ | .gdrop _ =>
    match l with
    | .glob pa => peerGuard s src pa op
    | _ => s
  | .message _ _ _ | .block _ _ _ _ | .barrier _ | .gfree _ => s

/-- A peer's manager has freed a guard: every core's entry for it goes (07 R156). -/
def peerFreed (d : Dev) (src : Nat) (pa : BitVec 44) : Dev :=
  { d with cores := d.cores.map (fun rc => (rc.1, { rc.2 with eng := dropEntries (fun b => b.gpeer == some src && b.guard == pa) rc.2.eng })) }

/-- TARGET_PACKET: a whole packet from a peer, over one of this device's links that carries packets. A failed CRC or check answers the
peer and performs nothing. -/
def execTargetPacket (origin : PacketOrigin) (va : Nat) (crcOk : Bool) (op : PacketOp) (s : State) : Out :=
  let link := origin.link
  let src := origin.peer
  if 14 ≤ link || !linkUp s.dev link then .next s
  else
  let s0 : State := { s with dev := (s.dev.received link (packetFlits op)).responded link (responseFlits op) }
  if !crcOk || 256 ≤ src then .next s0
  else match op with
    | .message target endw payload =>
      let m := msgOf target endw payload
      let q := { peerReq 0 (.send m) with kind := 6 }
      devStep s0 (fun d => d.onObjs (fun o => { o with msgs := o.msgs ++ [(peerRank src, 0, q)] }))
    | .barrier q => devStep s0 (fun d => d.onObjs (fun o => { o with arrivals := o.arrivals ++ [(5, q, 0)] }))
    | .block i off bs fail => .next (peerBlock s0 src i off bs fail)
    | .gfree pa => devStep s0 (fun d => peerFreed d src pa)
    | _ =>
      let sh := packetShape op
      match portWalk s src va sh.1 sh.2.1 sh.2.2 with
      | .ok l key =>
        match noMemory s l with
        | some pa => .fault (.noSuchAddress pa)
        | none => if s.heldBank l then .next s else .next (packetEffect s0 src va l key op)
      | .bad c => .next (if c = 0x10 then notePort s0 src va else s0)
      | .miss _ _ => .next s0

end Sys2Proof.Machine
end

