-- ==== Sys2Proof/Machine/Integer.lean ====
section
/-! DEFINITION. Integer, pointer, compare and predicate instructions (13 R268 to R278). Each writes its destination
and advances PC; a pointer operation that fails raises and leaves its destination (R275). -/

namespace Sys2Proof.Machine

/-- An operation that writes one `x` register from the slot's registers (R268). -/
def aluX (s : State) (d : XReg) (f : Slot → Word) : Out := devStep s (fun v => v.retire (fun t => t.setX d (f t)))

/-- An operation that writes one predicate. -/
def aluP (s : State) (d : PReg) (f : Slot → Bool) : Out := devStep s (fun v => v.retire (fun t => t.setP d (f t)))

/-- A pointer operation: its result, or a fault with the pointer concerned (R275, 21 R397). -/
def aluPtr (s : State) (d : XReg) (p : Word) (r : PtrRes) : Out :=
  match r with
  | .ok v => aluX s d (fun _ => v)
  | .bad c => fault s c p 0

/-- NOP (R278). -/
def execNop (s : State) : Out := devStep s (fun d => d.retire (fun t => t))

/-- ADD (R269). -/
def execAdd (d a : XReg) (b : Src2) (s : State) : Out := aluX s d (fun t => intFn .add (t.xr a) (t.src2 b))

/-- SUB (R269). -/
def execSub (d a : XReg) (b : Src2) (s : State) : Out := aluX s d (fun t => intFn .sub (t.xr a) (t.src2 b))

/-- AND (R269). -/
def execAnd (d a : XReg) (b : Src2) (s : State) : Out := aluX s d (fun t => intFn .and (t.xr a) (t.src2 b))

/-- OR (R269). -/
def execOr (d a : XReg) (b : Src2) (s : State) : Out := aluX s d (fun t => intFn .or (t.xr a) (t.src2 b))

/-- XOR (R269). -/
def execXor (d a : XReg) (b : Src2) (s : State) : Out := aluX s d (fun t => intFn .xor (t.xr a) (t.src2 b))

/-- ANDN (R269). -/
def execAndn (d a : XReg) (b : Src2) (s : State) : Out := aluX s d (fun t => intFn .andn (t.xr a) (t.src2 b))

/-- SHL (R269). -/
def execShl (d a : XReg) (b : Src2) (s : State) : Out := aluX s d (fun t => intFn .shl (t.xr a) (t.src2 b))

/-- SHR (R269). -/
def execShr (d a : XReg) (b : Src2) (s : State) : Out := aluX s d (fun t => intFn .shr (t.xr a) (t.src2 b))

/-- SAR (R269). -/
def execSar (d a : XReg) (b : Src2) (s : State) : Out := aluX s d (fun t => intFn .sar (t.xr a) (t.src2 b))

/-- ROL (R269). -/
def execRol (d a : XReg) (b : Src2) (s : State) : Out := aluX s d (fun t => intFn .rol (t.xr a) (t.src2 b))

/-- MIN (R269). -/
def execMin (d a : XReg) (b : Src2) (s : State) : Out := aluX s d (fun t => intFn .min (t.xr a) (t.src2 b))

/-- MAX (R269). -/
def execMax (d a : XReg) (b : Src2) (s : State) : Out := aluX s d (fun t => intFn .max (t.xr a) (t.src2 b))

/-- MINZ (R269). -/
def execMinz (d a : XReg) (b : Src2) (s : State) : Out := aluX s d (fun t => intFn .minz (t.xr a) (t.src2 b))

/-- MAXZ (R269). -/
def execMaxz (d a : XReg) (b : Src2) (s : State) : Out := aluX s d (fun t => intFn .maxz (t.xr a) (t.src2 b))

/-- MUL (R269). -/
def execMul (d a : XReg) (b : Src2) (s : State) : Out := aluX s d (fun t => intFn .mul (t.xr a) (t.src2 b))

/-- MULH (R269, R270). -/
def execMulh (d a : XReg) (b : Src2) (s : State) : Out := aluX s d (fun t => mulHiS (t.xr a) (t.src2 b))

/-- MULHZ (R269, R270). -/
def execMulhz (d a : XReg) (b : Src2) (s : State) : Out := aluX s d (fun t => mulHiU (t.xr a) (t.src2 b))

/-- DIV (R269, R270). -/
def execDiv (d a : XReg) (b : Src2) (s : State) : Out := aluX s d (fun t => sdivT (t.xr a) (t.src2 b))

/-- DIVZ (R269, R270). -/
def execDivz (d a : XReg) (b : Src2) (s : State) : Out := aluX s d (fun t => udivT (t.xr a) (t.src2 b))

/-- REM (R269, R270). -/
def execRem (d a : XReg) (b : Src2) (s : State) : Out := aluX s d (fun t => sremT (t.xr a) (t.src2 b))

/-- REMZ (R269, R270). -/
def execRemz (d a : XReg) (b : Src2) (s : State) : Out := aluX s d (fun t => uremT (t.xr a) (t.src2 b))

/-- CLZ (R269). -/
def execClz (d a : XReg) (s : State) : Out := aluX s d (fun t => clz64 (t.xr a))

/-- CTZ (R269). -/
def execCtz (d a : XReg) (s : State) : Out := aluX s d (fun t => ctz64 (t.xr a))

/-- POPC (R269). -/
def execPopc (d a : XReg) (s : State) : Out := aluX s d (fun t => pop64 (t.xr a))

/-- The source of `bext` and `bextz`: a register, or the head word of a channel, which the read takes (19 R372, 08 R174).
A channel exists in slots 1 to 10; an empty one parks the thread; the read is an acquire (10 R219), which a fence.co holds back
(06 R134). -/
def withBitSrc (s : State) (a : BitSrc) (k : Word → (Slot → Slot) → Out) : Out :=
  match a with
  | .x r => k (s.dev.me.xr r) id
  | .ch n =>
    if !isHelper s.dev.who then fault s 0x02 0 (2 + 256)
    else parkUnless s .coHold (fun s => parkUnless s (.channel n.toNat 1) (fun s =>
      match Tab.get [] s.dev.me.chans n.toNat with
      | [] => .next s
      | (w, _) :: r => k w (fun t => { t with chans := Tab.set t.chans n.toNat r })))

/-- BEXT (R271). -/
def execBext (d : XReg) (a : BitSrc) (lo w1 : BitVec 6) (s : State) : Out :=
  withBitSrc s a (fun v take =>
    devStep s (fun e => e.retire (fun t => (take t).setX d (fieldS v lo.toNat (w1.toNat + 1)))))

/-- BEXTZ (R271). -/
def execBextz (d : XReg) (a : BitSrc) (lo w1 : BitVec 6) (s : State) : Out :=
  withBitSrc s a (fun v take =>
    devStep s (fun e => e.retire (fun t => (take t).setX d (fieldZ v lo.toNat (w1.toNat + 1)))))

/-- BINS (R271). -/
def execBins (d a : XReg) (lo w1 : BitVec 6) (s : State) : Out :=
  aluX s d (fun t => fieldIns (t.xr d) (t.xr a) lo.toNat (w1.toNat + 1))

/-- LI (R272). -/
def execLi (d : XReg) (v : BitVec 48) (s : State) : Out := aluX s d (fun _ => v.signExtend 64)

/-- LIH (R272). -/
def execLih (d : XReg) (v : BitVec 16) (s : State) : Out := aluX s d (fun t => v ++ (t.xr d).extractLsb' 0 48)

/-- SEL (R273): the selector is D as it stands at issue. -/
def execSel (d a : XReg) (b : Src2) (s : State) : Out :=
  aluX s d (fun t => if t.xr d ≠ 0 then t.xr a else t.src2 b)

/-- PADD (R274, R275). -/
def execPadd (d a : XReg) (b : Src2) (s : State) : Out :=
  aluPtr s d (s.dev.x a) (paddRes (s.dev.x a) (s.dev.me.src2 b))

/-- PIDX (R274, R275). -/
def execPidx (d a : XReg) (b : Src2) (s : State) : Out :=
  aluPtr s d (s.dev.x a) (pidxRes (s.dev.x a) (s.dev.me.src2 b))

/-- PTAG (R274): only a register tag beyond its space's range faults. -/
def execPtag (d a : XReg) (space : BitVec 4) (t : TagSrc) (s : State) : Out :=
  match t with
  | .imm v => aluX s d (fun t => ptagRes (t.xr a) space v.toNat)
  | .reg b =>
    if tagFitsReg space (s.dev.x b) then aluX s d (fun t => ptagRes (t.xr a) space (t.xr b).toNat)
    else fault s 0x13 (s.dev.x a) 0

/-- PFMT (R274). -/
def execPfmt (d a : XReg) (fmt : BitVec 4) (lcode : BitVec 3) (s : State) : Out :=
  aluX s d (fun t => pfmtRes (t.xr a) fmt lcode)

/-- PGET (R274). -/
def execPget (d a : XReg) (f : BitVec 2) (s : State) : Out := aluX s d (fun t => pgetRes (t.xr a) f)

/-- PLIN (R274). -/
def execPlin (d a : XReg) (s : State) : Out := aluX s d (fun t => plinRes (t.xr a))

/-- CMP_EQ (R276). -/
def execCmpEq (d : PReg) (a : XReg) (b : Src2) (s : State) : Out :=
  aluP s d (fun t => cmpInt .eq (t.xr a) (t.src2 b))

/-- CMP_NE (R276). -/
def execCmpNe (d : PReg) (a : XReg) (b : Src2) (s : State) : Out :=
  aluP s d (fun t => cmpInt .ne (t.xr a) (t.src2 b))

/-- CMP_LT (R276). -/
def execCmpLt (d : PReg) (a : XReg) (b : Src2) (s : State) : Out :=
  aluP s d (fun t => cmpInt .lt (t.xr a) (t.src2 b))

/-- CMP_LE (R276). -/
def execCmpLe (d : PReg) (a : XReg) (b : Src2) (s : State) : Out :=
  aluP s d (fun t => cmpInt .le (t.xr a) (t.src2 b))

/-- CMP_LTZ (R276). -/
def execCmpLtz (d : PReg) (a : XReg) (s : State) : Out := aluP s d (fun t => cmpInt .lt (t.xr a) 0)

/-- CMP_LEZ (R276). -/
def execCmpLez (d : PReg) (a : XReg) (s : State) : Out := aluP s d (fun t => cmpInt .le (t.xr a) 0)

/-- PAND (R277). -/
def execPand (d a b : PReg) (s : State) : Out := aluP s d (fun t => t.pr a && t.pr b)

/-- POR (R277). -/
def execPor (d a b : PReg) (s : State) : Out := aluP s d (fun t => t.pr a || t.pr b)

/-- PXOR (R277). -/
def execPxor (d a b : PReg) (s : State) : Out := aluP s d (fun t => t.pr a != t.pr b)

/-- PNOT (R277). -/
def execPnot (d a : PReg) (s : State) : Out := aluP s d (fun t => !t.pr a)

/-- PMOV (R277). -/
def execPmov (d a : PReg) (s : State) : Out := aluP s d (fun t => t.pr a)

end Sys2Proof.Machine
end

