-- ==== Sys2Proof/Machine/System.lean ====
section
/-! DEFINITION. Control registers, traps and the system instructions (13 R288 to R299, 09 R186, 16 R361, 20 R390, 22 R419). -/

namespace Sys2Proof.Machine

/-- The reserved bits of a register operand (13: 0x03 with the operand's position). -/
def reservedFault (s : State) (pos : Nat) : Out := fault s 0x03 0 (BitVec.ofNat 32 pos)

/-- Write a destination and retire. -/
def answerX (s : State) (d : XReg) (v : Word) : Out := devStep s (fun w => w.retire (fun t => t.setX d v))

/-! ### Control registers (R288) -/

/-- Whether a number is a per-slot register. -/
def ctlPerSlot (n : Nat) : Bool := n ≤ 9

/-- Whether the issuing slot may read a register; `k` is the slot it names. -/
def ctlReadOk (d : Dev) (n k : Nat) : Bool :=
  if n = 9 then (d.who == 13 || d.who == 15) && k == d.who
  else if n = 0x13 || n = 0x25 then d.who == 0 || (13 ≤ d.who && d.who ≤ 15)
  else if 0x18 ≤ n && n ≤ 0x1F then d.who == 0 || (isHelper d.who && d.me.smask.getLsbD (n - 0x18))
  else true

/-- The value of a register. -/
def ctlValue (d : Dev) (n k : Nat) : Word :=
  let t := d.slot d.rank k
  let c := d.my.regs
  match n with
  | 0 => t.asid.setWidth 64
  | 1 => t.domain.setWidth 64
  | 2 => t.part
  | 3 => t.lmbase.setWidth 64
  | 4 => t.lmlim.setWidth 64
  | 5 => t.member.setWidth 64
  | 6 => t.gsize.setWidth 64
  | 7 => t.gdepth.setWidth 64
  | 8 => w64 k
  | 9 => t.fault.setWidth 64
  | 0x10 => c.xb.setWidth 64
  | 0x11 => c.shbase.setWidth 64
  | 0x12 => c.shlim.setWidth 64
  | 0x13 => c.gfbase.setWidth 64
  | 0x14 => c.dmask
  | 0x15 => c.mqw.setWidth 64
  | 0x16 => c.accmap.setWidth 64
  | 0x17 => w64 d.rank
  | 0x20 => d.objs.peerSelf.setWidth 64
  | 0x21 => d.objs.popmap
  | 0x22 => d.objs.offmap
  | 0x23 => w64 (d.now - c.started)
  | 0x24 => c.prbase.setWidth 64
  | 0x25 => c.cfbase.setWidth 64
  | 0x26 => c.lmstat
  | m => if 0x18 ≤ m && m ≤ 0x1F then (Tab.get (0 : BitVec 16) c.sem (m - 0x18)).setWidth 64 else 0

/-- The slot a per-slot register number names. -/
def ctlSlotOf (d : Dev) (slot : BitVec 4) (other : Bool) : Nat := if other then slot.toNat else d.who

/-- CTLR (R288). -/
def execCtlr (d : XReg) (num : BitVec 12) (slot : BitVec 4) (other : Bool) (s : State) : Out :=
  let k := ctlSlotOf s.dev slot other
  if (other && isHelper s.dev.who) || !ctlReadOk s.dev num.toNat k then privFault s
  else answerX s d (ctlValue s.dev num.toNat k)

/-- Whether the issuing slot may write a register. -/
def ctlWriteOk (d : Dev) (n k : Nat) : Bool :=
  match n with
  | 0 | 1 | 2 | 0x20 | 0x21 | 0x22 | 0x25 => d.who == 15
  | 3 | 4 => (d.who == 0 || d.who == 15) && (d.slot d.rank k).life != .live
  | 0x11 | 0x12 | 0x13 | 0x14 | 0x15 | 0x16 | 0x24 => d.who == 0
  | m => 0x18 ≤ m && m ≤ 0x1F && d.who == 0

/-- Whether a value has no reserved bit set and every field within its values. -/
def ctlValid (d : Dev) (n k : Nat) (v : Word) : Bool :=
  let low := d.my.regs.xb.toNat * 12
  let mult := fun (m : Nat) => v.toNat % m == 0
  match n with
  | 0 => v.toNat < 2 ^ 16
  | 1 => v.toNat < 64
  | 3 => v.toNat < 2 ^ 18 && mult 8
  | 4 => v.toNat ≤ 0x40000 && mult 8 && (d.slot d.rank k).lmbase.toNat ≤ v.toNat
  | 0x11 => v.toNat < 2 ^ 18 && mult 8
  | 0x12 => v.toNat ≤ 0x40000 && mult 8
  | 0x13 => v.toNat ≤ 0x39A00 && mult 64 && low ≤ v.toNat
  | 0x15 => v.toNat < 16
  | 0x16 => v.toNat < 2 ^ 12
  | 0x20 => v.toNat < 256 && bits v 7 4 ≤ 7 && bits v 3 0 ≤ 7
  | 0x24 => v.toNat < 2 ^ 19 && bits v 17 0 % 64 == 0 && (!v.getLsbD 18 || (low ≤ bits v 17 0 && bits v 17 0 + 0x2000 ≤ 0x40000))
  | 0x25 => zeroBits v 63 44 && zeroBits v 19 1
  | m => if 0x18 ≤ m && m ≤ 0x1F then v.toNat < 2 ^ 16 else true

/-- The write itself; a domain's partition mask holds for the domain (10 R223). -/
def ctlPut (d : Dev) (n k : Nat) (v : Word) : Dev :=
  let reg := fun (f : CoreRegs → CoreRegs) => d.onRegs d.rank f
  let sl := fun (f : Slot → Slot) => d.onSlot d.rank k f
  match n with
  | 0 => sl (fun t => { t with asid := v.setWidth 16 })
  | 1 => sl (fun t => { t with domain := v.setWidth 6, part := Tab.get 0 d.objs.parts (v.toNat % 64) })
  | 2 => (sl (fun t => { t with part := v })).onObjs (fun o =>
      { o with parts := Tab.set o.parts (d.slot d.rank k).domain.toNat v })
  | 3 => sl (fun t => { t with lmbase := v.setWidth 18 })
  | 4 => sl (fun t => { t with lmlim := v.setWidth 19 })
  | 0x11 => reg (fun c => { c with shbase := v.setWidth 18 })
  | 0x12 => reg (fun c => { c with shlim := v.setWidth 19 })
  | 0x13 => reg (fun c => { c with gfbase := v.setWidth 18 })
  | 0x14 => reg (fun c => { c with dmask := v })
  | 0x15 => reg (fun c => { c with mqw := v.setWidth 4 })
  | 0x16 => reg (fun c => { c with accmap := v.setWidth 12 })
  | 0x20 => d.onObjs (fun o => { o with peerSelf := v.setWidth 8 })
  | 0x21 => d.onObjs (fun o => { o with popmap := v })
  | 0x22 => d.onObjs (fun o => { o with offmap := v })
  | 0x24 => reg (fun c => { c with prbase := v.setWidth 19 })
  | 0x25 => reg (fun c => { c with cfbase := v.setWidth 44 })
  | m => if 0x18 ≤ m && m ≤ 0x1F then d.onMy (fun c => c.semRaise (m - 0x18) v.toNat v.toNat) else d

/-- CTLW (R288); `ctl.accmap` waits for an empty matrix queue (09 R186). -/
def execCtlw (num : BitVec 12) (slot : BitVec 4) (other : Bool) (a : XReg) (s : State) : Out :=
  let k := ctlSlotOf s.dev slot other
  let v := s.dev.x a
  if (other && isHelper s.dev.who) || !ctlWriteOk s.dev num.toNat k then privFault s
  else if !ctlValid s.dev num.toNat k v then reservedFault s 2
  else (if num = 0x16 then parkUnless s .mqEmpty else fun f => f s) (fun s =>
    devStep s (fun d => (ctlPut d num.toNat k v).retire (fun t => t)))

/-! ### Traps and handlers' returns -/

/-- TRAP (R289): the instruction does not retire. -/
def execTrap (imm : BitVec 16) (s : State) : Out :=
  if s.dev.who = 0 || 12 ≤ s.dev.who then privFault s else fault s 0x78 s.dev.pcAddr (imm.setWidth 32)

/-- The handling that the issuing slot has open. -/
def handOpen (e : CoreEng) (k : Nat) : Option Pend := if k = 13 then e.hand13 else e.hand15

/-- The activation of a service slot ends. -/
def endService (d : Dev) (r k : Nat) : Dev :=
  (d.onEng r (fun e => if k = 13 then { e with hand13 := none } else { e with hand15 := none })).onSlot r k (fun t =>
    { life := .free, owner := t.owner, asid := t.asid, domain := t.domain, part := t.part, fault := t.fault, flow := t.flow })

/-- What a completed handling does to its thread (R290, 08 R167, R179). -/
def completeFault (d : Dev) (r : Nat) (p : Pend) (v : Word) : Dev :=
  let t := d.slot r p.slot
  if p.handoff || t.life ≠ .live || !t.held then d
  else match bits v 1 0 with
    | 0 => d.resumeAt r p.slot (fun pc => pc)
    | 1 => d.resumeAt r p.slot (fun pc => pc + 1)
    | 3 => d.resumeAt r p.slot (fun _ => BitVec.ofNat 15 (bits v 30 16))
    | _ =>
      if p.slot = 11 then refuseRoutine d r
      else if t.gdepth ≠ 0 then
        d.onSlot r p.slot (fun t => { t with held := false, aborting := t.aborting.or (some p.cause), taken := none, sent := 0, vbase := 0, voffs := [] })
      else d.endGroup r t.lead (BitVec.ofNat 32 (bits v 63 32))

/-- ERET (R290): with nothing under handling it only ends the activation (21 R397). -/
def execEret (a : XReg) (s : State) : Out :=
  let v := s.dev.x a
  let k := s.dev.who
  if k ≠ 13 && k ≠ 15 then privFault s
  else if v.getLsbD 31 || !zeroBits v 15 2 then reservedFault s 2
  else match handOpen s.dev.my.eng k with
    | none => devStep s (fun d => endService d d.rank k)
    | some p =>
      if bits v 1 0 = 2 && !p.handoff && (p.slot = 0 || 12 ≤ p.slot) then reservedFault s 2
      else devStep s (fun d => completeFault (endService d d.rank k) d.rank p v)

/-! ### Invalidation (R292) -/

/-- Who may issue most system instructions. -/
def sysSlots (k : Nat) : Bool := k == 0 || k == 12 || k == 15

/-- A core lies within a reach of the issuing core. -/
def inReach (d : Dev) (reach r : Nat) : Bool :=
  match reach with
  | 0 => r == d.rank
  | 1 => dieOf r == dieOf d.rank
  | 2 => ldevOf d.objs.mode (dieOf r) == ldevOf d.objs.mode (dieOf d.rank)
  | _ => true

/-- What `tlbinv` names: an ASID, a page of one, everything. -/
inductive InvKind
  | asid (a : Nat)
  | page (a va : Nat)
  | all
  deriving DecidableEq, Repr

/-- The kind names a translation at a level. -/
def InvKind.hits (k : InvKind) (asid level page : Nat) : Bool :=
  match k with
  | .asid a => asid == a
  | .page a va => asid == a && page == va / 2 ^ pageShift level
  | .all => true

def dropTlb (k : InvKind) (l : List TlbE) : List TlbE := l.filter (fun e => !k.hits e.asid e.level e.page)

/-- The walk answers that a kind discards; the waiters walk again (22 R407). -/
def dropWalked (k : InvKind) (l : List (Nat × Nat × Nat × Word)) : List (Nat × Nat × Nat × Word) :=
  l.filter (fun e => !k.hits e.1 (e.2.2.1 - 1) (e.2.1 * 2 ^ 16 / 2 ^ pageShift (e.2.2.1 - 1)))

/-- Refreshes that wait for their page walk again (22 R405). -/
def unstick (s : State) (k : InvKind) (x : Xfer) : Xfer :=
  match guardOf s.dev.objs x.guard, x.list with
  | some g, j :: _ =>
    let va := g.base.toNat + j * blockSize g.code.toNat
    let level := ((walk s g.asid.toNat va).map (·.1)).getD 2
    if x.stuck && k.hits g.asid.toNat level (va / 2 ^ pageShift level) then { x with stuck := false } else x
  | _, _ => x

/-- The kind names a translation, at some level, of a virtual address. -/
def InvKind.names (k : InvKind) (asid va : Nat) : Bool := (upto 3).any (fun l => k.hits asid l (va / 2 ^ pageShift l))

/-- A place that a translation led to. -/
def Loc.isGlob : Loc → Bool
  | .glob _ => true
  | _ => false

/-- A record that its request carries, read when the request was issued. -/
def ReqOp.carried : ReqOp → Bool
  | .spawn _ _ _ => true
  | _ => false

/-- The translated words of an engine of core `r` that the kind names and that are not yet set full: of a copy, but for one that rests
at its piece boundary, and of an output stream (R292, 22 R408). -/
def engineUsers (k : InvKind) (r : Nat) (e : CoreEng) : List User :=
  (e.copies.filter (fun c => !(c.parked && c.still))).flatMap (fun c =>
    (c.inPlace.filter (fun x => x.2.2.1.isGlob && (c.kind.dstAt x.1).any (fun y => y.1 == x.2.1 && y.2.any (fun p => k.names c.asid (paddr p))))).map
      (fun x => .copy r c.slot c.id (some x.2.2.1))) ++
  e.streams.flatMap (fun x => (x.2.cover.filter (fun c => c.2.2 == 0xFF && c.2.1.isGlob && k.names x.2.asid (paddr c.1))).map
    (fun c => .cover r x.1 c.2.1))

/-- What is under way and used a translation the kind names: requests of live and saved contexts and in wait lists, and the matrix
words, words of copies and words of streams that are already translated (R292, 22 R408). -/
def usersOf (d : Dev) (reach : Nat) (k : InvKind) : List User :=
  (d.inFlight (fun r q => inReach d reach r && !q.op.carried && q.loc.isGlob && k.names q.asid (paddr q.ptr))).map (fun u => .req u.1 u.2.1 u.2.2) ++
    (d.cores.filter (fun c => inReach d reach c.1)).flatMap (fun c =>
      (c.2.eng.ewords.filter (fun w => w.loc.any (fun l => l.1.isGlob) && k.names (d.thr c.1 w.slot).asid.toNat (paddr w.ptr))).map
        (fun w => .req c.1 w.slot w.id) ++ engineUsers k c.1 c.2.eng)

/-- Remove what a kind names from every buffer in reach. -/
def invalidate (s : State) (reach : Nat) (k : InvKind) : Dev :=
  let d := s.dev
  { d with
    cores := d.cores.map (fun (c : Nat × Core) =>
      if inReach d reach c.1 then
        (c.1, { c.2 with
          eng := { c.2.eng with tlb := dropTlb k c.2.eng.tlb, xfers := c.2.eng.xfers.map (unstick s k) }
          slots := c.2.slots.map (fun (e : Nat × Slot) => (e.1, { e.2 with flow := { e.2.flow with walked := dropWalked k e.2.flow.walked } })) })
      else c)
    dies := d.dies.map (fun (n : Nat × Die) =>
      if reach ≠ 0 && inReach d reach (n.1 * 256) then (n.1, { n.2 with tlb := dropTlb k n.2.tlb }) else n) }

/-- `tlbinv`: the thread goes on once every access that used a removed translation is done. -/
def tlbinv (s : State) (reach : BitVec 2) (k : InvKind) : Out :=
  let l := usersOf s.dev reach.toNat k
  let d := invalidate s reach.toNat k
  devStep s (fun _ => d.onMe (fun t => { t.advance with parked := if l.isEmpty then none else some (.inval l) }))

/-- TLBINV_ASID. -/
def execTlbinvAsid (reach : BitVec 2) (a : XReg) (s : State) : Out :=
  let v := s.dev.x a
  if !sysSlots s.dev.who then privFault s
  else if !zeroBits v 63 16 then reservedFault s 2
  else tlbinv s reach (.asid v.toNat)

/-- TLBINV_PAGE. -/
def execTlbinvPage (reach : BitVec 2) (a b : XReg) (s : State) : Out :=
  let v := s.dev.x a
  if !sysSlots s.dev.who then privFault s
  else if !zeroBits v 63 16 then reservedFault s 2
  else tlbinv s reach (.page v.toNat (s.dev.x b).toNat)

/-- TLBINV_ALL. -/
def execTlbinvAll (reach : BitVec 2) (a : XReg) (s : State) : Out :=
  if !sysSlots s.dev.who then privFault s
  else if !zeroBits (s.dev.x a) 63 16 then reservedFault s 2
  else tlbinv s reach .all

/-- RTINV: units of this model keep no local copies of the range table (04 R97 leaves them open). -/
def execRtinv (_every : Bool) (a : XReg) (s : State) : Out :=
  if !sysSlots s.dev.who then privFault s
  else if !zeroBits (s.dev.x a) 63 16 then reservedFault s 2
  else devStep s (fun d => d.retire (fun t => t))

/-! ### The bound and the overlays (R293, R294) -/

/-- The status of `setxb`. -/
def setxbStatus (d : Dev) (n : Nat) : Nat :=
  let c := d.my
  let b := n * 12
  if n ≤ c.regs.xb.toNat then 0
  else if n > 21845 then 1
  else if (upto 11).any (fun k => k != 0 && (c.slot k).life == .live && (c.slot k).lmbase.toNat < b) ||
      (c.regs.shbase.toNat < c.regs.shlim.toNat && c.regs.shbase.toNat < b) || c.regs.gfbase.toNat < b ||
      (c.regs.prbase.getLsbD 18 && c.regs.prbase.toNat % 2 ^ 18 < b) then 2
  else 0

/-- Pointer `p` of core `r` lies in the issuing core's local memory below an offset. -/
def lowAt (d : Dev) (lim r : Nat) (p : Word) : Bool :=
  paddr p < lim && (match pspace p with
    | 1 => r == d.rank
    | 2 | 3 => prank p == d.rank
    | _ => false)

/-- The pointers at which a matrix command's operands and results begin. -/
def MOp.ptrs : MOp → List Word
  | .mm _ _ _ _ a b _ _ _ => [a, b]
  | .mmc _ _ _ _ b _ => [b]
  | .topk _ _ p v _ _ => p :: v.toList
  | .macz _ _ _ => []
  | .macst _ p _ _ _ => [p]
  | .macld _ a _ _ => [a]

/-- The extents that a copy has still to read and write, by their pointers. -/
def Copy.endsLeft (c : Copy) : List Word :=
  (c.kind.runs (fullBelow c)).flatMap (fun e => (c.kind.srcAt e.1).toList ++ (c.kind.dstAt e.1).filterMap (·.2))

/-- What is under way at words of the issuing core that a bound of `n` would make code: requests, matrix words and commands, and copies,
of any core. Code is never read or written as data (04 R79); a stream's elements are checked as the unit touches them (R205). -/
def belowBound (d : Dev) (n : Nat) : List User :=
  let lim := 12 * n
  let at_ := fun (l : Loc) => match l with
    | .loc r o => r == d.rank && o < lim
    | _ => false
  (d.inFlight (fun _ q => at_ q.loc)).map (fun u => .req u.1 u.2.1 u.2.2) ++
  d.cores.flatMap (fun c =>
    let cmds := c.2.eng.mq ++ ((d.coach (unitOf c.1)).step.toList.filter (fun m => m.core == c.1)).map (·.cmd)
    (c.2.eng.ewords.filter (fun w => w.loc.any (fun l => at_ l.1))).map (fun w => User.req c.1 w.slot w.id) ++
    (c.2.eng.copies.filter (fun x => x.endsLeft.any (lowAt d lim c.1))).map (fun x => User.copy c.1 x.slot x.id none) ++
    (cmds.filter (fun m => m.op.ptrs.any (lowAt d lim c.1))).map (fun m => User.cmd c.1 m.slot m.id))

/-- SETXB (R293): a bound is raised when nothing is under way any longer at the words below it (04 R79; log 55). -/
def execSetxb (d a : XReg) (s : State) : Out :=
  let v := s.dev.x a
  let n := v.toNat
  if s.dev.who ≠ 0 then privFault s
  else if !zeroBits v 63 15 then reservedFault s 2
  else
    let st := setxbStatus s.dev n
    if st ≠ 0 then answerX s d (w64 st)
    else parkUnless s (.inval (if n ≤ s.dev.my.regs.xb.toNat then [] else belowBound s.dev n)) (fun s =>
      devStep s (fun w => (w.onRegs w.rank (fun c => { c with xb := v.setWidth 15 })).retire (fun t => t.setX d 0)))

/-- One source word of `ovld`: its four bytes, or the code that its check raises. -/
def ovldWord (s : State) (p : Word) : Except Byte (List Byte) :=
  match checks5 s.dev s.dev.rank s.dev.who s.dev.me .scalar p 4 4 with
  | some c => .error c
  | none =>
    if pspace p = 1 then
      if (touched (paddr p) 4).any (fun w => Tab.get false s.dev.my.lpoison w) then .error 0x68
      else .ok (s.dev.my.lmem.bytes (paddr p) 4)
    else match checkWalk s s.dev.me.asid.toNat (paddr p) 4 true false with
      | .ok (.glob pa) key => if s.poisoned (.glob pa) then .error 0x68 else .ok ((s.memAs pa 4 key).bytes pa 4)
      | .bad c => .error c
      | _ => .error 0x10

/-- The source bytes of one instruction word. -/
def ovldInstr (s : State) (p : Word) (off : Nat) : Except (Byte × Word) (List Byte) :=
  (upto 3).foldl (fun acc (j : Nat) =>
    match acc with
    | .error e => .error e
    | .ok bs => match padvance p (off + 4 * j) with
      | none => .error (0x13, p)
      | some q => match ovldWord s q with
        | .error c => .error (c, q)
        | .ok b => .ok (bs ++ b)) (.ok [])

/-- The words of an overlay that can be read, and the first failure. -/
def ovldBytes (s : State) (p : Word) (i : Nat) : Nat → List Byte × Option (Byte × Word)
  | 0 => ([], none)
  | n + 1 =>
    match ovldInstr s p (12 * i) with
    | .error e => ([], some e)
    | .ok bs => let r := ovldBytes s p (i + 1) n
                (bs ++ r.1, r.2)

/-- Write code bytes; a whole 64-bit word written is correct again (22 R419). -/
def Core.writeCode (c : Core) (o : Nat) (bs : List Byte) : Core :=
  { c with lmem := c.lmem.setBytes o bs
           lpoison := c.lpoison.filter (fun e => !(o ≤ 8 * e.1 && 8 * e.1 + 8 ≤ o + bs.length)) }

/-- A word of `ovld`'s source lies in a bank group whose activations are held, or its walk reads there (22 R417). -/
def ovldHeld (s : State) (p : Word) (n : Nat) : Bool :=
  pspace p == 0 && s.dev.dies.any (fun e => !e.2.remap.isEmpty) && (upto (3 * n)).any (fun j => (padvance p (4 * j)).any (fun q =>
    walkHeld s s.dev.me.asid.toNat (paddr q) || (match walk s s.dev.me.asid.toNat (paddr q) with
      | some (level, leaf) => s.heldBank (.glob (leafPa level leaf (paddr q)))
      | none => false)))

/-- OVLD (R294): the words before a faulting one are written. -/
def execOvld (d a b : XReg) (s : State) : Out :=
  let p := s.dev.x a
  let v := s.dev.x b
  let w := bits v 14 0
  let n := bits v 30 16
  if s.dev.who ≠ 0 then privFault s
  else if !zeroBits v 63 31 || v.getLsbD 15 then reservedFault s 3
  else if n = 0 then answerX s d 0
  else if w + n > s.dev.my.regs.xb.toNat then answerX s d 1
  else if pspace p ≠ 0 && pspace p ≠ 1 then fault s 0x13 p 0x100
  else if paddr p % 4 ≠ 0 then fault s 0x14 p 0x100
  else if ovldHeld s p n then .next s
  else
    let r := ovldBytes s p 0 n
    let s1 : State := { s with dev := s.dev.onMy (fun c => c.writeCode (12 * w) r.1) }
    match r.2 with
    | some (c, q) => walkFault s1 c q (if c = 0x68 then poisonOpnd 0 1 + 0x100 else 0x100)
    | none => answerX s1 d 0

/-! ### Migration requests (R295) -/

/-- Whether a memory node is configured. -/
def nodeConfigured (o : Objs) (n : Nat) : Bool :=
  match n with
  | 0 => true
  | 1 => o.farLp6
  | 2 => o.farCxl
  | _ => false

/-- A frame holds a bound guard's word (07 R142). -/
def guardIn (o : Objs) (base size : Nat) : Bool := o.guards.any (fun g => base ≤ g.word && g.word < base + size)

/-- The status of a migration that needs no engine; none: the page is to move. -/
def pmigStatus (s : State) (p : Word) (node : Nat) : Option Nat :=
  match walk s s.dev.me.asid.toNat (paddr p) with
  | none => some 2
  | some (level, leaf) =>
    if level = 0 || paddr p % 2 ^ pageShift level ≠ 0 then some 2
    else if !nodeConfigured s.dev.objs node then some 3
    else if nodeOf (leafBase leaf) = node then some 0
    else if guardIn s.dev.objs (leafBase leaf) (2 ^ pageShift level) then some 1
    else none

/-- PMIG (R295): a page to move goes to an engine, and the thread waits for its status. A walk that met a poisoned entry is recorded (22
R406). -/
def execPmig (d a b : XReg) (s : State) : Out :=
  let p := s.dev.x a
  let v := s.dev.x b
  if s.dev.who ≠ 15 then privFault s
  else if !zeroBits v 63 2 || bits v 1 0 = 3 then reservedFault s 3
  else if !tagsKnown p || !locBitsOk p || pspace p ≠ 0 then fault s 0x13 p 0
  else match pmigStatus s p (bits v 1 0) with
    | some st => answerX (noteWalk s s.dev.me.asid.toNat (paddr p)) d (w64 st)
    | none => devStep s (fun w => (w.onObjs (fun o => { o with migs := o.migs ++
        [⟨w.me.asid.toNat, paddr p, bits v 1 0, w.rank, w.who, d, false⟩] })).park .service)

/-! ### Launch queues (R296) -/

/-- A word of a parameter block, at its physical address; a failed check by its code. -/
def blockWord (s : State) (p : Word) (i : Nat) : Except (Byte × Word) Word :=
  match padvance p (8 * i) with
  | none => .error (0x13, p)
  | some q => match checkWalk s s.dev.me.asid.toNat (paddr q) 8 true false with
    | .ok (.glob pa) key => if s.poisoned (.glob pa) then .error (0x68, q) else .ok (s.wordAs pa key)
    | .bad c => .error (c, q)
    | _ => .error (0x10, q)

/-- The words of a block under the numbers of a list. -/
def blockFrom (s : State) (p : Word) : List Nat → Except (Byte × Word) (List Word)
  | [] => .ok []
  | i :: l => match blockWord s p i with
    | .error e => .error e
    | .ok w => match blockFrom s p l with
      | .error e => .error e
      | .ok r => .ok (w :: r)

/-- The block's walk, or the block, lies in a bank group whose activations are held (22 R417). -/
def blockHeld (s : State) (p : Word) : Bool :=
  walkHeld s s.dev.me.asid.toNat (paddr p) || (match walk s s.dev.me.asid.toNat (paddr p) with
    | some (level, leaf) => anyHeld s (.glob (leafPa level leaf (paddr p))) 64
    | none => false)

/-- Read words of a parameter block and go on (R296; faults with extent 4). -/
def withBlock (s : State) (p : Word) (l : List Nat) (k : List Word → Out) : Out :=
  if !tagsKnown p || !locBitsOk p || pspace p ≠ 0 then fault s 0x13 p 0x400
  else if paddr p % 8 ≠ 0 then fault s 0x14 p 0x400
  else if blockHeld s p then .next s
  else match blockFrom s p l with
    | .error (c, q) => walkFault s c q (if c = 0x68 then poisonOpnd 0 1 + 0x400 else 0x400)
    | .ok ws => k ws

/-- The mask table: 32 bytes for each die of the logical device. -/
def maskTable (s : State) (w4 : Word) : List Word := s.mem.words (bits w4 43 5 * 32) (4 * diesPer s.dev.objs.mode)

/-- Participant counts from words 5 and 6. -/
def countsOf (w5 w6 : Word) : List Nat := [bits w5 15 0, bits w5 31 16, bits w5 47 32, bits w5 63 48, bits w6 15 0]

def findQueue (o : Objs) (n : Nat) : Option Queue := o.queues.find? (fun q => q.num == n)

/-- Most queues of a logical device (01 R16). -/
def maxQueues (mode : BitVec 2) : Nat := if mode = 0 then 256 else if mode = 1 then 128 else 32

/-- A queue number's operand. -/
def queueArg (s : State) (a : XReg) (k : Nat → Out) : Out :=
  if s.dev.who ≠ 15 then privFault s
  else if !zeroBits (s.dev.x a) 63 8 then reservedFault s 2
  else k (s.dev.x a).toNat

/-- QCTL_CREATE: the queue belongs to the logical device of the issuing core. R296 puts the weights 1 to 64 into a field of 6
bits: the model takes the field's value as the weight, so that 0 is status 3 and no write gives 64 (log 55; its own choice). -/
def execQctlCreate (d a b : XReg) (s : State) : Out :=
  queueArg s a (fun n => withBlock s (s.dev.x b) (upto 8) (fun ws =>
    let o := s.dev.objs
    let dev := ldevOf o.mode (dieOf s.dev.rank)
    let w0 := nth 0 ws 0
    if (findQueue o n).isSome then answerX s d 1
    else if maxQueues o.mode ≤ (o.queues.filter (fun q => q.dev == dev)).length then answerX s d 2
    else if bits w0 5 0 = 0 then answerX s d 3
    else
      let q : Queue :=
        { num := n, domain := BitVec.ofNat 6 (bits w0 63 58), asid := BitVec.ofNat 16 (bits w0 57 42), cls := bits w0 9 8,
          weight := bits w0 5 0, syncBase := bits (nth 0 ws 1) 43 3 * 8, pool := bits (nth 0 ws 2) 43 6 * 64,
          nodes := bits (nth 0 ws 3) 31 0, mask := maskTable s (nth 0 ws 4), dev := dev,
          counts := countsOf (nth 0 ws 5) (nth 0 ws 6), recs := [], out := [], promo := 0, since := none, wake := false }
      answerX { s with dev := s.dev.onObjs (fun o => { o with queues := o.queues ++ [q] }) } d 0))

/-- An operation on a queue that stands; status 1 on an absent one. -/
def onQueue (s : State) (d : XReg) (n : Nat) (f : Queue → Queue) : Out :=
  match findQueue s.dev.objs n with
  | none => answerX s d 1
  | some q => answerX { s with dev := s.dev.onObjs (fun o => putQueue o (f q)) } d 0

/-- QCTL_WEIGHT. -/
def execQctlWeight (d a b : XReg) (s : State) : Out :=
  let v := s.dev.x b
  queueArg s a (fun n =>
    if !zeroBits v 63 10 || !zeroBits v 7 6 then reservedFault s 3
    else if (findQueue s.dev.objs n).isSome && bits v 5 0 = 0 then answerX s d 3
    else onQueue s d n (fun q => { q with weight := bits v 5 0, cls := bits v 9 8 }))

/-- QCTL_MASK: word 4 of the block is read. -/
def execQctlMask (d a b : XReg) (s : State) : Out :=
  queueArg s a (fun n => withBlock s (s.dev.x b) [4] (fun ws =>
    onQueue s d n (fun q => { q with mask := maskTable s (nth 0 ws 0) })))

/-- A queue owns a live helper's slot, a saved context's included. -/
def ownsLive (d : Dev) (n : Nat) : Bool :=
  d.cores.any (fun c => c.2.slots.any (fun e => isHelper e.1 && e.2.life == .live && e.2.owner == some n))

/-- A queue's barrier instances go with it (03 R40): one created again under its number begins anew. -/
def dropQueueBars (o : Objs) (f : Nat → Bool) : Objs :=
  { o with bars := o.bars.filter (fun b => b.level == 0 || !f b.queue), arrivals := o.arrivals.filter (fun a => a.1 == 0 || !f a.2.1) }

/-- QCTL_DESTROY: its slots become unowned. -/
def execQctlDestroy (d a b : XReg) (s : State) : Out :=
  queueArg s a (fun n =>
    if s.dev.x b ≠ 0 then reservedFault s 3
    else match findQueue s.dev.objs n with
      | none => answerX s d 1
      | some q =>
        if !q.recs.isEmpty || ownsLive s.dev n then answerX s d 4
        else
          let d1 := s.dev.onObjs (fun o => dropQueueBars { o with queues := o.queues.filter (fun x => x.num != n) } (fun x => x == n))
          let d2 := { d1 with cores := d1.cores.map (fun (c : Nat × Core) => (c.1, { c.2 with slots := c.2.slots.map (fun (e : Nat × Slot) =>
            (e.1, if e.2.owner = some n then { e.2 with owner := none } else e.2)) })) }
          answerX { s with dev := d2 } d 0)

/-- Stop or restart the dispatchers and slot arbiters. -/
def dispatchSet (d a b : XReg) (on : Bool) (s : State) : Out :=
  queueArg s a (fun _ =>
    if s.dev.x b ≠ 0 then reservedFault s 3
    else answerX { s with dev := s.dev.onObjs (fun o => { o with dispatch := on }) } d 0)

/-- QCTL_STOP. -/
def execQctlStop (d a b : XReg) (s : State) : Out := dispatchSet d a b false s

/-- QCTL_RESTART. -/
def execQctlRestart (d a b : XReg) (s : State) : Out := dispatchSet d a b true s

/-- The physical address that a byte of HBM has in another mode: its die and its place in the stack stay (03 R69). -/
def remapHbm (old new : BitVec 2) (pa : Nat) : Nat :=
  if hbmBytes ≤ pa then pa
  else
    let n := diesPer old
    let share := hbmBytes * n / 8
    let g := pa % share / 4096
    let die := pa / share * n + g % n
    let off := g / n * 4096 + pa % 4096
    let m := diesPer new
    die / m * (hbmBytes * m / 8) + (off / 4096 * m + die % m) * 4096 + off % 4096

/-- Re-key a table by word or line number. -/
def remapTab {α : Type} (old new : BitVec 2) (unit : Nat) (t : Tab α) : Tab α :=
  t.foldl (fun u e => Tab.set u (remapHbm old new (e.1 * unit) / unit) e.2) []

/-- Change the mode (03 R69): bytes keep their places in the stacks, the launch queues are to be created again. DESIGN CHOICE: a slot
keeps the number of the queue that owned it; the rules do not say (log 57). -/
def setMode (s : State) (m : BitVec 2) : State :=
  let o := s.dev.objs
  { mem := s.mem.foldl (fun u e => u.write (remapHbm o.mode m e.1) e.2) []
    dev := (s.dev.onMeta (fun x => { x with empty := remapTab o.mode m 8 x.empty, poison := remapTab o.mode m 64 x.poison
                                            tagBad := remapTab o.mode m 64 x.tagBad, kver := remapTab o.mode m 64 x.kver, key := remapTab o.mode m 64 x.key })).onObjs
        (fun o => dropQueueBars { o with mode := m, queues := [] } (fun _ => true)) }

/-- The conditions of R20. -/
def modeFree (d : Dev) : Bool :=
  d.cores.all (fun c => c.2.slots.all (fun e => !(isHelper e.1 && e.2.life == .live))) &&
    d.objs.queues.all (fun q => q.recs.isEmpty) && d.objs.guards.isEmpty

/-- QCTL_MODE (01 R20, 03 R69). -/
def execQctlMode (d a b : XReg) (s : State) : Out :=
  let v := s.dev.x b
  queueArg s a (fun _ =>
    if !zeroBits v 63 2 || v = 3 then reservedFault s 3
    else if !modeFree s.dev then answerX s d 5
    else if s.dev.objs.dispatch then answerX s d 6
    else answerX (setMode s (v.setWidth 2)) d 0)

/-- Barriers of a queue whose arrivals reach its counts complete (03 R40). -/
def settleBars (o : Objs) (n : Nat) : Objs :=
  { o with bars := o.bars.map (fun b =>
      if b.level ≠ 0 && b.queue = n && b.arrived > 0 && (findQueue o n).any (fun q => nth 0 q.counts (b.level - 1) ≤ b.arrived) then
        { b with gen := b.gen + 1, arrived := 0 } else b) }

/-- QCTL_COUNTS: words 5 and 6 of the block are read; a count lowered to the arrivals made completes its barrier (03 R40). -/
def execQctlCounts (d a b : XReg) (s : State) : Out :=
  queueArg s a (fun n => withBlock s (s.dev.x b) [5, 6] (fun ws =>
    match findQueue s.dev.objs n with
    | none => answerX s d 1
    | some q => answerX { s with dev := s.dev.onObjs (fun o =>
        settleBars (putQueue o { q with counts := countsOf (nth 0 ws 0) (nth 0 ws 1) }) n) } d 0))

/-! ### The debug context (R297) -/

/-- The register and slot that a debug operand names. -/
def dbgArg (s : State) (a : XReg) (halted : Bool) (k : State → XReg → Nat → Out) : Out :=
  let v := s.dev.x a
  if s.dev.who ≠ 14 then privFault s
  else if !zeroBits v 63 14 || !zeroBits v 7 4 then reservedFault s 2
  else (if halted then parkUnless s .halted else fun f => f s) (fun s => k s (BitVec.ofNat 6 (bits v 13 8)) (bits v 3 0))

/-- DBG_RD. -/
def execDbgRd (d a _b : XReg) (s : State) : Out :=
  dbgArg s a true (fun s x k => answerX s d ((s.dev.my.slot k).xr x))

/-- DBG_WR. -/
def execDbgWr (d a b : XReg) (s : State) : Out :=
  dbgArg s a true (fun s x k =>
    let v := s.dev.x b
    answerX { s with dev := s.dev.onSlot s.dev.rank k (fun t => t.setX x v) } d 0)

/-- DBG_STEP: the slot is let go for one instruction (`sent` = 1 marks that it was), then D takes its new PC. -/
def execDbgStep (d a _b : XReg) (s : State) : Out :=
  dbgArg s a true (fun s _ k =>
    if s.dev.me.sent = 0 && k ≠ 14 && (s.dev.my.slot k).life == .live then
      devStep s (fun w => (w.onSlot w.rank k (fun t => { t with stepping := true })).onMe (fun t =>
        { t with sent := 1, parked := some (.stepped k) }))
    else if (s.dev.my.slot k).stepping then devStep s (fun w => w.park (.stepped k))
    else devStep s (fun w => w.retire (fun t => { t.setX d ((w.my.slot k).pc.setWidth 64) with sent := 0 })))

/-- DBG_POST. -/
def execDbgPost (d a b : XReg) (s : State) : Out :=
  dbgArg s a false (fun s _ _ =>
    answerX { s with dev := s.dev.onPlat (fun p => { p with dbgq := p.dbgq ++ [s.dev.x b] }) } d 0)

/-! ### Store-fault records and frames (R298, R299) -/

/-- The two words of a store-fault record (20 R382). -/
def sfWords (e : CoreEng) (x : SfRec) : Word × Word :=
  (w64 (fld x.cause.toNat 56 + fld x.sub.toNat 48 + fld (homeSlot e x.slot) 44 + fld x.kind 40 + fld x.lane 32 + x.pc.toNat), x.addr)

/-- The first record that a test admits, and the queue without it. -/
def takeFirst (f : SfRec → Bool) : List SfRec → Option (SfRec × List SfRec)
  | [] => none
  | x :: r => if f x then some (x, r) else (takeFirst f r).map (fun y => (y.1, x :: y.2))

/-- SFPOP (R298). -/
def execSfpop (d : XReg) (s : State) : Out :=
  let k := s.dev.who
  if k ≠ 13 && k ≠ 15 then privFault s
  else
    let mine := fun (x : SfRec) => k == 15 || x.slot == s.dev.me.fault.toNat / 2 ^ 18
    match takeFirst mine s.dev.my.eng.sfq with
    | none => devStep s (fun v => v.retire (fun t => (t.setX d 0).setX (d + 1) 0))
    | some (x, rest) =>
      let w := sfWords s.dev.my.eng x
      devStep s (fun v => (v.onEng v.rank (fun e => { e with sfq := rest })).retire (fun t => (t.setX d w.1).setX (d + 1) w.2))

/-- A frame, or the walk that finds it, lies in a bank group whose activations are held (22 R417). -/
def frameHeld (s : State) (p : Word) : Bool :=
  s.dev.dies.any (fun e => !e.2.remap.isEmpty) && (walkHeld s s.dev.me.asid.toNat (paddr p) || (match walk s s.dev.me.asid.toNat (paddr p) with
    | some (level, leaf) => anyHeld s (.glob (leafPa level leaf (paddr p))) 40960
    | none => false))

/-- A frame's operands: the slot and the frame's physical address. -/
def frameArg (s : State) (a b : XReg) (wr : Bool) (k : Nat → Nat → Out) : Out :=
  let v := s.dev.x a
  let p := s.dev.x b
  if s.dev.who ≠ 15 then privFault s
  else if !zeroBits v 63 4 || !isHelper v.toNat then reservedFault s 2
  else if !tagsKnown p || !locBitsOk p || pspace p ≠ 0 then fault s 0x13 p 0
  else if paddr p % 2 ^ 16 ≠ 0 then fault s 0x14 p 0
  else if frameHeld s p then .next s
  else match checkWalk s s.dev.me.asid.toNat (paddr p) 40960 (!wr) wr with
    | .ok (.glob pa) _ => k v.toNat pa
    | .bad c => walkFault s c p 0
    | _ => walkFault s 0x10 p 0

/-- CTXSAVE: asks for the context to be halted and saved (20 R386, R387); the save writes status 0. -/
def execCtxsave (d a b : XReg) (s : State) : Out :=
  frameArg s a b true (fun v pa =>
    let t := s.dev.my.slot v
    if t.pre.isSome then devStep s (fun w => w.park (.preempted v))
    else if t.life ≠ .live then answerX s d 1
    else devStep s (fun w => (w.onSlot w.rank v (fun t => { t with pre := some ⟨1, 0, w.now, pa, false, some d⟩ })).park (.preempted v)))

/-- CTXREST (R299, 20 R389). -/
def execCtxrest (d a b : XReg) (s : State) : Out :=
  frameArg s a b false (fun v pa =>
    let st := restoreStatus s.dev s.mem s.dev.rank v pa
    if st ≠ 0 then answerX s d (w64 st) else answerX (restoreContext s s.dev.rank v pa) d 0)

end Sys2Proof.Machine
end

