-- ==== Sys2Proof/Machine/Perform.lean ====
section
/-! DEFINITION. PERFORM (06 R116): a home takes one request from a thread's bag and performs it; requests to a peer go to the
fabric port (10 R224). -/

namespace Sys2Proof.Machine

/-- The state without one request of a bag. -/
def unbag (s : State) (r k i : Nat) : State := { s with dev := s.dev.onThrFlow r k (fun f => { f with bag := dropAt f.bag i }) }

/-- A home's outcome reaches the thread. -/
def reply (r k : Nat) (q : Req) (x : State × Res) : State := { x.1 with dev := x.1.dev.onThrFlow r k (fun f => f.answer q x.2) }

/-- Whether an operation reads its word. -/
def ReqOp.readsWord : ReqOp → Bool
  | .load _ _ | .amo _ _ _ _ | .red _ _ _ | .cas _ _ => true
  | .fe f _ => f == .peek || f == .take
  | _ => false

/-- What an operation finds wrong with its word, or with the rest of a line that it writes in part (22 R411, R419): a full/empty
operation that waits for its word reads nothing. -/
def noteOp (s : State) (l : Loc) (op : ReqOp) : State :=
  if op.readsWord then
    (match op with
     | .fe _ _ => if s.isEmpty l then s else noteRead s l 8
     | _ => noteRead s l op.span)
  else if op.writes then notePartial s l op.span
  else s

/-- An ordinary access to a range bound since its check (04 R98). -/
def boundSince (d : Dev) (q : Req) (l : Loc) : Bool :=
  match l with
  | .glob _ => pspace q.ptr == 0 && rangeHit d.objs q.asid (paddr q.ptr) q.op.span
  | _ => false

/-- A memory request performed at its place (R116), or held there: no memory stands at a hole of the map (04 R85), a bank
group's activations may be held (22 R417), an accumulator word waits for the array (09 R193). A range bound meanwhile
refuses it (04 R98). -/
def performAt (s : State) (r k i : Nat) (q : Req) (l : Loc) : Out :=
  match noMemory s l with
  | some pa => .fault (.noSuchAddress pa)
  | none =>
    if placeHeld s l || routineHeld s l q then .next s
    else if boundSince s.dev q l then .next (reply r k q (unbag s r k i, if q.op.returns then .defer 0x12 0 else .failQ 0x12 0))
    else .next (performMem (noteOp s l q.op) r k i q l)

/-- A routine's request starts from no word of its own; a hop whose word is held waits (22 R417). -/
def performChase (s : State) (r k i : Nat) (q : Req) : Out :=
  if routineHeld s (.glob 0) q then .next s else .next (performMem s r k i q (.glob 0))

/-- A space-5 access of a privileged context (04 R76, R77, 11 R456): a failed die's words read as poison and take no write (24 R434). -/
def performCtl (s : State) (r k i : Nat) (q : Req) (off : Nat) : Out :=
  let s0 := unbag s r k i
  match q.op with
  | .store _ v => .next (reply r k q (if s.lost (.ctl off) then (s0, .failQ 0x68 0) else (ctlWrite s0 .core off v, .ack)))
  | _ => .next (reply r k q (s0, if s.poisoned (.ctl off) then .defer 0x68 (poisonOpnd 0 1) else .ret [ctlRead s0.dev off] true))

/-- A request to this device's own peer number, through its own port (10 R224, 25 R452). -/
def performPort (s : State) (r k i : Nat) (q : Req) (va : Nat) : Out :=
  let bad := fun (c : Byte) => peerRes q (.code c 0)
  if ptrHeld s q.asid q.ptr then .next s
  else match portWalk s s.dev.objs.peerSelf.toNat va q.op.span (q.op.returns || q.op.reads) q.op.writes with
  | .ok l key => performAt s r k i { q with key := key } l
  | .bad c =>
    let s1 := if c = 0x10 then notePort s s.dev.objs.peerSelf.toNat va else s
    .next (reply r k q (unbag s1 r k i, bad c))
  | .miss _ _ => .next (reply r k q (unbag s r k i, bad 0x10))

/-- A memory request, by the kind of its place. -/
def performWord (s : State) (r k i : Nat) (q : Req) : Out :=
  match q.loc with
  | .peer p va =>
    if p = s.dev.objs.peerSelf.toNat then performPort s r k i q va
    else .next { s with dev := (unbag s r k i).dev.toFabric r k [q] }
  | .ctl off => performCtl s r k i q off
  | l => performAt s r k i q l

/-- A guard request at its manager, by the guard word's physical address (07 R142); at a peer's, through the fabric. -/
def performGuard (s : State) (r k i : Nat) (q : Req) (f : State → Nat → State × Res) : Out :=
  match q.loc with
  | .glob pa => if managerBusy s pa then .next s else .next (reply r k q (f (unbag s r k i) pa))
  | .peer p va =>
    if p = s.dev.objs.peerSelf.toNat then
      match portWalk s p va 8 false false with
      | .ok (.glob pa) _ => if managerBusy s pa then .next s else .next (reply r k q (f (unbag s r k i) pa))
      | .bad c => .next (reply r k q (unbag (if c = 0x10 then notePort s p va else s) r k i, .refuse c q.ptr 0))
      | _ => .next (reply r k q (unbag s r k i, .refuse 0x10 q.ptr 0))
    else .next { s with dev := (unbag s r k i).dev.toFabric r k [q] }
  | _ => .next s

/-- `start`: the record is read at its place, then the device judges (13 R280, R281). -/
def performStart (s : State) (r k i : Nat) (q : Req) (w : Word) : Out :=
  match noMemory s q.loc with
  | some pa => .fault (.noSuchAddress pa)
  | none =>
    if anyHeld s q.loc 64 then .next s
    else
      let s0 := noteRead (unbag s r k i) q.loc 64
      if s.poisonedIn q.loc 64 then .next (reply r k q (s0, .defer 0x68 (poisonOpnd 0 1 + 0x400)))
      else .next (reply r k q (homeStart s0 r q w (recordAtLoc s0 q.loc q.key)))

/-- A request that may have to stay where it is until the device can answer it. -/
def performOrStay (s : State) (r k i : Nat) (q : Req) (f : State → State × Res) : Out :=
  let x := f (unbag s r k i)
  if x.2 = .wait then .next s else .next (reply r k q x)

/-- A `dcall` at its target: a halted die's core queues it (24 R432), a failed one takes none (24 R434). -/
def performDcall (s : State) (r k i : Nat) (q : Req) (rank pc : Nat) (args : List Word) : Out :=
  if (s.dev.die (dieOf rank)).failed then .next s
  else .next (reply r k q (homeDcall (unbag s r k i) r k q rank pc args))

/-- Room that a performed request left lets checked posted operations enter the bag (06 R115). -/
def andSend (r k : Nat) (o : Out) : Out :=
  match o with
  | .next s => .next (({ s with dev := s.dev.sendReady r k } : State).frameSync r k [])
  | x => x

/-- PERFORM: request `i` of the thread in slot `k` of core `r`, or of the saved context under the number `k` (R116, R117). -/
def execPerform (r k i : Nat) (s : State) : Out :=
  match nth? (s.dev.thr r k).flow.bag i with
  | none => .next s
  | some q =>
    if earlierSame s r k q || unitDown s.dev q.op then .next s
    else
      let at_ := fun (f : State → State × Res) => Host.Outcome.next (reply r k q (f (unbag s r k i)))
      andSend r k (match q.op with
      | .load _ _ | .store _ _ | .fe _ _ | .amo _ _ _ _ | .red _ _ _ | .cas _ _ | .enq _ | .deq => performWord s r k i q
      | .chase _ _ _ _ => performChase s r k i q
      | .bind region sc n1 code => performGuard s r k i q (fun s pa => homeBind s r k q region sc n1 code pa)
      | .unbind => performGuard s r k i q (fun s pa => homeUnbind s r k q pa)
      | .gacq _ e => performGuard s r k i q (fun s pa => homeGacq s r k q e pa)
      | .grel e => performGuard s r k i q (fun s pa => homeGrel s r k q e pa)
      | .gflush => performGuard s r k i q (fun s pa => homeGflush s r k q pa)
      | .copen mask => if tableHeld s q then .next s else at_ (fun s => homeCopen s q mask)
      | .cjoin n role h => at_ (fun s => homeCjoin s r k q n role h)
      | .csend _ _ cap _ => .next (homeConv (unbag s r k i) r k q cap)
      | .cdeleg _ cap _ => .next (homeConv (unbag s r k i) r k q cap)
      | .cclose h => at_ (fun s => homeCclose s q h)
      | .cstat h => at_ (fun s => (s, .ret [homeCstat s h] true))
      | .dcall rank pc args => performDcall s r k i q rank pc args
      | .spawn head queue rec => at_ (fun s =>
          let x := enqueueRecord s head queue (some q.domain) q.ptr rec
          (x.1, .ret [w64 x.2] true))
      | .start w => performStart s r k i q w
      | .reap lead => performOrStay s r k i q (fun s => homeReap s r lead)
      | .mcoop v => performOrStay s r k i q (fun s => homeMcoop s r k q v)
      | .send _ | .block _ _ | .fetch _ _ | .gdrop _ | .gback _ _ => .next s)

end Sys2Proof.Machine
end

