-- ==== Sys2Proof/Machine/Sched.lean ====
section
/-! DEFINITION. The hardware scheduler (03 R52 to R63, R70): slot arbiters, dispatchers and promotion. -/

namespace Sys2Proof.Machine

/-- A queue's effective class (R58). -/
def effClass (q : Queue) : Nat := Nat.min 3 (q.cls + q.promo)

/-- The queue's mask includes a core (R52, 13 R296 word 4). -/
def maskHas (mode : BitVec 2) (q : Queue) (r : Nat) : Bool :=
  q.dev == ldevOf mode (dieOf r) &&
    (nth 0 q.mask (4 * (dieOf r % diesPer mode) + r % 256 / 64)).getLsbD (r % 64)

/-- The oldest eligible record. -/
def oldestEligible (q : Queue) : Option QRec := q.recs.find? (·.eligible)

/-- The contenders of an arbitration: queues with an eligible record that meet the place condition, of the highest effective
class that has one (R58). -/
def contenders (o : Objs) (place : Queue → Bool) : List Queue :=
  let qs := o.queues.filter (fun q => (oldestEligible q).isSome && place q)
  let top := qs.foldl (fun a q => Nat.max a (effClass q)) 0
  qs.filter (fun q => effClass q == top)

/-- One arbitration: the winner and the credits; a queue that does not contend has credit 0 (R57). -/
def arbitrate (qs : List Queue) (credit : Tab Int) : Option Nat × Tab Int :=
  let p := swrr (qs.map (fun q => (q.num, Tab.get 0 credit q.num, (q.weight : Int))))
  (p.1, p.2.foldl (fun t e => Tab.set t e.1 e.2) [])

/-- The next free helper slot after the one last considered, counting 1 to 10 in a circle (R59). -/
def nextFree (c : Core) (last : Nat) : Option Nat :=
  ((upto 10).map (fun i => (last + i) % 10 + 1)).find? (fun k => (c.slot k).life == .free)

/-- The contenders at a core's slot arbiter (R58, R59). -/
def slotContenders (d : Dev) (r : Nat) : List Queue := contenders d.objs (fun q => maskHas d.objs.mode q r)

/-- SLOT_ARBITRATION (R59, 24 R435). -/
def execSlotArbitration (r : Nat) (s : State) : Out :=
  let c := s.dev.core r
  if !s.dev.objs.dispatch || !c.running || !s.dev.engineUp r || (s.dev.coach (unitOf r)).final then .next s
  else match nextFree c c.eng.arbLast with
    | none => .next s
    | some k =>
      let p := arbitrate (slotContenders s.dev r) c.eng.arbCredit
      devStep s (fun d =>
        let d1 := d.onEng r (fun e => { e with arbLast := k, arbCredit := p.2 })
        match p.1 with
        | some w => d1.onSlot r k (fun t => { t with owner := some w })
        | none => d1)

/-- Free slots of a queue on a core that outstanding task events count (R62). -/
def promisedSlots (d : Dev) (q : Queue) (r : Nat) : Nat :=
  (q.out.filter (fun x => x.core == some r)).foldl (fun a x =>
    let started := ((d.core r).eng.groups.find? (fun g => g.queue == q.num && paddr g.recPtr == x.node && g.members.length < g.gsize)).elim 0
      (fun g => g.members.length)
    a + (bits (nth 0 x.words 0) 33 30 - started)) 0

/-- A core meets a dispatcher's conditions for a queue's oldest eligible record (R61). -/
def coreQualifies (d : Dev) (q : Queue) (r : Nat) : Bool :=
  match oldestEligible q with
  | none => false
  | some x =>
    let c := d.core r
    let w0 := nth 0 x.words 0
    let gsize := bits w0 33 30
    let free := ((upto 11).filter (fun k => isHelper k && (c.slot k).life == .free && (c.slot k).owner == some q.num)).length
    c.running && maskHas d.objs.mode q r && !(d.coach (unitOf r)).final && gsize + promisedSlots d q r ≤ free &&
      (upto gsize).all (fun i => !engineTaken c (BitVec.ofNat 3 (bits w0 29 0 / 2 ^ (3 * i)))) &&
      c.eng.events.length < 64 && c.eng.eventWait.isEmpty

/-- The cores of a die in circular order of rank after the one last served. -/
def coresAfter (die last : Nat) : List Nat := (upto 256).map (fun i => die * 256 + (last + 1 + i) % 256)

/-- The contenders at a die's dispatcher (R58, R61): a queue whose home has failed answers no dequeue (01 R21). -/
def dispatchable (d : Dev) (die : Nat) : List Queue :=
  contenders d.objs (fun q => !queueDown d q && (coresAfter die (d.die die).last).any (fun r => coreQualifies d q r))

/-- Credits of the queues that still contend: a queue that stops contending returns to credit 0 (R57). -/
def keepCredits (qs : List Queue) (t : Tab Int) : Tab Int := t.filter (fun e => qs.any (fun q => q.num == e.1))

/-- Every arbiter's credits, in the state reached (R57). -/
def settleCredits (d : Dev) : Dev :=
  { d with
    cores := d.cores.map (fun c => if c.2.eng.arbCredit.isEmpty then c
      else (c.1, { c.2 with eng := { c.2.eng with arbCredit := keepCredits (slotContenders d c.1) c.2.eng.arbCredit } }))
    dies := d.dies.map (fun h => if h.2.credit.isEmpty then h else (h.1, { h.2 with credit := keepCredits (dispatchable d h.1) h.2.credit })) }

/-- DISPATCH_ARBITRATION (R61): the winner's oldest eligible record goes to a core as a task event. The dequeue is the home's last act
of the cycle (R70). -/
def execDispatchArbitration (die : Nat) (s : State) : Out :=
  let d := s.dev
  let h := d.die die
  if !d.objs.dispatch || h.failed || d.plat.pfault || 8 ≤ die then .next s
  else
    let order := coresAfter die h.last
    let p := arbitrate (dispatchable d die) h.credit
    let d1 := d.onDie die (fun h => { h with credit := p.2 })
    match p.1.bind (fun w => d.objs.queues.find? (fun q => q.num == w)) with
    | none => devStep s (fun _ => d1)
    | some q =>
      match oldestEligible q, order.find? (fun r => coreQualifies d q r) with
      | some x, some r =>
        devStep s (fun _ =>
          let q1 : Queue := { q with recs := q.recs.filter (fun y => y.node != x.node), out := q.out ++ [{ x with core := some r }],
                                     promo := 0, since := none }
          ((d1.onObjs (fun o => { putQueue o (q1.touch d.now) with dequeued := true })).onDie die (fun h => { h with last := r % 256 })).event r
            (w64 (fld 1 60)) (w64 x.node) none)
      | _, _ => devStep s (fun _ => d1)

/-- One millisecond of the 1.8 GHz clock (R60). -/
def promoCycles : Nat := 1800000

/-- QUEUE_PROMOTION (R60). -/
def execQueuePromotion (n : Nat) (s : State) : Out :=
  match s.dev.objs.queues.find? (fun q => q.num == n) with
  | none => .next s
  | some q =>
    match q.since with
    | none => .next s
    | some t =>
      if t + promoCycles ≤ s.dev.now then
        devStep s (fun d => d.onObjs (fun o => putQueue o
          { q with promo := if effClass q < 3 then q.promo + 1 else q.promo, since := some (t + promoCycles) }))
      else .next s

end Sys2Proof.Machine
end

