-- ==== Sys2Proof/Machine/Threads.lean ====
section
/-! DEFINITION. The device's own steps at a thread's fetch and wake: the overlay request (04 R79), the decoding faults (12
R265 to R267), the wake of a parked thread (03 R43). -/

namespace Sys2Proof.Machine

/-- Addresses and operands of a decoding fault (12 R267, 21 R396). -/
def decodeCause : DecodeFault → Byte × BitVec 32
  | .check n => (0x01, n.setWidth 32)
  | .position p => (0x02, p.setWidth 32)

/-- ILLEGAL_INSTRUCTION: a word fails checks 1 to 4 (12 R265 to R267). -/
def execIllegalInstruction (f : DecodeFault) (s : State) : Out :=
  fault s (decodeCause f).1 s.dev.pcAddr (decodeCause f).2

/-- The overlay request of a helper (10 R215 type 5). -/
def overlayEvent (k : Nat) (pc : PcIx) : Word × Word := (w64 (fld 5 60 + fld k 56), w64 pc.toNat)

/-- INSTRUCTION_FETCH_BEYOND_BOUND: the thread parks with an overlay request to the control context (04 R79). -/
def execInstructionFetchBeyondBound (s : State) : Out :=
  devStep s (fun d =>
    let d1 := d.park .overlay
    if isHelper d.who then d1.event d.rank (overlayEvent d.who d.me.pc).1 (overlayEvent d.who d.me.pc).2 none else d1)

/-- A die save holds the control contexts of its die that stand parked in `evpop` (11 R247). -/
def saveHolds (d : Dev) (r k : Nat) : Bool :=
  match d.plat.dieOp with
  | some o => o.save && o.die == dieOf r && k == 0 && (d.slot r k).parked == some .event
  | none => false

/-- A thread wakes: its logical device's deadlock, if one was reported, is over (03 R65). -/
def wakeThread (d : Dev) (r k : Nat) : Dev :=
  (d.onSlot r k (fun t => { t with parked := none })).onPlat (fun p =>
    { p with deadlockRaised := p.deadlockRaised.filter (fun j => j != ldevOf d.objs.mode (dieOf r)) })

/-- PARKED_THREAD_WAKE: a parked thread whose condition holds becomes issuable (03 R43). -/
def execParkedThreadWake (r k : Nat) (s : State) : Out :=
  match (s.dev.slot r k).parked with
  | none => .next s
  | some c => devStep s (fun d => if c.holds s r k && !saveHolds d r k then wakeThread d r k else d)

end Sys2Proof.Machine
end

