-- ==== Sys2Proof/Machine/Upkeep.lean ====
section
/-! DEFINITION. What the hardware does to itself: the patrol scrub (04 R91, 22 R415), row remap (22 R417, R418), local-memory
banks (R419), page migration (04 R88, 06 R137, 22 R420), CXL extents (04 R86), debug port and TAP (11 R241), power and ageing
(11 R237 to R239, 24 R435), and a die that fails (24 R434). -/

namespace Sys2Proof.Machine

/-! ### The scrub -/

/-- A line under its key slot's write version; a line that nothing has written carries no version (log 8). -/
def Dev.rekey (d : Dev) (line : Nat) : Dev :=
  match d.lineSlot line with
  | none => d
  | some k => d.encryptLine k line

/-- A line joins runs of lines, disjoint and rising. -/
def addRun (line : Nat) : List (Nat × Nat) → List (Nat × Nat)
  | [] => [(line, line + 1)]
  | (a, b) :: r =>
    if line + 1 < a then (line, line + 1) :: (a, b) :: r
    else if line + 1 = a then (line, b) :: r
    else if line < b then (a, b) :: r
    else if line = b then
      (match r with
       | (c, e) :: r1 => if c = line + 1 then (a, e) :: r1 else (a, line + 1) :: r
       | [] => [(a, line + 1)])
    else (a, b) :: addRun line r

/-- What runs of lines leave of the lines from `lo` to `hi`. -/
def gaps (lo hi : Nat) : List (Nat × Nat) → List (Nat × Nat)
  | [] => if lo < hi then [(lo, hi)] else []
  | (a, b) :: r =>
    if hi ≤ a then (if lo < hi then [(lo, hi)] else [])
    else if lo < a then (lo, a) :: gaps (Nat.max lo b) hi r
    else gaps (Nat.max lo b) hi r

/-- The lines of the configured nodes, as runs (11 R243, 04 R85, R86). -/
def configuredLines (o : Objs) : List (Nat × Nat) :=
  (0, hbmBytes / 64) :: (if o.farLp6 then [(lp6Base / 64, lp6End / 64)] else []) ++
    (if o.farCxl then (o.cxl.filter (fun e => e.2 != 0)).map (fun e => (cxlBase / 64 + 2 ^ 21 * e.1, cxlBase / 64 + 2 ^ 21 * (e.1 + 1))) else [])

/-- SCRUB_VISIT (04 R91, 22 R415), once per pass: `found` is what the symbol code and the tag show: 0 whole, 1 corrected, else neither. A
line of a lost group or a failed die has nothing to visit (log 40). -/
def execScrubVisit (line : Nat) (found : BitVec 2) (s : State) : Out :=
  let pa := 64 * line
  let seen := s.dev.plat.visited.any (fun e => e.1 ≤ line && line < e.2)
  if !s.dev.plat.scrubBusy || seen || (noMemory s (.glob pa)).isSome || s.heldBank (.glob pa) || s.lost (.glob pa) then .next s
  else
    let s : State := { s with dev := s.dev.onPlat (fun p => { p with visited := addRun line p.visited }) }
    let die := s.dev.objs.homeDie pa
    if s.dev.badTag line || 2 ≤ found.toNat then
      .next (memRecord { mem := s.mem.setBytes pa (List.replicate 64 0)
                         dev := (s.dev.rekey line).onMeta (fun m => { m with poison := Tab.put false m.poison line true }) } 3 die 0 pa)
    else
      let s1 : State := { s with dev := s.dev.rekey line }
      .next (if found = 1 then memRecord s1 1 die 0 pa else s1)

/-- The pass has visited every line of every configured node that can be visited (11 R243). -/
def passWhole (s : State) : Bool :=
  (configuredLines s.dev.objs).all (fun n => (gaps n.1 n.2 s.dev.plat.visited).all (fun g =>
    (upto (g.2 - g.1)).all (fun i => s.lost (.glob (64 * (g.1 + i))))))

/-- SCRUB_PASS_END (04 R91, 11 R243). -/
def execScrubPassEnd (s : State) : Out :=
  if s.dev.plat.scrubBusy && passWhole s then
    devStep s (fun d => (d.onPlat (fun p => { p with scrubBusy := false })).post 3 0)
  else .next s

/-! ### The row-remap table -/

/-- The 64 KiB frames that hold a line of a bank group (22 R418). -/
def groupFrames (mode : BitVec 2) (die bg : Nat) : List Nat :=
  (upto (hbmBytes / 65536)).filter (fun f => (upto 1024).any (fun i =>
    hbmDie mode (65536 * f + 64 * i) == die && (Config.bankGroup (1024 * f + i)).toNat == bg))

/-- REMAP_ENTRY_FAIL (R417, R418): activations are held, or the group is lost. -/
def execRemapEntryFail (die bg : Nat) (dramOk : Bool) (s : State) : Out :=
  let h := s.dev.die die
  if 8 ≤ die || 256 ≤ bg || h.failed || Tab.get 0 h.remap bg = 2 then .next s
  else
    let s1 : State := { s with dev := s.dev.onDie die (fun h => { h with remap := Tab.set h.remap bg (if dramOk then 1 else 2) }) }
    .next (if dramOk then s1
      else (groupFrames s.dev.objs.mode die bg).foldl (fun s f => memRecord s 5 die bg (65536 * f)) s1)

/-- REMAP_RELOAD (R417): the entry is reloaded, and what was held may be performed. Which line of the group the record names, the manual
does not say: it is free (log 40). -/
def execRemapReload (die bg : Nat) (s : State) : Out :=
  if Tab.get 0 (s.dev.die die).remap bg = 1 then
    let line := (Config.freeWord s.dev.free).toNat % (hbmBytes / 64)
    .next (memRecord { s with dev := { s.dev.onDie die (fun h => { h with remap := Tab.set h.remap bg 0 }) with free := s.dev.free + 1 } } 4 die bg
      (64 * line))
  else .next s

/-! ### Local-memory banks (R419) -/

/-- `ctl.lmstat` with `n` more words corrected. -/
def lmstatMore (w : Word) (n : Nat) : Word := w64 (fld (Nat.min 0xFFFFFFFF (bits w 63 32 + n)) 32 + bits w 31 0)

/-- `ctl.lmstat` once a bank is marked; 16 reads were corrected. -/
def lmstatMark (w : Word) (bank : Nat) : Word :=
  let n := Nat.min 0xFFFFFFFF (bits w 63 32 + 16)
  let low := if !w.getLsbD 5 then bits w 11 6 * 2 ^ 6 + 2 ^ 5 + bank
    else if !w.getLsbD 11 && bits w 4 0 ≠ bank then 2 ^ 11 + fld bank 6 + bits w 5 0
    else bits w 11 0
  w64 (fld n 32 + low)

/-- A first or second bank is marked and rebuilt on every read; beyond two, the bank's words are uncorrectable. -/
def markBank (r bank : Nat) (s : State) : Out :=
  let c := s.dev.core r
  let w := c.regs.lmstat
  if 18 ≤ bank || 2048 ≤ r then .next s
  else
    let third := w.getLsbD 5 && w.getLsbD 11 && bits w 4 0 ≠ bank && bits w 10 6 ≠ bank
    if third then
      devStep s (fun d => d.onCore r (fun c => { c with
        lpoison := (upto 32768).foldl (fun t i => if i % 16 = bank then Tab.put false t i true else t) c.lpoison }))
    else
      let s1 : State := { s with dev := s.dev.onRegs r (fun x => { x with lmstat := lmstatMark w bank }) }
      let off := (Config.freeWord s.dev.free).toNat % 2 ^ 18
      .next (memRecord { s1 with dev := { s1.dev with free := s.dev.free + 1 } } 6 (dieOf r) bank (fld off 11 + r))

/-- LOCAL_BANK_MARK_FAILED: a bank to be marked, words that the code corrected otherwise, or a word with a further erroneous symbol
beyond the marked banks, which then reads as poison (22 R412). -/
def execLocalBankMarkFailed (r : Nat) (found : BankFinding) (s : State) : Out :=
  match found with
  | .mark bank => markBank r bank s
  | .corrected n => if 2048 ≤ r then .next s else devStep s (fun d => d.onRegs r (fun x => { x with lmstat := lmstatMore x.lmstat n }))
  | .uncorrectable w =>
    if 2048 ≤ r || 32768 ≤ w then .next s else devStep s (fun d => d.onCore r (fun c => { c with lpoison := Tab.put false c.lpoison w true }))

/-! ### CXL extents (04 R86) -/

/-- A port in memory mode (R230). -/
def memoryPort (p : Plat) (n : Nat) : Bool := (n == 1 && !p.cxlHost1) || (n == 2 && !p.cxlHost2)

/-- CXL_EXTENT_ACCEPT: each 128 MiB unit records its port; node 2 must be configured. -/
def execCxlExtentAccept (p : BitVec 2) (unit n : Nat) (s : State) : Out :=
  let o := s.dev.objs
  if o.farCxl && memoryPort s.dev.plat p.toNat && unit + n ≤ 32768 && (upto n).all (fun i => Tab.get 0 o.cxl (unit + i) == 0) then
    devStep s (fun d => d.onObjs (fun o => { o with cxl := (upto n).foldl (fun t i => Tab.set t (unit + i) p.toNat) o.cxl }))
  else .next s

/-- A place lies at physical addresses from `lo` to `hi`. -/
def Loc.within (lo hi : Nat) : Loc → Bool
  | .glob pa => lo ≤ pa && pa < hi
  | _ => false

/-- A delivery or a refresh still moves a sub-block from or to addresses from `lo` to `hi`. -/
def xferTargets (s : State) (lo hi : Nat) (x : Xfer) : Bool :=
  match guardOf s.dev.objs x.guard with
  | none => false
  | some g => x.list.any (fun j => match regionAt s g j with
    | some (pa, _) => lo < pa + blockSize g.code.toNat && pa < hi
    | none => false)

/-- A request under way targets physical addresses from `lo` to `hi` (04 R86): of a thread, of a matrix unit, of a copy or a stream
whose words are in place and not yet full, of a guard's transfers. -/
def targets (s : State) (lo hi : Nat) : Bool :=
  let at' := Loc.within lo hi
  !(s.dev.inFlight (fun _ q => at' q.loc)).isEmpty ||
    s.dev.cores.any (fun c =>
      c.2.eng.ewords.any (fun w => w.loc.any (fun l => at' l.1)) || c.2.eng.copies.any (fun x => x.inPlace.any (fun e => at' e.2.2.1)) ||
        c.2.eng.streams.any (fun x => x.2.cover.any (fun w => at' w.2.1)) || c.2.eng.xfers.any (xferTargets s lo hi))

/-- A migration involves addresses from `lo` to `hi`: its page, or its target node (04 R86). -/
def migTargets (s : State) (lo hi : Nat) : Bool :=
  s.dev.objs.migs.any (fun m => m.node == 2 || (match walk s m.asid m.va with
    | some (_, leaf) => lo ≤ leafBase leaf && leafBase leaf < hi
    | none => false))

/-- CXL_EXTENT_RELEASE: refused while a request or a migration targets the extent. -/
def execCxlExtentRelease (unit n : Nat) (s : State) : Out :=
  let lo := cxlBase + unit * 2 ^ 27
  let hi := cxlBase + (unit + n) * 2 ^ 27
  if targets s lo hi || migTargets s lo hi then .next s
  else devStep s (fun d => d.onObjs (fun o => { o with cxl := o.cxl.filter (fun e => !(unit ≤ e.1 && e.1 < unit + n)) }))

/-! ### TAP and debug port (11 R241) -/

/-- The TAP's instruction. -/
def tap (n : BitVec 2) (s : State) : Out :=
  devStep s (fun d => d.onPlat (fun p => { p with jtag := n, idcode := if n = 3 then some 0x1A0805A7 else none }))

/-- TAP_BYPASS. -/
def execTapBypass (s : State) : Out := tap 0 s

/-- TAP_SAMPLE_PRELOAD. -/
def execTapSamplePreload (s : State) : Out := tap 1 s

/-- TAP_EXTEST. -/
def execTapExtest (s : State) : Out := tap 2 s

/-- TAP_IDCODE. -/
def execTapIdcode (s : State) : Out := tap 3 s

/-- A core's open elision sections abort at a debug halt (08 R182 cause 6). -/
def haltSections (c : Core) : Core := { c with slots := c.slots.map (fun e => (e.1, e.2.abort 6 0)) }

/-- DEBUG_HALT_DIE. -/
def execDebugHaltDie (n : Nat) (s : State) : Out :=
  if s.dev.plat.debug && n < 8 then
    devStep s (fun d => { d.onDie n (fun h => { h with halted := true }) with
      cores := d.cores.map (fun c => if dieOf c.1 = n then (c.1, haltSections c.2) else c) })
  else .next s

/-- DEBUG_RESUME_DIE: calls that came to its cores meanwhile are judged (24 R432). -/
def execDebugResumeDie (n : Nat) (s : State) : Out :=
  if s.dev.plat.debug && n < 8 then
    devStep s (fun d => (upto 256).foldl (fun d i => judgeQueued d (256 * n + i)) (d.onDie n (fun h => { h with halted := false })))
  else .next s

/-- DEBUG_PORT_WORK: the port gives slot 14 of a core its work, an entry; or has no more, and the slot is idle (03 R44, R45; log 57). -/
def execDebugPortWork (r : Nat) (pc : Option PcIx) (s : State) : Out :=
  let t := s.dev.slot r 14
  if !s.dev.plat.debug || 2048 ≤ r || !s.dev.engineUp r then .next s
  else match pc with
    | some pc =>
      if !serviceIdle t then .next s
      else devStep s (fun d => d.onSlot r 14 (fun t => { life := .live, owner := t.owner, pc := pc, flow := { nextId := t.flow.nextId } }))
    | none =>
      if t.life ≠ .live then .next s else devStep s (fun d => d.onSlot r 14 (fun t => { owner := t.owner, flow := t.flow }))

/-! ### Power and ageing -/

/-- 20 ms at 1.8 GHz. -/
def capWait : Nat := 36000000

/-- POWER_CAP_RAISE (R237, R248): the controller finds how the averages stand; the capping bin rises where one would exceed its limit
(`raise`), and whenever one comes to exceed it. -/
def execPowerCapRaise (above : PowerOver) (raise : Bool) (s : State) : Out :=
  devStep s (fun d => d.onPlat (fun p =>
    let q := { p with over10 := above.tenMs, over1s := above.oneS }
    if raise || (above.tenMs && !p.over10) || (above.oneS && !p.over1s) then
      { q with cap := if p.cap = 6 then 6 else p.cap + 1, capSince := if p.cap = 5 then d.now else p.capSince }
    else q))

/-- POWER_CAP_LOWER (R237): 10 ms below both limits. -/
def execPowerCapLower (s : State) : Out :=
  devStep s (fun d => d.onPlat (fun p => { p with over10 := false, over1s := false, cap := if p.cap = 0 then 0 else p.cap - 1 }))

/-- A core without power: its contexts, local memory and engines are gone; it still reads as started (log 41). -/
def unpowered (c : Core) : Core := { running := c.running }

/-- POWER_FAULT (R237): 20 ms at bin 6 did not suffice; the core rails, which feed the cores, the matrix units, local memory and the
accumulators (01 R14), lose power until reset. -/
def execPowerFault (s : State) : Out :=
  let p := s.dev.plat
  if p.cap = 6 && (p.over10 || p.over1s) && p.capSince + capWait ≤ s.dev.now then
    devStep s (fun d => { d.onPlat (fun p => { p with pfault := true }) with
      cores := d.cores.map (fun c => (c.1, unpowered c.2))
      coaches := d.coaches.map (fun c => (c.1, { c.2 with bank := [], step := none })) })
  else .next s

/-- The voltage of the next re-plan, in mV above 0.45 V (R239). -/
def replan (volt need : Nat) : Nat := Nat.min 150 (if volt < need then volt + Nat.min 15 (need - volt) else need)

/-- AGEING_SAMPLE (R239, 24 R435): `need` at the present bin, `needNext` at the next. -/
def execAgeingSample (u need needNext : Nat) (s : State) : Out :=
  let c := s.dev.coach u
  let b8 := fun n => BitVec.ofNat 8 (Nat.min n 255)
  if 256 ≤ u then .next s
  else if need ≤ 150 then
    devStep s (fun d => d.onCoach u (fun c => { c with need := b8 need, volt := b8 (replan c.volt.toNat need) }))
  else if c.abin = 6 then
    devStep s (fun d =>
      let d1 := d.onCoach u (fun c => { c with need := b8 need, volt := 150, final := true })
      if c.final then d1 else d1.post 5 u)
  else
    devStep s (fun d => (d.onCoach u (fun c =>
      { c with need := b8 needNext, volt := b8 (replan c.volt.toNat needNext), exhausted := true, abin := c.abin + 1 })).post 4 u)

/-! ### A die that fails (24 R434) -/

/-- A core of a failed die: stopped; deliveries out of its buffers go on, as poison (22 R412 source 8), and the calls queued or served
there stay unanswered (24 R434). -/
def failCore (die : Nat) (c : Core) : Core :=
  { stopCore c with eng := { xfers := c.eng.xfers.filter (fun x => !x.refresh && dieOf x.rank != die), dq := c.eng.dq, dserve := c.eng.dserve } }

/-- DIE_FAILURE: dies 0 to 7, F0 as 8, F1 as 9. -/
def execDieFailure (n : Nat) (s : State) : Out :=
  if 10 ≤ n then .next s
  else devStep s (fun d =>
    let d1 := if n = 8 then d.onPlat (fun p => { p with farFailed0 := true })
      else if n = 9 then d.onPlat (fun p => { p with farFailed1 := true })
      else { (d.onDie n (fun h => { h with failed := true })) with
        cores := d.cores.map (fun (c : Nat × Core) => if dieOf c.1 = n then (c.1, failCore n c.2) else c)
        coaches := d.coaches.map (fun c => if c.1 / 32 = n then (c.1, { c.2 with step := none }) else c) }
    d1.post 6 n)

/-! ### Migration (04 R88, 06 R137, 11 R244, 22 R420) -/

/-- The free-frame list of a node for a page level (R244). -/
def frameList (node level : Nat) : Nat :=
  (if node = 0 then 0x570 else if node = 1 then 0x5A0 else 0x5B0) + (if level = 2 then 0 else 8)

/-- Take a frame, as `mos.deq` does; none from an absent or empty list. -/
def takeFrame (s : State) (node level : Nat) : Option (State × Nat) :=
  let h := (s.dev.plat.reg (frameList node level)).toNat
  let head := s.mem.word h
  if h = 0 || head = 0 then none
  else
    let f := paddr head
    let link := s.mem.word f
    let m := s.mem.setWord h link
    some (s.physMem (if link = 0 then m.setWord (h + 8) 0 else m) h 16, f)

/-- Put a frame back, as `mos.enq` does. -/
def putFrame (s : State) (node level f : Nat) : State :=
  let h := (s.dev.plat.reg (frameList node level)).toNat
  if h = 0 then s
  else
    let tail := s.mem.word (h + 8)
    let m := s.mem.setWord f 0
    let m1 := if tail = 0 then m.setWord h (w64 f) else m.setWord (paddr tail) (w64 f)
    (s.physMem (m1.setWord (h + 8) (w64 f)) h 16).withDev (fun d => d.encryptPhys (if tail = 0 then f else paddr tail) 8 |>.encryptPhys f 8)

/-- Entries of a table moved from one run of keys to another. -/
def moveTab {α : Type} (old new n : Nat) (t : Tab α) : Tab α :=
  (t.filter (fun e => old ≤ e.1 && e.1 < old + n)).foldl (fun u e => Tab.set u (e.1 - old + new) e.2)
    (t.filter (fun e => !(new ≤ e.1 && e.1 < new + n)))

/-- A page's bytes copied to a new frame. -/
def movePage (m : Mem) (old new n : Nat) : Mem :=
  (m.filter (fun e => old ≤ e.1 && e.1 < old + n)).foldl (fun u e => u.write (e.1 - old + new) e.2)
    ((m.filter (fun e => new ≤ e.1 && e.1 < new + n)).foldl (fun u e => u.write e.1 0) m)

/-- A place follows its page. -/
def Loc.follow (old new n : Nat) : Loc → Loc
  | .glob pa => if old ≤ pa && pa < old + n then .glob (pa - old + new) else .glob pa
  | l => l

def Req.follow (old new n : Nat) (q : Req) : Req := { q with loc := q.loc.follow old new n }

def Slot.follow (old new n : Nat) (t : Slot) : Slot :=
  { t with flow := { t.flow with bag := t.flow.bag.map (Req.follow old new n), posted := t.flow.posted.map (Req.follow old new n) } }

/-- What a core's requests and engines hold by physical address. -/
def Core.follow (old new n : Nat) (c : Core) : Core :=
  { c with
    slots := c.slots.map (fun (e : Nat × Slot) => (e.1, e.2.follow old new n))
    eng := { c.eng with
      saved := c.eng.saved.map (fun (q : Saved) => { q with ctx := q.ctx.follow old new n })
      ewords := c.eng.ewords.map (fun (w : EWord) => { w with loc := w.loc.map (fun l => (l.1.follow old new n, l.2)) })
      copies := c.eng.copies.map (fun (x : Copy) => { x with inPlace := x.inPlace.map (fun i => (i.1, i.2.1, i.2.2.1.follow old new n, i.2.2.2)) })
      streams := c.eng.streams.map (fun (x : Nat × Stream) => (x.1, { x.2 with cover := x.2.cover.map (fun w => (w.1, w.2.1.follow old new n, w.2.2)) })) } }

/-- Every request under way for a page is redirected to its new frame (R88 step 5, 06 R137); counters are not counted again. -/
def followPage (d : Dev) (old new n : Nat) : Dev :=
  { d with
    cores := d.cores.map (fun (c : Nat × Core) => (c.1, c.2.follow old new n))
    objs := { d.objs with feWait := d.objs.feWait.map (fun (w : Nat × Nat × Req) => (w.1, w.2.1, w.2.2.follow old new n))
                          peerCover := d.objs.peerCover.map (fun w => (w.1, w.2.1.follow old new n, w.2.2)) } }

/-- The page's lines in their new frame: full/empty bits, poison, a lost line's included, and keys. -/
def moveMeta (s : State) (d : Dev) (old new n : Nat) : Dev :=
  d.onMeta (fun m =>
    let key := moveTab (old / 64) (new / 64) (n / 64) m.key
    { m with empty := moveTab (old / 8) (new / 8) (n / 8) m.empty
             poison := (upto (n / 64)).foldl (fun t i => Tab.put false t (new / 64 + i) (s.poisoned (.glob (old + 64 * i)))) m.poison
             key := key
             tagBad := m.tagBad.filter (fun e => !(new / 64 ≤ e.1 && e.1 < new / 64 + n / 64))
             kver := (moveTab (old / 64) (new / 64) (n / 64) m.kver).map (fun (e : Nat × BitVec 2) =>
               if new / 64 ≤ e.1 && e.1 < new / 64 + n / 64 then (e.1, (Tab.get {} d.plat.keys (Tab.get 0 key e.1)).ver) else e) })

/-- The first line of a frame that cannot be written (22 R420). -/
def badLine (s : State) (f n : Nat) : Option Nat := ((upto (n / 64)).map (fun i => f + 64 * i)).find? (fun a => s.lost (.glob a))

/-- The line at which the write to a new frame fails: one that cannot be written, or the one that meets an uncorrectable error, as the
event says (22 R420). -/
def badWrite (s : State) (turn : MigTurn) (f n : Nat) : Option Nat :=
  (badLine s f n).or (turn.badLine.bind (fun i => if 64 * i < n then some (f + 64 * i) else none))

/-- Some line of a frame has its activations held. -/
def pageHeld (s : State) (f n : Nat) : Bool := (upto (n / 64)).any (fun i => s.heldBank (.glob (f + 64 * i)))

/-- A frame that a far-tier die's engine serves (R88): one with its LP6 granules, as every page of node 1 has, or in a CXL unit of its
port. -/
def engineFrame (o : Objs) (f base : Nat) : Bool :=
  nodeOf base == 1 || (nodeOf base == 2 && Tab.get 0 o.cxl ((base - cxlBase) / 2 ^ 27) == f + 1)

/-- The engine of far-tier die `f` serves a move (R88): its page's frame or the frame it goes to is one of its own. A request that
touches neither's is answered by either, with the status that it ends in (log 43). A failed die's engine serves none (01 R21). -/
def migServes (s : State) (f : Nat) (m : Mig) : Bool :=
  let touches := fun (f : Nat) => match walk s m.asid m.va with
    | none => false
    | some (level, leaf) => engineFrame s.dev.objs f (leafBase leaf) || (takeFrame s m.node level).any (fun x => engineFrame s.dev.objs f x.2)
  f < 2 && !s.dev.dieDown (8 + f) && (touches f || !touches (1 - f))

/-- The move's status reaches its `pmig` (13 R295); the engine's own policy has nobody to tell. -/
def migAnswer (d : Dev) (m : Mig) (st : Nat) : Dev :=
  let d1 := d.onObjs (fun o => { o with migs := o.migs.erase m })
  if m.byPolicy then d1
  else d1.onSlot m.rank m.slot (fun t =>
    if t.parked = some .service then { (t.setX m.dst (w64 st)).advance with parked := none } else t)

/-- The leaf entry's own address. -/
def leafAt (s : State) (asid va : Nat) : Nat := (walkReads s.mem 3 0 (Tab.get 0 s.dev.objs.roots asid) va).getLast?.getD 0

/-- The move proper, to a frame taken from the target's list. -/
def movePageTo (s : State) (turn : MigTurn) (m : Mig) (level : Nat) (leaf : Word) (s1 : State) (frame : Nat) : State :=
  let old := leafBase leaf
  let n := 2 ^ pageShift level
  match badWrite s1 turn frame n with
  | some a =>
    let s2 := memRecord (putFrame s1 m.node level frame) 9 (8 + turn.engine) 0x68 a
    { s2 with dev := migAnswer s2.dev m 4 }
  | none =>
    let e := leafAt s m.asid m.va
    let leaf1 := w64 (fld (bits leaf 63 44) 44 + frame / 2 ^ 14 * 2 ^ 14 + bits leaf 13 0)
    let s2 := State.physMem { s1 with dev := moveMeta s s1.dev old frame n } ((movePage s1.mem old frame n).setWord e leaf1) e 8
    let d1 := invalidate s2 3 (.page m.asid m.va)
    let s3 : State := { s2 with dev := followPage d1 old frame n }
    let s4 := putFrame s3 (nodeOf old) level old
    { s4 with dev := migAnswer s4.dev m 0 }

/-- MIGRATION: the engine of far-tier die `turn.engine` takes its oldest request and moves the page, or answers why not. -/
def execMigration (turn : MigTurn) (s : State) : Out :=
  match s.dev.objs.migs.find? (migServes s turn.engine) with
  | none => .next s
  | some m =>
    let no := fun (st : Nat) => devStep s (fun d => migAnswer d m st)
    if walkHeld s m.asid m.va then .next s
    else match walk s m.asid m.va with
    | none => devStep (noteWalk s m.asid m.va) (fun d => migAnswer d m 2)
    | some (level, leaf) =>
      if level = 0 || m.va % 2 ^ pageShift level ≠ 0 then no 2
      else if !nodeConfigured s.dev.objs m.node then no 3
      else if nodeOf (leafBase leaf) = m.node then no 0
      else if guardIn s.dev.objs (leafBase leaf) (2 ^ pageShift level) then no 1
      else if pageHeld s (leafBase leaf) (2 ^ pageShift level) then .next s
      else match takeFrame s m.node level with
        | none => no 3
        | some (s1, frame) =>
          if !s.dev.objs.exists frame then .fault (.noSuchAddress frame)
          else if pageHeld s frame (2 ^ pageShift level) then .next s
          else .next (movePageTo s turn m level leaf s1 frame)

/-- MIGRATION_SAMPLE (R88, R244): within an interval a far page had `count` accesses; `page` is ASID and page number
(log 12). -/
def execMigrationSample (f : Nat) (page : Nat) (count : Nat) (s : State) : Out :=
  let w := s.dev.plat.reg (0x560 + 8 * f)
  let asid := page / 2 ^ 33
  let va := page % 2 ^ 33 * 2 ^ 16
  match walk s asid va with
  | none => .next s
  | some (level, leaf) =>
    let base := va / 2 ^ pageShift level * 2 ^ pageShift level
    let m : Mig := ⟨asid, base, 0, 0, 0, 0, true⟩
    if f < 2 && w.getLsbD 63 && bits w 31 0 < count && level ≠ 0 && nodeOf (leafBase leaf) ≠ 0 &&
        engineFrame s.dev.objs f (leafBase leaf) && !s.dev.dieDown (8 + f) && !guardIn s.dev.objs (leafBase leaf) (2 ^ pageShift level) &&
        (takeFrame s 0 level).isSome && !s.dev.objs.migs.any (fun x => x.asid == asid && x.va == base) then
      devStep s (fun d => d.onObjs (fun o => { o with migs := o.migs ++ [m] }))
    else .next s

end Sys2Proof.Machine
end

