-- ==== Sys2Proof/Machine/Dispatch.lean ====
section
/-! DEFINITION. The dispatch: one arm for each constructor of Instr, each one direct call of its meaning. -/

namespace Sys2Proof.Machine

/-- The effect of an instruction of the issuing thread, or of a step of the device. -/
def exec (i : Instr) (s : State) : Host.Outcome State Fault Refusal :=
  match i with
  | .nop => Sys2Proof.Machine.execNop s
  | .add d a b => Sys2Proof.Machine.execAdd d a b s
  | .sub d a b => Sys2Proof.Machine.execSub d a b s
  | .and d a b => Sys2Proof.Machine.execAnd d a b s
  | .or d a b => Sys2Proof.Machine.execOr d a b s
  | .xor d a b => Sys2Proof.Machine.execXor d a b s
  | .andn d a b => Sys2Proof.Machine.execAndn d a b s
  | .shl d a b => Sys2Proof.Machine.execShl d a b s
  | .shr d a b => Sys2Proof.Machine.execShr d a b s
  | .sar d a b => Sys2Proof.Machine.execSar d a b s
  | .rol d a b => Sys2Proof.Machine.execRol d a b s
  | .min d a b => Sys2Proof.Machine.execMin d a b s
  | .max d a b => Sys2Proof.Machine.execMax d a b s
  | .minz d a b => Sys2Proof.Machine.execMinz d a b s
  | .maxz d a b => Sys2Proof.Machine.execMaxz d a b s
  | .mul d a b => Sys2Proof.Machine.execMul d a b s
  | .mulh d a b => Sys2Proof.Machine.execMulh d a b s
  | .mulhz d a b => Sys2Proof.Machine.execMulhz d a b s
  | .div d a b => Sys2Proof.Machine.execDiv d a b s
  | .divz d a b => Sys2Proof.Machine.execDivz d a b s
  | .rem d a b => Sys2Proof.Machine.execRem d a b s
  | .remz d a b => Sys2Proof.Machine.execRemz d a b s
  | .clz d a => Sys2Proof.Machine.execClz d a s
  | .ctz d a => Sys2Proof.Machine.execCtz d a s
  | .popc d a => Sys2Proof.Machine.execPopc d a s
  | .bext d a lo w1 => Sys2Proof.Machine.execBext d a lo w1 s
  | .bextz d a lo w1 => Sys2Proof.Machine.execBextz d a lo w1 s
  | .bins d a lo w1 => Sys2Proof.Machine.execBins d a lo w1 s
  | .li d v => Sys2Proof.Machine.execLi d v s
  | .lih d v => Sys2Proof.Machine.execLih d v s
  | .sel d a b => Sys2Proof.Machine.execSel d a b s
  | .padd d a b => Sys2Proof.Machine.execPadd d a b s
  | .pidx d a b => Sys2Proof.Machine.execPidx d a b s
  | .ptag d a space t => Sys2Proof.Machine.execPtag d a space t s
  | .pfmt d a fmt lcode => Sys2Proof.Machine.execPfmt d a fmt lcode s
  | .pget d a f => Sys2Proof.Machine.execPget d a f s
  | .plin d a => Sys2Proof.Machine.execPlin d a s
  | .cmpEq d a b => Sys2Proof.Machine.execCmpEq d a b s
  | .cmpNe d a b => Sys2Proof.Machine.execCmpNe d a b s
  | .cmpLt d a b => Sys2Proof.Machine.execCmpLt d a b s
  | .cmpLe d a b => Sys2Proof.Machine.execCmpLe d a b s
  | .cmpLtz d a => Sys2Proof.Machine.execCmpLtz d a s
  | .cmpLez d a => Sys2Proof.Machine.execCmpLez d a s
  | .pand d a b => Sys2Proof.Machine.execPand d a b s
  | .por d a b => Sys2Proof.Machine.execPor d a b s
  | .pxor d a b => Sys2Proof.Machine.execPxor d a b s
  | .pnot d a => Sys2Proof.Machine.execPnot d a s
  | .pmov d a => Sys2Proof.Machine.execPmov d a s
  | .br off => Sys2Proof.Machine.execBr off s
  | .jmp t => Sys2Proof.Machine.execJmp t s
  | .call d t => Sys2Proof.Machine.execCall d t s
  | .callr d a => Sys2Proof.Machine.execCallr d a s
  | .ret a => Sys2Proof.Machine.execRet a s
  | .lp d t => Sys2Proof.Machine.execLp d t s
  | .start d a b => Sys2Proof.Machine.execStart d a b s
  | .reap d a => Sys2Proof.Machine.execReap d a s
  | .endThread a => Sys2Proof.Machine.execEndThread a s
  | .semWait n => Sys2Proof.Machine.execSemWait n s
  | .semPost n k => Sys2Proof.Machine.execSemPost n k s
  | .semTry d n => Sys2Proof.Machine.execSemTry d n s
  | .wait ld st cp tl => Sys2Proof.Machine.execWait ld st cp tl s
  | .evpop d => Sys2Proof.Machine.execEvpop d s
  | .spawn head d a b => Sys2Proof.Machine.execSpawn head d a b s
  | .ld sz sx o d a off => Sys2Proof.Machine.execLd sz sx o d a off s
  | .st sz o a b off => Sys2Proof.Machine.execSt sz o a b off s
  | .ldFePeek k d a off => Sys2Proof.Machine.execLdFePeek k d a off s
  | .ldFeTake k d a off => Sys2Proof.Machine.execLdFeTake k d a off s
  | .stFeFill k a b off => Sys2Proof.Machine.execStFeFill k a b off s
  | .stFePut k a b off => Sys2Proof.Machine.execStFePut k a b off s
  | .stFeClr a off => Sys2Proof.Machine.execStFeClr a off s
  | .amoAdd w64 o d a b off => Sys2Proof.Machine.execAmoAdd w64 o d a b off s
  | .amoAnd w64 o d a b off => Sys2Proof.Machine.execAmoAnd w64 o d a b off s
  | .amoOr w64 o d a b off => Sys2Proof.Machine.execAmoOr w64 o d a b off s
  | .amoXor w64 o d a b off => Sys2Proof.Machine.execAmoXor w64 o d a b off s
  | .amoMin w64 o d a b off => Sys2Proof.Machine.execAmoMin w64 o d a b off s
  | .amoMax w64 o d a b off => Sys2Proof.Machine.execAmoMax w64 o d a b off s
  | .amoMinz w64 o d a b off => Sys2Proof.Machine.execAmoMinz w64 o d a b off s
  | .amoMaxz w64 o d a b off => Sys2Proof.Machine.execAmoMaxz w64 o d a b off s
  | .amoSwap w64 o d a b off => Sys2Proof.Machine.execAmoSwap w64 o d a b off s
  | .amoCas w64 o d a b off => Sys2Proof.Machine.execAmoCas w64 o d a b off s
  | .amoFadd o d a b off => Sys2Proof.Machine.execAmoFadd o d a b off s
  | .amoFmin o d a b off => Sys2Proof.Machine.execAmoFmin o d a b off s
  | .amoFmax o d a b off => Sys2Proof.Machine.execAmoFmax o d a b off s
  | .redAdd w64 o a b off => Sys2Proof.Machine.execRedAdd w64 o a b off s
  | .redAnd w64 o a b off => Sys2Proof.Machine.execRedAnd w64 o a b off s
  | .redOr w64 o a b off => Sys2Proof.Machine.execRedOr w64 o a b off s
  | .redXor w64 o a b off => Sys2Proof.Machine.execRedXor w64 o a b off s
  | .redMin w64 o a b off => Sys2Proof.Machine.execRedMin w64 o a b off s
  | .redMax w64 o a b off => Sys2Proof.Machine.execRedMax w64 o a b off s
  | .redMinz w64 o a b off => Sys2Proof.Machine.execRedMinz w64 o a b off s
  | .redMaxz w64 o a b off => Sys2Proof.Machine.execRedMaxz w64 o a b off s
  | .redFadd o a b off => Sys2Proof.Machine.execRedFadd o a b off s
  | .redFmin o a b off => Sys2Proof.Machine.execRedFmin o a b off s
  | .redFmax o a b off => Sys2Proof.Machine.execRedFmax o a b off s
  | .mosCas2 o p d a b => Sys2Proof.Machine.execMosCas2 o p d a b s
  | .mosCas4 o p d a b => Sys2Proof.Machine.execMosCas4 o p d a b s
  | .mosEnq o a b => Sys2Proof.Machine.execMosEnq o a b s
  | .mosDeq o d a => Sys2Proof.Machine.execMosDeq o d a s
  | .mosChase d a hops off => Sys2Proof.Machine.execMosChase d a hops off s
  | .fence k => Sys2Proof.Machine.execFence k s
  | .fenceOc k => Sys2Proof.Machine.execFenceOc k s
  | .fenceCo k => Sys2Proof.Machine.execFenceCo k s
  | .drains => Sys2Proof.Machine.execDrains s
  | .barArrive l => Sys2Proof.Machine.execBarArrive l s
  | .barWait l => Sys2Proof.Machine.execBarWait l s
  | .barArrivewait l => Sys2Proof.Machine.execBarArrivewait l s
  | .bind k d a b n1 code => Sys2Proof.Machine.execBind k d a b n1 code s
  | .unbind d a => Sys2Proof.Machine.execUnbind d a s
  | .gacqX d a b => Sys2Proof.Machine.execGacqX d a b s
  | .gacqS d a b => Sys2Proof.Machine.execGacqS d a b s
  | .grel a => Sys2Proof.Machine.execGrel a s
  | .gflush a => Sys2Proof.Machine.execGflush a s
  | .gcall t j => Sys2Proof.Machine.execGcall t j s
  | .gret => Sys2Proof.Machine.execGret s
  | .dcall d a pc n => Sys2Proof.Machine.execDcall d a pc n s
  | .dret a => Sys2Proof.Machine.execDret a s
  | .copen d a b => Sys2Proof.Machine.execCopen d a b s
  | .cjoin n h r => Sys2Proof.Machine.execCjoin n h r s
  | .csend n b k m => Sys2Proof.Machine.execCsend n b k m s
  | .cdeleg n b => Sys2Proof.Machine.execCdeleg n b s
  | .cclose d h => Sys2Proof.Machine.execCclose d h s
  | .cstat d h => Sys2Proof.Machine.execCstat d h s
  | .elb t => Sys2Proof.Machine.execElb t s
  | .ele => Sys2Proof.Machine.execEle s
  | .ela code => Sys2Proof.Machine.execEla code s
  | .vfadd t rnd d a b m => Sys2Proof.Machine.execVfadd t rnd d a b m s
  | .vfsub t rnd d a b m => Sys2Proof.Machine.execVfsub t rnd d a b m s
  | .vfmul t rnd d a b m => Sys2Proof.Machine.execVfmul t rnd d a b m s
  | .vfma t rnd d a b m => Sys2Proof.Machine.execVfma t rnd d a b m s
  | .vfms t rnd d a b m => Sys2Proof.Machine.execVfms t rnd d a b m s
  | .vfnma t rnd d a b m => Sys2Proof.Machine.execVfnma t rnd d a b m s
  | .vfmin t d a b m => Sys2Proof.Machine.execVfmin t d a b m s
  | .vfmax t d a b m => Sys2Proof.Machine.execVfmax t d a b m s
  | .vfabs t d a m => Sys2Proof.Machine.execVfabs t d a m s
  | .vfneg t d a m => Sys2Proof.Machine.execVfneg t d a m s
  | .vadd d a b m => Sys2Proof.Machine.execVadd d a b m s
  | .vsub d a b m => Sys2Proof.Machine.execVsub d a b m s
  | .vmul d a b m => Sys2Proof.Machine.execVmul d a b m s
  | .vand d a b m => Sys2Proof.Machine.execVand d a b m s
  | .vor d a b m => Sys2Proof.Machine.execVor d a b m s
  | .vxor d a b m => Sys2Proof.Machine.execVxor d a b m s
  | .vshl d a b m => Sys2Proof.Machine.execVshl d a b m s
  | .vshr d a b m => Sys2Proof.Machine.execVshr d a b m s
  | .vsar d a b m => Sys2Proof.Machine.execVsar d a b m s
  | .vmin d a b m => Sys2Proof.Machine.execVmin d a b m s
  | .vmax d a b m => Sys2Proof.Machine.execVmax d a b m s
  | .vrcp t rnd d a m => Sys2Proof.Machine.execVrcp t rnd d a m s
  | .vrsqrt t rnd d a m => Sys2Proof.Machine.execVrsqrt t rnd d a m s
  | .vsqrt t rnd d a m => Sys2Proof.Machine.execVsqrt t rnd d a m s
  | .vexp2 t rnd d a m => Sys2Proof.Machine.execVexp2 t rnd d a m s
  | .vlog2 t rnd d a m => Sys2Proof.Machine.execVlog2 t rnd d a m s
  | .vcmpEq t d a b m => Sys2Proof.Machine.execVcmpEq t d a b m s
  | .vcmpNe t d a b m => Sys2Proof.Machine.execVcmpNe t d a b m s
  | .vcmpLt t d a b m => Sys2Proof.Machine.execVcmpLt t d a b m s
  | .vcmpLe t d a b m => Sys2Proof.Machine.execVcmpLe t d a b m s
  | .vsel d a b m => Sys2Proof.Machine.execVsel d a b m s
  | .vcvt dstFmt srcFmt rnd d a m => Sys2Proof.Machine.execVcvt dstFmt srcFmt rnd d a m s
  | .vredSum t rnd d a m => Sys2Proof.Machine.execVredSum t rnd d a m s
  | .vredMax t d a m => Sys2Proof.Machine.execVredMax t d a m s
  | .vredMin t d a m => Sys2Proof.Machine.execVredMin t d a m s
  | .vscanSum t rnd d a m => Sys2Proof.Machine.execVscanSum t rnd d a m s
  | .vscanMax t d a m => Sys2Proof.Machine.execVscanMax t d a m s
  | .vscanMin t d a m => Sys2Proof.Machine.execVscanMin t d a m s
  | .vperm d a b m => Sys2Proof.Machine.execVperm d a b m s
  | .vbcast d a m => Sys2Proof.Machine.execVbcast d a m s
  | .vslide d a b n m => Sys2Proof.Machine.execVslide d a b n m s
  | .vld w d a off m => Sys2Proof.Machine.execVld w d a off m s
  | .vldStride w d a b off m => Sys2Proof.Machine.execVldStride w d a b off m s
  | .vldIndex w d a b off m => Sys2Proof.Machine.execVldIndex w d a b off m s
  | .vst w d a off m => Sys2Proof.Machine.execVst w d a off m s
  | .vstStride w d a b off m => Sys2Proof.Machine.execVstStride w d a b off m s
  | .vstIndex w d a b off m => Sys2Proof.Machine.execVstIndex w d a b off m s
  | .vsetl d a => Sys2Proof.Machine.execVsetl d a s
  | .vsetlImm d n1 => Sys2Proof.Machine.execVsetlImm d n1 s
  | .vsetlRd d => Sys2Proof.Machine.execVsetlRd d s
  | .vsetlStart a => Sys2Proof.Machine.execVsetlStart a s
  | .mand d a b => Sys2Proof.Machine.execMand d a b s
  | .mor d a b => Sys2Proof.Machine.execMor d a b s
  | .mxor d a b => Sys2Proof.Machine.execMxor d a b s
  | .mnot d a => Sys2Proof.Machine.execMnot d a s
  | .mpop d a => Sys2Proof.Machine.execMpop d a s
  | .mfirst d a => Sys2Proof.Machine.execMfirst d a s
  | .vget d a l => Sys2Proof.Machine.execVget d a l s
  | .vput d a l => Sys2Proof.Machine.execVput d a l s
  | .pair v k => Sys2Proof.Machine.execPair v k s
  | .mm ta tb acc a b k mrows ncols => Sys2Proof.Machine.execMm ta tb acc a b k mrows ncols s
  | .mmc tgt ta acc accs b k => Sys2Proof.Machine.execMmc tgt ta acc accs b k s
  | .sqd tb acc a b k mrows ncols => Sys2Proof.Machine.execSqd tb acc a b k mrows ncols s
  | .topkMax d acc b k nb => Sys2Proof.Machine.execTopkMax d acc b k nb s
  | .topkMin d acc b k nb => Sys2Proof.Machine.execTopkMin d acc b k nb s
  | .macz acc mrows ncols => Sys2Proof.Machine.execMacz acc mrows ncols s
  | .macst rnd d acc mrows ncols => Sys2Proof.Machine.execMacst rnd d acc mrows ncols s
  | .macld acc a mrows ncols => Sys2Proof.Machine.execMacld acc a mrows ncols s
  | .mcoop d a => Sys2Proof.Machine.execMcoop d a s
  | .mqry d => Sys2Proof.Machine.execMqry d s
  | .cp d a len c => Sys2Proof.Machine.execCp d a len c s
  | .cpa d a b c => Sys2Proof.Machine.execCpa d a b c s
  | .cpm d a len c => Sys2Proof.Machine.execCpm d a len c s
  | .cpres d tag => Sys2Proof.Machine.execCpres d tag s
  | .sbind k a b => Sys2Proof.Machine.execSbind k a b s
  | .sdrop d k => Sys2Proof.Machine.execSdrop d k s
  | .nsend e m a b => Sys2Proof.Machine.execNsend e m a b s
  | .tsend e m c thr a b => Sys2Proof.Machine.execTsend e m c thr a b s
  | .rcsetRd d c => Sys2Proof.Machine.execRcsetRd d c s
  | .rcsetWr d c b => Sys2Proof.Machine.execRcsetWr d c b s
  | .rcsetAdd d c b => Sys2Proof.Machine.execRcsetAdd d c b s
  | .ctlr d num slot other => Sys2Proof.Machine.execCtlr d num slot other s
  | .ctlw num slot other a => Sys2Proof.Machine.execCtlw num slot other a s
  | .trap imm => Sys2Proof.Machine.execTrap imm s
  | .eret a => Sys2Proof.Machine.execEret a s
  | .tlbinvAsid reach a => Sys2Proof.Machine.execTlbinvAsid reach a s
  | .tlbinvPage reach a b => Sys2Proof.Machine.execTlbinvPage reach a b s
  | .tlbinvAll reach a => Sys2Proof.Machine.execTlbinvAll reach a s
  | .setxb d a => Sys2Proof.Machine.execSetxb d a s
  | .rtinv all a => Sys2Proof.Machine.execRtinv all a s
  | .ovld d a b => Sys2Proof.Machine.execOvld d a b s
  | .pmig d a b => Sys2Proof.Machine.execPmig d a b s
  | .qctlCreate d a b => Sys2Proof.Machine.execQctlCreate d a b s
  | .qctlWeight d a b => Sys2Proof.Machine.execQctlWeight d a b s
  | .qctlMask d a b => Sys2Proof.Machine.execQctlMask d a b s
  | .qctlDestroy d a b => Sys2Proof.Machine.execQctlDestroy d a b s
  | .qctlStop d a b => Sys2Proof.Machine.execQctlStop d a b s
  | .qctlRestart d a b => Sys2Proof.Machine.execQctlRestart d a b s
  | .qctlMode d a b => Sys2Proof.Machine.execQctlMode d a b s
  | .qctlCounts d a b => Sys2Proof.Machine.execQctlCounts d a b s
  | .dbgRd d a b => Sys2Proof.Machine.execDbgRd d a b s
  | .dbgWr d a b => Sys2Proof.Machine.execDbgWr d a b s
  | .dbgStep d a b => Sys2Proof.Machine.execDbgStep d a b s
  | .dbgPost d a b => Sys2Proof.Machine.execDbgPost d a b s
  | .sfpop d => Sys2Proof.Machine.execSfpop d s
  | .ctxsave d a b => Sys2Proof.Machine.execCtxsave d a b s
  | .ctxrest d a b => Sys2Proof.Machine.execCtxrest d a b s
  | .instructionFetchBeyondBound => Sys2Proof.Machine.execInstructionFetchBeyondBound s
  | .parkedThreadWake r k => Sys2Proof.Machine.execParkedThreadWake r k s
  | .perform r k j => Sys2Proof.Machine.execPerform r k j s
  | .acknowledge r k j => Sys2Proof.Machine.execAcknowledge r k j s
  | .returnValue r k j => Sys2Proof.Machine.execReturnValue r k j s
  | .engineStep r u => Sys2Proof.Machine.execEngineStep r u s
  | .slotArbitration r => Sys2Proof.Machine.execSlotArbitration r s
  | .dispatchArbitration die => Sys2Proof.Machine.execDispatchArbitration die s
  | .queuePromotion q => Sys2Proof.Machine.execQueuePromotion q s
  | .eventQueuePost r => Sys2Proof.Machine.execEventQueuePost r s
  | .deadlockTrap j => Sys2Proof.Machine.execDeadlockTrap j s
  | .pageWalk r j evCore evDie => Sys2Proof.Machine.execPageWalk r j evCore evDie s
  | .storeFaultRecordEnter r => Sys2Proof.Machine.execStoreFaultRecordEnter r s
  | .impreciseStoreFault r k => Sys2Proof.Machine.execImpreciseStoreFault r k s
  | .deferredFault r k => Sys2Proof.Machine.execDeferredFault r k s
  | .trapHandlerStart r => Sys2Proof.Machine.execTrapHandlerStart r s
  | .agentFaultTake wake => Sys2Proof.Machine.execAgentFaultTake wake s
  | .preemptHalt r k => Sys2Proof.Machine.execPreemptHalt r k s
  | .preemptTimeout r k => Sys2Proof.Machine.execPreemptTimeout r k s
  | .guardGrant g => Sys2Proof.Machine.execGuardGrant g s
  | .grantArrival r k => Sys2Proof.Machine.execGrantArrival r k s
  | .guardDelivery r j => Sys2Proof.Machine.execGuardDelivery r j s
  | .guardRefresh r j => Sys2Proof.Machine.execGuardRefresh r j s
  | .heldSendAccept c => Sys2Proof.Machine.execHeldSendAccept c s
  | .delegatedCallServe r => Sys2Proof.Machine.execDelegatedCallServe r s
  | .matrixOperandFetch u c slip => Sys2Proof.Machine.execMatrixOperandFetch u c slip s
  | .matrixStepBoundary u => Sys2Proof.Machine.execMatrixStepBoundary u s
  | .arrayStepEnd u => Sys2Proof.Machine.execArrayStepEnd u s
  | .matrixTlRelease r => Sys2Proof.Machine.execMatrixTlRelease r s
  | .copyPiece r j k slip => Sys2Proof.Machine.execCopyPiece r j k slip s
  | .copyComplete r j => Sys2Proof.Machine.execCopyComplete r j s
  | .streamRunaheadFetch r n slip => Sys2Proof.Machine.execStreamRunaheadFetch r n slip s
  | .streamDrain r n slip => Sys2Proof.Machine.execStreamDrain r n slip s
  | .messagePlacement j => Sys2Proof.Machine.execMessagePlacement j s
  | .tsendFire r c => Sys2Proof.Machine.execTsendFire r c s
  | .migration turn => Sys2Proof.Machine.execMigration turn s
  | .migrationSample f page count => Sys2Proof.Machine.execMigrationSample f page count s
  | .hostWindowPost p q rec => Sys2Proof.Machine.execHostWindowPost p q rec s
  | .hostWakeArm p q => Sys2Proof.Machine.execHostWakeArm p q s
  | .hostWakeDisarm p q => Sys2Proof.Machine.execHostWakeDisarm p q s
  | .hostApertureAccess va n w => Sys2Proof.Machine.execHostApertureAccess va n w s
  | .claim p => Sys2Proof.Machine.execClaim p s
  | .offer p t => Sys2Proof.Machine.execOffer p t s
  | .release p => Sys2Proof.Machine.execRelease p s
  | .controlSpaceWrite w off v => Sys2Proof.Machine.execControlSpaceWrite w off v s
  | .coreLoadDataWrite w v => Sys2Proof.Machine.execCoreLoadDataWrite w v s
  | .coreLoadBoundWrite w v => Sys2Proof.Machine.execCoreLoadBoundWrite w v s
  | .coreStart w entry => Sys2Proof.Machine.execCoreStart w entry s
  | .coreStop w => Sys2Proof.Machine.execCoreStop w s
  | .keyStage w => Sys2Proof.Machine.execKeyStage w s
  | .scrubStart w period => Sys2Proof.Machine.execScrubStart w period s
  | .scrubVisit line found => Sys2Proof.Machine.execScrubVisit line found s
  | .scrubPassEnd => Sys2Proof.Machine.execScrubPassEnd s
  | .bufferReclaim w v => Sys2Proof.Machine.execBufferReclaim w v s
  | .dieSave w v => Sys2Proof.Machine.execDieSave w v s
  | .dieRestore w v => Sys2Proof.Machine.execDieRestore w v s
  | .measurementExtend w => Sys2Proof.Machine.execMeasurementExtend w s
  | .attestationRequest p => Sys2Proof.Machine.execAttestationRequest p s
  | .attestationReportReady p => Sys2Proof.Machine.execAttestationReportReady p s
  | .debugEnableWrite w v => Sys2Proof.Machine.execDebugEnableWrite w v s
  | .recoveryGo p => Sys2Proof.Machine.execRecoveryGo p s
  | .linkRetrain w l => Sys2Proof.Machine.execLinkRetrain w l s
  | .reset stage failing setup => Sys2Proof.Machine.execReset stage failing setup s
  | .bootReady => Sys2Proof.Machine.execBootReady s
  | .tapBypass => Sys2Proof.Machine.execTapBypass s
  | .tapSamplePreload => Sys2Proof.Machine.execTapSamplePreload s
  | .tapExtest => Sys2Proof.Machine.execTapExtest s
  | .tapIdcode => Sys2Proof.Machine.execTapIdcode s
  | .debugHaltDie d => Sys2Proof.Machine.execDebugHaltDie d s
  | .debugResumeDie d => Sys2Proof.Machine.execDebugResumeDie d s
  | .powerCapRaise above raise => Sys2Proof.Machine.execPowerCapRaise above raise s
  | .powerCapLower => Sys2Proof.Machine.execPowerCapLower s
  | .powerFault => Sys2Proof.Machine.execPowerFault s
  | .ageingSample u need needNext => Sys2Proof.Machine.execAgeingSample u need needNext s
  | .ownerLinkDown p => Sys2Proof.Machine.execOwnerLinkDown p s
  | .i3cTargetReset => Sys2Proof.Machine.execI3cTargetReset s
  | .cxlExtentAccept p unit n => Sys2Proof.Machine.execCxlExtentAccept p unit n s
  | .dieFailure d => Sys2Proof.Machine.execDieFailure d s
  | .remapEntryFail die bg dramOk => Sys2Proof.Machine.execRemapEntryFail die bg dramOk s
  | .remapReload die bg => Sys2Proof.Machine.execRemapReload die bg s
  | .localBankMarkFailed r found => Sys2Proof.Machine.execLocalBankMarkFailed r found s
  | .flitReplay l => Sys2Proof.Machine.execFlitReplay l s
  | .laneLoss l lane => Sys2Proof.Machine.execLaneLoss l lane s
  | .replayThreshold l => Sys2Proof.Machine.execReplayThreshold l s
  | .linkTrainingDone l bad => Sys2Proof.Machine.execLinkTrainingDone l bad s
  | .linkTrainingTimeout l => Sys2Proof.Machine.execLinkTrainingTimeout l s
  | .routerPowerLoss peer col => Sys2Proof.Machine.execRouterPowerLoss peer col s
  | .failureAnnounce news => Sys2Proof.Machine.execFailureAnnounce news s
  | .packetCustody j occ => Sys2Proof.Machine.execPacketCustody j occ s
  | .targetPacket origin va crcOk op => Sys2Proof.Machine.execTargetPacket origin va crcOk op s
  | .responseArrival j crcOk mark a => Sys2Proof.Machine.execResponseArrival j crcOk mark a s
  | .errorNotice j notice => Sys2Proof.Machine.execErrorNotice j notice s
  | .dragRecovery peer => Sys2Proof.Machine.execDragRecovery peer s
  | .illegalInstruction f => Sys2Proof.Machine.execIllegalInstruction f s
  | .barrierArrival j => Sys2Proof.Machine.execBarrierArrival j s
  | .debugPortWork r pc => Sys2Proof.Machine.execDebugPortWork r pc s
  | .cxlExtentRelease unit n => Sys2Proof.Machine.execCxlExtentRelease unit n s
  | .powerLoss duringFlash => Sys2Proof.Machine.execPowerLoss duringFlash s

end Sys2Proof.Machine
end

