-- ==== Sys2Proof/Machine/Issue.lean ====
section
/-! DEFINITION. Issuing: which context may issue (03 R41), the fetch (04 R79, 12 R253), the decoding checks (12 R265), the
guard (02 R26, 12 R255), what an elision section admits (08 R181), and the schedule that picks the next of the steps 06
R116 permits (log 3). -/

namespace Sys2Proof.Machine

/-- The device's choice among the permitted steps, by a plain counter (06 R116: the device may take any of them; log 3). -/
opaque Config.schedule : Nat → Move

/-- A slot may issue (03 R41): it holds a live context that is neither parked nor held, nothing waits for its boundary
(20 R384), and its core and die run. A thread under a pre-emption request stops at a pre-emption point, and at the first
boundary after 4 microseconds (20 R386). -/
def issuable (d : Dev) (r k : Nat) : Bool :=
  let c := d.core r
  let t := c.slot k
  k < 16 && c.running && !c.failed && (!(d.die (dieOf r)).halted || k == 14 || t.stepping) && !(d.die (dieOf r)).failed && !d.plat.pfault &&
    t.life == .live && t.parked.isNone && !t.held && t.flow.deferred.isEmpty && !hasSf c.eng k &&
    (match t.pre with
     | some p => !p.rush && !ppAt c t.pc && d.now < p.since + preemptCycles
     | none => true)

/-- The instruction word at PC (12 R251: byte address PC × 12). -/
def fetchWord (c : Core) (pc : PcIx) : IWord := wordOfBytes (c.lmem.bytes (pc.toNat * 12) 12)

/-- A word of the fetch holds an uncorrectable error (22 R412 source 7, R419). -/
def fetchPoisoned (c : Core) (pc : PcIx) : Bool :=
  (touched (pc.toNat * 12) 12).any (fun w => Tab.get false c.lpoison w)

/-- The truth of a guard (02 R26). -/
def guardTrue (t : Slot) (g : Sys2Proof.Guard) : Bool := if g.neg then !t.pr g.pred else t.pr g.pred

/-- The instructions an elision section admits (08 R181): scalar plain loads and stores, which their meanings check
further, and scalar instructions that reach no memory; log 11. -/
def elidable : Instr → Bool
  | .nop | .add _ _ _ | .sub _ _ _ | .and _ _ _ | .or _ _ _ | .xor _ _ _ | .andn _ _ _ | .shl _ _ _ | .shr _ _ _
  | .sar _ _ _ | .rol _ _ _ | .min _ _ _ | .max _ _ _ | .minz _ _ _ | .maxz _ _ _ | .mul _ _ _ | .mulh _ _ _
  | .mulhz _ _ _ | .div _ _ _ | .divz _ _ _ | .rem _ _ _ | .remz _ _ _ | .clz _ _ | .ctz _ _ | .popc _ _
  | .bext _ _ _ _ | .bextz _ _ _ _ | .ctlr _ _ _ _ | .bins _ _ _ _ | .li _ _ | .lih _ _ | .sel _ _ _ | .padd _ _ _
  | .pidx _ _ _ | .ptag _ _ _ _ | .pfmt _ _ _ _ | .pget _ _ _ | .plin _ _ | .cmpEq _ _ _ | .cmpNe _ _ _
  | .cmpLt _ _ _ | .cmpLe _ _ _ | .cmpLtz _ _ | .cmpLez _ _ | .pand _ _ _ | .por _ _ _ | .pxor _ _ _ | .pnot _ _
  | .pmov _ _ | .br _ | .jmp _ | .call _ _ | .callr _ _ | .ret _ | .lp _ _ | .wait _ _ _ _ | .ld _ _ .plain _ _ _
  | .st _ .plain _ _ _ | .ele | .ela _ => true
  | _ => false

/-- The major opcode of the word at PC. -/
def opAt (c : Core) (pc : PcIx) : Nat := (c.lmem.read (pc.toNat * 12 + 11)).toNat

/-- Run a decoded word: its guard, a section's admission, its meaning (12 R255, 08 R182 cause 4). The guard is read when the instruction
issues first; what has gone part of its way goes on. -/
def runCoded (s : State) (c : Coded) : Out :=
  let t := s.dev.me
  if t.sent = 0 && !guardTrue t c.guard then devStep s (fun d => d.retire (fun t => t))
  else if t.elide.isSome && !elidable c.instr then
    devStep s (fun d => d.onMe (fun t => t.abort 4 (opAt s.dev.my t.pc)))
  else exec c.instr s

/-- Issue the instruction at the issuing thread's PC; a pending abort of a gate call goes before it (08 R167). -/
def issueHere (s : State) : Out :=
  let c := s.dev.my
  let t := s.dev.me
  if t.aborting.isSome then doAbort (t.aborting.getD 0) s
  else if c.regs.xb.toNat ≤ t.pc.toNat then execInstructionFetchBeyondBound s
  else if fetchPoisoned c t.pc then fault s 0x68 s.dev.pcAddr (7 <<< 11)
  else match decode (fetchWord c t.pc) with
    | .error f => execIllegalInstruction f s
    | .ok i => runCoded s i

/-- The issuing thread is named; a step that the debug port asked for is taken (13 R297), and an abort of its section lies before the
boundary it has now left (24 R428). -/
def entered (d : Dev) (r k : Nat) : Dev :=
  let d1 := { d with rank := r, who := k }
  if (d.slot r k).stepping || (d.slot r k).lapsed then d1.onSlot r k (fun t => { t with stepping := false, lapsed := false }) else d1

/-- One issue opportunity of a slot (03 R41): a bubble when it is not issuable. -/
def issue (s : State) (r k : Nat) : Out :=
  if issuable s.dev r k then issueHere { s with dev := entered s.dev r k } else .next s

/-- The next move: the agenda first, then the schedule. -/
def nextMove (d : Dev) : Move :=
  match d.agenda with
  | m :: _ => m
  | [] => Config.schedule d.tick

/-- A reported deadlock is over once some condition of it has stopped holding (03 R65). -/
def settleReports (s : State) (d : Dev) : Dev :=
  if d.plat.deadlockRaised.isEmpty then d
  else d.onPlat (fun p => { p with deadlockRaised := p.deadlockRaised.filter (fun j => deadlocked s j) })

/-- The sections that aborted in the cycle that ends (24 R428). -/
def settleLapsed (d : Dev) : Dev :=
  if d.cores.any (fun c => c.2.slots.any (fun e => e.2.lapsed)) then
    { d with cores := d.cores.map (fun c => (c.1, { c.2 with slots := c.2.slots.map (fun e => (e.1, { e.2 with lapsed := false })) })) }
  else d

/-- Some cycles pass: the claim-register commands of the cycle that ends are performed (11 R232). -/
def pass (d : Dev) (dt : Nat) : Dev :=
  if dt = 0 then d
  else
    let d1 := if d.plat.claims.isEmpty then d else d.onPlat settleClaims
    let d2 := settleLapsed (if d.objs.dequeued then d1.onObjs (fun o => { o with dequeued := false }) else d1)
    { d2 with now := d.now + dt }

/-- A dispatcher's dequeue. -/
def Act.dequeues : Act → Bool
  | .event (.dispatchArbitration _) => true
  | _ => false

/-- The cycles that pass before a move: of one cycle, a queue's home performs the enqueues and the fills before the dequeues (03 R70),
so that only dequeues follow a dequeue in its cycle. -/
def Move.cycles (d : Dev) (m : Move) : Nat := if d.objs.dequeued && !m.act.dequeues then Nat.max 1 m.dt else m.dt

/-- The state in which a move happens: the move is taken from the agenda or the schedule, its cycles pass, and the arbiters'
credits and the reported deadlocks follow the last step (03 R57, R65). -/
def taken (s : State) : Dev :=
  let d := settleReports s (settleCredits s.dev)
  match d.agenda with
  | m :: r => pass { d with agenda := r } (m.cycles d)
  | [] => pass { d with tick := d.tick + 1 } ((Config.schedule d.tick).cycles d)

/-- Take a move. -/
def takeMove (s : State) : Out :=
  match (nextMove s.dev).act with
  | .issue r k => issue { s with dev := taken s } r k
  | .event i => exec i { s with dev := taken s }

/-- Core 0's slot 1 made ready to issue word 0 of local memory, with that word in place (log 4). -/
def placeWord (d : Dev) (bs : List Byte) : Dev :=
  let c := d.core 0
  let t := c.slot 1
  { d with
    agenda := [⟨0, .issue 0 1⟩]
    dies := Tab.set d.dies 0 { d.die 0 with halted := false, failed := false }
    plat := { d.plat with pfault := false }
    cores := Tab.set d.cores 0
      { c with
        running := true
        failed := false
        lmem := c.lmem.setBytes 0 bs
        lpoison := Tab.put false (Tab.put false c.lpoison 0 false) 1 false
        regs := { c.regs with xb := if c.regs.xb = 0 then 1 else c.regs.xb }
        eng := { c.eng with sfq := [], sfWait := [] }
        slots := Tab.set c.slots 1
          { t with life := .live, pc := 0, parked := none, held := false, pre := none, elide := none, aborting := none, stepping := false,
                   flow := { t.flow with deferred := [] } } } }

end Sys2Proof.Machine
end

