-- ==== Sys2Proof/Machine/Step.lean ====
section
/-! DEFINITION. One step of the package: the next move of the agenda or the schedule (Issue.lean). -/

namespace Sys2Proof.Machine

/-- One step (06 R116). -/
def step (s : State) : Host.Outcome State Fault Refusal := takeMove s

/-- `s` with the instruction stored where the very next step fetches and runs it (log 4). -/
def State.withFetchWord (s : State) (nbits w : Nat) : State :=
  { s with dev := placeWord s.dev (bytesOfWord (BitVec.ofNat 96 (w % 2 ^ nbits))) }

end Sys2Proof.Machine
end

