-- ==== Sys2Proof/Safety.lean ====
section
/-! DEFINITION. What a safe step is, and the outcomes that the claims are stated in. -/

namespace Sys2Proof.Machine

/-- The step gives a next state. -/
def Safe (s : State) : Prop := ∃ t, step s = .next t

/-- Global memory has its canonical form (Table.lean). -/
def State.memOk (s : State) : Prop := s.mem.wf = true

/-- The outcome in which the issuing thread's context becomes `f` of it and nothing else changes. -/
def onlyMine (s : State) (f : Slot → Slot) : Out := .next { s with dev := s.dev.onMe f }

/-- The outcome in which an `x` register takes a value (02 R35), PC advances and nothing else changes. -/
def writesX (s : State) (d : XReg) (v : Word) : Out := onlyMine s (fun t => { t.setX d v with pc := t.pc + 1 })

/-- The outcome in which a predicate takes a value, PC advances and nothing else changes. -/
def writesP (s : State) (d : PReg) (v : Bool) : Out := onlyMine s (fun t => { t.setP d v with pc := t.pc + 1 })

/-- The outcome in which an `x` register takes a link or a count, PC takes a target and nothing else changes. -/
def linksTo (s : State) (d : XReg) (v : Word) (pc : PcIx) : Out := onlyMine s (fun t => { t.setX d v with pc := pc })

/-- The thread may send a request: no acquire holds it (06 R124), for a load no `fence.co` does (06 R134), its bag and
its writes have room (06 R115), and for a release 06 R125 holds at its scope. -/
def MaySend (s : State) (load writes : Bool) (rel : Option Scope) : Prop :=
  s.dev.me.flow.acq = [] ∧ (load = true → WaitCond.coHold.holds s s.dev.rank s.dev.who = true) ∧
    s.dev.room s.dev.rank s.dev.who 1 writes = true ∧ ∀ sc, rel = some sc → releaseOk s.dev s.dev.rank s.dev.who sc = true

/-- `n` bytes at a pointer pass checks 1 to 8 of 04 R77 and lie at `loc`; `spaces` are those the instruction admits. -/
def Passes (s : State) (spaces : List Nat) (p : Word) (n align : Nat) (rd wr : Bool) (loc : Loc) (key : Nat) : Prop :=
  pspace p ∈ spaces ∧ checkAcc s s.dev.rank s.dev.who s.dev.me .scalar p n align rd wr = .ok loc key

/-- The bind table lets a write of `n` bytes land (07 R150); it concerns local memory only. -/
def BindAllows (s : State) (loc : Loc) (n : Nat) : Prop :=
  ∀ r o, loc = .loc r o → bindAllows (s.dev.core r) o n = true

/-- From `s` to `t` the issuing thread sends one request and retires: the request stands last in its bag with the given
operation, place and destination, joins its class, raises the counters of 06 R114 when it writes, and nothing but the
thread's PC, flow and wait changes. -/
def Sends (s t : State) (cls : Cls) (op : ReqOp) (dst : Dst) (loc : Loc) (acq judged : Bool) : Prop :=
  let f := s.dev.me.flow
  let g := t.dev.me.flow
  let c := s.dev.objs.covers s.dev.rank loc
  ∃ q : Req,
    (q.id = f.nextId ∧ q.cls = cls ∧ q.op = op ∧ q.dst = dst ∧ q.loc = loc ∧ q.pc = s.dev.me.pc) ∧
    g.bag = f.bag ++ [q] ∧
    (∀ k, g.cls k = if k = cls ∧ k ≠ .none then f.cls k ++ [(f.nextId, 1)] else f.cls k) ∧
    g.die = (if op.writes && c.1 then f.die + 1 else f.die) ∧
    g.pkg = (if op.writes && c.2.1 then f.pkg + 1 else f.pkg) ∧
    g.sys = (if op.writes && c.2.2 then f.sys + 1 else f.sys) ∧
    g.acq = (if acq then f.acq ++ [f.nextId] else f.acq) ∧
    (g.rets = f.rets ∧ g.acks = f.acks ∧ g.posted = f.posted ∧ g.oc = f.oc ∧ g.co = f.co ∧ g.deferred = f.deferred) ∧
    t = { s with dev := s.dev.onMe (fun u =>
            { u with pc := u.pc + 1, parked := if judged then some (.answer f.nextId) else none, flow := g }) }

/-- No posted operation of the thread waits, its checks passed, for room in the bag (06 R115). -/
def NoneReady (f : Flow) : Prop := ∀ q ∈ f.posted, q.ready = false

/-- Request `i` of the bag of the thread in slot `k` of core `r` is `q`, no earlier request of the thread to a common word
goes before it (06 R117), no range was bound over its bytes since its check (04 R98), and no posted operation waits for the
room it leaves (06 R115). -/
def InBag (s : State) (r k i : Nat) (q : Req) : Prop :=
  r < 2048 ∧ k < 16 ∧ nth? (s.dev.slot r k).flow.bag i = some q ∧ earlierSame s r k q = false ∧
    boundSince s.dev q q.loc = false ∧ NoneReady (s.dev.slot r k).flow

/-- Every line of `n` bytes from a physical address stands under the key slot `key`, or nothing has written it (04 R90). -/
def OwnKey (s : State) (pa n key : Nat) : Prop := ∀ l ∈ linesOf pa n, ∀ k, s.dev.lineSlot l = some k → k = key

/-- `n` bytes from a physical address have memory that its home serves: it stands on the map (04 R85), no activation is held (22 R417),
nothing is poisoned or lost (22 R412, R418), and every line's tag is right (22 R411). -/
def Served (s : State) (pa n : Nat) : Prop :=
  s.dev.objs.exists pa = true ∧ s.heldBank (.glob pa) = false ∧ s.poisoned (.glob pa) = false ∧ s.lost (.glob pa) = false ∧
    ∀ l ∈ linesOf pa n, s.dev.badTag l = false

/-- From `s` to `t` the context in slot `k` of core `r` becomes `f` of it; every other context, every core's local
memory, registers, engines and vector state, the coaches, dies, objects and platform stay. Global memory and its
metadata are not spoken of. -/
def OnlySlot (s t : State) (r k : Nat) (f : Slot → Slot) : Prop :=
  (∀ q j, t.dev.slot q j = if q = r ∧ j = k then f (s.dev.slot r k) else s.dev.slot q j) ∧
    (∀ q, (t.dev.core q).lmem = (s.dev.core q).lmem ∧ (t.dev.core q).empty = (s.dev.core q).empty ∧
      (t.dev.core q).regs = (s.dev.core q).regs ∧ (t.dev.core q).eng = (s.dev.core q).eng ∧
      (t.dev.core q).vec = (s.dev.core q).vec) ∧
    t.dev.coaches = s.dev.coaches ∧ t.dev.dies = s.dev.dies ∧ t.dev.objs = s.dev.objs ∧ t.dev.plat = s.dev.plat

/-- The home's answer: request `i` leaves the bag and an acknowledgement follows. -/
def acked (i : Nat) (q : Req) (u : Slot) : Slot :=
  { u with flow := { u.flow with bag := dropAt u.flow.bag i, acks := u.flow.acks ++ [⟨q, none⟩] } }

/-- The home's answer: request `i` leaves the bag and values enter the return path. -/
def returned (i : Nat) (q : Req) (ws : List Word) (ok : Bool) (u : Slot) : Slot :=
  { u with flow := { u.flow with bag := dropAt u.flow.bag i, rets := u.flow.rets ++ [⟨q, .words ws ok⟩] } }

/-- The outcome in which the issuing thread parks at its instruction and nothing else changes (02 R35 Park). -/
def parksOn (s : State) (c : WaitCond) : Out := onlyMine s (fun t => { t with parked := some c })

/-- The place of a slot's fault record in local memory (20 R377). -/
def recordBase (c : Core) (k : Nat) : Nat :=
  c.regs.gfbase.toNat + 25600 + if k = 0 then 352 else if k ≤ 11 then 32 * (k - 1) else 384 + 32 * (k - 12)

/-- A fault joins those that wait for a handler: the oldest go first, and among those raised in one cycle the lower slot (20
R379). -/
def Joins (l l' : List Pend) (x : Pend) : Prop :=
  ∃ a b, l = a ++ b ∧ l' = a ++ x :: b ∧ (∀ y ∈ a, ¬(y.time = x.time ∧ x.slot < y.slot)) ∧
    ∀ y, b.head? = some y → y.time = x.time ∧ x.slot < y.slot

/-- From `s` to `t` a fault of the thread in slot `k` of core `r` is taken (20 R377, R379, R380): its record of four words
is written and no other byte of local memory changes, the thread is held at its PC, and the fault waits for slot 13, or for
slot 15 where the domain has no handler or the slot is not 1 to 11; a fault in slot 15 fails the core. -/
def TakesFault (s t : State) (r k : Nat) (cause : Byte) (addr : Word) (opnd : BitVec 32) : Prop :=
  let u := s.dev.slot r k
  let c := s.dev.core r
  let e := (t.dev.core r).eng
  let base := recordBase c k
  let op := if cause = 0x60 then 0 else (c.lmem.read (u.pc.toNat * 12 + 11)).toNat
  let group := if 1 ≤ k ∧ k ≤ 10 then (if u.lead < 16 then u.lead else u.start) else 0
  let e0 := { c.eng with bindWait := c.eng.bindWait.filter (fun w => w.1 != k) }
  let new := fun (ends : Option Byte) => ({ slot := k, domain := u.domain, cause := cause, ends := ends, time := s.dev.now } : Pend)
  let handled := (vectorOf s.dev.plat u.domain).getLsbD 63
  t.mem = s.mem ∧
    (c.lmem.wf = true →
      (t.dev.core r).lmem.word base = BitVec.ofNat 64 (cause.toNat * 2 ^ 56 + (if cause = 0x60 then 0 else 2 ^ 55) +
        u.gdepth.toNat * 2 ^ 52 + k * 2 ^ 48 + group * 2 ^ 44 + u.domain.toNat * 2 ^ 38 + u.pc.toNat) ∧
      (t.dev.core r).lmem.word (base + 8) = addr ∧
      (t.dev.core r).lmem.word (base + 16) = BitVec.ofNat 64 opnd.toNat ∧
      (t.dev.core r).lmem.word (base + 24) = BitVec.ofNat 64 (u.asid.toNat * 2 ^ 48 + op * 2 ^ 40) ∧
      ∀ a, a < base ∨ base + 32 ≤ a → (t.dev.core r).lmem.read a = c.lmem.read a) ∧
    ((t.dev.slot r k).held = true ∧ (t.dev.slot r k).parked = none ∧ (t.dev.slot r k).pc = u.pc ∧
      (t.dev.slot r k).x = u.x ∧ (t.dev.slot r k).p = u.p) ∧
    (∀ q j, ¬(q = r ∧ j = k) → t.dev.slot q j = s.dev.slot q j) ∧
    (k = 15 → (t.dev.core r).failed = true ∧ e = e0 ∧ t.dev.plat.posts = s.dev.plat.posts ++ [(1, r)]) ∧
    (1 ≤ k → k ≤ 11 → handled = true → ∃ l, Joins c.eng.pend13 l (new none) ∧ e = { e0 with pend13 := l }) ∧
    (k < 13 ∨ k = 14 → ¬(1 ≤ k ∧ k ≤ 11 ∧ handled = true) →
      ∃ l, Joins c.eng.pend15 l (new (if 1 ≤ k ∧ k ≤ 10 then some cause else none)) ∧ e = { e0 with pend15 := l }) ∧
    (k = 13 → ∃ ends l, Joins c.eng.pend15 l (new ends) ∧ e = { e0 with pend15 := l } ∧
      ∀ h, c.eng.hand13 = some h → ends = if 1 ≤ h.slot ∧ h.slot ≤ 10 then some h.cause else none)

/-- A guard word at `p` passes checks 1 to 5 of 04 R77 and is found at `loc`: a peer's by its virtual address, one named by the own peer
number through the own port (10 R224), this device's by the physical address that a translation buffer gives (07 R142). -/
def GuardWord (s : State) (p : Word) (loc : Loc) : Prop :=
  checks5 s.dev s.dev.rank s.dev.who s.dev.me .scalar p 8 8 = none ∧
    ((pspace p = 6 ∧ ∃ key, peerPlace s p 8 false false = .ok loc key) ∨
      (pspace p = 0 ∧ ∃ e, tlbHit s.dev s.dev.rank s.dev.me.asid.toNat (paddr p) = some e ∧
        loc = .glob (leafPa e.level e.leaf (paddr p))))

/-- The next instruction, as a change of the issuing thread's context. -/
def stepsOn (u : Slot) : Slot := { u with pc := u.pc + 1 }

/-- A stream register serves the issuing thread for `n` elements: bound by it in the direction asked, of the format, with
that many elements left in its pattern, and no dropped stream that still drains (10 R204 to R206, R208). -/
def StreamOk (s : State) (x fmt n : Nat) (out : Bool) : Prop :=
  let y := Tab.get {} s.dev.my.eng.streams x
  y.bound = true ∧ y.slot = s.dev.who ∧ y.w0.getLsbD 63 = out ∧ holdsC s.dev.me.tag = true ∧ pfmtOf y.base = fmt ∧
    y.pos + n ≤ patternLen y.w0 ∧ (out = true → y.dropped = none)

/-- The state in which a stream register of the issuing thread's core becomes `f` of it. -/
def streamTo (s : State) (x : Nat) (f : Stream → Stream) : State := { s with dev := s.dev.onStream x f }

/-- An input stream has the elements `vs` ready and `rest` behind them, and `u` is the state with them taken (10 R206). -/
def StreamGives (s : State) (x fmt : Nat) (vs : List Nat) (u : State) : Prop :=
  StreamOk s x fmt vs.length false ∧ ∃ rest, (Tab.get {} s.dev.my.eng.streams x).ahead = vs.map (fun v => (v, none)) ++ rest ∧
    u = streamTo s x (fun y => { y with ahead := rest, pos := y.pos + vs.length })

/-- A vector first source gives the lane images `l`, and `u` is the state with them taken: a register's first `vl` lanes, the
next `vl` elements of an input stream, or the words at a channel's head, `vl` lanes of them or as many as stand before a
control word, once no `fence.co` holds acquires back (15 R329 to R331, 06 R134). -/
def SourceGives (s : State) (fmt : Nat) (a : VSrc) (l : List (BitVec 32)) (u : State) : Prop :=
  let n := s.dev.vec.len
  match a with
  | .v r => l = (upto n).map (fun i => s.dev.vec.laneAt r i) ∧ u = s
  | .s x => ∃ vs, vs.length = n ∧ StreamGives s x.toNat fmt vs u ∧ l = vs.map (laneImg fmt)
  | .ch x =>
    isHelper s.dev.who = true ∧ n % 2 = 0 ∧ n ≤ 64 ∧ WaitCond.coHold.holds s s.dev.rank s.dev.who = true ∧ ∃ (ws : List Word) (rest : List (Word × Bool)),
      Tab.get [] s.dev.me.chans x.toNat = ws.map (fun w => (w, false)) ++ rest ∧
      (2 * ws.length = n ∨ 2 * ws.length < n ∧ ∃ w r, rest = (w, true) :: r) ∧
      l = ws.flatMap (fun w => [w.extractLsb' 0 32, w.extractLsb' 32 32]) ∧
      u = { s with dev := (s.dev.onMe (fun t => { t with chans := Tab.set t.chans x.toNat rest })).onVec (fun v =>
              { v with vcnt := BitVec.ofNat 7 (2 * ws.length) }) }

/-- A vector destination can take `n` elements: a register always, an output stream while its pattern and its 4,096 bytes
have room (10 R206, R207, 15 R330). -/
def DestReady (s : State) (fmt : Nat) (d : VDst) (n : Nat) : Prop :=
  match d with
  | .v _ => True
  | .s x =>
    let y := Tab.get {} s.dev.my.eng.streams x.toNat
    StreamOk s x.toNat fmt n true ∧ y.out.length * streamElem y.base + n * laneBytes fmt ≤ 4096

/-- The state in which the issuing core's vector state is `w` and the issuing thread's context is `fin` of what it was. -/
def vecTo (u : State) (w : Vec) (fin : Slot → Slot) : State :=
  { u with dev := (u.dev.onMy (fun c => { c with vec := w })).onMe fin }

/-- From `u` to `t` a vector destination takes `f i` in every active lane `i` below `n`; a register keeps its other lanes, a
stream takes zero in their place; the thread's context becomes `fin` of it and nothing else changes (15 R327, R330). -/
def LanesWritten (u t : State) (fmt : Nat) (d : VDst) (act : Nat → Bool) (n : Nat) (f : Nat → BitVec 32) (fin : Slot → Slot) : Prop :=
  match d with
  | .v r => ∃ w : Vec, t = vecTo u w fin ∧ w = { u.dev.vec with v := w.v } ∧
      ∀ q i, i < 256 → w.laneAt q i = if q = r ∧ i < n ∧ act i = true then f i else u.dev.vec.laneAt q i
  | .s x =>
    let elem := fun (y : Stream) i => (y.pos + i, (if act i then laneVal fmt (f i) else 0), u.dev.me.pc)
    t = { u with dev := (u.dev.onStream x.toNat (fun y =>
            { y with out := y.out ++ (upto n).map (elem y), pos := y.pos + n })).onMe fin }

/-- From `s` to `t` the issuing thread's matrix command enters its core's queue last: it holds the operation, the pointers,
the issuing slot and the instruction's word, and whether it is a group's, which its core's leading a group says (09 R203); it counts in
`tl`, and nothing else changes (09 R184, 16 R350). -/
def Queued (s t : State) (op : MOp) (va vb : Word) : Prop :=
  let f := s.dev.me.flow
  ∃ c : MCmd, (c.id = f.nextId ∧ c.slot = s.dev.who ∧ c.op = op ∧ c.next = 0 ∧ c.pc = s.dev.me.pc ∧ c.va = va ∧ c.vb = vb ∧
      c.word.toNat = s.dev.my.lmem.readN (s.dev.me.pc.toNat * 12) 12 ∧ c.grp = (ledBy s.dev s.dev.rank).isSome) ∧
    t = { s with dev := (s.dev.onEng s.dev.rank (fun e => { e with mq := e.mq ++ [c] })).onMe (fun u =>
            { u with pc := u.pc + 1, flow := { u.flow with nextId := f.nextId + 1, tl := f.tl ++ [(f.nextId, 1)] } }) }

/-- A matrix command may enter its queue: the tag is M, no acquire holds the thread, the queue has room (09 R184, 16 R350). -/
def MayQueue (s : State) : Prop :=
  holdsM s.dev.me.tag = true ∧ s.dev.me.flow.acq = [] ∧ s.dev.my.eng.mq.length < 8

/-- A local operand of a matrix command passes checks 1 to 5 of 04 R77 over its whole extent (09 R200, 16 R350). -/
def MatrixOperand (s : State) (p : Word) (bytes : Nat) : Prop :=
  tagsOk s.dev s.dev.me s.dev.rank .matrix 8 p = true ∧ paddr p % 8 = 0 ∧
    ((pspace p = 1 ∧ windowOk s.dev.my s.dev.who s.dev.me (paddr p) bytes = true) ∨
      (pspace p = 2 ∧ sharedOk (s.dev.core (prank p)) (paddr p) bytes = true))

/-- A queue contends for an arbitration (03 R58): it has an eligible record and meets the place condition, and no other such
queue is of a higher effective class. -/
def Contends (o : Objs) (place : Queue → Bool) (q : Queue) : Prop :=
  let able := fun (x : Queue) => x ∈ o.queues ∧ (∃ y ∈ x.recs, y.eligible = true) ∧ place x = true
  able q ∧ ∀ x, able x → min 3 (x.cls + x.promo) ≤ min 3 (q.cls + q.promo)

/-- A round of the smooth weighted round robin (03 R57): `w` has the highest credit after each contender added its weight,
the lower number at a tie, and pays the sum of the weights; a queue that does not contend has credit 0. -/
def Wins (cs : List Queue) (old new : Nat → Int) (w : Queue) : Prop :=
  let sum : Nat := (cs.map (·.weight)).foldl (· + ·) 0
  w ∈ cs ∧
    (∀ q ∈ cs, old q.num + q.weight < old w.num + w.weight ∨ (old q.num + q.weight = old w.num + w.weight ∧ w.num ≤ q.num)) ∧
    (∀ q ∈ cs, new q.num = old q.num + q.weight - if q.num = w.num then (sum : Int) else 0) ∧
    ∀ n, (∀ q ∈ cs, q.num ≠ n) → new n = 0

end Sys2Proof.Machine
end

