-- ==== Sys2Proof/Certificates/Slice0/Obligations.lean ====
section
/-! DEFINITION. What is claimed of the machine, in the terms of Safety.lean. -/

section
open Sys2Proof Sys2Proof.Machine

/-- 04 R82, 11 R231, R233, R239, R243, R244, 24 R434, 25 R447: what reset leaves. The boot status 1 is the first step of 11
R234, and the access-refused count at 0x110, for which R233 gives no reset value, reads 0: both are the model's choice (log
1). That reset memory reads zero before boot step 4 is the model's choice (log 2) and is not stated here. -/
def Obligations.ResetState : Prop :=
  let d := State.reset.dev
  State.reset.memOk ∧
    (∀ r k, (d.core r).running = false ∧ (d.slot r k).life = .free ∧ (d.core r).regs.xb = 0) ∧
    (∀ r a, (d.core r).lmem.read a = 0 ∧ Tab.get false (d.core r).empty a = false) ∧
    ctlRead d 0x100 = 0 ∧ ctlRead d 0x108 = 1 ∧ ctlRead d 0x110 = 0 ∧ ctlRead d 0x120 = 0 ∧ ctlRead d 0x180 = 0 ∧
    ctlRead d 0x300 = 0 ∧ ctlRead d 0x500 = 0 ∧ ctlRead d 0x548 = 0 ∧ ctlRead d 0x550 = 24 ∧ ctlRead d 0x580 = 0 ∧
    ctlRead d 0x590 = 0 ∧ (∀ f < 2, ctlRead d (0x560 + 8 * f) = BitVec.ofNat 64 (100 * 2 ^ 32 + 0xFFFFFFFF)) ∧
    (∀ i < 64, ctlRead d (0x600 + 8 * i) = 0) ∧ (∀ u < 256, ctlRead d (0x10000 + 8 * u) = BitVec.ofNat 64 (50 * 2 ^ 8)) ∧
    (∀ l < 14, ctlRead d (0x4000 + 8 * l) = 0)

/-- 03 R41, 12 R253, R255, 02 R35 Issue: a step whose move is a slot's issue opportunity runs the instruction that its word at
PC × 12 decodes to; a false guard retires it with no effect; a slot that may not issue makes a bubble; a step whose move is
an event runs the event; a word that does not decode raises its fault. Before the move its cycles pass: the move leaves the
agenda and `now` advances, by one cycle at least where a dequeue of the cycle has happened and the move is none (03 R70); no
context, memory, register or object changes, only the arbiters' credits, the reported deadlocks, the claims of an ended
cycle and the marks of its dequeues and aborted sections are settled (03 R57, R65, 11 R232, 24 R428). The guard is read at
the instruction's first issue (12 R255). -/
def Obligations.StepRunsTheDecodedInstruction : Prop :=
  ∀ (s : State) (dt r k : Nat) (rest : List Move) (c : Coded) (i : Instr) (f : DecodeFault),
    let d := taken s
    let u : State := { s with dev := entered d r k }
    let t := u.dev.me
    let word := wordOfBytes (u.dev.my.lmem.bytes (t.pc.toNat * 12) 12)
    (∀ m : Move, s.dev.agenda = m :: rest →
      d.agenda = rest ∧ d.now = s.dev.now + (if s.dev.objs.dequeued = true ∧ m.act.dequeues = false then Nat.max 1 m.dt else m.dt) ∧
        d.objs = { s.dev.objs with dequeued := d.objs.dequeued } ∧ d.coaches = s.dev.coaches ∧ d.mmeta = s.dev.mmeta ∧
        d.plat.regs = s.dev.plat.regs ∧ ∀ q j, d.slot q j = { s.dev.slot q j with lapsed := (d.slot q j).lapsed } ∧
          (d.core q).lmem = (s.dev.core q).lmem ∧ (d.core q).regs = (s.dev.core q).regs ∧ (d.core q).vec = (s.dev.core q).vec) ∧
    (s.dev.agenda = ⟨dt, .event i⟩ :: rest → step s = exec i { s with dev := d }) ∧
    (s.dev.agenda = ⟨dt, .issue r k⟩ :: rest →
      (issuable d r k = false → step s = .next { s with dev := d }) ∧
      (issuable d r k = true → t.aborting = none →
        (u.dev.my.regs.xb.toNat ≤ t.pc.toNat → step s = exec .instructionFetchBeyondBound u) ∧
        (t.pc.toNat < u.dev.my.regs.xb.toNat → fetchPoisoned u.dev.my t.pc = false →
          (decode word = .error f → step s = exec (.illegalInstruction f) u) ∧
          (decode word = .ok c →
            (guardTrue t c.guard = true ∨ t.sent ≠ 0 → t.elide = none → step s = exec c.instr u) ∧
            (guardTrue t c.guard = false → t.sent = 0 → step s = onlyMine u (fun t => { t with pc := t.pc + 1 }))))))

/-- 12 R251, R254 to R267: words that the manual writes out decode to the instructions it gives for them. -/
def Obligations.SpecWordsDecode : Prop :=
  let c (g : Sys2Proof.Guard) (pri : BitVec 2) (last pp : Bool) (i : Instr) (w : IWord) := decode w = .ok ⟨g, ⟨pri, last, pp⟩, i⟩
  let t : Sys2Proof.Guard := ⟨false, 0⟩
  c ⟨false, 3⟩ 0 false true (.ld .b64 false (.acq .dev) 5 9 (.imm 16)) 0x3000C40509FFAE0000000010#96 ∧
    c t 0 false false (.amoCas true (.acq .dev) 20 9 21 0) 0x382400140915AE0000000000#96 ∧
    c t 0 false true (.lp 7 12) 0x1D000407FF0000000000000C#96 ∧
    c t 0 false false (.vfadd .fp32 .rne (.v 1) (.ch 2) (.v 3) 0) 0x800000417A43000000000000#96 ∧
    c t 1 false false (.mm false false 0 9 10 128 0 0) 0x9000107C090A000000800000#96 ∧
    c t 0 false false (.cp 12 4 (.imm 4096) ⟨0, 0, false⟩) 0xA000000C04FF000000001000#96 ∧
    c t 0 false false (.gacqX 21 2 9) 0x4A0000150209000000000000#96 ∧
    c ⟨true, 3⟩ 0 false false (.csend 0 12 1 4) 0x5A02C000800C000000000401#96

/-- 12 R254 to R267: a word decodes to a guarded and hinted instruction exactly when that instruction is well formed and the
word is its encoding, for every operand. -/
def Obligations.DecodeInvertsEncode : Prop :=
  ∀ (c : Coded) (w : IWord), decode w = .ok c ↔ c.wf = true ∧ encode c = some w

/-- Every step keeps the canonical form of global memory: equal memories stay equal data. The form is the model's own (log 2);
no rule states it. -/
def Obligations.StepsKeepMemoryCanonical : Prop :=
  ∀ (s t : State), s.memOk → step s = .next t → t.memOk

/-- 12 R257: `x0` reads zero and discards writes, every other `x` register reads what was last written; the same of predicates,
where `p0` reads true. The frame of every `onlyMine` outcome: one context changes, and no other context, core register,
engine, memory or device register. -/
def Obligations.RegistersAndContextsChange : Prop :=
  (∀ (t : Slot),
    (∀ (r q : XReg) (v : Word), (t.setX r v).xr q = if q = 0 then 0 else if q = r then v else t.xr q) ∧
    (∀ (r q : PReg) (b : Bool), (t.setP r b).pr q = if q = 0 then true else if q = r then b else t.pr q) ∧
    (∀ (r : XReg) (v : Word) (q : PReg), (t.setX r v).pr q = t.pr q) ∧
    (∀ (r : PReg) (b : Bool) (q : XReg), (t.setP r b).xr q = t.xr q)) ∧
  (∀ (d : Dev) (f : Slot → Slot),
    (∀ r k, (d.onMe f).slot r k = if r = d.rank ∧ k = d.who then f d.me else d.slot r k) ∧
    (∀ r, ((d.onMe f).core r).lmem = (d.core r).lmem ∧ ((d.onMe f).core r).empty = (d.core r).empty ∧
      ((d.onMe f).core r).regs = (d.core r).regs ∧ ((d.onMe f).core r).eng = (d.core r).eng ∧
      ((d.onMe f).core r).vec = (d.core r).vec ∧ ((d.onMe f).core r).lpoison = (d.core r).lpoison) ∧
    (d.onMe f).coaches = d.coaches ∧ (d.onMe f).dies = d.dies ∧ (d.onMe f).mmeta = d.mmeta ∧
    (d.onMe f).objs = d.objs ∧ (d.onMe f).plat = d.plat)

/-- 13 R269: the results that are arithmetic modulo 2^64, bit by bit, or a choice of the smaller or larger. 13 R269, R270: high
products, and division with its corners. -/
def Obligations.IntegerArithmeticResults : Prop :=
  (∀ (s : State) (d a : XReg) (b : Src2),
    let x := s.dev.me.xr a
    let y := s.dev.me.src2 b
    exec (.add d a b) s = writesX s d (BitVec.ofNat 64 (x.toNat + y.toNat)) ∧
    exec (.sub d a b) s = writesX s d (BitVec.ofInt 64 (x.toInt - y.toInt)) ∧
    exec (.mul d a b) s = writesX s d (BitVec.ofNat 64 (x.toNat * y.toNat)) ∧
    (∃ v, exec (.and d a b) s = writesX s d v ∧ ∀ i < 64, v.getLsbD i = (x.getLsbD i && y.getLsbD i)) ∧
    (∃ v, exec (.or d a b) s = writesX s d v ∧ ∀ i < 64, v.getLsbD i = (x.getLsbD i || y.getLsbD i)) ∧
    (∃ v, exec (.xor d a b) s = writesX s d v ∧ ∀ i < 64, v.getLsbD i = (x.getLsbD i != y.getLsbD i)) ∧
    (∃ v, exec (.andn d a b) s = writesX s d v ∧ ∀ i < 64, v.getLsbD i = (x.getLsbD i && !y.getLsbD i)) ∧
    exec (.min d a b) s = writesX s d (BitVec.ofInt 64 (min x.toInt y.toInt)) ∧
    exec (.max d a b) s = writesX s d (BitVec.ofInt 64 (max x.toInt y.toInt)) ∧
    exec (.minz d a b) s = writesX s d (BitVec.ofNat 64 (min x.toNat y.toNat)) ∧
    exec (.maxz d a b) s = writesX s d (BitVec.ofNat 64 (max x.toNat y.toNat))) ∧
  (∀ (s : State) (d a : XReg) (b : Src2),
    let x := s.dev.me.xr a
    let y := s.dev.me.src2 b
    exec (.mulh d a b) s = writesX s d (BitVec.ofInt 64 (x.toInt * y.toInt / 2 ^ 64)) ∧
    exec (.mulhz d a b) s = writesX s d (BitVec.ofNat 64 (x.toNat * y.toNat / 2 ^ 64)) ∧
    exec (.div d a b) s = writesX s d (if y = 0 then 0xFFFFFFFFFFFFFFFF else BitVec.ofInt 64 (x.toInt.tdiv y.toInt)) ∧
    exec (.divz d a b) s = writesX s d (if y = 0 then 0xFFFFFFFFFFFFFFFF else BitVec.ofNat 64 (x.toNat / y.toNat)) ∧
    exec (.rem d a b) s = writesX s d (if y = 0 then x else BitVec.ofInt 64 (x.toInt - x.toInt.tdiv y.toInt * y.toInt)) ∧
    exec (.remz d a b) s = writesX s d (if y = 0 then x else BitVec.ofNat 64 (x.toNat % y.toNat)))

/-- 13 R269: shifts and rotates take their amount modulo 64; the counts are characterised by the bits they count. 13 R271 to
R273: fields of width `w1 + 1` at `lo`, of a register or of a channel's head word, which the read takes, and on which a
thread parks while there is none; constants and select. -/
def Obligations.ShiftsCountsAndBitFields : Prop :=
  (∀ (s : State) (d a : XReg) (b : Src2),
    let x := s.dev.me.xr a
    let n := (s.dev.me.src2 b).toNat % 64
    exec (.shl d a b) s = writesX s d (BitVec.ofNat 64 (x.toNat * 2 ^ n)) ∧
    exec (.shr d a b) s = writesX s d (BitVec.ofNat 64 (x.toNat / 2 ^ n)) ∧
    exec (.sar d a b) s = writesX s d (BitVec.ofInt 64 (x.toInt / 2 ^ n)) ∧
    (∃ v, exec (.rol d a b) s = writesX s d v ∧ ∀ i < 64, v.getLsbD ((i + n) % 64) = x.getLsbD i) ∧
    (∃ k ≤ 64, exec (.clz d a) s = writesX s d (BitVec.ofNat 64 k) ∧ (∀ i < k, x.getLsbD (63 - i) = false) ∧
      (k < 64 → x.getLsbD (63 - k) = true)) ∧
    (∃ k ≤ 64, exec (.ctz d a) s = writesX s d (BitVec.ofNat 64 k) ∧ (∀ i < k, x.getLsbD i = false) ∧
      (k < 64 → x.getLsbD k = true)) ∧
    exec (.popc d a) s = writesX s d (BitVec.ofNat 64 ((List.range 64).countP (fun i => x.getLsbD i)))) ∧
  (∀ (s : State) (d a : XReg) (lo w1 : BitVec 6) (c : BitVec 48) (h : BitVec 16) (b : Src2),
    let x := s.dev.me.xr a
    let old := s.dev.me.xr d
    (lo.toNat + w1.toNat < 64 →
      (∃ v, exec (.bext d (.x a) lo w1) s = writesX s d v ∧
        ∀ i < 64, v.getLsbD i = x.getLsbD (lo.toNat + min i w1.toNat)) ∧
      (∃ v, exec (.bextz d (.x a) lo w1) s = writesX s d v ∧
        ∀ i < 64, v.getLsbD i = (decide (i ≤ w1.toNat) && x.getLsbD (lo.toNat + i))) ∧
      (∃ v, exec (.bins d a lo w1) s = writesX s d v ∧
        ∀ i < 64, v.getLsbD i =
          if lo.toNat ≤ i ∧ i ≤ lo.toNat + w1.toNat then x.getLsbD (i - lo.toNat) else old.getLsbD i)) ∧
    (lo.toNat + w1.toNat < 64 → isHelper s.dev.who = true → WaitCond.coHold.holds s s.dev.rank s.dev.who = true → ∀ n w b (rest : List (Word × Bool)), Tab.get [] s.dev.me.chans n.toNat = (w, b) :: rest →
      let takes := fun (v : Word) => onlyMine s (fun t => { ({ t with chans := Tab.set t.chans n.toNat rest }).setX d v with pc := t.pc + 1 })
      (∃ v, exec (.bext d (.ch n) lo w1) s = takes v ∧ ∀ i < 64, v.getLsbD i = w.getLsbD (lo.toNat + min i w1.toNat)) ∧
      ∃ v, exec (.bextz d (.ch n) lo w1) s = takes v ∧ ∀ i < 64, v.getLsbD i = (decide (i ≤ w1.toNat) && w.getLsbD (lo.toNat + i))) ∧
    (lo.toNat + w1.toNat < 64 → isHelper s.dev.who = true → WaitCond.coHold.holds s s.dev.rank s.dev.who = true → ∀ n, Tab.get [] s.dev.me.chans n.toNat = [] →
      exec (.bext d (.ch n) lo w1) s = parksOn s (.channel n.toNat 1) ∧ exec (.bextz d (.ch n) lo w1) s = parksOn s (.channel n.toNat 1)) ∧
    exec (.li d c) s = writesX s d (BitVec.ofInt 64 c.toInt) ∧
    exec (.lih d h) s = writesX s d (BitVec.ofNat 64 (h.toNat * 2 ^ 48 + old.toNat % 2 ^ 48)) ∧
    exec (.sel d a b) s = writesX s d (if old = 0 then s.dev.me.src2 b else x))

/-- 13 R274, R275, 04 R74, R75: pointer operations change one field of the pointer, or raise and leave D. -/
def Obligations.PointerOperations : Prop :=
  ∀ (s : State) (d a : XReg) (b : Src2) (space fmt : BitVec 4) (lcode : BitVec 3) (tag : BitVec 11) (r : XReg) (f : BitVec 2),
    let p := s.dev.me.xr a
    let w := addrWidth (pspace p)
    let addr : Int := (p.toNat % 2 ^ w : Nat)
    let i := (s.dev.me.src2 b).toInt
    let L : Int := [16, 32, 64, 128].getD (plcode p) 0
    let bytes : Int := if pfmtOf p = 4 then [8, 15, 29, 57].getD (plcode p) 0 else if pfmtOf p = 5 then [12, 23, 45, 89].getD (plcode p) 0
      else [18, 35, 69, 137].getD (plcode p) 0
    let psb := 4 ≤ pfmtOf p ∧ pfmtOf p ≤ 6
    let o : Int := if psb then i / L * bytes else if pfmtOf p = 2 ∨ pfmtOf p = 3 then 2 * i
      else if pfmtOf p = 1 ∨ pfmtOf p = 8 then 4 * i else i
    let known := pspace p ≤ 6 ∧ pfmtOf p ≤ 8 ∧ plcode p ≤ 3
    let v := s.dev.me.xr r
    let wide := if space = 2 ∨ space = 3 then 11 else if space = 6 then 8 else 0
    let lo := if space = 6 then 45 else 42
    (pspace p ≤ 6 → 0 ≤ addr + i → addr + i < 2 ^ w →
      ∃ q : Word, exec (.padd d a b) s = writesX s d q ∧ q.toNat / 2 ^ w = p.toNat / 2 ^ w ∧ (q.toNat % 2 ^ w : Nat) = addr + i) ∧
    (6 < pspace p ∨ addr + i < 0 ∨ 2 ^ w ≤ addr + i → exec (.padd d a b) s = fault s 0x13 p 0) ∧
    (known → (psb → i % L = 0) → 0 ≤ addr + o → addr + o < 2 ^ w →
      ∃ q : Word, exec (.pidx d a b) s = writesX s d q ∧ q.toNat / 2 ^ w = p.toNat / 2 ^ w ∧ (q.toNat % 2 ^ w : Nat) = addr + o) ∧
    (¬known → exec (.pidx d a b) s = fault s 0x13 p 0) ∧
    (known → psb → i % L ≠ 0 → exec (.pidx d a b) s = fault s 0x14 p 0) ∧
    (known → (psb → i % L = 0) → (addr + o < 0 ∨ 2 ^ w ≤ addr + o) → exec (.pidx d a b) s = fault s 0x13 p 0) ∧
    (tag.toNat < 2 ^ wide → ∃ q : Word, exec (.ptag d a space (.imm tag)) s = writesX s d q ∧
      ∀ j < 64, q.getLsbD j = if 60 ≤ j then space.getLsbD (j - 60) else if lo ≤ j ∧ j < lo + wide then tag.getLsbD (j - lo)
        else p.getLsbD j) ∧
    (v.toNat < 2 ^ wide → ∃ q : Word, exec (.ptag d a space (.reg r)) s = writesX s d q ∧
      ∀ j < 64, q.getLsbD j = if 60 ≤ j then space.getLsbD (j - 60) else if lo ≤ j ∧ j < lo + wide then v.getLsbD (j - lo)
        else p.getLsbD j) ∧
    (2 ^ wide ≤ v.toNat → exec (.ptag d a space (.reg r)) s = fault s 0x13 p 0) ∧
    (∃ q : Word, exec (.pfmt d a fmt lcode) s = writesX s d q ∧
      ∀ j < 64, q.getLsbD j = if 56 ≤ j ∧ j < 60 then fmt.getLsbD (j - 56) else if 53 ≤ j ∧ j < 56 then lcode.getLsbD (j - 53)
        else p.getLsbD j) ∧
    exec (.pget d a f) s = writesX s d (BitVec.ofNat 64 (
      if f = 0 then p.toNat / 2 ^ 60 else if f = 1 then p.toNat / 2 ^ 56 % 16 else if f = 2 then p.toNat / 2 ^ 53 % 8
      else if pspace p = 2 ∨ pspace p = 3 then p.toNat / 2 ^ 42 % 2 ^ 11 else if pspace p = 6 then p.toNat / 2 ^ 45 % 2 ^ 8
      else 0)) ∧
    exec (.plin d a) s = writesX s d (BitVec.ofNat 64 (p.toNat % 2 ^ w))

/-- 13 R276 to R278: compares, predicates and `nop`. 13 R279: targets modulo 2^15, links, and the counted branch. -/
def Obligations.ComparesAndControlTransfers : Prop :=
  (∀ (s : State) (d p q : PReg) (a : XReg) (b : Src2),
    let x := s.dev.me.xr a
    let y := s.dev.me.src2 b
    exec (.cmpEq d a b) s = writesP s d (decide (x = y)) ∧
    exec (.cmpNe d a b) s = writesP s d (decide (x ≠ y)) ∧
    exec (.cmpLt d a b) s = writesP s d (decide (x.toInt < y.toInt)) ∧
    exec (.cmpLe d a b) s = writesP s d (decide (x.toInt ≤ y.toInt)) ∧
    exec (.cmpLtz d a) s = writesP s d (decide (x.toInt < 0)) ∧
    exec (.cmpLez d a) s = writesP s d (decide (x.toInt ≤ 0)) ∧
    exec (.pand d p q) s = writesP s d (s.dev.me.pr p && s.dev.me.pr q) ∧
    exec (.por d p q) s = writesP s d (s.dev.me.pr p || s.dev.me.pr q) ∧
    exec (.pxor d p q) s = writesP s d (s.dev.me.pr p != s.dev.me.pr q) ∧
    exec (.pnot d p) s = writesP s d (!s.dev.me.pr p) ∧
    exec (.pmov d p) s = writesP s d (s.dev.me.pr p) ∧
    exec .nop s = onlyMine s (fun t => { t with pc := t.pc + 1 })) ∧
  (∀ (s : State) (d a : XReg) (off : BitVec 16) (t : PcIx),
    let pc := s.dev.me.pc
    let link : Word := BitVec.ofNat 64 ((pc.toNat + 1) % 2 ^ 15)
    let n := BitVec.ofInt 64 ((s.dev.me.xr d).toInt - 1)
    exec (.br off) s = linksTo s 0 0 (BitVec.ofInt 15 (pc.toInt + off.toInt)) ∧
    exec (.jmp t) s = linksTo s 0 0 t ∧
    exec (.call d t) s = linksTo s d link t ∧
    exec (.callr d a) s = linksTo s d link (BitVec.ofNat 15 (s.dev.me.xr a).toNat) ∧
    exec (.ret a) s = linksTo s 0 0 (BitVec.ofNat 15 (s.dev.me.xr a).toNat) ∧
    exec (.lp d t) s = linksTo s d n (if n = 0 then pc + 1 else t))

/-- 14 R302, R303: `ld` and `st` of every size, order and admitted space, outside an elision section, send one request for the
`n` bytes at the advanced address. -/
def Obligations.LoadsAndStoresSend : Prop :=
  ∀ (s : State) (sz : Size) (sx : Bool) (lo : LdOrd) (so : StOrd) (d a b : XReg) (off : Src2) (i : BitVec 32) (p : Word)
    (loc : Loc) (key : Nat),
    let n := sizeBytes sz
    s.dev.me.elide = none →
    (MaySend s true false none → padvance (s.dev.x a) (s.dev.me.src2 off).toInt = some p →
      Passes s [0, 1, 2, 4, 5, 6] p n n true false loc key →
      ∃ t, exec (.ld sz sx lo d a off) s = .next t ∧ Sends s t .ld (.load n sx) (.x d) loc (lo != .plain) false) ∧
    (MaySend s false true (match so with | .rel sc => some sc | .plain => none) → padvance (s.dev.x a) i.toInt = some p →
      Passes s [0, 1, 2, 4, 5, 6] p n n false true loc key → BindAllows s loc n →
      ∃ t, exec (.st sz so a b i) s = .next t ∧ Sends s t .st (.store n (s.dev.x b)) .none loc false false)

/-- 14 R305: the full/empty forms send one request for a word; the loads acquire, `fill` and `put` release. 14 R310 to R312: the
memory-side routines send one request; `deq` and `chase` park the thread on the answer. -/
def Obligations.FullEmptyAndRoutinesSend : Prop :=
  (∀ (s : State) (sc : Scope) (d a b : XReg) (off : Src2) (i : BitVec 32) (p : Word) (loc : Loc) (key : Nat),
    (MaySend s true false none → padvance (s.dev.x a) (s.dev.me.src2 off).toInt = some p →
      Passes s [0, 1, 2, 6] p 8 8 true false loc key →
      ∃ t, exec (.ldFePeek sc d a off) s = .next t ∧ Sends s t .ld (.fe .peek 0) (.x d) loc true false) ∧
    (MaySend s true false none → padvance (s.dev.x a) (s.dev.me.src2 off).toInt = some p →
      Passes s [0, 1, 2, 6] p 8 8 true false loc key →
      ∃ t, exec (.ldFeTake sc d a off) s = .next t ∧ Sends s t .ld (.fe .take 0) (.x d) loc true false) ∧
    (padvance (s.dev.x a) i.toInt = some p → Passes s [0, 1, 2, 6] p 8 8 false true loc key → BindAllows s loc 8 →
      (MaySend s false true (some sc) →
        (∃ t, exec (.stFeFill sc a b i) s = .next t ∧ Sends s t .st (.fe .fill (s.dev.x b)) .none loc false false) ∧
        (∃ t, exec (.stFePut sc a b i) s = .next t ∧ Sends s t .st (.fe .put (s.dev.x b)) .none loc false false)) ∧
      (MaySend s false true none →
        ∃ t, exec (.stFeClr a i) s = .next t ∧ Sends s t .st (.fe .clr 0) .none loc false false))) ∧
  (∀ (s : State) (o : AmoOrd) (m : PReg) (d a b : XReg) (h : BitVec 4) (i : BitVec 32) (loc : Loc) (key : Nat),
    let t := s.dev.me
    let p := s.dev.x a
    let rel := match o with | .rel sc | .ar sc => some sc | _ => none
    let acq := match o with | .acq _ | .ar _ => true | _ => false
    (padvance p 0 = some p →
      (MaySend s acq true rel → Passes s [0, 1, 2, 6] p 16 16 true true loc key → BindAllows s loc 16 →
        ∃ u, exec (.mosCas2 o m d a b) s = .next u ∧
          Sends s u .ld (.cas [t.xr d, t.xr (d + 1)] [t.xr b, t.xr (b + 1)]) (.xs d (some m)) loc acq false) ∧
      (MaySend s acq true rel → Passes s [0, 1, 2, 6] p 32 32 true true loc key → BindAllows s loc 32 →
        ∃ u, exec (.mosCas4 o m d a b) s = .next u ∧
          Sends s u .ld (.cas [t.xr d, t.xr (d + 1), t.xr (d + 1 + 1), t.xr (d + 1 + 1 + 1)]
            [t.xr b, t.xr (b + 1), t.xr (b + 1 + 1), t.xr (b + 1 + 1 + 1)]) (.xs d (some m)) loc acq false) ∧
      (MaySend s acq true rel → Passes s [0] p 16 16 true true loc key →
        ∃ u, exec (.mosDeq o d a) s = .next u ∧ Sends s u .ld .deq (.x d) loc acq true)) ∧
    (MaySend s acq true rel → Passes s [0] p 16 16 true true loc key →
      s.dev.x b ≠ 0 → tagsKnown (s.dev.x b) = true → locBitsOk (s.dev.x b) = true → pspace (s.dev.x b) = 0 →
      paddr (s.dev.x b) % 8 = 0 →
        ∃ u, exec (.mosEnq o a b) s = .next u ∧ Sends s u .st (.enq (s.dev.x b)) .none loc acq false) ∧
    (MaySend s false false none → pspace p = 0 →
      checks5 s.dev s.dev.rank s.dev.who t .scalar p 8 8 = none →
        ∃ u, exec (.mosChase d a h i) s = .next u ∧
          Sends s u .ld (.chase (h.toNat + 1) 0 i.toInt p) (.xs d none) (.glob 0) false true))

/-- 14 R307: every atomic sends its operation with `b`, and for `cas` the expected value of D read at issue; it counts in `ld`
and raises the counters of R114. 14 R309: every reduction sends its operation, counts in `st` and returns nothing. -/
def Obligations.AtomicsAndReductionsSend : Prop :=
  (∀ (s : State) (w : Bool) (o : AmoOrd) (d a b : XReg) (i : BitVec 32) (p : Word) (loc : Loc) (key : Nat),
    let n := if w then 8 else 4
    let rel := match o with | .rel sc | .ar sc => some sc | _ => none
    let acq := match o with | .acq _ | .ar _ => true | _ => false
    let sends := fun (i : Instr) (f : AmoFn) (w : Bool) =>
      ∃ t, exec i s = .next t ∧ Sends s t .ld (.amo f w (s.dev.x b) (s.dev.x d)) (.x d) loc acq false
    MaySend s acq true rel → padvance (s.dev.x a) i.toInt = some p →
    (Passes s [0, 1, 2, 6] p n n true true loc key → BindAllows s loc n →
      sends (.amoAdd w o d a b i) .add w ∧ sends (.amoAnd w o d a b i) .and w ∧ sends (.amoOr w o d a b i) .or w ∧
      sends (.amoXor w o d a b i) .xor w ∧ sends (.amoMin w o d a b i) .min w ∧ sends (.amoMax w o d a b i) .max w ∧
      sends (.amoMinz w o d a b i) .minz w ∧ sends (.amoMaxz w o d a b i) .maxz w ∧ sends (.amoSwap w o d a b i) .swap w ∧
      sends (.amoCas w o d a b i) .cas w) ∧
    (Passes s [0, 1, 2, 6] p 4 4 true true loc key → BindAllows s loc 4 →
      sends (.amoFadd o d a b i) .fadd false ∧ sends (.amoFmin o d a b i) .fmin false ∧
      sends (.amoFmax o d a b i) .fmax false)) ∧
  (∀ (s : State) (w : Bool) (o : StOrd) (a b : XReg) (i : BitVec 32) (p : Word) (loc : Loc) (key : Nat),
    let n := if w then 8 else 4
    let rel := match o with | .rel sc => some sc | .plain => none
    let sends := fun (i : Instr) (f : AmoFn) (w : Bool) =>
      ∃ t, exec i s = .next t ∧ Sends s t .st (.red f w (s.dev.x b)) .none loc false false
    MaySend s false true rel → padvance (s.dev.x a) i.toInt = some p →
    (Passes s [0, 1, 2, 6] p n n true true loc key → BindAllows s loc n →
      sends (.redAdd w o a b i) .add w ∧ sends (.redAnd w o a b i) .and w ∧ sends (.redOr w o a b i) .or w ∧
      sends (.redXor w o a b i) .xor w ∧ sends (.redMin w o a b i) .min w ∧ sends (.redMax w o a b i) .max w ∧
      sends (.redMinz w o a b i) .minz w ∧ sends (.redMaxz w o a b i) .maxz w) ∧
    (Passes s [0, 1, 2, 6] p 4 4 true true loc key → BindAllows s loc 4 →
      sends (.redFadd o a b i) .fadd false ∧ sends (.redFmin o a b i) .fmin false ∧ sends (.redFmax o a b i) .fmax false))

/-- 14 R313, R314, 06 R127, R133, R134: `fence` and `drains` retire once what they wait for holds and park before; the other two
retire at once and leave a hold: `fence.oc` while an earlier store waits or a write is counted, `fence.co` on the thread's
copies, `macst` commands and stream outputs up to then. -/
def Obligations.FencesAndDrains : Prop :=
  ∀ (s : State) (sc : Scope),
    let f := s.dev.me.flow
    let e := s.dev.my.eng
    (f.ld = [] → f.acq = [] → f.posted = [] → f.counter sc = 0 → hasSf s.dev.my.eng s.dev.who = false →
      exec (.fence sc) s = onlyMine s (fun t => { t with pc := t.pc + 1 })) ∧
    (f.ld ≠ [] ∨ f.posted ≠ [] ∨ f.counter sc ≠ 0 →
      exec (.fence sc) s = onlyMine s (fun t => { t with parked := some (.fence sc) })) ∧
    (∃ t, exec (.fenceOc sc) s = .next t ∧
      t = { s with dev := s.dev.onMe (fun u => { u with pc := u.pc + 1, flow := { u.flow with oc := t.dev.me.flow.oc } }) } ∧
      (((∃ p ∈ f.posted, p.id < f.nextId) ∨ f.counter sc ≠ 0) → (sc, f.nextId) ∈ t.dev.me.flow.oc) ∧
      ∀ h ∈ f.oc, ((∃ p ∈ f.posted, p.id < h.2) ∨ f.counter h.1 ≠ 0) → h ∈ t.dev.me.flow.oc) ∧
    (∃ t h, exec (.fenceCo sc) s = .next t ∧
      t = { s with dev := s.dev.onMe (fun u => { u with pc := u.pc + 1, flow := { u.flow with co := t.dev.me.flow.co } }) } ∧
      t.dev.me.flow.co = f.co.filter (fun g => coWaits s s.dev.rank s.dev.who g) ++ [h] ∧ h.scope = sc ∧
      (∀ id, id ∈ h.ids ↔ (∃ c ∈ e.copies, c.slot = s.dev.who ∧ c.id = id) ∨
        (∃ m ∈ e.mq, m.slot = s.dev.who ∧ m.id = id ∧ ∃ n p q i j, m.op = .macst n p q i j) ∨
        (∃ w ∈ e.ewords, w.slot = s.dev.who ∧ w.id = id ∧ w.free = false) ∨
        ∃ m n p q i j, (s.dev.coach (unitOf s.dev.rank)).step = some m ∧ m.core = s.dev.rank ∧ m.cmd.slot = s.dev.who ∧ m.cmd.id = id ∧
          m.cmd.op = .macst n p q i j) ∧
      ∀ n x, (n, x) ∈ e.streams → x.slot = s.dev.who → x.w0.getLsbD 63 = true → (x.bound = true ∨ x.dropped ≠ none) → x.heir = none →
        (n, x.bindId, x.pos) ∈ h.outs) ∧
    (WaitCond.drain.holds s s.dev.rank s.dev.who = true →
      exec .drains s = onlyMine s (fun t => { t with pc := t.pc + 1 })) ∧
    ((∃ q ∈ f.posted, q.ready = false) → exec .drains s = onlyMine s (fun t => { t with parked := some .drain }))

/-- 06 R116, R119, 14 R303, 04 R90: performing a store to global memory writes its bytes, lowest first, and no other byte; the
acknowledgement follows. Performing a load returns the bytes there, extended, and changes no byte. Memory is read as the
access's key slot decrypts it, which is memory itself where the lines stand under that slot. -/
def Obligations.PerformedStoresAndLoads : Prop :=
  ∀ (s : State) (r k i n pa : Nat) (q : Req) (v : Word) (sx : Bool),
    InBag s r k i q → q.loc = .glob pa → Served s pa n →
    (q.op = .store n v → ∃ t, exec (.perform r k i) s = .next t ∧ OnlySlot s t r k (acked i q) ∧
      (s.memOk → ∀ a, t.mem.read a =
        if pa ≤ a ∧ a < pa + n then BitVec.ofNat 8 (v.toNat / 256 ^ (a - pa)) else (s.memAs pa n q.key).read a)) ∧
    (q.op = .load n sx → ∃ t x, exec (.perform r k i) s = .next t ∧ OnlySlot s t r k (returned i q [x] true) ∧ t.mem = s.mem ∧
      (0 < n → n ≤ 8 → (x.toNat % 256 ^ n = (s.memAs pa n q.key).readN pa n ∧
        ∀ j < 64, 8 * n ≤ j → x.getLsbD j = (sx && x.getLsbD (8 * n - 1))))) ∧
    (OwnKey s pa n q.key → s.memAs pa n q.key = s.mem)

/-- 14 R307, R309, 06 R118: an atomic's read, operation and write are one step; the old value is returned zero-extended. -/
def Obligations.PerformedAtomics : Prop :=
  ∀ (s : State) (r k i pa : Nat) (q : Req) (f : AmoFn) (w : Bool) (b e : Word),
    let n := if w then 8 else 4
    let seen := s.memAs pa n q.key
    let old := seen.readN pa n
    let v := b.toNat % 256 ^ n
    let signed : Nat → Int := fun x => if x < 256 ^ n / 2 then (x : Int) else (x : Int) - 256 ^ n
    let new := match f with
      | .add => (old + v) % 256 ^ n
      | .and => old &&& v
      | .or => old ||| v
      | .xor => old ^^^ v
      | .min => if signed old ≤ signed v then old else v
      | .max => if signed old ≤ signed v then v else old
      | .minz => min old v
      | .maxz => max old v
      | .swap => v
      | .cas => if old = e.toNat % 256 ^ n then v else old
      | .fadd => fpOp .add .fp32 .rne old v 0
      | .fmin => fminmax fp32 true old v
      | .fmax => fminmax fp32 false old v
    InBag s r k i q → q.loc = .glob pa → Served s pa n → (f = .fadd ∨ f = .fmin ∨ f = .fmax → w = false) → s.memOk →
    (q.op = .amo f w b e → ∃ t, exec (.perform r k i) s = .next t ∧
      OnlySlot s t r k (returned i q [BitVec.ofNat 64 old] true) ∧
      ∀ a, t.mem.read a = if pa ≤ a ∧ a < pa + n then BitVec.ofNat 8 (new / 256 ^ (a - pa)) else seen.read a) ∧
    (q.op = .red f w b → f ≠ .cas → ∃ t, exec (.perform r k i) s = .next t ∧ OnlySlot s t r k (acked i q) ∧
      ∀ a, t.mem.read a = if pa ≤ a ∧ a < pa + n then BitVec.ofNat 8 (new / 256 ^ (a - pa)) else seen.read a)

/-- 06 R130: what each full/empty operation waits for at its home, what it returns, and the bit it leaves; a request that must
wait joins the word's wait list last. -/
def Obligations.PerformedFullEmptyOps : Prop :=
  ∀ (s : State) (r k i pa : Nat) (q : Req) (f : FeOp) (v : Word),
    let word := pa / 8
    let empty := Tab.get false s.dev.mmeta.empty word
    let seen := s.memAs pa 8 q.key
    InBag s r k i q → q.op = .fe f v → q.loc = .glob pa → Served s pa 8 → Tab.wfFrom false 0 s.dev.mmeta.empty = true →
    ((f = .peek ∨ f = .take) ∧ empty = true ∨ f = .fill ∧ empty = false →
      ∃ t, exec (.perform r k i) s = .next t ∧ t.mem = s.mem ∧ t.dev.mmeta = s.dev.mmeta ∧
        t.dev.objs.feWait = s.dev.objs.feWait ++ [(r, k, { q with loc := .glob pa })] ∧
        t.dev.slot r k = { s.dev.slot r k with flow := { (s.dev.slot r k).flow with bag := dropAt (s.dev.slot r k).flow.bag i } }) ∧
    (firstWaiter s.dev.objs.feWait (.glob pa) = none →
      ((f = .peek ∨ f = .take) ∧ empty = false →
        ∃ t, exec (.perform r k i) s = .next t ∧ OnlySlot s t r k (returned i q [BitVec.ofNat 64 (seen.readN pa 8)] true) ∧
          t.mem = s.mem ∧ ∀ w, Tab.get false t.dev.mmeta.empty w = if w = word ∧ f = .take then true else Tab.get false s.dev.mmeta.empty w) ∧
      (f = .clr → ∃ t, exec (.perform r k i) s = .next t ∧ OnlySlot s t r k (acked i q) ∧ t.mem = s.mem ∧
        ∀ w, Tab.get false t.dev.mmeta.empty w = if w = word then true else Tab.get false s.dev.mmeta.empty w) ∧
      (f = .put ∨ f = .fill ∧ empty = true →
        ∃ t, exec (.perform r k i) s = .next t ∧ t.mem = seen.setBytes pa (bytesOf 8 v.toNat) ∧
          t.dev.slot r k = acked i q (s.dev.slot r k) ∧
          ∀ w, Tab.get false t.dev.mmeta.empty w = if w = word then false else Tab.get false s.dev.mmeta.empty w))

/-- 06 R116, 02 R35: an acknowledgement lowers the counters its request raised and finishes it in its class; a value on the
return path reaches its register, an acquire's hold ends with it. -/
def Obligations.AcknowledgeAndReturn : Prop :=
  ∀ (s : State) (r k i : Nat) (q : Req) (d : XReg) (v : Word),
    let f := (s.dev.slot r k).flow
    r < 2048 → k < 16 → NoneReady f →
    (nth? f.acks i = some ⟨q, none⟩ → ∃ t g, exec (.acknowledge r k i) s = .next t ∧ t.mem = s.mem ∧
      OnlySlot s t r k (fun u => { u with flow := g }) ∧
      g.die = (if q.die then f.die - 1 else f.die) ∧ g.pkg = (if q.pkg then f.pkg - 1 else f.pkg) ∧
      g.sys = (if q.sys then f.sys - 1 else f.sys) ∧ g.acks = dropAt f.acks i ∧
      g.bag = f.bag ∧ g.rets = f.rets ∧ (∀ c, g.cls c = if c = q.cls ∧ c ≠ .none then popDone (dec1 q.id (f.cls c)) else f.cls c)) ∧
    (nth? f.rets i = some ⟨q, .words [v] true⟩ → q.dst = .x d → ∃ t g, exec (.returnValue r k i) s = .next t ∧ t.mem = s.mem ∧
      OnlySlot s t r k (fun u => { (u.setX d v) with flow := g }) ∧
      g.rets = dropAt f.rets i ∧ g.bag = f.bag ∧ g.acks = f.acks ∧
      (q.cls ≠ .none → g.acq = f.acq.filter (· != q.id)) ∧
      (∀ c, g.cls c = if c = q.cls ∧ c ≠ .none then popDone (dec1 q.id (f.cls c)) else f.cls c))

/-- 03 R43, 04 R79, 12 R265, R267: a parked thread whose condition holds becomes issuable; a fetch at or above the bound parks
the thread, a helper's with an overlay request in the event queue; a word that fails checks 1 to 4 raises. -/
def Obligations.WakesFetchesAndIllegalWords : Prop :=
  ∀ (s : State) (r k : Nat) (c : WaitCond) (n : BitVec 2) (p : BitVec 4),
    ((s.dev.slot r k).parked = some c → c.holds s r k = true → s.dev.plat.dieOp = none →
      ∃ t, exec (.parkedThreadWake r k) s = .next t ∧ t.mem = s.mem ∧
        (∀ q j, t.dev.slot q j = if q = r ∧ j = k then { s.dev.slot r k with parked := none } else s.dev.slot q j) ∧
        t.dev.objs = s.dev.objs ∧ t.dev.plat = { s.dev.plat with deadlockRaised := t.dev.plat.deadlockRaised }) ∧
    ((s.dev.slot r k).parked = some c → c.holds s r k = false → exec (.parkedThreadWake r k) s = .next s) ∧
    (isHelper s.dev.who = true → s.dev.my.eng.events.length < 64 → s.dev.my.eng.eventWait = [] →
      ∃ t, exec .instructionFetchBeyondBound s = .next t ∧ t.mem = s.mem ∧
        t.dev.me = { s.dev.me with parked := some .overlay } ∧
        t.dev.my.eng.events = s.dev.my.eng.events ++
          [(BitVec.ofNat 64 (5 * 2 ^ 60 + s.dev.who * 2 ^ 56), BitVec.ofNat 64 s.dev.me.pc.toNat)]) ∧
    (isHelper s.dev.who = false →
      exec .instructionFetchBeyondBound s = onlyMine s (fun u => { u with parked := some .overlay })) ∧
    exec (.illegalInstruction (.check n)) s = fault s 0x01 (BitVec.ofNat 64 (s.dev.me.pc.toNat * 12)) (n.setWidth 32) ∧
    exec (.illegalInstruction (.position p)) s = fault s 0x02 (BitVec.ofNat 64 (s.dev.me.pc.toNat * 12)) (p.setWidth 32) ∧
    (s.dev.me.elide = none →
      (∃ t, exec (.illegalInstruction (.check n)) s = .next t ∧
        TakesFault s t s.dev.rank s.dev.who 0x01 (BitVec.ofNat 64 (s.dev.me.pc.toNat * 12)) (n.setWidth 32)) ∧
      ∃ t, exec (.illegalInstruction (.position p)) s = .next t ∧
        TakesFault s t s.dev.rank s.dev.who 0x02 (BitVec.ofNat 64 (s.dev.me.pc.toNat * 12)) (p.setWidth 32))

/-- 20 R377 to R380, 02 R35 Raise: what taking a precise fault of the issuing thread does, outside an elision section and where
no page-fault hand-off takes its place. -/
def Obligations.TakingAFault : Prop :=
  ∀ (s : State) (cause : Byte) (addr : Word) (opnd : BitVec 32),
    s.dev.me.elide = none → ¬(cause = 0x10 ∧ isHelper s.dev.who = true ∧ handsOff s.dev s.dev.rank = true) →
    ∃ t, fault s cause addr opnd = .next t ∧ TakesFault s t s.dev.rank s.dev.who cause addr opnd

/-- 20 R383, R384: a deferred fault, and an imprecise store fault behind every deferred one, is taken at a boundary of its
thread. 20 R379, R380, R391: slots 13 and 15 take the oldest fault sent to them; each starts with `ctl.fault` in `x1`, every
other register zero, the record's domain and the ASID of that domain's vector entry, and the faulting thread stays as it is;
the record of a page-fault hand-off waits until the thread's frame is written. The core has power (24 R434, 11 R237). -/
def Obligations.FaultsReachTheirHandlers : Prop :=
  (∀ (s : State) (r k : Nat) (f : Defer) (rest : List Defer) (x : SfRec),
    let u := s.dev.slot r k
    k < 16 → u.life = .live → u.held = false → u.pre = none → u.elide = none → (∀ i, u.parked ≠ some (.answer i)) →
    (u.flow.deferred = f :: rest →
      ∃ t, exec (.deferredFault r k) s = .next t ∧ TakesFault s t r k f.cause f.addr f.opnd ∧ (t.dev.slot r k).flow.deferred = rest) ∧
    (u.flow.deferred = [] → (s.dev.core r).eng.sfq.find? (fun y => y.slot == k) = some x →
      ∃ t, exec (.impreciseStoreFault r k) s = .next t ∧
        TakesFault s t r k 0x60 x.addr (BitVec.ofNat 32 (x.kind * 2 ^ 16 + x.cause.toNat * 2 ^ 8 + x.sub.toNat)))) ∧
  (∀ (s : State) (r : Nat) (b : Bool) (p : Pend) (rest : List Pend),
    let c := s.dev.core r
    let v := vectorOf s.dev.plat p.domain
    let f : BitVec 22 := BitVec.ofNat 22 (p.slot * 2 ^ 18 + recordBase c p.slot % 2 ^ 18)
    (c.eng.pend13 = p :: rest → serviceIdle (c.slot 13) = true → s.dev.engineUp r = true →
      ∃ t, exec (.trapHandlerStart r) s = .next t ∧ t.mem = s.mem ∧
        (t.dev.core r).eng = { c.eng with pend13 := rest, hand13 := some p } ∧
        (∀ x, (t.dev.slot r 13).xr x = if x = 1 then f.setWidth 64 else 0) ∧ (t.dev.slot r 13).p = 0 ∧
        (t.dev.slot r 13).life = .live ∧ (t.dev.slot r 13).fault = f ∧ (t.dev.slot r 13).domain = p.domain ∧
        (t.dev.slot r 13).asid = BitVec.ofNat 16 (bits v 62 47) ∧ (t.dev.slot r 13).pc = BitVec.ofNat 15 (bits v 46 32) ∧
        ∀ q j, ¬(q = r ∧ j = 13) → t.dev.slot q j = s.dev.slot q j) ∧
    (c.eng.pend15 = p :: rest → serviceIdle (c.slot 15) = true → s.dev.engineUp r = true → p.ends = none → p.handoff = false →
      ∃ t, exec (.agentFaultTake ⟨r, b⟩) s = .next t ∧ t.mem = s.mem ∧
        (t.dev.core r).eng = { c.eng with pend15 := rest, hand15 := some p } ∧
        (∀ x, (t.dev.slot r 15).xr x = if x = 1 then f.setWidth 64 else 0) ∧ (t.dev.slot r 15).p = 0 ∧
        (t.dev.slot r 15).life = .live ∧ (t.dev.slot r 15).fault = f ∧ (t.dev.slot r 15).pc = c.regs.agent ∧
        (t.dev.slot r 15).domain = p.domain ∧ (t.dev.slot r 15).asid = BitVec.ofNat 16 (bits v 62 47) ∧
        ∀ q j, ¬(q = r ∧ j = 15) → t.dev.slot q j = s.dev.slot q j) ∧
    (c.eng.pend15 = p :: rest → p.handoff = true → (∃ q, (c.slot p.slot).pre = some q ∧ q.reason = 2) →
      exec (.agentFaultTake ⟨r, b⟩) s = .next s))

/-- 13 R289, R290: `trap` takes the fault 0x78 with its immediate and `eret` ends the handling: retry, skip and redirect release
the held thread at PC, PC + 1 and the target. -/
def Obligations.TrapsAndReturns : Prop :=
  ∀ (s : State) (imm : BitVec 16) (a : XReg) (p : Pend),
    let k := s.dev.who
    let v := s.dev.x a
    let u := s.dev.slot s.dev.rank p.slot
    (1 ≤ k → k ≤ 11 → exec (.trap imm) s = fault s 0x78 (BitVec.ofNat 64 (s.dev.me.pc.toNat * 12)) (imm.setWidth 32)) ∧
    (1 ≤ k → k ≤ 11 → s.dev.me.elide = none → ∃ t, exec (.trap imm) s = .next t ∧
      TakesFault s t s.dev.rank k 0x78 (BitVec.ofNat 64 (s.dev.me.pc.toNat * 12)) (imm.setWidth 32)) ∧
    (k = 0 ∨ 12 ≤ k → exec (.trap imm) s = fault s 0x04 0 0) ∧
    (k ≠ 13 → k ≠ 15 → exec (.eret a) s = fault s 0x04 0 0) ∧
    (k = 13 ∨ k = 15 → v.getLsbD 31 = true ∨ bits v 15 2 ≠ 0 → exec (.eret a) s = fault s 0x03 0 2) ∧
    (k = 13 ∨ k = 15 → v.getLsbD 31 = false → bits v 15 2 = 0 →
      (if k = 13 then s.dev.my.eng.hand13 else s.dev.my.eng.hand15) = some p → p.handoff = false → p.slot ≠ k →
      u.life = .live → u.held = true → bits v 1 0 ≠ 2 →
      ∃ t, exec (.eret a) s = .next t ∧ t.mem = s.mem ∧ (t.dev.slot s.dev.rank k).life = .free ∧
        (if k = 13 then (t.dev.core s.dev.rank).eng.hand13 else (t.dev.core s.dev.rank).eng.hand15) = none ∧
        (t.dev.slot s.dev.rank p.slot).held = false ∧
        (t.dev.slot s.dev.rank p.slot).pc = (if bits v 1 0 = 0 then u.pc else if bits v 1 0 = 1 then u.pc + 1
          else BitVec.ofNat 15 (bits v 30 16)) ∧
        (t.dev.slot s.dev.rank p.slot).x = u.x ∧ (t.dev.slot s.dev.rank p.slot).p = u.p)

/-- 20 R382, 10 R215, 04 R94: records that wait for room enter their queues in order, and a walk that finds a leaf fills both
translation buffers and answers the threads that wait for it. -/
def Obligations.QueuedRecordsAndWalks : Prop :=
  ∀ (s : State) (r i v1 v2 : Nat) (x : SfRec) (more : List (SfRec × Option Req)) (w : Word × Word)
    (h : Option (Nat × Nat)) (rest : List ((Word × Word) × Option (Nat × Nat))) (m : Miss) (level : Nat) (leaf : Word),
    let e := (s.dev.core r).eng
    (e.sfWait = (x, none) :: more → e.sfq.length < 16 → x.slot < 16 →
      exec (.storeFaultRecordEnter r) s =
        .next { s with dev := s.dev.onEng r (fun e => { e with sfq := e.sfq ++ [x], sfWait := more }) }) ∧
    (e.eventWait = (w, h) :: rest → e.events.length < 64 →
      exec (.eventQueuePost r) s =
        .next { s with dev := s.dev.onEng r (fun e => { e with events := e.events ++ [w], eventWait := rest }) }) ∧
    (nth? e.mail i = some m → walkHeld s m.asid m.va = false → s.dev.engineUp r = true → walkPoison s m.asid m.va = none → walk s m.asid m.va = some (level, leaf) →
      (∀ k < 16, (s.dev.slot r k).flow.posted = []) → (∀ q ∈ e.saved, q.ctx.flow.posted = []) →
      ∃ t, exec (.pageWalk r i v1 v2) s = .next t ∧ t.mem = s.mem ∧ (t.dev.core r).eng.mail = dropAt e.mail i ∧
        (⟨m.asid, level, m.va / 2 ^ pageShift level, leaf⟩ : TlbE) ∈ (t.dev.core r).eng.tlb ∧
        (⟨m.asid, level, m.va / 2 ^ pageShift level, leaf⟩ : TlbE) ∈ (t.dev.die (dieOf r)).tlb ∧
        ∀ k, k ≠ 12 → (s.dev.slot r k).parked = some (.walk m.asid m.page) →
          (t.dev.slot r k).flow.walked = (s.dev.slot r k).flow.walked ++ [(m.asid, m.page, level + 1, leaf)])

/-- 13 R299, 20 R386 to R388, 11 R247: at a pre-emption point or where it stands parked or held, or 4 µs after the request, a
thread whose engines stand still is halted and its context leaves the slot with its registers; the slot is free for its
owner. A `ctxsave` that asked for it writes status 0 to its D and goes on in slot 15; a die save that asked ends when its
die is ready. -/
def Obligations.PreemptedContextsLeaveTheirSlots : Prop :=
  ∀ (s : State) (r k : Nat) (p : Preempt) (i : Instr),
    let u := s.dev.slot r k
    let a := s.dev.slot r 15
    (i = .preemptHalt r k ∧ (u.parked ≠ none ∨ u.held = true ∨ ppAt (s.dev.core r) u.pc = true)) ∨
      (i = .preemptTimeout r k ∧ p.since + 7200 ≤ s.dev.now) →
    1 ≤ k → k ≤ 10 → u.pre = some p → u.life = .live → u.elide = none → u.lapsed = false →
    enginesStill (haltThread s.dev r k) r k = true →
    ∃ t, exec i s = .next t ∧ (t.dev.slot r k).life = .free ∧ (t.dev.slot r k).owner = u.owner ∧
      (∃ q ∈ (t.dev.core r).eng.saved, q.slot = k ∧ q.frame = p.frame ∧ q.reason = p.reason ∧ q.ctx.x = u.x ∧ q.ctx.p = u.p ∧
        q.ctx.pc = u.pc) ∧
      (∀ d, p.dst = some d → (t.dev.slot r 15).x = (a.setX d 0).x ∧ (t.dev.slot r 15).pc = a.pc + 1 ∧ (t.dev.slot r 15).parked = none) ∧
      (s.dev.plat.dieOp = none → t.dev.plat.dieOp = none) ∧
      (∀ o, s.dev.plat.dieOp = some o → o.save = true → t.dev.plat.dieOp = if saveReady t.dev o then none else some o)

/-- 03 R65 to R67, 20 R392: while every core of a logical device raises its all-parked line, one context besides its control
contexts is live and parked, nothing of it is in a network, an engine or a queue, no wake is armed and no die is halted,
slot 15 of its lowest core gets the deadlock trap once, with the report's base as its address and the number of entries as
its operand, and the report holds an entry for each parked thread. Where one of the conditions fails nothing is raised, and
the trap may come again. -/
def Obligations.DeadlockIsReportedOnce : Prop :=
  ∀ (s : State) (j : Nat),
    let d := s.dev
    let o := d.objs
    let mine := fun (r : Nat) => r < 2048 ∧ ldevOf o.mode (dieOf r) = j ∧ (d.die (dieOf r)).failed = false
    let live := fun (r k : Nat) => (d.slot r k).life = .live
    let stands := fun (r k : Nat) => (d.slot r k).held = false ∧ (d.slot r k).pre = none ∧ (d.slot r k).flow.deferred = [] ∧
      (∀ x ∈ (d.core r).eng.sfq, x.slot ≠ k) ∧ (d.slot r k).parked.any (fun w => !w.holds s r k) = true
    let line := fun (r : Nat) => (∀ k < 16, live r k → stands r k) ∧ live r 0 ∧ (d.slot r 0).parked = some .event ∧ (d.core r).eng.events = []
    let idle := fun (r : Nat) =>
      let e := (d.core r).eng
      (e.copies = [] ∧ e.ewords = [] ∧ e.xfers = [] ∧ e.mq = [] ∧ e.mtl = [] ∧ e.mail = [] ∧ e.dq = [] ∧ e.streams = []) ∧
        (e.eventWait = [] ∧ e.sfWait = [] ∧ e.pend13 = [] ∧ e.pend15 = [] ∧ e.saved = []) ∧ (d.coach (unitOf r)).step = none ∧
        ∀ k < 16, (d.slot r k).flow.bag = [] ∧ (d.slot r k).flow.rets = [] ∧ (d.slot r k).flow.acks = [] ∧ (d.slot r k).flow.posted = []
    let waits := fun (q : Queue) => q.dev = j ∧ (q.wake = true ∨ ∃ y ∈ q.recs, y.eligible = true)
    let quiet := (∀ n < 8, (d.die n).halted = false) ∧ (∀ r, mine r → line r ∧ idle r) ∧ (∃ r k, mine r ∧ 1 ≤ k ∧ k < 16 ∧ live r k) ∧
      (∀ c ∈ d.cores, 2048 ≤ c.1 → c.2.eng.xfers = []) ∧ (o.msgs = [] ∧ o.fabric = [] ∧ o.grants = [] ∧ o.arrivals = []) ∧ ∀ q ∈ o.queues, ¬waits q
    let broken := (∃ n < 8, (d.die n).halted = true) ∨
      (∃ r k, mine r ∧ 1 ≤ k ∧ k < 15 ∧ live r k ∧ ((d.slot r k).held = true ∨ (d.slot r k).parked = none)) ∨
      (∃ r, mine r ∧ ((d.slot r 0).parked ≠ some .event ∨ (d.core r).eng.events ≠ [] ∨ (d.core r).eng.ewords ≠ [] ∨ (d.core r).eng.mq ≠ [] ∨
        (d.core r).eng.mail ≠ [] ∨ (d.core r).eng.xfers ≠ [] ∨ ∃ x ∈ (d.core r).eng.copies, x.parked = false)) ∨
      (∀ r k, mine r → 1 ≤ k → k < 16 → ¬live r k) ∨ (∃ f ∈ o.fabric, mine f.rank) ∨ (∃ m ∈ o.msgs, mine m.1) ∨ ∃ q ∈ o.queues, waits q
    let r := nth 0 (ldevDies d j) 0 * 256
    let c := d.core r
    let base := bits (d.plat.reg 0x200) 43 4 * 16
    let es := if base = 0 then [] else reportEntries d j
    (quiet → j ∉ d.plat.deadlockRaised → ∃ t, exec (.deadlockTrap j) s = .next t ∧ j ∈ t.dev.plat.deadlockRaised ∧
      (∃ p, Joins c.eng.pend15 (t.dev.core r).eng.pend15 p ∧ p.slot = 15 ∧ p.cause = 0x70) ∧
      (c.lmem.wf = true → (t.dev.core r).lmem.word (recordBase c 15 + 8) = BitVec.ofNat 64 base ∧
        (t.dev.core r).lmem.word (recordBase c 15 + 16) = BitVec.ofNat 64 (es.length % 2 ^ 32)) ∧
      t.mem = es.zipIdx.foldl (fun m e => m.setWords (base + 16 * e.2) e.1) s.mem) ∧
    (quiet → base ≠ 0 → ∀ q k, mine q → k < 16 → live q k → queueOf d q (d.slot q k) < 256 → ∃ e ∈ es,
      bits (nth 0 e 0) 63 53 = q ∧ bits (nth 0 e 0) 52 49 = k ∧ bits (nth 0 e 0) 14 0 = (d.slot q k).pc.toNat) ∧
    (quiet → j ∈ d.plat.deadlockRaised → exec (.deadlockTrap j) s = .next s) ∧
    (broken → ∃ t, exec (.deadlockTrap j) s = .next t ∧ t.mem = s.mem ∧ t.dev.cores = s.dev.cores ∧ j ∉ t.dev.plat.deadlockRaised)

/-- 13 R284, 03 R50: a semaphore's units are taken, tried and posted; a thread whose mask lacks it gets 0x11 with condition 7. -/
def Obligations.SemaphoreOperations : Prop :=
  ∀ (s : State) (n : SemReg) (p : PReg) (k : BitVec 16),
    let c := s.dev.my
    let v := (Tab.get 0 c.regs.sem n.toNat).toNat
    let taken : State := { s with dev := s.dev.onMy (fun c => { c with regs := { c.regs with
      sem := Tab.set c.regs.sem n.toNat (Tab.get 0 c.regs.sem n.toNat - 1) } }) }
    let clear := WaitCond.coHold.holds s s.dev.rank s.dev.who = true
    let mine := s.dev.who = 0 ∨ (isHelper s.dev.who = true ∧ s.dev.me.smask.getLsbD n.toNat = true)
    (mine → c.eng.semWait = [] →
      (0 < v → clear → exec (.semWait n) s = onlyMine taken (fun t => { t with pc := t.pc + 1 })) ∧
      (v = 0 → ∃ t, exec (.semWait n) s = .next t ∧ t.dev.me = { s.dev.me with parked := some (.sem n.toNat) } ∧
        t.dev.my.eng.semWait = [(n.toNat, s.dev.who, false)] ∧ t.dev.my.regs = c.regs ∧ t.mem = s.mem) ∧
      (0 < v → clear → exec (.semTry p n) s = writesP taken p true) ∧
      (v = 0 → exec (.semTry p n) s = writesP s p false)) ∧
    (mine → releaseOk s.dev s.dev.rank s.dev.who .core = true → ∃ t, exec (.semPost n k) s = .next t ∧
      t.dev.me = { s.dev.me with pc := s.dev.me.pc + 1 } ∧ t.mem = s.mem ∧
      (Tab.get 0 t.dev.my.regs.sem n.toNat).toNat = min (v + k.toNat) 65535) ∧
    (¬mine → exec (.semWait n) s = fault s 0x11 0 (BitVec.ofNat 32 (7 * 2 ^ 8 + n.toNat)) ∧
      (releaseOk s.dev s.dev.rank s.dev.who .core = true →
        exec (.semPost n k) s = fault s 0x11 0 (BitVec.ofNat 32 (7 * 2 ^ 8 + n.toNat))) ∧
      exec (.semTry p n) s = fault s 0x11 0 (BitVec.ofNat 32 (7 * 2 ^ 8 + n.toNat)))

/-- 13 R285, R286: `wait` retires once each named class is at or below its number, `evpop` takes the oldest record; both park
before. -/
def Obligations.WaitsAndEvents : Prop :=
  ∀ (s : State) (ld st cp tl : Option (BitVec 9)) (d : XReg) (w : Word × Word) (rest : List (Word × Word)),
    let f := s.dev.me.flow
    let low := fun (n : Option (BitVec 9)) (l : List (Nat × Nat)) => ∀ k, n = some k → l.length ≤ k.toNat
    (low ld f.ld ∧ low st f.st ∧ low cp f.cp ∧ low tl f.tl →
      exec (.wait ld st cp tl) s = onlyMine s (fun t => { t with pc := t.pc + 1 })) ∧
    (¬(low ld f.ld ∧ low st f.st ∧ low cp f.cp ∧ low tl f.tl) →
      exec (.wait ld st cp tl) s = parksOn s (.counts (ld.map (·.toNat)) (st.map (·.toNat)) (cp.map (·.toNat)) (tl.map (·.toNat)))) ∧
    (s.dev.who ≠ 0 → exec (.evpop d) s = fault s 0x04 0 0) ∧
    (s.dev.who = 0 → s.dev.my.eng.events = [] → exec (.evpop d) s = parksOn s .event) ∧
    (s.dev.who = 0 → s.dev.my.eng.events = w :: rest → d.toNat % 2 = 0 → ∃ t, exec (.evpop d) s = .next t ∧ t.mem = s.mem ∧
      t.dev.my.eng = { s.dev.my.eng with events := rest } ∧ t.dev.me.pc = s.dev.me.pc + 1 ∧ t.dev.me.p = s.dev.me.p ∧
      ∀ x, t.dev.me.xr x = if x = 0 then 0 else if x = d + 1 then w.2 else if x = d then w.1 else s.dev.me.xr x)

/-- 13 R280, R282, R287: `start`, `reap` and `spawn` send one request each, whose status is written to D; `spawn` reads its
record as it issues, where the record's words can be read. -/
def Obligations.GroupRequestsSend : Prop :=
  ∀ (s : State) (head : Bool) (d a b : XReg) (loc : Loc) (key : Nat),
    let w := s.dev.x b
    (s.dev.who = 0 → MaySend s false false none → w.getLsbD 63 = false → bits w 31 28 = 0 → bits w 7 4 = 0 →
      1 ≤ bits w 3 0 → bits w 3 0 ≤ 10 → bits w 47 32 ≤ 0x8000 →
      Passes s [0, 1] (s.dev.x a) 64 64 true false loc key →
      ∃ t, exec (.start d a b) s = .next t ∧ Sends s t .ld (.start w) (.x d) loc false false) ∧
    (s.dev.who = 0 → MaySend s false false none →
      ∃ t, exec (.reap d a) s = .next t ∧ Sends s t .ld (.reap (bits (s.dev.x a) 3 0)) (.x d) (.loc s.dev.rank 0) false false) ∧
    ((head = true → s.dev.who = 0) → bits w 63 8 = 0 → MaySend s false false none →
      releaseOk s.dev s.dev.rank s.dev.who .sys = true → Passes s [0, 1] (s.dev.x a) 64 64 true false loc key →
      anyHeld s loc 64 = false → s.poisonedIn loc 64 = false →
      ∃ t, exec (.spawn head d a b) s = .next t ∧
        Sends s t .ld (.spawn head (bits w 7 0) (recordAtLoc s loc key)) (.x d) loc false false) ∧
    (s.dev.who ≠ 0 → exec (.start d a b) s = fault s 0x04 0 0 ∧ exec (.reap d a) s = fault s 0x04 0 0 ∧
      exec (.spawn true d a b) s = fault s 0x04 0 0)

/-- 13 R283, 03 R46: `end` of a helper with nothing outstanding zeroes its slot, which is then neither live nor free, and joins
its status to its group's; elsewhere it raises 0x01 with check 8. -/
def Obligations.EndingAThread : Prop :=
  ∀ (s : State) (a : XReg) (g : Group),
    let k := s.dev.who
    let u := s.dev.me
    (isHelper k = true → u.gdepth = 0 → drained u.flow = true → groupOf s.dev.my.eng u.lead = some g → g.forced = false →
      ∃ t, exec (.endThread a) s = .next t ∧ t.mem = s.mem ∧ t.dev.me.life = .exited ∧ (∀ x, t.dev.me.xr x = 0) ∧
        t.dev.me.p = 0 ∧ t.dev.me.owner = u.owner ∧
        ∃ h, groupOf t.dev.my.eng u.lead = some h ∧ h.status = g.status ||| (s.dev.x a).setWidth 32 ∧ h.members = g.members) ∧
    (isHelper k = false ∨ u.gdepth ≠ 0 → exec (.endThread a) s = fault s 0x01 (BitVec.ofNat 64 (u.pc.toNat * 12)) 8)

/-- 14 R315, R316: a barrier's arrival names the current generation and is counted by its own step; the last one completes the
generation, and a wait for a completed one retires. -/
def Obligations.BarriersCountArrivals : Prop :=
  ∀ (s : State) (l : Scope) (i lv q inst : Nat),
    let n := levelNum l
    let mine := barInst s.dev n
    let bar := barGet s.dev.objs n (myQueue s.dev) mine
    let there := barGet s.dev.objs lv q inst
    let need := barNeed s.dev (if lv = 0 then inst / 2 ^ 64 else 0) lv q inst
    (isHelper s.dev.who = true → barNeed s.dev s.dev.rank n (myQueue s.dev) mine ≠ 0 → Tab.get none s.dev.me.bars n = none →
      exec (.barWait l) s = onlyMine s (fun t => { t with pc := t.pc + 1 }) ∧
      (releaseOk s.dev s.dev.rank s.dev.who l = true →
        (∃ t, exec (.barArrive l) s = .next t ∧ t.mem = s.mem ∧
          t.dev.objs = { s.dev.objs with arrivals := s.dev.objs.arrivals ++ [(n, myQueue s.dev, mine)] } ∧
          t.dev.me = { s.dev.me with pc := s.dev.me.pc + 1, bars := Tab.set s.dev.me.bars n (some bar.gen) }) ∧
        (s.dev.me.sent = 0 → ∃ t, exec (.barArrivewait l) s = .next t ∧ t.mem = s.mem ∧
          t.dev.objs = { s.dev.objs with arrivals := s.dev.objs.arrivals ++ [(n, myQueue s.dev, mine)] } ∧
          t.dev.me = { s.dev.me with parked := some (.barrier n (myQueue s.dev) mine bar.gen), sent := 1,
                                     bars := Tab.set s.dev.me.bars n (some bar.gen) }))) ∧
    (∀ g, isHelper s.dev.who = true → barNeed s.dev s.dev.rank n (myQueue s.dev) mine ≠ 0 → Tab.get none s.dev.me.bars n = some g →
      WaitCond.coHold.holds s s.dev.rank s.dev.who = true → barDone s.dev.objs n (myQueue s.dev) mine g = true →
      exec (.barWait l) s = onlyMine s (fun t => { t with pc := t.pc + 1, bars := Tab.set t.bars n none })) ∧
    (∀ g, s.dev.me.sent = 1 → Tab.get none s.dev.me.bars n = some g → WaitCond.coHold.holds s s.dev.rank s.dev.who = true → barDone s.dev.objs n (myQueue s.dev) mine g = true →
      exec (.barArrivewait l) s = onlyMine s (fun t => { t with pc := t.pc + 1, sent := 0, bars := Tab.set t.bars n none })) ∧
    (nth? s.dev.objs.arrivals i = some (lv, q, inst) → ∃ t, exec (.barrierArrival i) s = .next t ∧ t.mem = s.mem ∧
      t.dev.cores = s.dev.cores ∧ t.dev.objs.arrivals = dropAt s.dev.objs.arrivals i ∧
      barGet t.dev.objs lv q inst = if there.arrived + 1 ≥ need then { there with gen := there.gen + 1, arrived := 0 }
        else { there with arrived := there.arrived + 1 })

/-- 13 R288: what `ctlr` reads, by register number, in the slots that may read it, and 0x04 elsewhere. -/
def Obligations.ControlRegisterReads : Prop :=
  ∀ (s : State) (d : XReg) (slot : BitVec 4) (other : Bool) (n : SemReg),
    let who := s.dev.who
    let k := if other then slot.toNat else who
    let t := s.dev.slot s.dev.rank k
    let c := s.dev.my.regs
    let o := s.dev.objs
    let high := who = 0 ∨ who = 13 ∨ who = 14 ∨ who = 15
    (other = true → isHelper who = false) →
    (∀ e ∈ ([(0, t.asid.setWidth 64), (1, t.domain.setWidth 64), (2, t.part), (3, t.lmbase.setWidth 64),
        (4, t.lmlim.setWidth 64), (5, t.member.setWidth 64), (6, t.gsize.setWidth 64), (7, t.gdepth.setWidth 64),
        (8, BitVec.ofNat 64 k), (0x10, c.xb.setWidth 64), (0x11, c.shbase.setWidth 64), (0x12, c.shlim.setWidth 64),
        (0x14, c.dmask), (0x15, c.mqw.setWidth 64), (0x16, c.accmap.setWidth 64), (0x17, BitVec.ofNat 64 s.dev.rank),
        (0x20, o.peerSelf.setWidth 64), (0x21, o.popmap), (0x22, o.offmap),
        (0x23, BitVec.ofNat 64 (s.dev.now - c.started)), (0x24, c.prbase.setWidth 64), (0x26, c.lmstat)] : List (BitVec 12 × Word)),
      exec (.ctlr d e.1 slot other) s = writesX s d e.2) ∧
    ((who = 13 ∨ who = 15) → k = who → exec (.ctlr d 9 slot other) s = writesX s d (t.fault.setWidth 64)) ∧
    (high → exec (.ctlr d 0x13 slot other) s = writesX s d (c.gfbase.setWidth 64) ∧
      exec (.ctlr d 0x25 slot other) s = writesX s d (c.cfbase.setWidth 64)) ∧
    (who = 0 ∨ (isHelper who = true ∧ s.dev.me.smask.getLsbD n.toNat = true) →
      exec (.ctlr d (BitVec.ofNat 12 (0x18 + n.toNat)) slot other) s = writesX s d ((Tab.get 0 c.sem n.toNat).setWidth 64)) ∧
    (¬high → exec (.ctlr d 0x13 slot other) s = fault s 0x04 0 0 ∧ exec (.ctlr d 0x25 slot other) s = fault s 0x04 0 0) ∧
    (¬(who = 0 ∨ (isHelper who = true ∧ s.dev.me.smask.getLsbD n.toNat = true)) →
      exec (.ctlr d (BitVec.ofNat 12 (0x18 + n.toNat)) slot other) s = fault s 0x04 0 0)

/-- 13 R288: a permitted `ctlw` of a value its register admits is read back and leaves every other control register, but that a
domain brings its partition mask; other writers get 0x04, other values 0x03 with position 2. -/
def Obligations.ControlRegisterWrites : Prop :=
  ∀ (s : State) (a : XReg) (slot : BitVec 4) (other : Bool) (n : SemReg),
    let who := s.dev.who
    let k := if other then slot.toNat else who
    let v := s.dev.x a
    let low := s.dev.my.regs.xb.toNat * 12
    let idle := (who = 0 ∨ who = 15) ∧ (s.dev.slot s.dev.rank k).life ≠ .live
    let rows : List (BitVec 12 × Prop × Prop) :=
      [(0, who = 15, v.toNat < 2 ^ 16), (1, who = 15, v.toNat < 64), (2, who = 15, True),
       (3, idle, v.toNat < 2 ^ 18 ∧ v.toNat % 8 = 0),
       (4, idle, v.toNat ≤ 0x40000 ∧ v.toNat % 8 = 0 ∧ (s.dev.slot s.dev.rank k).lmbase.toNat ≤ v.toNat),
       (0x11, who = 0, v.toNat < 2 ^ 18 ∧ v.toNat % 8 = 0), (0x12, who = 0, v.toNat ≤ 0x40000 ∧ v.toNat % 8 = 0),
       (0x13, who = 0, v.toNat ≤ 0x39A00 ∧ v.toNat % 64 = 0 ∧ low ≤ v.toNat), (0x14, who = 0, True),
       (0x15, who = 0, v.toNat < 16), (0x16, who = 0, v.toNat < 2 ^ 12), (BitVec.ofNat 12 (0x18 + n.toNat), who = 0, v.toNat < 2 ^ 16),
       (0x20, who = 15, v.toNat < 256 ∧ bits v 7 4 ≤ 7 ∧ bits v 3 0 ≤ 7), (0x21, who = 15, True), (0x22, who = 15, True),
       (0x24, who = 0, v.toNat < 2 ^ 19 ∧ v.toNat % 2 ^ 18 % 64 = 0 ∧
         (v.getLsbD 18 = true → low ≤ v.toNat % 2 ^ 18 ∧ v.toNat % 2 ^ 18 + 0x2000 ≤ 0x40000)),
       (0x25, who = 15, bits v 63 44 = 0 ∧ bits v 19 1 = 0)]
    (other = true → isHelper who = false) →
    ∀ e ∈ rows,
      (e.2.1 → e.2.2 → (e.1 = 0x16 → s.dev.my.eng.mq = []) → ∃ t, exec (.ctlw e.1 slot other a) s = .next t ∧
        t.mem = s.mem ∧ t.dev.me.pc = s.dev.me.pc + 1 ∧ t.dev.me.x = s.dev.me.x ∧ ctlValue t.dev e.1.toNat k = v ∧
        ∀ m j, ¬(m = e.1.toNat ∧ (j = k ∨ 9 < m)) → ¬(e.1 = 1 ∧ m = 2 ∧ j = k) → ctlValue t.dev m j = ctlValue s.dev m j) ∧
      (¬e.2.1 → exec (.ctlw e.1 slot other a) s = fault s 0x04 0 0) ∧
      (e.2.1 → ¬e.2.2 → exec (.ctlw e.1 slot other a) s = fault s 0x03 0 2)

/-- 13 R292, 04 R97: `tlbinv` completes in the slots that may issue it: every core's buffer and every die's buffer within its
reach (0 the core, 1 the die, 2 the logical device, 3 the package; a die's buffer from 1 on) loses the translations that its
kind names, every other translation of every buffer stays, and the thread goes on at once when nothing under way used one of
them, else when that is done. Which accesses the wait takes in (`usersOf`) is the model's choice (log 33). `rtinv` completes
with nothing else to do here, the model's choice too (log 55). Other slots get 0x04, reserved bits 0x03. -/
def Obligations.TranslationsInvalidated : Prop :=
  ∀ (s : State) (reach : BitVec 2) (all : Bool) (a b : XReg),
    let v := s.dev.x a
    let va := (s.dev.x b).toNat
    let ldev := fun (die : Nat) => ldevOf s.dev.objs.mode die
    let die := dieOf s.dev.rank
    let coreNear := fun (r : Nat) => (reach = 0 ∧ r = s.dev.rank) ∨ (reach = 1 ∧ dieOf r = die) ∨ (reach = 2 ∧ ldev (dieOf r) = ldev die) ∨ reach = 3
    let dieNear := fun (n : Nat) => (reach = 1 ∧ n = die) ∨ (reach = 2 ∧ ldev n = ldev die) ∨ reach = 3
    let forms : List (Instr × InvKind × (TlbE → Bool)) :=
      [(.tlbinvAsid reach a, .asid v.toNat, fun e => e.asid == v.toNat),
       (.tlbinvPage reach a b, .page v.toNat va, fun e => e.asid == v.toNat && e.page == va / 2 ^ pageShift e.level),
       (.tlbinvAll reach a, .all, fun _ => true)]
    ((s.dev.who = 0 ∨ s.dev.who = 12 ∨ s.dev.who = 15) →
      (bits v 63 16 = 0 →
        (∀ e ∈ forms, ∃ t, exec e.1 s = .next t ∧ t.mem = s.mem ∧ t.dev.me.pc = s.dev.me.pc + 1 ∧ t.dev.me.x = s.dev.me.x ∧
          (usersOf s.dev reach.toNat e.2.1 = [] → t.dev.me.parked = none) ∧
          (usersOf s.dev reach.toNat e.2.1 ≠ [] → t.dev.me.parked = some (.inval (usersOf s.dev reach.toNat e.2.1))) ∧
          (∀ r, (coreNear r → (t.dev.core r).eng.tlb = (s.dev.core r).eng.tlb.filter (fun x => !e.2.2 x)) ∧
            (¬coreNear r → (t.dev.core r).eng.tlb = (s.dev.core r).eng.tlb)) ∧
          (∀ n, (dieNear n → (t.dev.die n).tlb = (s.dev.die n).tlb.filter (fun x => !e.2.2 x)) ∧
            (¬dieNear n → (t.dev.die n).tlb = (s.dev.die n).tlb))) ∧
        exec (.rtinv all a) s = .next { s with dev := s.dev.onMe (fun t => { t with pc := t.pc + 1 }) }) ∧
      (bits v 63 16 ≠ 0 →
        exec (.tlbinvAsid reach a) s = fault s 0x03 0 2 ∧ exec (.tlbinvPage reach a b) s = fault s 0x03 0 2 ∧
        exec (.tlbinvAll reach a) s = fault s 0x03 0 2 ∧ exec (.rtinv all a) s = fault s 0x03 0 2)) ∧
    (s.dev.who ≠ 0 → s.dev.who ≠ 12 → s.dev.who ≠ 15 →
      exec (.tlbinvAsid reach a) s = fault s 0x04 0 0 ∧ exec (.tlbinvPage reach a b) s = fault s 0x04 0 0 ∧
      exec (.tlbinvAll reach a) s = fault s 0x04 0 0 ∧ exec (.rtinv all a) s = fault s 0x04 0 0)

/-- 13 R293, R294, 04 R79: `setxb` moves the bound where the rule lets it, once no request under way reaches a word that becomes
code (the wait is the model's, log 55), and answers its status elsewhere; `ovld` writes the words of an overlay whose source
can be read, and the words before one that cannot, whose fault it raises. Other slots get 0x04. -/
def Obligations.BoundsAndOverlays : Prop :=
  ∀ (s : State) (d a b : XReg) (bs : List Byte) (q : Word),
    let c := s.dev.my
    let n := (s.dev.x a).toNat
    let p := s.dev.x a
    let v := s.dev.x b
    let w := bits v 14 0
    let m := bits v 30 16
    let live := ∃ k, 1 ≤ k ∧ k ≤ 10 ∧ (c.slot k).life = .live ∧ (c.slot k).lmbase.toNat < n * 12
    let taken := live ∨ (c.regs.shbase.toNat < c.regs.shlim.toNat ∧ c.regs.shbase.toNat < n * 12) ∨ c.regs.gfbase.toNat < n * 12 ∨
      (c.regs.prbase.getLsbD 18 = true ∧ c.regs.prbase.toNat % 2 ^ 18 < n * 12)
    let ok := n ≤ c.regs.xb.toNat ∨ (n ≤ 21845 ∧ ¬taken)
    let under := belowBound s.dev n
    let still := ∀ x ∈ under, x.active s.dev = false
    (s.dev.who = 0 → n < 2 ^ 15 →
      (ok → n ≤ c.regs.xb.toNat ∨ still → ∃ t, exec (.setxb d a) s = .next t ∧ t.mem = s.mem ∧
        t.dev.my.regs = { c.regs with xb := BitVec.ofNat 15 n } ∧ t.dev.my.eng = c.eng ∧ t.dev.my.lmem = c.lmem ∧
        t.dev.me = { s.dev.me.setX d 0 with pc := s.dev.me.pc + 1 }) ∧
      (ok → c.regs.xb.toNat < n → ¬still → exec (.setxb d a) s = parksOn s (.inval under)) ∧
      (¬ok → exec (.setxb d a) s = writesX s d (if 21845 < n then 1 else 2))) ∧
    (s.dev.who ≠ 0 → exec (.setxb d a) s = fault s 0x04 0 0 ∧ exec (.ovld d a b) s = fault s 0x04 0 0) ∧
    (s.dev.who = 0 → bits v 63 31 = 0 → v.getLsbD 15 = false → ovldHeld s p m = false →
      (m = 0 → exec (.ovld d a b) s = writesX s d 0) ∧
      (m ≠ 0 → c.regs.xb.toNat < w + m → exec (.ovld d a b) s = writesX s d 1) ∧
      (m ≠ 0 → w + m ≤ c.regs.xb.toNat → (pspace p = 0 ∨ pspace p = 1) → paddr p % 4 = 0 →
        (ovldBytes s p 0 m = (bs, none) → ∃ t, exec (.ovld d a b) s = .next t ∧ t.mem = s.mem ∧
          t.dev.my.lmem = c.lmem.setBytes (12 * w) bs ∧ t.dev.my.regs = c.regs ∧ t.dev.my.eng = c.eng ∧
          t.dev.me = { s.dev.me.setX d 0 with pc := s.dev.me.pc + 1 }) ∧
        (ovldBytes s p 0 m = (bs, some (0x11, q)) →
          exec (.ovld d a b) s = fault { s with dev := s.dev.onMy (fun c => c.writeCode (12 * w) bs) } 0x11 q 0x100)))

/-- 13 R296, 03 R69: the supervisor agent's operations on launch queues and what each leaves. That 5 is answered before 6 where
both apply, that a queue belongs to its creator's logical device, and that a change of mode drops every queue, are the
model's readings (log 30). -/
def Obligations.LaunchQueueOperations : Prop :=
  ∀ (s : State) (d a b : XReg) (ws : List Word) (q : Queue),
    let n := (s.dev.x a).toNat
    let v := s.dev.x b
    let p := s.dev.x b
    let o := s.dev.objs
    let mine := ldevOf o.mode (dieOf s.dev.rank)
    let block := fun (l : List Nat) => tagsKnown p = true ∧ locBitsOk p = true ∧ pspace p = 0 ∧ paddr p % 8 = 0 ∧ blockHeld s p = false ∧
      blockFrom s p l = .ok ws
    let after := fun (i : Instr) (f : Objs → Objs) => exec i s = writesX { s with dev := s.dev.onObjs f } d 0
    s.dev.who = 15 → n < 2 ^ 8 →
    (block [0, 1, 2, 3, 4, 5, 6, 7] → findQueue o n = none → (o.queues.filter (fun q => q.dev == mine)).length < maxQueues o.mode →
      bits (nth 0 ws 0) 5 0 ≠ 0 → ∃ t w, exec (.qctlCreate d a b) s = .next t ∧ t = { s with dev := t.dev } ∧
        t.dev.objs.queues = o.queues ++ [w] ∧ w.num = n ∧ w.weight = bits (nth 0 ws 0) 5 0 ∧ w.cls = bits (nth 0 ws 0) 9 8 ∧
        w.asid.toNat = bits (nth 0 ws 0) 57 42 ∧ w.domain.toNat = bits (nth 0 ws 0) 63 58 ∧ w.recs = [] ∧ w.dev = mine ∧
        t.dev.me = { s.dev.me.setX d 0 with pc := s.dev.me.pc + 1 }) ∧
    (findQueue o n = some q →
      (bits v 63 10 = 0 → bits v 7 6 = 0 → bits v 5 0 ≠ 0 → after (.qctlWeight d a b)
        (fun o => putQueue o { q with weight := bits v 5 0, cls := bits v 9 8 })) ∧
      (block [4] → after (.qctlMask d a b) (fun o => putQueue o { q with mask := maskTable s (nth 0 ws 0) })) ∧
      (block [5, 6] → ∃ t, exec (.qctlCounts d a b) s = .next t ∧ t.mem = s.mem ∧
        t.dev.objs.queues = (putQueue o { q with counts := countsOf (nth 0 ws 0) (nth 0 ws 1) }).queues ∧
        t.dev.objs = { o with queues := t.dev.objs.queues, bars := t.dev.objs.bars } ∧
        t.dev.me = { s.dev.me.setX d 0 with pc := s.dev.me.pc + 1 }) ∧
      (v = 0 → q.recs = [] → ownsLive s.dev n = false → ∃ t, exec (.qctlDestroy d a b) s = .next t ∧ t.mem = s.mem ∧
        t.dev.objs = { o with queues := o.queues.filter (fun x => x.num != n), bars := o.bars.filter (fun b => b.level == 0 || b.queue != n)
                              arrivals := o.arrivals.filter (fun x => x.1 == 0 || x.2.1 != n) } ∧
        ∀ r k, (t.dev.slot r k).owner ≠ some n)) ∧
    (findQueue o n = none → v = 0 → exec (.qctlDestroy d a b) s = writesX s d 1) ∧
    (v = 0 → after (.qctlStop d a b) (fun o => { o with dispatch := false }) ∧
      after (.qctlRestart d a b) (fun o => { o with dispatch := true })) ∧
    (v.toNat < 3 → modeFree s.dev = true → o.dispatch = false → ∃ t, exec (.qctlMode d a b) s = .next t ∧
      t.dev.objs = { o with mode := v.setWidth 2, queues := [], bars := o.bars.filter (fun b => b.level == 0)
                            arrivals := o.arrivals.filter (fun x => x.1 == 0) } ∧ t.dev.me = { s.dev.me.setX d 0 with pc := s.dev.me.pc + 1 }) ∧
    (v.toNat < 3 → modeFree s.dev = false → exec (.qctlMode d a b) s = writesX s d 5)

/-- 13 R297, R298: the debug context reads and writes registers of its halted core, lets a slot issue one instruction and posts
words, and no other slot may; `sfpop` takes the oldest record that its handler may see, slot 15 any and slot 13 those of the
slot whose fault it handles, or zeros. 13 R295, R299: a page already in its node needs no move, one that must move goes to
an engine; `ctxsave` asks for a live helper's context and parks, and `ctxrest` into a slot that is free and owned restores
the frame's registers. -/
def Obligations.PopsMigrationsAndFrames : Prop :=
  (∀ (s : State) (d a b : XReg) (x : SfRec) (pre rest : List SfRec),
    let v := s.dev.x a
    let r := s.dev.rank
    let k := bits v 3 0
    let x' : XReg := BitVec.ofNat 6 (bits v 13 8)
    let e := s.dev.my.eng
    let sees := fun (y : SfRec) => s.dev.who = 15 ∨ (s.dev.who = 13 ∧ y.slot = s.dev.me.fault.toNat / 2 ^ 18)
    (s.dev.who = 14 → bits v 63 14 = 0 → bits v 7 4 = 0 →
      exec (.dbgPost d a b) s = writesX { s with dev := s.dev.onPlat (fun p => { p with dbgq := p.dbgq ++ [s.dev.x b] }) } d 0 ∧
      ((s.dev.die (dieOf r)).halted = true →
        exec (.dbgRd d a b) s = writesX s d ((s.dev.slot r k).xr x') ∧
        exec (.dbgWr d a b) s = writesX { s with dev := s.dev.onSlot r k (fun t => t.setX x' (s.dev.x b)) } d 0 ∧
        (s.dev.me.sent = 0 → k ≠ 14 → (s.dev.slot r k).life = .live → ∃ t, exec (.dbgStep d a b) s = .next t ∧ t.mem = s.mem ∧
          t.dev.slot r k = { s.dev.slot r k with stepping := true } ∧
          t.dev.me = { s.dev.me with sent := 1, parked := some (.stepped k) }) ∧
        (s.dev.me.sent = 1 → k ≠ 14 → (s.dev.slot r k).stepping = false → exec (.dbgStep d a b) s =
          onlyMine s (fun t => { t.setX d ((s.dev.slot r k).pc.setWidth 64) with pc := t.pc + 1, sent := 0 })))) ∧
    (s.dev.who ≠ 14 → exec (.dbgRd d a b) s = fault s 0x04 0 0 ∧ exec (.dbgWr d a b) s = fault s 0x04 0 0 ∧
      exec (.dbgStep d a b) s = fault s 0x04 0 0 ∧ exec (.dbgPost d a b) s = fault s 0x04 0 0) ∧
    ((s.dev.who = 13 ∨ s.dev.who = 15) → d.toNat % 2 = 0 →
      (e.sfq = pre ++ x :: rest → (∀ y ∈ pre, ¬sees y) → sees x → ∃ t, exec (.sfpop d) s = .next t ∧ t.mem = s.mem ∧
        t.dev.my.eng = { e with sfq := pre ++ rest } ∧ t.dev.me.pc = s.dev.me.pc + 1 ∧
        ∀ y, t.dev.me.xr y = if y = 0 then 0 else if y = d + 1 then x.addr else if y = d then (sfWords e x).1 else s.dev.me.xr y) ∧
      ((∀ y ∈ e.sfq, ¬sees y) → ∃ t, exec (.sfpop d) s = .next t ∧ t.mem = s.mem ∧ t.dev.my.eng = e ∧ t.dev.me.pc = s.dev.me.pc + 1 ∧
        ∀ y, t.dev.me.xr y = if y = d ∨ y = d + 1 then 0 else s.dev.me.xr y))) ∧
  (∀ (s : State) (d a b : XReg) (pa key : Nat),
    let p := s.dev.x a
    let v := s.dev.x b
    let k := (s.dev.x a).toNat
    let r := s.dev.rank
    let frame := tagsKnown v = true ∧ locBitsOk v = true ∧ pspace v = 0 ∧ paddr v % 2 ^ 16 = 0
    s.dev.who = 15 →
    (v.toNat < 3 → tagsKnown p = true → locBitsOk p = true → pspace p = 0 →
      (∀ st, pmigStatus s p v.toNat = some st →
        (walkPoison s s.dev.me.asid.toNat (paddr p) = none → exec (.pmig d a b) s = writesX s d (BitVec.ofNat 64 st)) ∧
        (∀ e, walkPoison s s.dev.me.asid.toNat (paddr p) = some e →
          exec (.pmig d a b) s = writesX (memRecord s 8 (s.dev.objs.homeDie e) 0 e) d (BitVec.ofNat 64 st))) ∧
      (pmigStatus s p v.toNat = none → ∃ t, exec (.pmig d a b) s = .next t ∧ t.mem = s.mem ∧
        t.dev.objs = { s.dev.objs with migs := s.dev.objs.migs ++ [⟨s.dev.me.asid.toNat, paddr p, v.toNat, r, 15, d, false⟩] } ∧
        t.dev.me = { s.dev.me with parked := some .service })) ∧
    (1 ≤ k → k ≤ 10 → frame → frameHeld s v = false →
      (checkWalk s s.dev.me.asid.toNat (paddr v) 40960 false true = .ok (.glob pa) key →
        ((s.dev.slot r k).life = .live → (s.dev.slot r k).pre = none → ∃ t, exec (.ctxsave d a b) s = .next t ∧ t.mem = s.mem ∧
          t.dev.slot r k = { s.dev.slot r k with pre := some ⟨1, 0, s.dev.now, pa, false, some d⟩ } ∧
          t.dev.me = { s.dev.me with parked := some (.preempted k) }) ∧
        ((s.dev.slot r k).life ≠ .live → (s.dev.slot r k).pre = none → exec (.ctxsave d a b) s = writesX s d 1)) ∧
      (checkWalk s s.dev.me.asid.toNat (paddr v) 40960 true false = .ok (.glob pa) key →
        (restoreStatus s.dev s.mem r k pa = 0 → ∃ t, exec (.ctxrest d a b) s = .next t ∧ t.mem = s.mem ∧
          (t.dev.slot r k).life = .live ∧ (t.dev.slot r k).pc.toNat = bits (s.mem.word pa) 14 0 ∧
          (t.dev.slot r k).asid.toNat = bits (s.mem.word (pa + 8)) 63 48 ∧
          (t.dev.slot r k).domain.toNat = bits (s.mem.word (pa + 8)) 47 42 ∧ (t.dev.slot r k).part = s.mem.word (pa + 32) ∧
          ∀ x : XReg, x ≠ 0 → (t.dev.slot r k).xr x = s.mem.word (pa + 0x40 + 8 * (x.toNat - 1))) ∧
        (restoreStatus s.dev s.mem r k pa ≠ 0 →
          exec (.ctxrest d a b) s = writesX s d (BitVec.ofNat 64 (restoreStatus s.dev s.mem r k pa))))))

/-- 07 R139, R146, R151, R154, R156, 14 R317, R318: the guard instructions send one request each to the guard's manager; `bind`
and `grel` release, `unbind` and the two acquires hold later requests, and the judged ones park the thread. That the group
that holds or awaits an entry and names another offset takes subcause 3 is the model's choice (log 58). -/
def Obligations.GuardInstructionsSend : Prop :=
  ∀ (s : State) (sc : Scope) (d a b' : XReg) (n1 : BitVec 8) (code : BitVec 4) (loc : Loc) (i : Nat) (x : BindEnt),
    let p := s.dev.x a
    let q := s.dev.x b'
    let t := s.dev.me
    let r := s.dev.rank
    let k := s.dev.who
    (k ≤ 10 → MaySend s false false none → releaseOk s.dev r k sc = true → code.toNat ≤ 8 → pspace p = 0 →
      paddr p % (256 * 2 ^ code.toNat) = 0 → tagsKnown p = true → locBitsOk p = true → pspace q = 0 → paddr q % 8 = 0 →
      GuardWord s q loc →
      ∃ u, exec (.bind sc d a b' n1 code) s = .next u ∧
        Sends s u .ld (.bind p sc n1.toNat code.toNat) (.x d) loc false false) ∧
    (k ≤ 10 → MaySend s true false none → pspace p = 0 → GuardWord s p loc →
      ∃ u, exec (.unbind d a) s = .next u ∧ Sends s u .ld .unbind (.x d) loc true false) ∧
    (k ≤ 10 → MaySend s false false none → GuardWord s p loc →
      ∃ u, exec (.gflush a) s = .next u ∧ Sends s u .cp .gflush .none loc false true) ∧
    (isHelper k = true → MaySend s false false none → GuardWord s p loc → bindFor s.dev.my.eng loc = some (i, x) →
      (x.mode = 1 ∨ x.mode = 2) → x.ginst = t.ginst → (Tab.get {} s.dev.my.eng.bind i).due = 0 →
      releaseOk s.dev r k (scopeOfCode x.scope.toNat) = true →
      ∃ u, exec (.grel a) s = .next u ∧ Sends s u .st (.grel i) .none loc false true) ∧
    (isHelper k = true → MaySend s true false none → GuardWord s p loc → tagsKnown q = true → locBitsOk q = true →
      pspace q = 1 → paddr q % 8 = 0 → windowOk s.dev.my k t (paddr q) 8 = true →
      let served : CoreEng → CoreEng := fun e => { e with bindWait := e.bindWait.filter (fun w => w.1 != k) }
      let sent := fun (b : BindEnt) =>
        let entry : CoreEng → CoreEng := fun e => { e with bind := Tab.set e.bind i b }
        let entered : State := { s with dev := (s.dev.onEng r entry).onEng r served }
        (∃ u, exec (.gacqX d a b') s = .next u ∧ Sends entered u .ld (.gacq true i) (.x d) loc true true) ∧
        (∃ u, exec (.gacqS d a b') s = .next u ∧ Sends entered u .ld (.gacq false i) (.x d) loc true true)
      (bindFor s.dev.my.eng loc = none → freeEntry s.dev.my.eng = some i → sent (newEntry loc t q)) ∧
      (bindFor s.dev.my.eng loc = some (i, x) →
        (x.mode = 0 → x.buffer.toNat = paddr q → sent { x with mode := 3, asid := t.asid, group := BitVec.ofNat 4 t.start, ginst := t.ginst }) ∧
        (x.mode = 0 → x.buffer.toNat ≠ paddr q → exec (.gacqX d a b') s = fault s 0x20 p 3 ∧ exec (.gacqS d a b') s = fault s 0x20 p 3) ∧
        (x.mode ≠ 0 → x.ginst = t.ginst → let n : BitVec 32 := if x.buffer.toNat = paddr q then 4 else 3
          exec (.gacqX d a b') s = fault s 0x20 p n ∧ exec (.gacqS d a b') s = fault s 0x20 p n))) ∧
    (10 < k → exec (.bind sc d a b' n1 code) s = fault s 0x04 0 0 ∧ exec (.unbind d a) s = fault s 0x04 0 0 ∧
      exec (.gflush a) s = fault s 0x04 0 0) ∧
    (isHelper k = false → exec (.grel a) s = fault s 0x04 0 0 ∧ exec (.gacqX d a b') s = fault s 0x04 0 0 ∧
      exec (.gacqS d a b') s = fault s 0x04 0 0)

/-- 07 R147 to R149, R154, R156, 01 R22: the manager grants the head of the wait list when its mode admits it, and grants
nothing while the guard is being unbound or its die has failed; the grant fills the bind entry and returns the count of
listed sub-blocks; a delivery moves one of them into the buffer and lowers `due`; a refresh moves one stale sub-block from
the last holder's buffer to the region. That neither step moves a sub-block out of a peer's buffer, which its copy engine
sends by packet, is the model's choice (log 7). -/
def Obligations.GuardsAreGrantedAndMoved : Prop :=
  ∀ (s : State) (gi r k i j e : Nat) (x : Bool) (g : Machine.Guard) (w : GReq) (rest : List GReq) (gr : Grant) (d : XReg) (y : Xfer)
    (more : List Nat) (sr se pa key level : Nat) (leaf : Word) (q : Req),
    let size := 256 * 2 ^ g.code.toNat
    let b := Tab.get {} (s.dev.core r).eng.bind gr.entry
    let c := Tab.get {} (s.dev.core y.rank).eng.bind y.entry
    let o := c.buffer.toNat + j * size
    let so := (Tab.get {} (s.dev.core sr).eng.bind se).buffer.toNat + j * size
    (nth? s.dev.objs.guards gi = some g → g.wait = w :: rest → w.req.op = .gacq x e →
      (managerBusy s g.word = true → exec (.guardGrant gi) s = .next s) ∧
      (managerBusy s g.word = false → (x = true → g.mode = 0) ∧ (x = false → g.mode ≠ 2 ∧ g.shared ≠ 0xFFF) → w.rank < 2048 →
        ∃ t n, exec (.guardGrant gi) s = .next t ∧ t.mem = s.mem ∧ t.dev.cores = s.dev.cores ∧
          guardOf t.dev.objs g.word = some (if x then { g with mode := 2, valid := true, holder := (w.rank, e), wait := rest }
            else { g with mode := 1, shared := g.shared + 1, wait := rest }) ∧
          t.dev.objs.grants = s.dev.objs.grants ++ [n] ∧ n.rank = w.rank ∧ n.slot = w.slot ∧ n.word = g.word ∧ n.excl = x ∧
          n.entry = e ∧ n.high = g.next - 1 ∧ n.epoch = g.epoch ∧ n.src = (if g.home then none else some g.last) ∧
          ∀ m, m ∈ n.list ↔ m ≤ g.count.toNat ∧
            (if (Tab.get {} (s.dev.core w.rank).eng.bind e).epoch = g.epoch
              then (Tab.get {} (s.dev.core w.rank).eng.bind e).mark else 0) < Tab.get 0 g.stamps m) ∧
      (x = true ∧ g.mode ≠ 0 ∨ x = false ∧ g.mode = 2 → exec (.guardGrant gi) s = .next s)) ∧
    (s.dev.objs.grants.find? (fun g => g.rank == r && g.slot == k) = some gr → guardOf s.dev.objs gr.word = some g →
      r < 2048 → k < 16 → gr.req.dst = .x d →
      let told : Given := ⟨gr.excl, gr.entry, gr.word, g.code, g.count, BitVec.ofNat 3 (scopeCode g.scope), gr.epoch, gr.high, gr.list, gr.src⟩
      (bufferOk (s.dev.core r) k (s.dev.slot r k) told b = false →
        ∃ t, exec (.grantArrival r k) s = .next t ∧ t.mem = s.mem ∧ t.dev.objs.grants = s.dev.objs.grants.erase gr ∧
          guardOf t.dev.objs g.word = some (if gr.excl then { g with mode := 0, valid := false }
            else { g with shared := g.shared - 1, mode := if g.shared - 1 = 0 then 0 else g.mode }) ∧
          (t.dev.slot r k).flow.deferred = (s.dev.slot r k).flow.deferred ++ [⟨0x20, gr.req.ptr, 3⟩]) ∧
      (bufferOk (s.dev.core r) k (s.dev.slot r k) told b = true →
      ∃ t, exec (.grantArrival r k) s = .next t ∧ t.mem = s.mem ∧ t.dev.objs.grants = s.dev.objs.grants.erase gr ∧
        Tab.get {} (t.dev.core r).eng.bind gr.entry =
          { b with code := g.code, count := g.count, scope := BitVec.ofNat 3 (scopeCode g.scope),
                   mode := if gr.excl then 2 else 1, epoch := gr.epoch, mark := gr.high,
                   due := BitVec.ofNat 9 gr.list.length, dirty := 0 } ∧
        ∀ z, (t.dev.slot r k).xr z = if z = d ∧ d ≠ 0 then BitVec.ofNat 64 (gr.high.toNat * 2 ^ 32 + gr.list.length)
          else (s.dev.slot r k).xr z)) ∧
    (nth? (s.dev.core r).eng.xfers i = some y → y.refresh = false → guardOf s.dev.objs y.guard = some g → y.list = j :: more →
      y.placed = [] → y.filled = [] → s.dev.plat.pfault = false → s.dev.objs.feWait = [] → c.due ≠ 0 → y.rank < 2048 → y.slot < 16 →
      (s.dev.core y.rank).lmem.wf = true →
      (y.src = some (sr, se) → 2048 ≤ sr → exec (.guardDelivery r i) s = .next s) ∧
      (y.src = some (sr, se) → sr < 2048 → anyPoison s (.loc sr so) size = false →
        ∃ t, exec (.guardDelivery r i) s = .next t ∧ t.mem = s.mem ∧
          Tab.get {} (t.dev.core y.rank).eng.bind y.entry = { c with due := c.due - 1 } ∧
          ∀ z, (t.dev.core y.rank).lmem.read z = if o ≤ z ∧ z < o + size then (s.dev.core sr).lmem.read (so + (z - o))
            else (s.dev.core y.rank).lmem.read z) ∧
      (y.src = none → regionAt s g j = some (pa, key) → regionHeld s g.word j = false → anyHeld s (.glob pa) size = false →
        anyPoison s (.glob pa) size = false → (∀ l ∈ linesOf pa size, s.dev.badTag l = false) → y.guard = g.word →
        ∃ t, exec (.guardDelivery r i) s = .next t ∧ t.mem = s.mem ∧
          Tab.get {} (t.dev.core y.rank).eng.bind y.entry = { c with due := c.due - 1 } ∧
          ∀ z, (t.dev.core y.rank).lmem.read z = if o ≤ z ∧ z < o + size then (s.memAs pa size key).read (pa + (z - o))
            else (s.dev.core y.rank).lmem.read z)) ∧
    (nth? (s.dev.core r).eng.xfers i = some y → y.refresh = true → y.stuck = false → guardOf s.dev.objs y.guard = some g →
      (y.list = j :: more → y.src = some (sr, se) → 2048 ≤ sr → exec (.guardRefresh r i) s = .next s) ∧
      (y.list = j :: more → y.src = some (sr, se) → sr < 2048 → s.dev.engineUp sr = true → walk s g.asid.toNat (g.base.toNat + j * size) = some (level, leaf) →
        let va := g.base.toNat + j * size
        leafWrite leaf = true → OwnKey s (leafPa level leaf va) size (leafKey leaf) → s.memOk →
        walkHeld s g.asid.toNat va = false → anyHeld s (.glob (leafPa level leaf va)) size = false → anyPoison s (.loc sr so) size = false →
        (∀ l ∈ linesOf (leafPa level leaf va) size, s.dev.badTag l = false ∧ s.lost (.glob (64 * l)) = false) →
        ∃ t, exec (.guardRefresh r i) s = .next t ∧
          (t.dev.core r).eng.xfers = modAt (fun y => { y with list := more, placed := [] }) (s.dev.core r).eng.xfers i ∧
          ∀ z, t.mem.read z = if leafPa level leaf va ≤ z ∧ z < leafPa level leaf va + size
            then (s.dev.core sr).lmem.read (so + (z - leafPa level leaf va)) else s.mem.read z) ∧
      let hmark := if g.home = true ∨ g.epoch ≠ y.epoch ∨ y.high ≤ g.hmark then g.hmark else y.high
      (y.list = [] → managerDown s.dev g.word = true → exec (.guardRefresh r i) s = .next s) ∧
      (y.list = [] → y.guard = g.word → managerDown s.dev g.word = false →
        (y.after = 0 → ∃ t, exec (.guardRefresh r i) s = .next t ∧ t.mem = s.mem ∧
          guardOf t.dev.objs g.word = some { g with hmark := hmark }) ∧
        (y.after = 2 → y.req = some q → ∃ t, exec (.guardRefresh r i) s = .next t ∧ t.mem = s.mem ∧
          guardOf t.dev.objs g.word = none ∧ ∀ x ∈ t.dev.objs.ranges, ¬(x.1 = g.asid.toNat ∧ x.2.1 = g.base.toNat)) ∧
        (y.after = 4 → g.home = false → g.last = (y.rank, y.entry) → g.epoch = y.epoch → g.next - 1 = y.high → c.valid = true →
          c.mode = 0 → c.gpeer = none → c.guard.toNat = g.word → ∃ t, exec (.guardRefresh r i) s = .next t ∧ t.mem = s.mem ∧
            guardOf t.dev.objs g.word = some { g with hmark := hmark, home := true } ∧
            Tab.get {} (t.dev.core y.rank).eng.bind y.entry = {})))

/-- 08 R164 to R166: a gate call whose entry admits it writes the caller's frame and enters the callee with the registers that
`pass` names; its return restores the frame but for those that `ret` names. Checks fail in the order 0x28, 0x29, 0x2A. -/
def Obligations.GateCallsSwitchContexts : Prop :=
  ∀ (s : State) (t : BitVec 6) (i : BitVec 10) (e : Turnpike),
    let me := s.dev.me
    let k := s.dev.who
    let m := s.dev.my.lmem
    let f := s.dev.my.regs.gfbase.toNat + (k - 1) * 2560 + me.gdepth.toNat * 640
    let g := s.dev.my.regs.gfbase.toNat + (k - 1) * 2560 + (me.gdepth.toNat - 1) * 640
    let good := e.valid = true ∧ e.reservedOk = true ∧ overlapsFrames s.dev.my e.wbase e.wlim = false
    let still := me.flow.ld = [] ∧ me.flow.st = [] ∧ me.flow.cp = [] ∧ me.flow.tl = [] ∧ me.flow.posted = []
    (isHelper k = false → exec (.gcall t i) s = fault s 0x04 0 0) ∧
    (isHelper k = true → turnpike s t.toNat i.toNat = none → exec (.gcall t i) s = fault s 0x28 0 (i.setWidth 32)) ∧
    (isHelper k = true → turnpike s t.toNat i.toNat = some e →
      (¬good → exec (.gcall t i) s = fault s 0x28 0 (i.setWidth 32)) ∧
      (good → e.callers.getLsbD me.domain.toNat = false → exec (.gcall t i) s = fault s 0x29 0 (i.setWidth 32)) ∧
      (good → e.callers.getLsbD me.domain.toNat = true → e.maxd < me.gdepth.toNat →
        exec (.gcall t i) s = fault s 0x2A 0 (i.setWidth 32)) ∧
      (good → e.callers.getLsbD me.domain.toNat = true → me.gdepth.toNat ≤ e.maxd → still →
        ∃ u, exec (.gcall t i) s = .next u ∧ u.mem = s.mem ∧ u.dev.objs = s.dev.objs ∧ u.dev.plat = s.dev.plat ∧
          u.dev.my.regs = s.dev.my.regs ∧ u.dev.my.eng = s.dev.my.eng ∧
          (∀ r, u.dev.me.xr r = if e.pass.getLsbD r.toNat then me.xr r else 0) ∧
          u.dev.me.p = 0 ∧ u.dev.me.pc = e.entry ∧ u.dev.me.asid = e.asid ∧ u.dev.me.domain = e.domain ∧
          u.dev.me.lmbase.toNat = e.wbase ∧ u.dev.me.lmlim.toNat = e.wlim ∧ u.dev.me.smask = 0 ∧
          u.dev.me.gdepth = me.gdepth + 1 ∧ u.dev.me.flow = me.flow ∧
          (m.wf = true →
            (∀ j < 63, u.dev.my.lmem.word (f + 8 * j) = me.xr (BitVec.ofNat 6 (j + 1))) ∧
            u.dev.my.lmem.word (f + 504) = BitVec.ofNat 64 (me.p.toNat / 2) ∧
            u.dev.my.lmem.word (f + 512) = BitVec.ofNat 64 (me.tag.toNat * 2 ^ 16 + (me.pc + 1).toNat) ∧
            u.dev.my.lmem.word (f + 520) = BitVec.ofNat 64 (me.domain.toNat * 2 ^ 16 + me.asid.toNat) ∧
            u.dev.my.lmem.word (f + 528) = me.lmbase.setWidth 64 ∧ u.dev.my.lmem.word (f + 536) = me.lmlim.setWidth 64 ∧
            u.dev.my.lmem.word (f + 544) = me.smask.setWidth 64 ∧
            u.dev.my.lmem.word (f + 552) = BitVec.ofNat 64 (t.toNat * 2 ^ 10 + i.toNat) ∧
            ∀ a, a < f ∨ f + 640 ≤ a → u.dev.my.lmem.read a = m.read a))) ∧
    (me.gdepth = 0 → exec .gret s = fault s 0x01 (BitVec.ofNat 64 (me.pc.toNat * 12)) 8) ∧
    (me.gdepth ≠ 0 → still → turnpike s (bits (m.word (g + 552)) 15 10) (bits (m.word (g + 552)) 9 0) = some e → e.valid = true →
      ∃ u, exec .gret s = .next u ∧ u.mem = s.mem ∧ u.dev.my.lmem = m ∧
        (∀ j < 63, u.dev.me.xr (BitVec.ofNat 6 (j + 1)) =
          if e.ret.getLsbD (j + 1) then me.xr (BitVec.ofNat 6 (j + 1)) else m.word (g + 8 * j)) ∧
        u.dev.me.p.toNat = 2 * bits (m.word (g + 504)) 6 0 ∧ u.dev.me.pc.toNat = bits (m.word (g + 512)) 14 0 ∧
        u.dev.me.asid.toNat = bits (m.word (g + 520)) 15 0 ∧ u.dev.me.domain.toNat = bits (m.word (g + 520)) 21 16 ∧
        u.dev.me.gdepth = me.gdepth - 1 ∧ u.dev.me.smask.toNat = bits (m.word (g + 544)) 7 0 ∧ u.dev.me.flow = me.flow) ∧
    (me.gdepth ≠ 0 → still → turnpike s (bits (m.word (g + 552)) 15 10) (bits (m.word (g + 552)) 9 0) = some e → e.valid = false →
      ∃ u, exec .gret s = .next u ∧ u.mem = s.mem ∧ u.dev.my.lmem = m ∧ u.dev.me.gdepth = me.gdepth - 1 ∧
        u.dev.me.pc.toNat = bits (m.word (g + 512)) 14 0 ∧
        ∀ j < 63, u.dev.me.xr (BitVec.ofNat 6 (j + 1)) = if j = 0 then 0x282B else m.word (g + 8 * j))

/-- 08 R181, R182: a section begins with a checkpoint, commits every buffered byte in one step, and aborts to its fallback with
the registers of its beginning and the cause in `x1`. -/
def Obligations.ElisionSections : Prop :=
  ∀ (s : State) (t : PcIx) (code : BitVec 8) (e : Elide),
    let me := s.dev.me
    let ill := fault s 0x01 (BitVec.ofNat 64 (me.pc.toNat * 12)) 8
    (isHelper s.dev.who = false → exec (.elb t) s = fault s 0x04 0 0) ∧
    (isHelper s.dev.who = true → me.flow.ld = [] → me.flow.st = [] →
      exec (.elb t) s = onlyMine s (fun u => { u with pc := u.pc + 1, elide := some ⟨t, u.x, u.p, [], []⟩ })) ∧
    (me.elide = none → exec .ele s = ill ∧ exec (.ela code) s = ill) ∧
    (me.elide = some e →
      (∃ u, exec (.ela code) s = .next u ∧ u.mem = s.mem ∧ u.dev.my.lmem = s.dev.my.lmem ∧ u.dev.me.elide = none ∧
        u.dev.me.pc = e.fallback ∧ u.dev.me.p = e.p ∧ u.dev.me.parked = none ∧
        ∀ r, u.dev.me.xr r = if r = 0 then 0 else if r = 1 then BitVec.ofNat 64 (3 + 256 * code.toNat) else Tab.get 0 e.x r.toNat) ∧
      (me.flow.ld = [] → (∀ w ∈ e.writes, bindAllows s.dev.my w.1 1 = true) → s.dev.my.lmem.wf = true →
        ∃ u, exec .ele s = .next u ∧ u.mem = s.mem ∧ u.dev.me.elide = none ∧ u.dev.me.pc = me.pc + 1 ∧ u.dev.me.x = me.x ∧
          u.dev.me.p = me.p ∧ ∀ a, u.dev.my.lmem.read a = match e.writes.find? (fun w => w.1 == a) with
            | some w => w.2
            | none => s.dev.my.lmem.read a))

/-- 08 R178 to R180, 14 R320: a delegated call is sent with its argument registers, queued at its target, served by slot 11 with
the arguments in `x1` upward and the caller in `x7`, and answered by `dret`. -/
def Obligations.DelegatedCalls : Prop :=
  ∀ (s : State) (d a : XReg) (pc : PcIx) (n : BitVec 3) (r k i : Nat) (q : Req) (rank target : Nat) (args : List Word)
    (c : DReq) (rest : List DReq),
    let q0 := bits (s.dev.x a) 10 0
    let tc := s.dev.core rank
    (isHelper s.dev.who = true → ldevOf s.dev.objs.mode (dieOf q0) = ldevOf s.dev.objs.mode (dieOf s.dev.rank) →
      MaySend s true false none → releaseOk s.dev s.dev.rank s.dev.who (commonScope s.dev.objs.mode s.dev.rank q0) = true →
      (s.dev.core q0).eng.dq.length < 32 →
      ∃ u l, exec (.dcall d a pc n) s = .next u ∧ Sends s u .ld (.dcall q0 pc.toNat l) (.x d) (.loc q0 0) true true ∧
        l.length = n.toNat ∧ ∀ j < n.toNat, nth 0 l j = s.dev.x (BitVec.ofNat 6 (j + 1))) ∧
    (InBag s r k i q → q.op = .dcall rank target args → (s.dev.die (dieOf rank)).halted = false →
      (s.dev.die (dieOf rank)).failed = false → target < tc.regs.xb.toNat → tc.regs.dmask.getLsbD q.domain = true →
      tc.eng.dq.length < 32 →
      ∃ u x, exec (.perform r k i) s = .next u ∧ u.mem = s.mem ∧ (u.dev.core rank).eng.dq = tc.eng.dq ++ [x] ∧
        x.pc = BitVec.ofNat 15 target ∧ x.args = args ∧ x.rank = r ∧ x.slot = k ∧ x.cancelled = false ∧ x.req = q ∧
        (u.dev.slot r k).flow.bag = dropAt (s.dev.slot r k).flow.bag i) ∧
    ((s.dev.core r).eng.dq = c :: rest → serviceIdle (s.dev.slot r 11) = true → (s.dev.core r).eng.dserve = none →
      (s.dev.core r).running = true → (s.dev.die (dieOf r)).halted = false → c.args.length ≤ 6 → c.slot < 16 →
      ∃ u, exec (.delegatedCallServe r) s = .next u ∧ u.mem = s.mem ∧ (u.dev.core r).eng.dq = rest ∧
        (u.dev.core r).eng.dserve = some c ∧ (u.dev.slot r 11).life = .live ∧ (u.dev.slot r 11).pc = c.pc ∧
        (u.dev.slot r 11).asid = c.asid ∧ (u.dev.slot r 11).domain = c.domain ∧ (u.dev.slot r 11).p = 0 ∧
        (∀ x, (u.dev.slot r 11).xr x = if x = 0 then 0 else if x = 7 then BitVec.ofNat 64 (c.slot * 2 ^ 11 + c.rank)
          else if x.toNat ≤ c.args.length then nth 0 c.args (x.toNat - 1) else 0) ∧
        ∀ p j, ¬(p = r ∧ j = 11) → u.dev.slot p j = s.dev.slot p j) ∧
    (s.dev.who = 11 → s.dev.my.eng.dserve = some c → c.cancelled = false → c.rank < 2048 → c.slot < 16 →
      ¬(c.rank = s.dev.rank ∧ c.slot = 11) →
      releaseOk s.dev s.dev.rank 11 (commonScope s.dev.objs.mode s.dev.rank c.rank) = true →
      ∃ u, exec (.dret a) s = .next u ∧ u.mem = s.mem ∧ (u.dev.core s.dev.rank).eng.dserve = none ∧
        (u.dev.slot s.dev.rank 11).life = .free ∧
        (u.dev.slot c.rank c.slot).flow.rets = (s.dev.slot c.rank c.slot).flow.rets ++ [⟨c.req, .words [s.dev.x a] true⟩]) ∧
    (s.dev.who ≠ 11 → exec (.dret a) s = fault s 0x01 (BitVec.ofNat 64 (s.dev.me.pc.toNat * 12)) 8)

/-- 08 R171 to R177, 14 R321, R322, 19 R373: the conversation instructions send to the conversation's home; there a role is
taken, a send in its stage appends its message to the receiver's channel and moves the stage, and a held one is taken when
judgement lets it. -/
def Obligations.Conversations : Prop :=
  ∀ (s : State) (d a b h : XReg) (n : RoleReg) (role : BitVec 3) (kind : BitVec 5) (m : BitVec 6) (cap : Word) (r k i : Nat)
    (q : Req) (c c2 : Conv) (nn kk ro : Nat) (ws : List Word) (v : Word) (e : BitVec 32) (tgt : Nat × Nat × Nat)
    (rest : List (Nat × Nat × Req)) (msg : List (Word × Bool)) (cv : Nat),
    let p := s.dev.x a
    let num := bits v 43 32
    let rel := releaseOk s.dev s.dev.rank s.dev.who .sys
    let free := (WaitCond.role n.toNat).holds s s.dev.rank s.dev.who
    let chan := fun (x : State) => Tab.get [] (x.dev.slot tgt.1 tgt.2.1).chans tgt.2.2
    (MaySend s false false none → pspace p = 0 → checks5 s.dev s.dev.rank s.dev.who s.dev.me .scalar p 8 8 = none →
      ∃ u, exec (.copen d a b) s = .next u ∧ Sends s u .ld (.copen (s.dev.x b)) (.x d) (.glob 0) false true) ∧
    (MaySend s false false none →
      (∃ u, exec (.cjoin n h role) s = .next u ∧
        Sends s u .ld (.cjoin n.toNat role.toNat (s.dev.x h)) (.role n.toNat) (.glob 0) false true) ∧
      (∃ u, exec (.cclose d h) s = .next u ∧ Sends s u .ld (.cclose (s.dev.x h)) (.x d) (.glob 0) false false) ∧
      (∃ u, exec (.cstat d h) s = .next u ∧ Sends s u .ld (.cstat (s.dev.x h)) (.x d) (.glob 0) false false)) ∧
    (MaySend s false false none → free = true → rel = true → roleReg s.dev.me n = some cap →
      (payloadFault s.dev (s.dev.x b) m.toNat = none → ∃ u, exec (.csend n b kind m) s = .next u ∧
        Sends s u .st (.csend n.toNat kind.toNat cap (s.dev.my.lmem.words (paddr (s.dev.x b)) m.toNat)) .none (.glob 0) false true) ∧
      (bits (s.dev.x b) 63 17 = 0 → ∃ u, exec (.cdeleg n b) s = .next u ∧
        Sends s u .st (.cdeleg n.toNat cap (s.dev.x b)) .none (.glob 0) false true)) ∧
    (InBag s r k i q → convCurrent s.dev.objs v = some c → s.dev.dieDown c.home = false →
      (q.op = .cjoin nn ro v → ro ≤ hdrRoles c.header → c.mask.getLsbD q.domain = true → Tab.get none c.holders ro = none →
        ∃ t, exec (.perform r k i) s = .next t ∧ t.mem = s.mem ∧
          Tab.get {} t.dev.objs.convs num = { c with holders := Tab.set c.holders ro (some (r, k, nn)),
                                                     deleg := Tab.set c.deleg ro false } ∧
          t.dev.slot r k = returned i q [BitVec.ofNat 64 (ro * 2 ^ 56 + bits v 43 0)] true (s.dev.slot r k)) ∧
      (q.op = .cclose v → c.held = [] → c.opener.toNat = q.domain →
        ∃ t, exec (.perform r k i) s = .next t ∧ t.mem = s.mem ∧ (Tab.get {} t.dev.objs.convs num).isOpen = false ∧
          (Tab.get {} t.dev.objs.convs num).gen = c.gen + 1 ∧ t.dev.slot r k = returned i q [0] true (s.dev.slot r k)) ∧
      (q.op = .csend nn kk v ws → c.held = [] → Tab.get none c.holders (bits v 58 56) = some (r, k, cv) →
        Tab.get false c.deleg (bits v 58 56) = false → kk ≤ hdrKinds c.header → c.stage.toNat ≠ hdrFinal c.header →
        c.edges.find? (fun e => edgeKey e == c.stage.toNat * 2 ^ 8 + bits v 58 56 * 2 ^ 5 + kk) = some e →
        Tab.get none c.holders (edgeField e 11 9) = some tgt → tgt.2.1 < 16 →
        (chan s).length + (1 + ws.length + edgeField e 8 8) ≤ 64 →
        ∃ t w, exec (.perform r k i) s = .next t ∧ t.mem = s.mem ∧
          Tab.get {} t.dev.objs.convs num = { c with stage := BitVec.ofNat 6 (edgeField e 17 12) } ∧
          chan t = chan s ++ (w, true) :: ws.map (fun w => (w, false)) ++
            (if edgeField e 8 8 = 1 then [(BitVec.ofNat 64 (2 * 2 ^ 62), true)] else []) ∧
          bits w 63 62 = 0 ∧ bits w 61 56 = edgeField e 17 12 ∧ bits w 55 53 = bits v 58 56)) ∧
    ((Tab.get {} s.dev.objs.convs cv).held = (r, k, q) :: rest → r < 2048 → k < 16 →
      let c1 : Conv := { Tab.get {} s.dev.objs.convs cv with held := rest }
      (judge s.dev cv c1 r k q = .hold → exec (.heldSendAccept cv) s = .next s) ∧
      (s.dev.dieDown c1.home = true → exec (.heldSendAccept cv) s = .next s) ∧
      (judge s.dev cv c1 r k q = .go c2 tgt msg → s.dev.dieDown c1.home = false →
        ∃ t, exec (.heldSendAccept cv) s = .next t ∧ t.mem = s.mem ∧ Tab.get {} t.dev.objs.convs cv = c2 ∧
          chan t = chan s ++ msg))

/-- 15 R327 to R334: every lane-wise arithmetic instruction, for every form of its operands: a first source gives its elements,
and each active lane of the destination takes the function's value, rounded once. -/
def Obligations.VectorArithmetic : Prop :=
  ∀ (s u : State) (t : FType) (rnd : Rnd) (d : VDst) (e : VReg) (a : VSrc) (b : VSrcB) (m : MReg) (l : List (BitVec 32)),
    let c := match t with | .fp32 => 1 | .bf16 => 2 | .fp16 => 3
    let act := fun i => (s.dev.vec.mask m).getLsbD i
    let bl : Nat → BitVec 32 := fun i => match b with
      | .v r => s.dev.vec.laneAt r i
      | .x r => (s.dev.x r).setWidth 32
      | .imm v => v
    let goes := fun (i : Instr) (fmt : Nat) (f : Nat → BitVec 32 → BitVec 32) =>
      SourceGives s fmt a l u → DestReady s fmt d l.length →
        ∃ t, exec i s = .next t ∧ LanesWritten u t fmt d act l.length (fun i => f i (nth 0 l i)) stepsOn
    let fp := fun fn i (v : BitVec 32) => laneImg c (fpOp fn t rnd (laneVal c v) (laneVal c (bl i)) 0)
    let sel := fun fn i (v : BitVec 32) => laneImg c (fpOp fn t .rne (laneVal c v) (laneVal c (bl i)) 0)
    let one := fun fn (_ : Nat) (v : BitVec 32) => laneImg c (fpOp fn t .rne (laneVal c v) 0 0)
    let fun1 := fun fn (_ : Nat) (v : BitVec 32) => laneImg c (vfun fn t rnd (laneVal c v))
    let fused := fun (i : Instr) fn => SourceGives s c a l u →
      ∃ t', exec i s = .next t' ∧ LanesWritten u t' c (.v e) act l.length (fun i =>
        laneImg c (fpOp fn t rnd (laneVal c (nth 0 l i)) (laneVal c (bl i)) (laneVal c (s.dev.vec.laneAt e i)))) stepsOn
    holdsV s.dev.me.tag = true →
    (goes (.vfadd t rnd d a b m) c (fp .add) ∧ goes (.vfsub t rnd d a b m) c (fp .sub) ∧ goes (.vfmul t rnd d a b m) c (fp .mul) ∧
      goes (.vfmin t d a b m) c (sel .min) ∧ goes (.vfmax t d a b m) c (sel .max) ∧
      goes (.vfabs t d a m) c (one .abs) ∧ goes (.vfneg t d a m) c (one .neg)) ∧
    (fused (.vfma t rnd e a b m) .ma ∧ fused (.vfms t rnd e a b m) .ms ∧ fused (.vfnma t rnd e a b m) .nma) ∧
    (goes (.vadd d a b m) 8 (fun i v => v + bl i) ∧ goes (.vsub d a b m) 8 (fun i v => v - bl i) ∧
      goes (.vmul d a b m) 8 (fun i v => v * bl i) ∧ goes (.vand d a b m) 8 (fun i v => v &&& bl i) ∧
      goes (.vor d a b m) 8 (fun i v => v ||| bl i) ∧ goes (.vxor d a b m) 8 (fun i v => v ^^^ bl i) ∧
      goes (.vshl d a b m) 8 (fun i v => v <<< ((bl i).toNat % 32)) ∧ goes (.vshr d a b m) 8 (fun i v => v >>> ((bl i).toNat % 32)) ∧
      goes (.vsar d a b m) 8 (fun i v => v.sshiftRight ((bl i).toNat % 32)) ∧
      goes (.vmin d a b m) 8 (fun i v => if v.toInt ≤ (bl i).toInt then v else bl i) ∧
      goes (.vmax d a b m) 8 (fun i v => if v.toInt ≤ (bl i).toInt then bl i else v)) ∧
    (goes (.vrcp t rnd d a m) c (fun1 .rcp) ∧ goes (.vrsqrt t rnd d a m) c (fun1 .rsqrt) ∧ goes (.vsqrt t rnd d a m) c (fun1 .sqrt) ∧
      goes (.vexp2 t rnd d a m) c (fun1 .exp2) ∧ goes (.vlog2 t rnd d a m) c (fun1 .log2))

/-- 15 R335 to R338: a compare sets the active bits of a mask, a select takes every lane from one side, a conversion between
plain formats converts the active lanes, and the two PSB conversions move whole blocks between lanes and a stream and take
no register on the PSB side. That `vsel` reads a stream as FP32 lanes, and that `vcvt` to a PSB format takes a channel's
lanes, is the model's reading (log 22). 15 R339 to R341, R345 to R347: reductions, scans, permutes, broadcasts, slides, lane
moves, the vector length and the mask operations. -/
def Obligations.VectorComparesReductionsAndMoves : Prop :=
  (∀ (s u : State) (ct : CType) (rnd : Rnd) (dm : MReg) (d : VDst) (a : VSrcVS) (a2 : VSrc) (b : VSrcB) (m : MReg) (x : SReg)
    (dst src : BitVec 4) (l : List (BitVec 32)) (vs : List Nat) (e e2 : VReg),
    let av : VSrc := match a with | .v r => .v r | .s n => .s n
    let v := s.dev.vec
    let act := fun i => (v.mask m).getLsbD i
    let bl : Nat → BitVec 32 := fun i => match b with
      | .v r => v.laneAt r i
      | .x r => (s.dev.x r).setWidth 32
      | .imm v => v
    let cmps := fun (i : Instr) (f : BitVec 32 → BitVec 32 → Bool) =>
      SourceGives s (ccode ct) av l u → ∃ t w, exec i s = .next t ∧ t = vecTo u w stepsOn ∧ w = { v with m := w.m } ∧
        ∀ e i, (w.mask e).getLsbD i = if e = dm ∧ dm ≠ 0 ∧ i < l.length ∧ act i = true then f (nth 0 l i) (bl i) else (v.mask e).getLsbD i
    let y := Tab.get {} s.dev.my.eng.streams x.toNat
    let len := blockLen (plcode y.base)
    let w := psbW dst.toNat
    let block := fun j => (quantise w ((upto len).map (fun k =>
      elemVal src.toNat (laneVal src.toNat (nth 0 l (j * len + k)))))).pack w
    holdsV s.dev.me.tag = true →
    (cmps (.vcmpEq ct dm a b m) (cmpLane .eq ct) ∧ cmps (.vcmpNe ct dm a b m) (cmpLane .ne ct) ∧
      cmps (.vcmpLt ct dm a b m) (cmpLane .lt ct) ∧ cmps (.vcmpLe ct dm a b m) (cmpLane .le ct)) ∧
    (SourceGives s 1 av l u → DestReady s 1 d l.length →
      ∃ t, exec (.vsel d a b m) s = .next t ∧
        LanesWritten u t 1 d (fun _ => true) l.length (fun i => if act i then nth 0 l i else bl i) stepsOn) ∧
    (isPsb dst.toNat = false → isPsb src.toNat = false → SourceGives s src.toNat a2 l u → DestReady s dst.toNat d l.length →
      ∃ t, exec (.vcvt dst src rnd d a2 m) s = .next t ∧ LanesWritten u t dst.toNat d act l.length (fun i =>
        laneImg dst.toNat (convElem dst.toNat rnd (elemVal src.toNat (laneVal src.toNat (nth 0 l i))))) stepsOn) ∧
    (isPsb dst.toNat = true → StreamOk s x.toNat dst.toNat (l.length / len) true → v.len % len = 0 → l.length % len = 0 →
      SourceGives s src.toNat a2 l u → y.out.length * streamElem y.base + l.length / len * psbBytes w len ≤ 4096 →
      let put : Stream → Stream := fun y =>
        { y with out := y.out ++ (upto (l.length / len)).map (fun j => (y.pos + j, block j, u.dev.me.pc)), pos := y.pos + l.length / len }
      exec (.vcvt dst src rnd (.s x) a2 m) s = .next { u with dev := (u.dev.onStream x.toNat put).onMe stepsOn }) ∧
    (isPsb src.toNat = true → isPsb dst.toNat = false → vs.length = v.len / len → v.len % len = 0 →
      StreamGives s x.toNat src.toNat vs u → DestReady s dst.toNat d v.len →
      ∃ t, exec (.vcvt dst src rnd d (.s x) m) s = .next t ∧ LanesWritten u t dst.toNat d (fun _ => true) v.len (fun i =>
        BitVec.ofNat 32 (round (ffmtOf dst.toNat) rnd
          ((Psb.unpack (psbW src.toNat) len (nth 0 vs (i / len))).val (psbW src.toNat) (i % len)))) stepsOn) ∧
    (isPsb dst.toNat = true → exec (.vcvt dst src rnd (.v e) a2 m) s = fault s 0x02 0 0x101) ∧
    (isPsb src.toNat = true → isPsb dst.toNat = false → exec (.vcvt dst src rnd (.v e) (.v e2) m) s = fault s 0x02 0 0x102)) ∧
  (∀ (s u : State) (ct : CType) (rnd : Rnd) (x : XReg) (y : XReg) (d : VDst) (e f g : VReg) (a : VSrcVS) (m p q r : MReg)
    (l : List (BitVec 32)) (bc : BcastSrc) (n : BitVec 16) (ln : LaneSrc) (n1 : BitVec 8),
    let av : VSrc := match a with | .v r => .v r | .s n => .s n
    let v := s.dev.vec
    let c := ccode ct
    let act := fun i => (v.mask m).getLsbD i
    let vl := min v.vl.toNat 256
    let ent := fun i => if i < l.length ∧ act i = true then some (nth 0 l i) else none
    let red := fun (i : Instr) op rnd => SourceGives s c av l u → exec i s = writesX u x
      (match ct with
        | .i32 => ((treeRoot op ct rnd 8 ((upto 256).map ent)).getD (absentRoot op ct)).signExtend 64
        | _ => BitVec.ofNat 64 (laneVal c ((treeRoot op ct rnd 8 ((upto 256).map ent)).getD (absentRoot op ct))))
    let run := fun op rnd i => ((upto (i + 1)).foldl (fun acc j => if act j then
      some (match acc with
        | none => nth 0 l j
        | some a => combine op ct rnd a (nth 0 l j)) else acc) none).getD 0
    let scan := fun (i : Instr) op rnd => SourceGives s c av l u → DestReady s c d l.length →
      ∃ t, exec i s = .next t ∧ LanesWritten u t c d act l.length (fun i => laneImg c (laneVal c (run op rnd i))) stepsOn
    let moves := fun (i : Instr) (f : Nat → BitVec 32) => ∃ t, exec i s = .next t ∧ LanesWritten s t 1 (.v e) act vl f stepsOn
    let lane := match ln with | .imm i => i.toNat | .x b => (s.dev.x b).toNat % 256
    let length := fun (k : Nat) => writesX { s with dev := s.dev.onMy (fun c =>
      { c with vec := { c.vec with vl := BitVec.ofNat 9 k } }) } x (BitVec.ofNat 64 k)
    let masks := fun (i : Instr) (z : Mask) => ∃ w, exec i s = .next (vecTo s w stepsOn) ∧ w = { v with m := w.m } ∧
      ∀ o, w.mask o = if o = p ∧ p ≠ 0 then z else v.mask o
    let set := (List.range vl).filter (fun i => (v.mask q).getLsbD i)
    holdsV s.dev.me.tag = true →
    (red (.vredSum ct rnd x a m) .sum rnd ∧ red (.vredMax ct x a m) .max .rne ∧ red (.vredMin ct x a m) .min .rne) ∧
    (scan (.vscanSum ct rnd d a m) .sum rnd ∧ scan (.vscanMax ct d a m) .max .rne ∧ scan (.vscanMin ct d a m) .min .rne) ∧
    (moves (.vperm e f g m) (fun i => v.laneAt f ((v.laneAt g i).toNat % 256)) ∧
      moves (.vbcast e bc m) (fun _ => match bc with
        | .lane r i => v.laneAt r i.toNat
        | .x r => (s.dev.x r).setWidth 32
        | .imm z => z) ∧
      moves (.vslide e f y n m) (fun i => if 0 ≤ (i : Int) - n.toInt ∧ (i : Int) - n.toInt < vl
        then v.laneAt f ((i : Int) - n.toInt).toNat else (s.dev.x y).setWidth 32)) ∧
    (exec (.vget x f ln) s = writesX s x ((v.laneAt f lane).setWidth 64) ∧
      ∃ t, exec (.vput e y ln) s = .next t ∧
        LanesWritten s t 1 (.v e) (fun i => i == lane) 256 (fun _ => (s.dev.x y).setWidth 32) stepsOn) ∧
    (exec (.vsetl x y) s = (if s.dev.x y = 0 then writesX s x 0 else length (min (s.dev.x y).toNat 256)) ∧
      exec (.vsetlImm x n1) s = length (n1.toNat + 1) ∧
      exec (.vsetlRd x) s = writesX s x (BitVec.ofNat 64 (v.vcnt.toNat * 2 ^ 32 + v.vstart.toNat * 2 ^ 16 + v.vl.toNat)) ∧
      exec (.vsetlStart y) s = (if bits (s.dev.x y) 63 8 = 0
        then .next (vecTo s { v with vstart := (s.dev.x y).setWidth 8 } stepsOn) else fault s 0x03 0 2)) ∧
    (masks (.mand p q r) (v.mask q &&& v.mask r) ∧ masks (.mor p q r) (v.mask q ||| v.mask r) ∧
      masks (.mxor p q r) (v.mask q ^^^ v.mask r) ∧ masks (.mnot p q) (~~~(v.mask q))) ∧
    (exec (.mpop x q) s = writesX s x (BitVec.ofNat 64 set.length) ∧
      exec (.mfirst x q) s = writesX s x (match set with | [] => BitVec.allOnes 64 | i :: _ => BitVec.ofNat 64 i)))

/-- 12 R260 to R263, R265 check 6, 21 R402: in a thread that holds V a pair completes with what its two halves do on the
registers before it, one with no vector half too; the fault of its scalar half stops both, after the vector half's own
refusals; in any other thread every format-P word raises 0x01, check 6. That the vector half's refusals come first (log 23),
and that a selector reads a stream as FP32 lanes (log 22), are the model's readings. -/
def Obligations.PairsRunBothHalves : Prop :=
  ∀ (s u : State) (h : SHalf) (half : VHalf) (fn : FpFn) (vf : ViFn) (t : FType) (ct : CType) (cn : Cond) (rnd : Rnd) (d b e : VReg)
    (dm m : MReg) (a : VSrc) (a2 : VSrcVS) (x : SReg) (l : List (BitVec 32)) (cause : Byte) (addr : Word) (opnd : BitVec 32),
    let c := fcode t
    let v := s.dev.vec
    let av : VSrc := match a2 with | .v r => .v r | .s n => .s n
    let act := fun i => (v.mask m).getLsbD i
    let writes := fun (i : Instr) (fmt : Nat) (act : Nat → Bool) (f : Nat → BitVec 32) =>
      ∃ t, exec i s = .next t ∧ LanesWritten u t fmt (.v d) act l.length f (scalarEff h)
    (holdsV s.dev.me.tag = false → exec (.pair half h) s = fault s 0x01 (BitVec.ofNat 64 (s.dev.me.pc.toNat * 12)) 6) ∧
    (holdsV s.dev.me.tag = true →
      (scalarFault s.dev.me h = some (cause, addr, opnd) →
        exec (.pair .none h) s = fault s cause addr opnd ∧ exec (.pair (.fp fn t rnd d (.v e) b m) h) s = fault s cause addr opnd ∧
        exec (.pair (.int vf d (.v e) b m) h) s = fault s cause addr opnd ∧ exec (.pair (.sel d (.v e) b m) h) s = fault s cause addr opnd ∧
        exec (.pair (.cmp cn ct dm (.v e) b m) h) s = fault s cause addr opnd) ∧
      ((Tab.get {} s.dev.my.eng.streams x.toNat).bound = false →
        exec (.pair (.fp fn t rnd d (.s x) b m) h) s = fault s 0x02 0 0x10A ∧ exec (.pair (.int vf d (.s x) b m) h) s = fault s 0x02 0 0x10A ∧
        exec (.pair (.sel d (.s x) b m) h) s = fault s 0x02 0 0x10A ∧ exec (.pair (.cmp cn ct dm (.s x) b m) h) s = fault s 0x02 0 0x10A) ∧
      (scalarFault s.dev.me h = none → exec (.pair .none h) s = onlyMine s (scalarEff h) ∧
        (SourceGives s c a l u → writes (.pair (.fp fn t rnd d a b m) h) c act (fun i => laneImg c (fpOp fn t rnd
          (laneVal c (nth 0 l i)) (laneVal c (v.laneAt b i)) (laneVal c (v.laneAt d i))))) ∧
        (SourceGives s 8 a l u → writes (.pair (.int vf d a b m) h) 8 act (fun i => viOp vf (nth 0 l i) (v.laneAt b i))) ∧
        (SourceGives s 1 av l u → writes (.pair (.sel d a2 b m) h) 1 (fun _ => true)
          (fun i => if act i then nth 0 l i else v.laneAt b i)) ∧
        (SourceGives s (ccode ct) av l u → ∃ t w, exec (.pair (.cmp cn ct dm a2 b m) h) s = .next t ∧ t = vecTo u w (scalarEff h) ∧
          w = { v with m := w.m } ∧ ∀ e i, (w.mask e).getLsbD i = if e = dm ∧ dm ≠ 0 ∧ i < l.length ∧ act i = true
            then cmpLane cn ct (nth 0 l i) (v.laneAt b i) else (v.mask e).getLsbD i)))

/-- 15 R342 to R345: a vector load or store whose active elements from `vstart` on all pass sends one request each, in lane
order, under one number, leaves `vstart` at 0 and retires. -/
def Obligations.VectorAccessesSend : Prop :=
  ∀ (s : State) (w : VWidth) (d : VReg) (a b : XReg) (ix : VReg) (off : BitVec 32) (m : MReg) (loc : Nat → Loc),
    let n : Nat := match w with | .b32 => 4 | .b16 => 2 | .b8 => 1
    let v := s.dev.vec
    let f := s.dev.me.flow
    let base := s.dev.x a
    let lanes := (List.range (min v.vl.toNat 256)).filter (fun i => v.vstart.toNat ≤ i && (v.mask m).getLsbD i)
    let k := lanes.length
    let unit : Nat → Int := fun i => off.toInt + i * n
    let stride : Nat → Int := fun i => off.toInt + i * (s.dev.x b).toInt
    let index : Nat → Int := fun i => off.toInt + (v.laneAt ix i).toInt
    let fits := fun (load : Bool) (o : Nat → Int) => ∀ i ∈ lanes, ∃ p key, padvance base (o i) = some p ∧
      checkAcc s s.dev.rank s.dev.who s.dev.me .vector p n n load (!load) = .ok (loc i) key ∧
      (load = false → BindAllows s (loc i) n)
    let sends := fun (load : Bool) (i : Instr) => ∃ t qs, exec i s = .next t ∧ t.mem = s.mem ∧
      t.dev.me.pc = s.dev.me.pc + 1 ∧ t.dev.me.x = s.dev.me.x ∧ t.dev.me.sent = 0 ∧ t.dev.vec = { v with vstart := 0 } ∧
      t.dev.me.flow.bag = f.bag ++ qs ∧ qs.length = k ∧ t.dev.me.flow.rets = f.rets ∧ t.dev.me.flow.acks = f.acks ∧
      t.dev.me.flow.nextId = f.nextId + 1 ∧
      (∀ j q, nth? qs j = some q → q.id = f.nextId ∧ q.elem = nth 0 lanes j ∧ q.loc = loc (nth 0 lanes j) ∧
        q.op = (if load then .load n false else .store n (BitVec.ofNat 64 ((v.laneAt d (nth 0 lanes j)).toNat % 2 ^ (8 * n)))) ∧
        q.dst = if load then .lane d.toNat (nth 0 lanes j) n else .none) ∧
      ((∀ e ∈ f.ld, e.1 ≠ f.nextId) → t.dev.me.flow.ld = if load = true ∧ 0 < k then f.ld ++ [(f.nextId, k)] else f.ld) ∧
      ((∀ e ∈ f.st, e.1 ≠ f.nextId) → t.dev.me.flow.st = if load = false ∧ 0 < k then f.st ++ [(f.nextId, k)] else f.st) ∧
      t.dev.me.flow.sys = if load then f.sys else f.sys + BitVec.ofNat 9 k
    holdsV s.dev.me.tag = true → s.dev.me.sent = 0 → widthOk (pfmtOf base) n = true → pspace base ≠ 3 → pspace base ≠ 4 →
    (MaySend s true false none → s.dev.room s.dev.rank s.dev.who k false = true →
      (fits true unit → sends true (.vld w d a off m)) ∧ (fits true stride → sends true (.vldStride w d a b off m)) ∧
      (fits true index → sends true (.vldIndex w d a ix off m))) ∧
    (MaySend s false true none → s.dev.room s.dev.rank s.dev.who k true = true →
      (fits false unit → sends false (.vst w d a off m)) ∧ (fits false stride → sends false (.vstStride w d a b off m)) ∧
      (fits false index → sends false (.vstIndex w d a ix off m)))

/-- 09 R184, R190 to R200, 16 R349 to R354: every matrix command whose operands meet the rules enters the core's queue. 09 R199
to R201, 16 R355, 12 R265: `mqry` reads the unit and the queue, `mcoop` asks the device, and every command of a thread
without the tag M fails check 6. -/
def Obligations.MatrixCommandsAndQueries : Prop :=
  (∀ (s : State) (ta tb : Bool) (acc accs : AccReg) (d a b : XReg) (k : BitVec 16) (mr nc : BitVec 2) (tgt : MmcTgt)
    (kk : BitVec 7) (nb : BitVec 3) (rnd : Rnd),
    let p := s.dev.x a
    let q := s.dev.x b
    let o := s.dev.x d
    let m := 128 * (mr.toNat + 1)
    let n := 128 * (nc.toNat + 1)
    let half := fun w => pfmtOf w = 2 ∨ pfmtOf w = 3
    let psb := fun w => isPsb (pfmtOf w) = true
    let whole := fun w len => psb w → len % blockLen (plcode w) = 0
    let depth := fun hi => 16 ≤ k.toNat ∧ k.toNat ≤ hi ∧ k.toNat % 16 = 0
    let named := fun (i : Nat) => accEn s.dev.my.regs.accmap i = true
    let free := coopBad s.dev acc.toNat mr nc = false
    let alone := coopOf s.dev (unitOf s.dev.rank) = none
    let queues := fun (i : Instr) op va vb => ∃ t, exec i s = .next t ∧ Queued s t op va vb
    MayQueue s →
    (MatrixOperand s p (if ta then rowsBytes p k.toNat m else rowsBytes p m k.toNat) →
      MatrixOperand s q (if tb then rowsBytes q n k.toNat else rowsBytes q k.toNat n) →
      (psb p ∧ psb q ∨ half p ∧ half q) → depth 32768 → whole p (if ta then m else k.toNat) → whole q (if tb then k.toNat else n) →
      named acc.toNat → free → queues (.mm ta tb acc a b k mr nc) (.mm ta tb false acc.toNat p q k.toNat m n) p q) ∧
    (MatrixOperand s p (rowsBytes p m k.toNat) → MatrixOperand s q (if tb then rowsBytes q n k.toNat else rowsBytes q k.toNat n) →
      psb p → psb q → depth 32768 → whole p k.toNat → whole q (if tb then k.toNat else n) → named acc.toNat → free →
      queues (.sqd tb acc a b k mr nc) (.mm false tb true acc.toNat p q k.toNat m n) p q) ∧
    (MatrixOperand s q (rowsBytes q k.toNat 128) → (if tgt = .bf16 then half q else psb q) → depth 128 → whole q 128 →
      named acc.toNat → named accs.toNat →
      accBank s.dev.my.regs.accmap acc.toNat ≠ accBank s.dev.my.regs.accmap accs.toNat → alone →
      queues (.mmc tgt ta acc accs b k) (.mmc tgt ta acc.toNat accs.toNat q k.toNat) 0 q) ∧
    (MatrixOperand s o (256 * kk.toNat) → (b ≠ 0 → MatrixOperand s q (512 * kk.toNat)) → 1 ≤ kk.toNat → kk.toNat ≤ 64 →
      1 ≤ nb.toNat → nb.toNat ≤ 4 → acc.toNat + nb.toNat ≤ 4 → (∀ i, acc.toNat ≤ i → i < acc.toNat + nb.toNat → named i) → alone →
      queues (.topkMax d acc b kk nb) (.topk true acc.toNat o (if b = 0 then none else some q) kk.toNat nb.toNat) o q ∧
      queues (.topkMin d acc b kk nb) (.topk false acc.toNat o (if b = 0 then none else some q) kk.toNat nb.toNat) o q) ∧
    (named acc.toNat → free → queues (.macz acc mr nc) (.macz acc.toNat m n) 0 0) ∧
    (MatrixOperand s o (rowsBytes o m n) ∨ (pspace o = 0 ∨ pspace o = 6 ∧ peerCheck s.dev.objs s.dev.me.part (ppeer o) = none) ∧
        tagsOk s.dev s.dev.me s.dev.rank .matrix 8 o = true ∧ paddr o % 8 = 0 →
      pfmtOf o = 1 ∨ half o ∨ psb o → whole o n → named acc.toNat → free → (psb o → rnd = .rne) →
      queues (.macst rnd d acc mr nc) (.macst rnd o acc.toNat m n) o 0) ∧
    (MatrixOperand s p (rowsBytes p m n) → pfmtOf p = 1 ∨ half p ∨ psb p → whole p n → named acc.toNat → free →
      queues (.macld acc a mr nc) (.macld acc.toNat p m n) p 0)) ∧
  (∀ (s : State) (d a b : XReg) (ta tb : Bool) (acc accs : AccReg) (k : BitVec 16) (mr nc : BitVec 2) (tgt : MmcTgt)
    (kk : BitVec 7) (nb : BitVec 3) (rnd : Rnd),
    let v := s.dev.x a
    let h := s.dev.coach (unitOf s.dev.rank)
    let c := s.dev.my
    let ill := fault s 0x01 (BitVec.ofNat 64 (s.dev.me.pc.toNat * 12)) 6
    (holdsM s.dev.me.tag = true →
      exec (.mqry d) s = writesX s d (BitVec.ofNat 64 (h.steps % 2 ^ 32 * 2 ^ 32 +
        (match h.group with | some (g, q) => q * 2 ^ 24 + g * 2 ^ 21 + 2 ^ 20 | none => 0) +
        c.regs.accmap.toNat * 2 ^ 8 + (if c.regs.mqw = 0 then 1 else c.regs.mqw.toNat) * 2 ^ 4 + c.eng.mq.length)) ∧
      (bits v 63 6 ≠ 0 → MaySend s false false none → exec (.mcoop d a) s = fault s 0x03 0 2) ∧
      (bits v 63 6 = 0 → MaySend s false false none → unitOf s.dev.rank % 32 ≠ 4 * bits v 2 0 + bits v 4 3 → exec (.mcoop d a) s = fault s 0x51 0 9) ∧
      (bits v 63 6 = 0 → unitOf s.dev.rank % 32 = 4 * bits v 2 0 + bits v 4 3 → MaySend s false false none →
        (v.getLsbD 5 = true → heldByOther s.dev s.dev.rank (bits v 2 0) (bits v 4 3) = true ∨
          WaitCond.coachIdle.holds s s.dev.rank s.dev.who = true) →
        (v.getLsbD 5 = false → isMember s.dev s.dev.rank (bits v 2 0) (bits v 4 3) = true →
          WaitCond.groupIdle.holds s s.dev.rank s.dev.who = true) →
        ∃ t, exec (.mcoop d a) s = .next t ∧ Sends s t .ld (.mcoop v) (.x d) (.loc s.dev.rank 0) false false)) ∧
    (holdsM s.dev.me.tag = false → exec (.mm ta tb acc a b k mr nc) s = ill ∧ exec (.mmc tgt ta acc accs b k) s = ill ∧
      exec (.sqd tb acc a b k mr nc) s = ill ∧ exec (.topkMax d acc b kk nb) s = ill ∧ exec (.topkMin d acc b kk nb) s = ill ∧
      exec (.macz acc mr nc) s = ill ∧ exec (.macst rnd d acc mr nc) s = ill ∧ exec (.macld acc a mr nc) s = ill ∧
      exec (.mcoop d a) s = ill ∧ exec (.mqry d) s = ill))

/-- 09 R185 to R189, 16 R351, R354, 06 R116, R132: a step's operands are fetched into a free buffer, the unit starts the next
step of the one queue that contends (the credit of every other queue is then 0), the array's step is applied as a unit, its
command leaves `tl` 16 cycles later, and an engine's word is written at its home and a further step sets it full. A feed
whose side band does not pair is buffered with code 0x50; its extent and operand are the model's choice (log 25). That the
words no engine step has read before are read at the step's own instant, and that a step's tiles and banks are mapped when
it starts, is the model's choice (log 54). The clause on the arbiter speaks of a single contender and leaves a command's
last step out. -/
def Obligations.MatrixStepsRun : Prop :=
  ∀ (s : State) (u c r i k : Nat) (m : MCmd) (st : Nat) (x : MStep) (acc : Nat) (ta tb sq : Bool) (p q : Word) (kk mm nn : Nat)
    (w : EWord) (bk pa key qc wd : Nat) (e1 : Nat × Nat × Nat) (more : List (Nat × Nat × Nat)) (rest : List MCmd),
    let rk := u * 8 + c % 8
    let e := (s.dev.core rk).eng
    let bank := fun (t : State) j => Tab.get 0 (t.dev.coach u).bank j
    let b := bk * 16384
    let f := (s.dev.slot r k).flow
    (s.dev.engineUp rk = true → bufsUsed s.dev rk < 2 → nextFetch s.dev rk e.mbuf e.mq = some (m, st) → (s.dev.slot rk m.slot).flow.ocClear m.id = true →
      rushed (s.dev.slot rk m.slot) = false →
      ((∀ x ∈ stepReads s.dev rk m st, slabPoison (s.dev.core x.1) x.2.2 = false) →
      exec (.matrixOperandFetch u c false) s =
        .next { s with dev := s.dev.onEng rk (fun e => { e with mbuf := e.mbuf ++ [fetchStep s rk m st], mfeed := [] }) } ∧
      ∀ h, psbOperand m.op = some h → exec (.matrixOperandFetch u c true) s =
        .next { s with dev := s.dev.onEng rk (fun e => { e with
          mbuf := e.mbuf ++ [{ fetchStep s rk m st with bad := some (0x50, BitVec.ofNat 32 (1 * 2 ^ 8), h) }], mfeed := [] }) }) ∧
      ((∃ x ∈ stepReads s.dev rk m st, x.1 = qc ∧ ∃ y ∈ x.2.2, wd ∈ touched y.1 y.2) → (∀ f ∈ e.mfeed, ¬(f.1 = qc ∧ f.2.1 = wd)) →
        exec (.engineStep rk (.feed qc wd)) s = .next { s with dev := s.dev.onEng rk (fun e => { e with
          mfeed := e.mfeed ++ [(qc, wd, (s.dev.core qc).lmem.word (8 * wd), Tab.get false (s.dev.core qc).lpoison wd)] }) })) ∧
    (r / 8 = u → s.dev.engineUp (u * 8) = true → (s.dev.coach u).step = none → (∀ j < 8, contends s.dev (u * 8 + j) = (u * 8 + j == r)) →
      (s.dev.core r).eng.mq = m :: rest → m.next + 1 < m.steps s.dev r → (m.grp = true → ledBy s.dev r = none) →
      (∀ z, (s.dev.core r).eng.mbuf.find? (fun b => b.cmd == m.id && b.step == m.next) = some z → z.bad = none) →
      ∃ t y, exec (.matrixStepBoundary u) s = .next t ∧ t.mem = s.mem ∧ (t.dev.coach u).step = some y ∧ y.core = r ∧ y.cmd = m ∧
        y.step = m.next ∧ y.last = false ∧ y.tiles = stepTiles s.dev r m ∧
        (∀ j < 8, u * 8 + j ≠ r → (t.dev.core (u * 8 + j)).eng.mcredit = 0) ∧ (t.dev.core r).eng.mq = { m with next := m.next + 1 } :: rest ∧
        (t.dev.core r).eng.mbuf = (s.dev.core r).eng.mbuf.filter (fun b => !(b.cmd == m.id && b.step == m.next))) ∧
    ((s.dev.coach u).step = some x → s.dev.engineUp (u * 8) = true → unitOf x.core = u → x.tiles = [(u, bk, 0, 0)] →
      (x.cmd.op = .macz acc mm nn → ∃ t, exec (.arrayStepEnd u) s = .next t ∧ t.mem = s.mem ∧ (t.dev.coach u).step = none ∧
        (t.dev.coach u).steps = (s.dev.coach u).steps + 1 ∧
        ∀ j, bank t j = if b ≤ j ∧ j < b + 16384 then 0 else bank s j) ∧
      (x.cmd.op = .mm ta tb sq acc p q kk mm nn → ∃ t, exec (.arrayStepEnd u) s = .next t ∧ t.mem = s.mem ∧
        (t.dev.coach u).step = none ∧ (t.dev.coach u).steps = (s.dev.coach u).steps + 1 ∧
        ((t.dev.core x.core).eng.mtl = if x.last = true ∧
            (s.dev.thr x.core x.cmd.slot).flow.tl.any (fun e => e.1 == x.cmd.id && e.2 != 0) = true
          then (s.dev.core x.core).eng.mtl ++ [(x.cmd.id, x.cmd.slot, s.dev.now + 16)] else (s.dev.core x.core).eng.mtl) ∧
        let buf := x.buf.getD ⟨0, 0, [], [], none⟩
        let cnt := min 128 (kk - 128 * x.range)
        let g := if isHalf (pfmtOf p) && isHalf (pfmtOf q) then 4 else 16
        ∀ j, bank t j = if b ≤ j ∧ j < b + 16384 then
          foldGroups g (cnt / g) ((upto cnt).map (fun k => term sq (unpack fp32 (nth 0 buf.a ((j - b) / 128 * cnt + k)))
            (unpack fp32 (nth 0 buf.b ((j - b) % 128 * cnt + k))))) (bank s j) else bank s j)) ∧
    (r < 2048 → k < 16 → (s.dev.core r).eng.mtl = e1 :: more → e1.2.1 = k → e1.2.2 ≤ s.dev.now → (s.dev.core r).eng.ewords = [] →
      exec (.matrixTlRelease r) s = .next { s with dev := (s.dev.onEng r (fun e => { e with mtl := more })).onSlot r k (fun t =>
        { t with flow := { f with tl := popDone (dec1 e1.1 f.tl) } }) }) ∧
    (s.dev.engineUp r = true → nth? (s.dev.core r).eng.ewords i = some w → w.loc = some (.glob pa, key) → s.dev.objs.exists pa = true →
      s.heldBank (.glob pa) = false → s.lost (.glob pa) = false →
      ¬(pspace w.ptr = 0 ∧ rangeHit s.dev.objs (s.dev.thr r w.slot).asid.toNat (paddr w.ptr) 8 = true) →
      (∀ l ∈ linesOf pa 8, s.dev.badTag l = false) → s.memOk →
      (w.placed = false → ∃ t, exec (.engineStep r (.word i)) s = .next t ∧
        (t.dev.core r).eng.ewords = modAt (fun v => { v with placed := true }) (s.dev.core r).eng.ewords i ∧
        (∀ z, t.mem.read z = if pa ≤ z ∧ z < pa + 8 then Tab.get 0 w.bytes (z - pa) else (s.memAs pa 8 key).read z) ∧
        t.dev.mmeta.empty = s.dev.mmeta.empty) ∧
      (w.placed = true → s.dev.objs.feWait = [] → Tab.wfFrom false 0 s.dev.mmeta.empty = true →
        ∃ t, exec (.engineStep r (.word i)) s = .next t ∧ t.mem = s.mem ∧
        (t.dev.core r).eng.ewords = dropAt (s.dev.core r).eng.ewords i ∧
        ∀ z, Tab.get false t.dev.mmeta.empty z = if z = pa / 8 then false else Tab.get false s.dev.mmeta.empty z))

/-- 10 R210 to R214, 16 R356 to R358, R363, 21 R404: a copy whose shape and extents pass enters the engine and counts in `cp`
under its number; `cpres` takes a stopped copy of each kind up from its progress record or answers 1. That a kind above 3
answers 1 is the model's choice (log 37). -/
def Obligations.CopiesEnterTheEngine : Prop :=
  ∀ (s : State) (d a b : XReg) (len : LenSrc) (cf : Comp) (n : Nat) (tag : BitVec 7),
    let me := s.dev.me
    let f := me.flow
    let ctr := if cf.creg = 0 then none else some (s.dev.x cf.creg)
    let comp : BitVec 16 := BitVec.ofNat 16 (cf.tag.toNat * 2 ^ 8 + cf.creg.toNat * 2 ^ 2 + cf.ev.toNat)
    let word := fun p i => s.dev.my.lmem.word (paddr p + 8 * i)
    let p := s.dev.x b
    let l := s.dev.x d
    let size := bits (word l 0) 4 0 + 1
    let dests := (List.range size).map (fun i => word l (i + 1))
    let at_ := s.dev.my.regs.prbase.toNat % 2 ^ 18 + 64 * tag.toNat
    let rec_ := fun i => s.dev.my.lmem.word (at_ + 8 * i)
    let taken := fun (g : Slot → Slot) (u : Slot) =>
      { g u with pc := u.pc + 1, flow := { u.flow with nextId := f.nextId + 1, cp := f.cp ++ [(f.nextId, 1)] } }
    let enters := fun (i : Instr) (k : CpKind) (start : Nat) (among : List Nat) (comp : BitVec 16) (ctr : Word) (from_ : Dev)
        (g : Slot → Slot) (res : Bool) => ∃ c : Copy,
      exec i s = .next { s with dev := (from_.onEng s.dev.rank (fun e => { e with copies := e.copies ++ [c] })).onMe (taken g) } ∧
      c.id = f.nextId ∧ c.slot = s.dev.who ∧ c.asid = me.asid.toNat ∧ c.pc = me.pc ∧ c.kind = k ∧ c.start = start ∧ c.comp = comp ∧
      c.ctr = ctr ∧ c.done = [] ∧ c.stop = none ∧ c.stage = 0 ∧ c.parked = false ∧ c.resumed = res ∧
      c.live = (if k.multi then (cpmEnds s.dev k start among).1 else [0]) ∧
      c.fails = (if k.multi then (cpmEnds s.dev k start among).2 else [])
    holdsC me.tag = true → f.acq = [] → s.dev.my.eng.copies.length < 128 →
    (lenOf s.dev len = none → exec (.cp d a len cf) s = fault s 0x03 0 3 ∧ exec (.cpm d a len cf) s = fault s 0x03 0 3) ∧
    (lenOf s.dev len = some n → copyBad s.dev (.cp l (s.dev.x a) n) 0 ctr = none →
      enters (.cp d a len cf) (.cp l (s.dev.x a) n) 0 [] comp (ctr.getD 0) s.dev (fun u => u) false) ∧
    (payloadFault s.dev p 4 = none → word p 3 = 0 → copyBad s.dev (.cpa l (s.dev.x a) (word p 0) (word p 1) (word p 2)) 0 ctr = none →
      enters (.cpa d a b cf) (.cpa l (s.dev.x a) (word p 0) (word p 1) (word p 2)) 0 [] comp (ctr.getD 0) s.dev (fun u => u) false) ∧
    (lenOf s.dev len = some n → payloadFault s.dev l 1 = none → bits (word l 0) 63 5 = 0 → payloadFault s.dev l (size + 1) = none →
      copyBad s.dev (.cpm l (s.dev.x a) n dests) 0 ctr = none →
      enters (.cpm d a len cf) (.cpm l (s.dev.x a) n dests) 0 (List.range size) comp (ctr.getD 0) s.dev (fun u => u) false) ∧
    (s.dev.my.regs.prbase.getLsbD 18 = false ∨ bits (rec_ 0) 63 60 = 0 ∨ 3 < bits (rec_ 0) 63 60 →
      exec (.cpres d tag) s = writesX s d 1) ∧
    (∀ (k : CpKind) (among : List Nat), s.dev.my.regs.prbase.getLsbD 18 = true →
      (touched at_ 64).any (fun i => Tab.get false s.dev.my.lpoison i) = false →
      let comp1 : BitVec 16 := BitVec.ofNat 16 (bits (rec_ 4) 47 32)
      let ctr1 := if hasCtr comp1 then some (rec_ 3) else none
      let list := rec_ 1
      let many := bits (word list 0) 4 0 + 1
      (bits (rec_ 0) 63 60 = 1 ∧ k = .cp (rec_ 1) (rec_ 2) (bits (rec_ 4) 31 0) ∧ among = [] ∨
        bits (rec_ 0) 63 60 = 2 ∧ k = .cpa (rec_ 1) (rec_ 2) (rec_ 5) (rec_ 6) (rec_ 7) ∧ among = [] ∨
        bits (rec_ 0) 63 60 = 3 ∧ payloadFault s.dev list 1 = none ∧ bits (word list 0) 63 5 = 0 ∧ payloadFault s.dev list (many + 1) = none ∧
          k = .cpm list (rec_ 2) (bits (rec_ 4) 31 0) ((List.range many).map (fun i => word list (i + 1))) ∧
          among = (List.range many).filter (fun i => (rec_ 5).getLsbD i)) →
      copyBad s.dev k (bits (rec_ 0) 47 0) ctr1 = none →
      enters (.cpres d tag) k (bits (rec_ 0) 47 0) among comp1 (ctr1.getD 0)
        (s.dev.onMy (fun c => { c with lmem := c.lmem.setWord at_ (BitVec.ofNat 64 (bits (rec_ 0) 59 0)) })) (fun u => u.setX d 0) true)

/-- 10 R204 to R208, R216 to R218, 16 R364 to R367: a bind fills a stream register and counts in `cp`, a drop frees it and
returns the position; a send counts in `st` and leaves for its target, an armed one waits for its counter; the counter
operations return the old value. That `sdrop` of a register another thread holds writes 0 is the model's choice (log 38). -/
def Obligations.StreamsSendsAndCounters : Prop :=
  ∀ (s : State) (n : SReg) (d a b : XReg) (e : Bool) (m : BitVec 6) (c : BitVec 4) (thr : BitVec 32),
    let me := s.dev.me
    let f := me.flow
    let p := s.dev.x b
    let w := s.dev.x a
    let word := fun i => s.dev.my.lmem.word (paddr p + 8 * i)
    let y := Tab.get {} s.dev.my.eng.streams n.toNat
    let count := Tab.get (0 : BitVec 32) s.dev.my.eng.rctr c.toNat
    let armed := Tab.get none s.dev.my.eng.armed c.toNat
    let msg : Msg :=
      { remote := w.getLsbD 32, peer := bits w 31 24, rank := bits w 10 0, slot := bits w 14 11, chan := bits w 16 15,
        cnt := w.getLsbD 17, ctr := bits w 22 18, endw := e, payload := s.dev.my.lmem.words (paddr p) m.toNat, target := w }
    let bind : Stream → Stream := fun _ =>
      { bound := true, slot := s.dev.who, base := w, w0 := word 0, s0 := word 1, s1 := word 2,
        s2 := word 3, asid := me.asid.toNat, bindId := f.nextId, serial := s.dev.my.eng.serials + 1 }
    let sent := fun (u : Slot) => { u with pc := u.pc + 1, flow := { u.flow with nextId := f.nextId + 1, st := f.st ++ [(f.nextId, 1)] } }
    let bound := fun (u : Slot) => { u with pc := u.pc + 1, flow := { u.flow with nextId := f.nextId + 1, cp := f.cp ++ [(f.nextId, 1)] } }
    let unbound : Stream → Stream := fun y => { y with bound := false, dropped := some f.nextId }
    let fits := bits w 63 33 = 0 ∧ w.getLsbD 23 = false ∧ payloadFault s.dev p m.toNat = none ∧
      (w.getLsbD 32 = true → peerCheck s.dev.objs me.part (bits w 31 24) = none)
    let here := w.getLsbD 32 = false ∨ bits w 31 24 = s.dev.objs.peerSelf.toNat
    let placed := fun (q : Req) (o : Objs) => { o with msgs := o.msgs ++ [(s.dev.rank, s.dev.who, q)] }
    let ported := fun (q : Req) (o : Objs) => { o with fabric := o.fabric ++ [⟨s.dev.rank, s.dev.who, q, [], 0, false⟩] }
    let leaves := fun (i : Instr) (u : State) => ∃ q : Req, q.id = f.nextId ∧ q.cls = .st ∧ q.op = .send msg ∧ q.pc = me.pc ∧
      (here → exec i s = .next { u with dev := (u.dev.onMe sent).onObjs (placed q) }) ∧
      (¬here → exec i s = .next { u with dev := (u.dev.onMe sent).onObjs (ported q) })
    let counts := fun (k : BitVec 32) => { s with dev := s.dev.onEng s.dev.rank (fun e => { e with rctr := Tab.set e.rctr c.toNat k }) }
    (holdsC me.tag = true →
      (f.acq = [] → y.out = [] → y.dropped = none → payloadFault s.dev p 4 = none → bits (word 0) 62 48 = 0 →
        (∀ i, 1 ≤ i → i ≤ 3 → strideOk (word i) = true) → y.bound = false →
        (isPsb (pfmtOf w) = true → ∀ i, 1 ≤ i → i ≤ 3 → (word i).toInt % blockBytes (pfmtOf w) (plcode w) = 0) →
        pspace w ≠ 3 → pspace w ≠ 4 → pspace w ≠ 5 →
        exec (.sbind n a b) s = .next { s with dev := ((s.dev.onStream n.toNat bind).onEng s.dev.rank (fun x =>
          { x with serials := x.serials + 1 })).onMe bound }) ∧
      (y.bound = false ∨ y.slot ≠ s.dev.who → exec (.sdrop d n) s = writesX s d 0) ∧
      (y.bound = true → y.slot = s.dev.who → y.accepted = true →
        (y.w0.getLsbD 63 = false ∨ y.out = [] ∧ y.cover = [] →
          exec (.sdrop d n) s = writesX (streamTo s n.toNat (fun _ => {})) d (BitVec.ofNat 64 y.pos)) ∧
        (y.w0.getLsbD 63 = true → y.out ≠ [] ∨ y.cover ≠ [] →
          exec (.sdrop d n) s = .next { s with dev := (s.dev.onStream n.toNat unbound).onMe (fun u => bound (u.setX d (BitVec.ofNat 64 y.pos))) }))) ∧
    (holdsN me.tag = true →
      (f.acq = [] → fits → leaves (.nsend e m a b) s ∧
        (armed = none → thr.toNat ≤ count.toNat →
          leaves (.tsend e m c thr a b) { s with dev := s.dev.onEng s.dev.rank (fun x => { x with armed := Tab.set x.armed c.toNat none }) }) ∧
        (armed = none → count.toNat < thr.toNat → ∃ q : Req, q.id = f.nextId ∧ q.cls = .st ∧ q.op = .send msg ∧
          let arm : CoreEng → CoreEng := fun x => { x with armed := Tab.set x.armed c.toNat (some (q, thr)) }
          exec (.tsend e m c thr a b) s = .next { s with dev := (s.dev.onMe sent).onEng s.dev.rank arm })) ∧
      exec (.rcsetRd d c) s = writesX s d (count.setWidth 64) ∧
      (bits p 63 32 = 0 → armed = none →
        exec (.rcsetWr d c b) s = writesX (counts (p.setWidth 32)) d (count.setWidth 64) ∧
        exec (.rcsetAdd d c b) s = writesX (counts (BitVec.ofNat 32 (min 0xFFFFFFFF (count.toNat + bits p 31 0)))) d (count.setWidth 64)) ∧
      (bits p 63 32 ≠ 0 → exec (.rcsetWr d c b) s = fault s 0x03 0 3 ∧ exec (.rcsetAdd d c b) s = fault s 0x03 0 3))

/-- 10 R206, R207, R210, R216 to R218, 16 R358, 06 R132, R135: a piece of a copy moves its bytes, a whole copy leaves `cp`, a
stream's unit fetches the next element ahead and drains the oldest produced one, a message is placed whole, and an armed
send fires at its threshold; an engine sets a word of a copy full once all below it is in place, and one of a stream once
its bytes are. An element of a PSB stream whose side band does not pair is held with code 0x50; extent 1 is the model's
choice (log 25). -/
def Obligations.CopiesAndStreamsMove : Prop :=
  ∀ (s : State) (r i j k n t len pa key size m v : Nat) (c : Copy) (x y p q : Word) (l1 : Loc) (k1 : Nat) (pc : PcIx)
    (rest : List (Nat × Nat × PcIx)) (z : Req) (g : Msg) (thr : BitVec 32),
    let e := (s.dev.core r).eng
    let st := Tab.get {} e.streams n
    let up := s.dev.engineUp r = true
    let sound := fun (a n : Nat) => ∀ i ∈ linesOf a n, s.dev.badTag i = false
    let clear := (s.dev.thr r st.slot).flow.ocClear st.bindId = true
    let now := Tab.get [] (s.dev.slot g.rank g.slot).chans g.chan
    let words := g.payload.map (fun w => (w, false)) ++ (if g.endw then [(BitVec.ofNat 64 (2 * 2 ^ 62), true)] else [])
    (up → nth? e.copies i = some c → c.parked = false → c.stage = 0 → c.stop = none → c.got = [] → c.inPlace = [] → c.kind = .cp x y len → pieceOpen c k = true →
      (s.dev.thr r c.slot).flow.ocClear c.id = true → remoteEnd s.dev x = false → remoteEnd s.dev y = false →
      pieceParts c k = [(t, size)] → size % 8 = 0 → padvance y t = some p → padvance x t = some q →
      copyPlace s r c.asid p size true false = .ok l1 k1 → copyPlace s r c.asid q size false true = .ok (.glob pa) key →
      (∀ l ∈ l1.lines size ++ (Loc.glob pa).lines size, noMemory s l = none ∧ placeHeld s l = false) → partHeld s c (t, size) = false →
      sound pa size → (l1.words size).any (fun w => s.poisoned w) = false →
      ((Loc.glob pa).words size).any (fun w => s.lost w) = false → s.dev.objs.feWait = [] → s.memOk →
      ∃ u, exec (.copyPiece r i k none) s = .next u ∧
        (∀ a, u.mem.read a = if pa ≤ a ∧ a < pa + size then nth 0 (s.readBytes l1 k1 size) (a - pa) else (s.memAs pa size key).read a) ∧
        ∃ c1 ∈ (u.dev.core r).eng.copies, c1.id = c.id ∧ c1.slot = c.slot ∧ c1.done = c.done ++ [k]) ∧
    (up → nth? e.copies i = some c → c.parked = false → c.stage = 0 → c.stop = none → c.ending = false → c.inPlace = [] → pieceCount c ≤ copyHole c → hasCtr c.comp = false →
      lowestMissing c = none → r < 2048 → c.slot < 16 → (c.comp.getLsbD 0 = true → e.events.length < 64 ∧ e.eventWait = []) →
      ∃ u, exec (.copyComplete r i) s = .next u ∧ u.mem = s.mem ∧
        (u.dev.core r).eng.copies = e.copies.filter (fun b => !(b.id == c.id && b.slot == c.slot)) ∧
        (u.dev.slot r c.slot).flow.cp = popDone (dec1 c.id (s.dev.slot r c.slot).flow.cp) ∧
        (u.dev.core r).eng.events = if c.comp.getLsbD 0 then e.events ++
          [(BitVec.ofNat 64 (c.kind.evType * 2 ^ 60 + c.slot * 2 ^ 56 + deliveredMask c),
            BitVec.ofNat 64 (compTag c.comp * 2 ^ 48 + copyLen c.kind % 2 ^ 48))] else e.events) ∧
    (up → st.bound = true → st.w0.getLsbD 63 = false → clear → streamBusy s.dev r n 11 = false → st.accepted = true →
      st.ahead.any (·.2.isSome) = false → st.pos + st.ahead.length < patternLen st.w0 → (st.ahead.length + 1) * streamElem st.base ≤ 4096 →
      st.elemPtr (st.pos + st.ahead.length) = some p → elemPlaces s r st p true = .ok [(.glob pa, size, key)] →
      remoteEnd s.dev p = false → s.dev.objs.exists pa = true → elemHeld s st p = false → anyHeld s (.glob pa) size = false →
      s.poisonedIn (.glob pa) size = false → st.fetched = [] →
      ∃ u, exec (.streamRunaheadFetch r n false) s = .next u ∧ u.mem = s.mem ∧
        Tab.get {} (u.dev.core r).eng.streams n = { st with ahead := st.ahead ++ [((s.memAs pa size key).readN pa size, none)] }) ∧
    (up → st.bound = true → st.w0.getLsbD 63 = false → clear → streamBusy s.dev r n 11 = false → st.accepted = true →
      st.ahead.any (·.2.isSome) = false → st.pos + st.ahead.length < patternLen st.w0 → (st.ahead.length + 1) * streamElem st.base ≤ 4096 →
      st.elemPtr (st.pos + st.ahead.length) = some p → elemPlaces s r st p true = .ok [(.glob pa, size, key)] → isPsb (pfmtOf st.base) = true →
      st.fetched = [] →
      ∃ u, exec (.streamRunaheadFetch r n true) s = .next u ∧ u.mem = s.mem ∧
        Tab.get {} (u.dev.core r).eng.streams n = { st with ahead := st.ahead ++ [(0, some (0x50, p, BitVec.ofNat 32 (1 * 2 ^ 8)))] }) ∧
    (up → st.w0.getLsbD 63 = true → clear → streamBusy s.dev r n 12 = false → (st.bound = true → st.accepted = true) →
      st.out = (m, v, pc) :: rest → st.elemPtr m = some p → elemPlaces s r st p false = .ok [(.glob pa, size, key)] →
      remoteEnd s.dev p = false → s.dev.objs.exists pa = true → elemHeld s st p = false → anyHeld s (.glob pa) size = false → sound pa size →
      ((Loc.glob pa).words size).any (fun w => s.lost w) = false → s.dev.objs.feWait = [] → s.memOk →
      size = streamElem st.base → st.written = [] →
      ∃ u, exec (.streamDrain r n false) s = .next u ∧ (Tab.get {} (u.dev.core r).eng.streams n).out = rest ∧
        ∀ a, u.mem.read a = if pa ≤ a ∧ a < pa + size then BitVec.ofNat 8 (v / 256 ^ (a - pa)) else (s.memAs pa size key).read a) ∧
    (nth? s.dev.objs.msgs i = some (r, j, z) → z.op = .send g → r < 2048 → j < 16 →
      (s.dev.objs.msgs.take i).any (fun e => e.1 == r && e.2.1 == j && e.2.2.msg?.any (fun x => sameStream x g)) = false →
      isHelper g.slot = true → (s.dev.slot g.rank g.slot).life = .live →
      (g.cnt = true → g.ctr ≤ 15 ∧ Tab.get none (s.dev.core g.rank).eng.armed g.ctr = none) →
      (now.length + words.length ≤ 64 →
        ∃ u, exec (.messagePlacement i) s = .next u ∧ u.mem = s.mem ∧ u.dev.objs.msgs = dropAt s.dev.objs.msgs i ∧
          Tab.get [] (u.dev.slot g.rank g.slot).chans g.chan = now ++ words ∧
          (u.dev.slot r j).flow.acks = (s.dev.slot r j).flow.acks ++ [⟨z, none⟩] ∧
          (g.cnt = true → (Tab.get 0 (u.dev.core g.rank).eng.rctr g.ctr).toNat =
            min 0xFFFFFFFF ((Tab.get 0 (s.dev.core g.rank).eng.rctr g.ctr).toNat + 1))) ∧
      (64 < now.length + words.length → exec (.messagePlacement i) s = .next s)) ∧
    (Tab.get none e.armed k = some (z, thr) → z.op = .send g → g.remote = false →
      (thr.toNat ≤ (Tab.get 0 e.rctr k).toNat → ∃ u, exec (.tsendFire r k) s = .next u ∧ u.mem = s.mem ∧
        Tab.get none (u.dev.core r).eng.armed k = none ∧ u.dev.objs.msgs = s.dev.objs.msgs ++ [(r, z.elem, z)]) ∧
      ((Tab.get 0 e.rctr k).toNat < thr.toNat → exec (.tsendFire r k) s = .next s)) ∧
    (nth? e.copies i = some c → copyRuns s r c = true → c.stop = none → nth? c.inPlace n = some (t, j, .glob pa, 8) → pa % 8 = 0 →
      t + 8 ≤ fullBelow c → s.dev.objs.feWait = [] → Tab.wfFrom false 0 s.dev.mmeta.empty = true →
      ∃ u, exec (.engineStep r (.full i n)) s = .next u ∧ u.mem = s.mem ∧
        ∀ w, Tab.get false u.dev.mmeta.empty w = if w = pa / 8 then false else Tab.get false s.dev.mmeta.empty w) ∧
    (up → nth? st.cover i = some (x, .glob pa, 0xFF) → s.dev.objs.feWait = [] → Tab.wfFrom false 0 s.dev.mmeta.empty = true →
      ∃ u, exec (.engineStep r (.cover n i)) s = .next u ∧ u.mem = s.mem ∧
        Tab.get {} (u.dev.core r).eng.streams n = { st with cover := dropAt st.cover i } ∧
        ∀ w, Tab.get false u.dev.mmeta.empty w = if w = pa / 8 then false else Tab.get false s.dev.mmeta.empty w)

/-- 03 R57 to R61: the slot arbiter gives the next free helper slot in the circle 1 to 10 to the winner of a weighted round
robin among the queues of the highest effective class with an eligible record whose masks include the core; a dispatcher
does the same among queues whose home serves and that some core of its die qualifies for, and sends the winner's oldest
eligible record as a task event; 1 ms without a dispatch promotes a queue. -/
def Obligations.SchedulerArbitrations : Prop :=
  ∀ (s : State) (r k i die : Nat),
    let c := s.dev.core r
    let o := s.dev.objs
    let old := c.eng.arbCredit
    let mine := fun q => maskHas o.mode q r
    let own := fun (n : Nat) (t : Slot) => { t with owner := some n }
    let order := coresAfter die (s.dev.die die).last
    let fits := fun q => !queueDown s.dev q && order.any (fun r => coreQualifies s.dev q r)
    o.dispatch = true → (o.queues.map (·.num)).Nodup →
    (∀ place q, q ∈ contenders o place ↔ Contends o place q) ∧
    (∀ q r, coreQualifies s.dev q r = true → ∃ x, q.recs.find? (·.eligible) = some x ∧ (s.dev.core r).running = true ∧
      maskHas o.mode q r = true ∧ (s.dev.coach (unitOf r)).final = false ∧
      bits (nth 0 x.words 0) 33 30 ≤ (upto 11).countP (fun j =>
        1 ≤ j && j ≤ 10 && ((s.dev.core r).slot j).life == .free && ((s.dev.core r).slot j).owner == some q.num) ∧
      (s.dev.core r).eng.events.length < 64) ∧
    (c.running = true → s.dev.engineUp r = true → (s.dev.coach (unitOf r)).final = false → i < 10 → k = (c.eng.arbLast + i) % 10 + 1 → (c.slot k).life = .free →
      (∀ j < i, (c.slot ((c.eng.arbLast + j) % 10 + 1)).life ≠ .free) →
      (contenders o mine = [] → exec (.slotArbitration r) s =
        .next { s with dev := s.dev.onEng r (fun e => { e with arbLast := k, arbCredit := [] }) }) ∧
      (contenders o mine ≠ [] → ∃ w credit, Wins (contenders o mine) (Tab.get 0 old) (Tab.get 0 credit) w ∧
        exec (.slotArbitration r) s = .next { s with dev :=
          (s.dev.onEng r (fun e => { e with arbLast := k, arbCredit := credit })).onSlot r k (own w.num) })) ∧
    ((s.dev.coach (unitOf r)).final = true → exec (.slotArbitration r) s = .next s) ∧
    (die < 8 → (s.dev.die die).failed = false → s.dev.plat.pfault = false →
      (contenders o fits = [] → exec (.dispatchArbitration die) s =
        .next { s with dev := s.dev.onDie die (fun h => { h with credit := [] }) }) ∧
      (contenders o fits ≠ [] → ∃ t w x c, Wins (contenders o fits) (Tab.get 0 (s.dev.die die).credit) (Tab.get 0 (t.dev.die die).credit) w ∧
        w.recs.find? (·.eligible) = some x ∧ order.find? (fun r => coreQualifies s.dev w r) = some c ∧
        exec (.dispatchArbitration die) s = .next t ∧ t.mem = s.mem ∧ (t.dev.die die).last = c % 256 ∧
        (t.dev.core c).eng.events = (s.dev.core c).eng.events ++ [(BitVec.ofNat 64 (2 ^ 60), BitVec.ofNat 64 x.node)] ∧
        (∀ r k, t.dev.slot r k = s.dev.slot r k) ∧
        (∀ q ∈ o.queues, q.num ≠ w.num → q ∈ t.dev.objs.queues) ∧
        ∃ u ∈ t.dev.objs.queues, u.num = w.num ∧ u.promo = 0 ∧
          u.since = (if u.recs.any (·.eligible) then some s.dev.now else none) ∧ u.recs = w.recs.filter (fun y => y.node != x.node) ∧
          u.out = w.out ++ [{ x with core := some c }])) ∧
    (∀ q ∈ o.queues, ∀ t0, q.since = some t0 → t0 + 1800000 ≤ s.dev.now →
      ∃ t, exec (.queuePromotion q.num) s = .next t ∧ t.mem = s.mem ∧ t.dev.cores = s.dev.cores ∧
        { q with promo := if q.cls + q.promo < 3 then q.promo + 1 else q.promo, since := some (t0 + 1800000) } ∈ t.dev.objs.queues)

/-- 11 R231 to R233, R229, R230, 24 R436, 03 R66: claim, offer and release commands are performed when their cycle ends, the
lowest port's claim first among those of one cycle; the loss of the owner's link or an I3C target reset releases ownership
and the debug enable; only the owner posts through the host window and arms host wakes, and a post disarms its queue's word;
at a queue whose home has failed, the die of its node pool's base by the model's choice (log 57), a post waits. The aperture
reaches leaves with host = 1 alone. -/
def Obligations.OwnershipAndHostWindow : Prop :=
  ∀ (s : State) (p t : BitVec 2) (q va n : Nat) (rec : List Word) (b : Byte) (leaf : Word) (level : Nat),
    let P := s.dev.plat
    let plat := fun (f : Plat → Plat) => (.next { s with dev := s.dev.onPlat f } : Out)
    let released := fun (x : Plat) => { x with owned := false, offered := false, epoch := x.epoch + 1 }
    let master := fun (n : BitVec 2) => n = 0 ∨ n = 3 ∨ (n = 1 ∧ P.cxlHost1 = true) ∨ (n = 2 ∧ P.cxlHost2 = true)
    let owns := P.owned = true ∧ P.owner = p
    let refused := plat (fun x => { x with refused := x.refused + 1 })
    let queued := fun (v : Word) => plat (fun x => { x with claims := x.claims ++ [(p.toNat, v)] })
    let heard := { P with claims := [] }
    let claimed := fun (n : BitVec 2) => { heard with owner := n, owned := true, offered := false, epoch := P.epoch + 1 }
    let wakes := fun (y : State) (w : Bool) => { y with dev := y.dev.onObjs (fun o => { o with queues := o.queues.map (fun (x : Queue) =>
      if x.num = q then { x with wake := w } else x) }) }
    let asid := (Config.hostAsid P.owner.toNat).toNat
    (master p → exec (.claim p) s = queued 0x100 ∧ exec (.offer p t) s = queued (BitVec.ofNat 64 (0x200 + 16 * t.toNat)) ∧
      exec (.release p) s = queued 0x300) ∧
    (¬master p → exec (.claim p) s = .next s ∧ exec (.offer p t) s = .next s ∧ exec (.release p) s = .next s) ∧
    (∀ n, (0 < n → (pass s.dev n).plat = settleClaims P ∧ (pass s.dev n).now = s.dev.now + n) ∧ (n = 0 → pass s.dev n = s.dev)) ∧
    (P.claims = [(p.toNat, 0x100)] →
      settleClaims P = if P.status = 6 ∧ (P.owned = false ∨ (P.offered = true ∧ P.target = p)) then claimed p else heard) ∧
    (∀ i : BitVec 2, P.claims = [(p.toNat, 0x100), (i.toNat, 0x100)] → P.status = 6 → P.owned = false →
      settleClaims P = claimed (if p.toNat ≤ i.toNat then p else i)) ∧
    (P.claims = [(p.toNat, BitVec.ofNat 64 (0x200 + 16 * t.toNat))] →
      settleClaims P = if owns ∧ t ≠ p ∧ master t then { heard with offered := true, target := t } else heard) ∧
    (P.claims = [(p.toNat, 0x300)] → settleClaims P = if owns then released heard else heard) ∧
    (owns → p ≠ 3 → exec (.ownerLinkDown p) s = plat (fun x => (released x).setDebug false)) ∧
    (¬owns → exec (.ownerLinkDown p) s = .next s) ∧
    (P.owned = true → P.owner = 3 → exec .i3cTargetReset s = plat (fun x => (released x).setDebug false)) ∧
    (master p → p ≠ 3 → owns → (∀ x ∈ s.dev.objs.queues, x.num = q → queueDown s.dev x = true) → (∃ x ∈ s.dev.objs.queues, x.num = q) →
      exec (.hostWindowPost p q rec) s = .next s) ∧
    (master p → p ≠ 3 → owns → (∀ x ∈ s.dev.objs.queues, x.num = q → queueDown s.dev x = false) → (enqueueRecord s false q none 0 rec).2 = 0 →
      exec (.hostWindowPost p q rec) s = .next (wakes (enqueueRecord s false q none 0 rec).1 false)) ∧
    (master p → p ≠ 3 → owns → exec (.hostWakeArm p q) s = .next (wakes s true) ∧ exec (.hostWakeDisarm p q) s = .next (wakes s false)) ∧
    (master p → p ≠ 3 → ¬owns → exec (.hostWindowPost p q rec) s = refused ∧ exec (.hostWakeArm p q) s = refused ∧
      exec (.hostWakeDisarm p q) s = refused) ∧
    (exec (.hostApertureAccess va n none) s = .next s) ∧
    (P.owned = true → va < 2 ^ 36 → walk s asid va = some (level, leaf) →
      (leafHost leaf = false → exec (.hostApertureAccess va 1 (some [b])) s = .next s) ∧
      (leafHost leaf = true → ∀ pa key, checks78 s.dev.objs asid va 1 false true level leaf = .ok (.glob pa) key →
        s.dev.objs.exists pa = true → s.lost (.glob pa) = false →
        ∃ t, exec (.hostApertureAccess va 1 (some [b])) s = .next t ∧ t.mem = (s.memAs pa 1 key).setBytes pa [b] ∧ t.dev.plat = s.dev.plat ∧
          t.dev.cores = s.dev.cores))

/-- 11 R233, R235, R241 to R243, R249, R250, 04 R82, 25 R447: who may write which control-space register, and what the written
commands do; a write that is not permitted is discarded, and counted where the manual says so. The supervisor runs from boot
step 5 on (R234), and a failed die's words take no write (24 R434). Which discarded writes go uncounted and which bits of a
word are kept (log 12), the refusals of core-load writes and what a start and a stop leave (log 39), when keys and scrub
passes take a write (log 41), and that a retraining counts at its start (log 44), are the model's readings where the rules
leave them open. -/
def Obligations.ControlSpaceWrites : Prop :=
  ∀ (s : State) (p : BitVec 2) (w : Writer) (off l : Nat) (v : Word) (entry : PcIx) (per : BitVec 8),
    let P := s.dev.plat
    let r := P.loadRank.toNat
    let c := s.dev.core r
    let plat := fun (f : Plat → Plat) => (.next { s with dev := s.dev.onPlat f } : Out)
    let core := fun (f : Core → Core) => (.next { s with dev := s.dev.onCore r f } : Out)
    let refused := plat (fun x => { x with refused := x.refused + 1 })
    let master := p = 0 ∨ p = 3 ∨ (p = 1 ∧ P.cxlHost1 = true) ∨ (p = 2 ∧ P.cxlHost2 = true)
    let owns := P.owned = true ∧ P.owner = p
    let key : KeySlot := Tab.get {} P.keys P.keySlot.toNat
    let staged := fun (x : Plat) => { key with refused := false, pending := some ((upto 8).map (fun j => Tab.get 0 x.stage j)) }
    let load := fun (c : Core) => { c with lmem := c.lmem.setBytes P.loadOff.toNat (bytesOf 4 (v.toNat % 2 ^ 32)) }
    let past := fun (x : Plat) => { x with loadOff := x.loadOff + 4 }
    let mail : BitVec 2 := Tab.get 0 P.mailState p.toNat
    let link := Tab.get {} s.dev.objs.links l
    (P.status.toNat < 5 → exec (.controlSpaceWrite .supervisor off v) s = .next s) ∧
    (5 ≤ P.status.toNat → P.status ≠ 15 → P.pfault = false → (s.dev.die (dieOf r)).failed = false →
    (∀ x, exec (.controlSpaceWrite w off x) s = .next (ctlWrite s (whoOf w) (off / 8 * 8) x)) ∧
    (exec (.controlSpaceWrite .supervisor 0x500 v) s = plat (fun x => { x with keySlot := v.setWidth 10 })) ∧
    (l < 64 → exec (.controlSpaceWrite .supervisor (0x600 + 8 * l) v) s =
      plat (fun x => x.setReg (0x600 + 8 * l) (w64 (fld (bits v 63 63) 63 + bits v 15 0)))) ∧
    (master → ¬owns → ∀ x, ctlDown s.dev (off / 8 * 8) = false → off / 8 * 8 ≠ 0x100 → ¬(0x800 ≤ off ∧ off < 0x1000) →
      exec (.controlSpaceWrite (.port p) off x) s = refused) ∧
    (master → ∀ x, exec (.coreLoadDataWrite (.port p) x) s = refused ∧ exec (.coreLoadBoundWrite (.port p) x) s = refused ∧
      exec (.coreStart (.port p) entry) s = refused ∧ exec (.coreStop (.port p)) s = refused ∧ exec (.keyStage (.port p)) s = refused ∧
      exec (.scrubStart (.port p) per) s = refused ∧ exec (.measurementExtend (.port p)) s = refused) ∧
    (c.running = true → exec (.coreLoadDataWrite .supervisor v) s = refused ∧ exec (.coreLoadBoundWrite .supervisor v) s = refused ∧
      exec (.coreStart .supervisor entry) s = refused) ∧
    (c.running = false →
      exec (.coreLoadDataWrite .supervisor v) s = .next { s with dev := (s.dev.onCore r load).onPlat past } ∧
      (v.toNat % 2 ^ 15 ≤ 21845 → exec (.coreLoadBoundWrite .supervisor v) s =
        core (fun c => { c with regs := { c.regs with xb := BitVec.ofNat 15 v.toNat } })) ∧
      (entry.toNat < c.regs.xb.toNat → exec (.coreStart .supervisor entry) s =
        core (fun c => { c with running := true, regs := { c.regs with started := s.dev.now },
                                slots := Tab.set c.slots 0 { life := .live, pc := entry } })) ∧
      (c.regs.xb.toNat ≤ entry.toNat → exec (.coreStart .supervisor entry) s = refused)) ∧
    ((∃ k, 1 ≤ k ∧ k ≤ 10 ∧ (c.slot k).life = .live) → exec (.coreStop .supervisor) s = refused) ∧
    ((∀ k, 1 ≤ k → k ≤ 10 → (c.slot k).life ≠ .live) → exec (.coreStop .supervisor) s =
      core (fun c => { regs := { agent := c.regs.agent } })) ∧
    (P.scrubBusy = false → exec (.keyStage .supervisor) s = plat (fun x => { x with keys := Tab.set x.keys x.keySlot.toNat (staged x) })) ∧
    (P.scrubBusy = true → ∃ t, exec (.keyStage .supervisor) s = .next t ∧
      (Tab.get {} t.dev.plat.keys P.keySlot.toNat : KeySlot) = { key with refused := true }) ∧
    (P.scrubBusy = false → 6 ≤ per.toNat → per.toNat ≤ 168 → ∃ t, exec (.scrubStart .supervisor per) s = .next t ∧ t.mem = s.mem ∧
      t.dev.plat.scrubBusy = true ∧ t.dev.plat.passPeriod = per ∧ ∀ i k, (i, k) ∈ P.keys → ∃ k', (i, k') ∈ t.dev.plat.keys ∧
        k'.pending = none ∧ ∀ x, k.pending = some x → k'.key = x ∧ k'.ver = k.ver + 1 ∧ k'.prev = some k.ver ∧ k'.prevKey = k.key) ∧
    (P.scrubBusy = true ∨ per.toNat < 6 ∨ 168 < per.toNat → exec (.scrubStart .supervisor per) s = .next s) ∧
    exec (.measurementExtend .supervisor) s = plat (fun x => { x with meas := Tab.set x.meas 2 (sha384
      (Tab.get (List.replicate 48 0) x.meas 2 ++ (upto 6).flatMap (fun i => bytesOf 8 (Tab.get (0 : Word) x.ext i).toNat))) }) ∧
    (master → mail ≠ 1 → exec (.attestationRequest p) s = plat (fun x => { x with mailState := Tab.set x.mailState p.toNat 1 })) ∧
    (master → mail = 1 → exec (.attestationRequest p) s = .next s) ∧
    (master → owns → exec (.debugEnableWrite (.port p) v) s = plat (fun x => x.setDebug (v = 1))) ∧
    (master → ¬owns → exec (.debugEnableWrite (.port p) v) s = refused) ∧
    (exec (.debugEnableWrite .supervisor v) s = refused) ∧
    (l < 14 → (master ∧ owns → exec (.linkRetrain (.port p) l) s = .next { s with dev := retrain s.dev l }) ∧
      (master → ¬owns → exec (.linkRetrain (.port p) l) s = refused) ∧
      (Tab.get {} (retrain s.dev l).objs.links l : Link) =
        { link with state := 1, wide := true, since := s.dev.now, retrains := satByte link.retrains }) ∧
    (master → owns → exec (.recoveryGo p) s = .next s))

/-- 11 R246, R247: reclaiming a bind-table entry, at once or once its sub-blocks are safe, and the refusals and the restore of a
die save. -/
def Obligations.ReclaimsAndDieSaves : Prop :=
  ∀ (s : State) (v : Word),
    let P := s.dev.plat
    let r := bits v 10 0
    let e := bits v 15 11
    let b := Tab.get {} (s.dev.core r).eng.bind e
    let die := bits v 2 0
    let base := bits v 43 20 * 2 ^ 20
    5 ≤ P.status.toNat → P.status ≠ 15 →
    (P.reclaimBusy = true → exec (.bufferReclaim .supervisor v) s = .next s) ∧
    (P.reclaimBusy = false → v.getLsbD 63 = true → b.mode ≠ 0 ∨ (s.dev.die (dieOf r)).failed = true →
      exec (.bufferReclaim .supervisor v) s = .next { s with dev := s.dev.onPlat (fun x =>
        { x with reclaim := v.setWidth 16, reclaimRefused := true }) }) ∧
    (P.reclaimBusy = false → v.getLsbD 63 = true → b.mode = 0 → (s.dev.die (dieOf r)).failed = false → isLast s.dev.objs r e b = false →
      b.gpeer = none →
      exec (.bufferReclaim .supervisor v) s = .next { s with dev := (s.dev.onPlat (fun x =>
        { x with reclaim := v.setWidth 16, reclaimRefused := false })).onEng r (fun x => { x with bind := Tab.set x.bind e {} }) }) ∧
    (P.reclaimBusy = false → v.getLsbD 63 = true → b.mode = 0 → (s.dev.die (dieOf r)).failed = false →
      (isLast s.dev.objs r e b = true ∨ (∃ p, b.gpeer = some p) ∧ b.valid = true ∧ b.epoch ≠ 0xFFFF) →
      ∃ t, exec (.bufferReclaim .supervisor v) s = .next t ∧ t.mem = s.mem ∧ t.dev.plat.reclaimBusy = true ∧
        Tab.get {} (t.dev.core r).eng.bind e = b) ∧
    (P.dieOp ≠ none ∨ base = 0 ∨ (s.dev.die die).halted = true ∨ (s.dev.die die).failed = true ∨ P.pfault = true →
      exec (.dieSave .supervisor v) s = .next { s with dev := s.dev.onPlat (fun x => { x with dieRefused := true }) } ∧
      exec (.dieRestore .supervisor v) s = .next { s with dev := s.dev.onPlat (fun x => { x with dieRefused := true }) }) ∧
    (P.dieOp = none → base ≠ 0 → (s.dev.die die).halted = false → (s.dev.die die).failed = false → P.pfault = false →
      (∀ n, n < 256 → ∀ k, 1 ≤ k → k ≤ 10 → (s.dev.slot (die * 256 + n) k).life = .free) → s.mem.wf = true →
      (∃ t, exec (.dieRestore .supervisor v) s = .next t ∧ t.dev.plat.dieRefused = false ∧
        ∀ n, n < 256 → ∀ a, (s.dev.core (die * 256 + n)).regs.xb.toNat * 12 ≤ a → a < 0x40000 →
          (∀ k, 1 ≤ k → k ≤ 10 → (s.mem.word (base + n * 0x100000 + 0x40000 + (k - 1) * 0x10000 + 48)).getLsbD 63 = false) →
          (s.dev.core (die * 256 + n)).lmem.wf = true →
          (t.dev.core (die * 256 + n)).lmem.read a = s.mem.read (base + n * 0x100000 + a)) ∧
      ∃ t, exec (.dieSave .supervisor v) s = .next t ∧ t.dev.plat.dieRefused = false ∧
        (saveReady s.dev ⟨true, base, die⟩ = true → ∀ n, n < 256 → ∀ a, a < 0x40000 →
          t.mem.read (base + n * 0x100000 + a) = (s.dev.core (die * 256 + n)).lmem.read a))

/-- 11 R230, R234 to R237, R239, R241, R248, R250, 24 R432, R434, R435, R438, 08 R182: the steps of boot and reset, a recovery
in status 15, a served report, power capping and ageing, the test access port, the debug port and the failure of a die. That
recovery-go checks the image at once and resets the device in the same step, that boot takes one step per status, that the
debug port says when slot 14 has no more work, when the fused minimum rises, and what of a failed die's units stays are the
model's choices (logs 8, 41, 42, 57). -/
def Obligations.BootPowerAndDebug : Prop :=
  ∀ (s : State) (bad c1 c2 o10 o1 up : Bool) (far : FarTier) (p : BitVec 2) (u need next n r : Nat) (pc : PcIx),
    let P := s.dev.plat
    let plat := fun (f : Plat → Plat) => (.next { s with dev := s.dev.onPlat f } : Out)
    let c := s.dev.coach u
    let rom := exec (.reset .rom bad ⟨c1, c2, far⟩) s
    let rises := up = true ∨ (o10 = true ∧ P.over10 = false) ∨ (o1 = true ∧ P.over1s = false)
    let report := Mem.bytes P.mailbox (0x200 * p.toNat) 48 ++ (List.range 4).flatMap (measOf P) ++ bytesOf 8 P.epoch.toNat ++
      (List.range 16).map Config.serialByte
    let signed := report ++ (bytesOf 96 (Config.attestSign report).toNat).reverse
    let held := fun (c : Coach) => { c with need := BitVec.ofNat 8 need, volt := 150, final := true }
    let moved := fun (c : Coach) => { c with
      need := BitVec.ofNat 8 next, volt := BitVec.ofNat 8 (min next (c.volt.toNat + 15)), exhausted := true, abin := c.abin + 1 }
    let posted := fun (k : Nat) (x : Plat) => { x with posts := x.posts ++ [(k, u)] }
    (∃ t, exec (.reset .start bad ⟨c1, c2, far⟩) s = .next t ∧ t.mem = [] ∧ t.dev.cores = [] ∧ t.dev.plat.owned = false ∧
      t.dev.plat.epoch = 0 ∧ t.dev.plat.status = 1 ∧ t.dev.plat.image = P.image ∧ t.dev.plat.minVersion = P.minVersion) ∧
    (P.status = 1 → rom = plat (fun x => { x with status := if bad then 15 else 2 })) ∧
    (P.status = 2 → rom = plat (fun x =>
      { x with status := if bad = true ∨ P.flashBad = true ∨ imageVerdict P P.image ≠ 0 then 15 else 3 })) ∧
    (P.status = 3 → ∃ t, rom = .next t ∧ t.mem = s.mem ∧ t.dev.plat.status = 4 ∧ t.dev.plat.cxlHost1 = c1 ∧ t.dev.plat.cxlHost2 = c2 ∧
      measOf t.dev.plat 0 = sha384 (measOf P 0 ++ bytesOf 48 (Config.imageDigest P.image).toNat) ∧
      measOf t.dev.plat 1 = sha384 (measOf P 1 ++ bytesOf 48 (Config.strapDigest P.minVersion).toNat)) ∧
    (P.status = 4 → ∃ t, rom = .next t ∧ t.mem = [] ∧ t.dev.mmeta = {} ∧ t.dev.plat.status = 5 ∧
      t.dev.objs.farLp6 = (far != .cxl) ∧ t.dev.objs.farCxl = (far != .lp6)) ∧
    (5 ≤ P.status.toNat → rom = .next s) ∧
    (P.status = 15 →
      (imageVerdict P (some P.recovery) = 0 → ∃ t, exec (.recoveryGo 0) s = .next t ∧ t.mem = [] ∧ t.dev.cores = [] ∧
        t.dev.plat.status = 1 ∧ t.dev.plat.owned = false ∧ t.dev.plat.image = some P.recovery ∧ t.dev.plat.flashBad = false ∧
        t.dev.plat.minVersion = P.minVersion) ∧
      (imageVerdict P (some P.recovery) ≠ 0 →
        exec (.recoveryGo 0) s = plat (fun x => { x with failing := imageVerdict P (some P.recovery) })) ∧
      (isMaster P p.toNat = true → p ≠ 0 → exec (.recoveryGo p) s = plat (fun x => { x with refused := x.refused + 1 }))) ∧
    (∃ t, exec (.powerLoss c1) s = .next t ∧ t.mem = [] ∧ t.dev.cores = [] ∧ t.dev.plat.status = 1 ∧
      t.dev.plat.flashBad = (P.flashBad || (c1 && decide (P.status = 15)))) ∧
    (P.status = 5 → 2048 ≤ (s.dev.cores.filter (fun c => c.2.running)).length → exec .bootReady s = plat (fun x =>
      { x with status := 6, minVersion := max x.minVersion (Config.imageVersion x.image) })) ∧
    (P.status = 6 → Tab.get 0 P.mailState p.toNat = 1 → ∃ t, exec (.attestationReportReady p) s = .next t ∧
      Tab.get 0 t.dev.plat.mailState p.toNat = 2 ∧ (Mem.wf P.mailbox = true → ∀ i < signed.length,
        Mem.read t.dev.plat.mailbox (0x200 * p.toNat + 0x40 + i) = signed.getD i 0)) ∧
    (exec (.powerCapRaise ⟨o10, o1⟩ up) s = plat (fun x => { x with
      over10 := o10, over1s := o1, cap := if rises then (if x.cap = 6 then 6 else x.cap + 1) else x.cap,
      capSince := if rises ∧ x.cap = 5 then s.dev.now else x.capSince })) ∧
    exec .powerCapLower s = plat (fun x => { x with over10 := false, over1s := false, cap := if x.cap = 0 then 0 else x.cap - 1 }) ∧
    (P.cap = 6 → P.over10 = true ∨ P.over1s = true → P.capSince + 36000000 ≤ s.dev.now →
      ∃ t, exec .powerFault s = .next t ∧ t.mem = s.mem ∧ t.dev.plat = { P with pfault := true } ∧
        (∀ i, (t.dev.coach i).step = none) ∧ ∀ i k, (t.dev.slot i k).life = .free ∧ issuable t.dev i k = false) ∧
    (u < 256 → c.volt.toNat ≤ 150 →
      (need ≤ 150 → exec (.ageingSample u need next) s = .next { s with dev := s.dev.onCoach u (fun c => { c with
        need := BitVec.ofNat 8 need, volt := BitVec.ofNat 8 (min need (c.volt.toNat + 15)) }) }) ∧
      (150 < need → need < 256 → c.abin = 6 → c.final = false → exec (.ageingSample u need next) s =
        .next { s with dev := (s.dev.onCoach u held).onPlat (posted 5) }) ∧
      (150 < need → c.abin ≠ 6 → next ≤ 150 → exec (.ageingSample u need next) s =
        .next { s with dev := (s.dev.onCoach u moved).onPlat (posted 4) })) ∧
    (exec .tapBypass s = plat (fun x => { x with jtag := 0, idcode := none }) ∧
      exec .tapSamplePreload s = plat (fun x => { x with jtag := 1, idcode := none }) ∧
      exec .tapExtest s = plat (fun x => { x with jtag := 2, idcode := none }) ∧
      exec .tapIdcode s = plat (fun x => { x with jtag := 3, idcode := some 0x1A0805A7 })) ∧
    (P.debug = true → n < 8 →
      (∃ t, exec (.debugHaltDie n) s = .next t ∧ t.mem = s.mem ∧ t.dev.plat = P ∧
        (∀ i, t.dev.die i = if i = n then { s.dev.die n with halted := true } else s.dev.die i) ∧
        ∀ r k, t.dev.slot r k = if dieOf r = n then (s.dev.slot r k).abort 6 0 else s.dev.slot r k) ∧
      ∃ t, exec (.debugResumeDie n) s = .next t ∧ t.mem = s.mem ∧ t.dev.plat = P ∧
        (∀ i, t.dev.die i = if i = n then { s.dev.die n with halted := false } else s.dev.die i) ∧
        (∀ r, dieOf r = n → (t.dev.core r).eng.dq = ((s.dev.core r).eng.dq.filter (fun x =>
          !(x.unjudged && dcallBad (s.dev.core r) x.pc.toNat x.domain.toNat))).map (fun x => { x with unjudged := false })) ∧
        ((∀ r, dieOf r = n → ∀ x ∈ (s.dev.core r).eng.dq, x.unjudged = false) → ∀ r k, t.dev.slot r k = s.dev.slot r k)) ∧
    (P.debug = true → r < 2048 → s.dev.engineUp r = true →
      (serviceIdle (s.dev.slot r 14) = true → ∃ t, exec (.debugPortWork r (some pc)) s = .next t ∧
        (t.dev.slot r 14).life = .live ∧ (t.dev.slot r 14).pc = pc ∧ ∀ q k, ¬(q = r ∧ k = 14) → t.dev.slot q k = s.dev.slot q k) ∧
      ((s.dev.slot r 14).life = .live → ∃ t, exec (.debugPortWork r none) s = .next t ∧
        (t.dev.slot r 14).life = .free ∧ ∀ q k, ¬(q = r ∧ k = 14) → t.dev.slot q k = s.dev.slot q k)) ∧
    (P.debug = false → exec (.debugHaltDie n) s = .next s ∧ exec (.debugResumeDie n) s = .next s ∧
      ∀ x, exec (.debugPortWork r x) s = .next s) ∧
    (n < 10 → ∃ t, exec (.dieFailure n) s = .next t ∧ t.mem = s.mem ∧ t.dev.plat.posts = P.posts ++ [(6, n)] ∧
      (dieStatus t.dev).getLsbD n = true ∧ (n < 8 → ∀ r k, dieOf r = n → (t.dev.slot r k).life = .free) ∧
      (n < 8 → ∀ i, i / 32 = n → (t.dev.coach i).step = none) ∧ ∀ r k, dieOf r ≠ n → t.dev.slot r k = s.dev.slot r k)

/-- 04 R86, R91, 22 R414, R415, R417 to R419, 11 R243: a scrub visit, once in a pass, rewrites its line under the write version
or leaves it zero and poisoned; a pass ends once every line of the configured nodes has been visited, those that are lost
apart; a failing remap entry is held, reloaded or lost; a core's failed banks and corrected words stand in `ctl.lmstat`; CXL
units record their port. That lost lines are not visited, how the hardware comes to mark a bank (log 40), when a pass ends
(log 41), and which uses keep a CXL extent (log 45), are the model's choices. -/
def Obligations.MemoryUpkeep : Prop :=
  ∀ (s : State) (line die bg r bank unit n : Nat) (found : BitVec 2) (p : BitVec 2),
    let P := s.dev.plat
    let pa := 64 * line
    let k := Tab.get 1024 s.dev.mmeta.key line
    let ver := (Tab.get {} P.keys k : KeySlot).ver
    let at_ := Tab.get 0 s.dev.mmeta.kver line
    let whole := Tab.get false s.dev.mmeta.tagBad line = false ∧
      (k = 1024 ∨ at_ = ver ∨ (Tab.get {} P.keys k : KeySlot).prev = some at_)
    let fresh := fun (t : State) => k ≠ 1024 → Tab.get 0 t.dev.mmeta.kver line = ver ∧ Tab.get false t.dev.mmeta.tagBad line = false
    let h := s.dev.die die
    let w := (s.dev.core r).regs.lmstat
    let off := P.reg 0x3000
    let entry := fun (h : Die) => { h with remap := Tab.set h.remap bg 0 }
    (P.scrubBusy = true → s.dev.objs.exists pa = true → s.heldBank (.glob pa) = false → s.lost (.glob pa) = false → off = 0 →
      (∀ e ∈ P.visited, ¬(e.1 ≤ line ∧ line < e.2)) →
      s.mem.wf = true →
      (whole → found.toNat ≤ 1 → ∃ t, exec (.scrubVisit line found) s = .next t ∧ t.mem = s.mem ∧
        fresh t ∧ t.dev.mmeta.poison = s.dev.mmeta.poison ∧
        t.dev.plat.reg 0x3018 = P.reg 0x3018 + if found = 1 then 1 else 0) ∧
      (¬whole ∨ 2 ≤ found.toNat → ∃ t, exec (.scrubVisit line found) s = .next t ∧ fresh t ∧
        Tab.get false t.dev.mmeta.poison line = true ∧ (∀ a, t.mem.read a = if pa ≤ a ∧ a < pa + 64 then 0 else s.mem.read a) ∧
        t.dev.plat.reg 0x3018 = P.reg 0x3018 + 1)) ∧
    (let done := fun l => (∃ e ∈ P.visited, e.1 ≤ l ∧ l < e.2) ∨ s.lost (.glob (64 * l)) = true
     (P.scrubBusy = true → P.visited.Pairwise (fun a b => a.2 ≤ b.1) → (∀ e ∈ P.visited, e.1 ≤ e.2) →
        (∀ m ∈ configuredLines s.dev.objs, ∀ l, m.1 ≤ l → l < m.2 → done l) →
        exec .scrubPassEnd s = .next { s with dev := s.dev.onPlat (fun x => { x with scrubBusy := false, posts := x.posts ++ [(3, 0)] }) }) ∧
      ((∃ m ∈ configuredLines s.dev.objs, ∃ l, m.1 ≤ l ∧ l < m.2 ∧ ¬done l) → exec .scrubPassEnd s = .next s)) ∧
    (die < 8 → bg < 256 → h.failed = false → Tab.get 0 h.remap bg ≠ 2 →
      exec (.remapEntryFail die bg true) s = .next { s with dev := s.dev.onDie die (fun h => { h with remap := Tab.set h.remap bg 1 }) } ∧
      ∃ t, exec (.remapEntryFail die bg false) s = .next t ∧ Tab.get 0 (t.dev.die die).remap bg = 2) ∧
    (Tab.get 0 h.remap bg = 1 → off = 0 → exec (.remapReload die bg) s =
      .next { s with dev := ({ s.dev.onDie die entry with free := s.dev.free + 1 } : Dev).setReg 0x3018 (P.reg 0x3018 + 1) }) ∧
    (r < 2048 → bank < 18 →
      (w.getLsbD 5 = false → ∃ t, exec (.localBankMarkFailed r (.mark bank)) s = .next t ∧
        bits (t.dev.core r).regs.lmstat 5 0 = 32 + bank ∧ (t.dev.core r).lmem = (s.dev.core r).lmem) ∧
      (w.getLsbD 5 = true → w.getLsbD 11 = false → bits w 4 0 ≠ bank → ∃ t, exec (.localBankMarkFailed r (.mark bank)) s = .next t ∧
        bits (t.dev.core r).regs.lmstat 11 0 = 2048 + 64 * bank + bits w 5 0 ∧ (t.dev.core r).lmem = (s.dev.core r).lmem) ∧
      (w.getLsbD 5 = true → w.getLsbD 11 = true → bits w 4 0 ≠ bank → bits w 10 6 ≠ bank →
        ∃ t, exec (.localBankMarkFailed r (.mark bank)) s = .next t ∧ (t.dev.core r).regs = (s.dev.core r).regs ∧
          ∀ i < 32768, i % 16 = bank → Tab.get false (t.dev.core r).lpoison i = true)) ∧
    (r < 2048 → (∃ t, exec (.localBankMarkFailed r (.corrected n)) s = .next t ∧ t.mem = s.mem ∧
        bits (t.dev.core r).regs.lmstat 63 32 = min 0xFFFFFFFF (bits w 63 32 + n) ∧ bits (t.dev.core r).regs.lmstat 31 0 = bits w 31 0) ∧
      (line < 32768 → ∃ t, exec (.localBankMarkFailed r (.uncorrectable line)) s = .next t ∧ t.mem = s.mem ∧
        Tab.get false (t.dev.core r).lpoison line = true)) ∧
    (s.dev.objs.farCxl = true → (p = 1 ∧ P.cxlHost1 = false) ∨ (p = 2 ∧ P.cxlHost2 = false) → unit + n ≤ 32768 →
      (∀ i < n, Tab.get 0 s.dev.objs.cxl (unit + i) = 0) → ∃ t, exec (.cxlExtentAccept p unit n) s = .next t ∧ t.mem = s.mem ∧
        ∀ i, Tab.get 0 t.dev.objs.cxl i = if unit ≤ i ∧ i < unit + n then p.toNat else Tab.get 0 s.dev.objs.cxl i) ∧
    (let lo := 2 ^ 42 + unit * 2 ^ 27
     let hi := 2 ^ 42 + (unit + n) * 2 ^ 27
     (targets s lo hi = true ∨ migTargets s lo hi = true → exec (.cxlExtentRelease unit n) s = .next s) ∧
     (targets s lo hi = false → migTargets s lo hi = false → ∃ t, exec (.cxlExtentRelease unit n) s = .next t ∧
       ∀ i, Tab.get 0 t.dev.objs.cxl i = if unit ≤ i ∧ i < unit + n then 0 else Tab.get 0 s.dev.objs.cxl i))

/-- 04 R88, 13 R295, 11 R244, 22 R420: a migration engine answers its oldest request with the status of 13 R295, moves the page
to a free frame with its bytes and its leaf entry, its cached translations dropped and its requests redirected, or aborts
before the leaf is rewritten, whether a line of the new frame cannot be written or its write meets an uncorrectable error;
its own policy asks to promote a far page above the threshold. Which engine serves a request and that the leaf stands for
the move as a whole are the model's choices (logs 12, 32, 43). -/
def Obligations.MigrationsMovePages : Prop :=
  ∀ (s s1 : State) (tn : MigTurn) (f frame a count page : Nat) (m : Mig) (rest : List Mig) (level : Nat) (leaf : Word),
    let o := s.dev.objs
    let old := leafBase leaf
    let n := 2 ^ pageShift level
    let e := leafAt s m.asid m.va
    let free := s.dev.plat.reg (frameList (nodeOf old) level)
    let told := fun (t : State) (st : Nat) => exec (.migration tn) s = .next t ∧ t.dev.objs.migs = rest ∧
      (m.byPolicy = false → (s.dev.slot m.rank m.slot).parked = some .service → m.rank < 2048 → m.slot < 16 →
        (t.dev.slot m.rank m.slot).xr m.dst = (if m.dst = 0 then 0 else BitVec.ofNat 64 st) ∧
        (t.dev.slot m.rank m.slot).pc = (s.dev.slot m.rank m.slot).pc + 1 ∧ (t.dev.slot m.rank m.slot).parked = none)
    let only := fun (st : Nat) => ∃ t, told t st ∧ t.mem = s.mem ∧ t.dev.mmeta = s.dev.mmeta
    let far := page / 2 ^ 33
    let va := page % 2 ^ 33 * 2 ^ 16
    let pol := s.dev.plat.reg (0x560 + 8 * f)
    (o.migs = m :: rest → walk s m.asid m.va = some (level, leaf) → migServes s tn.engine m = true → walkHeld s m.asid m.va = false →
      (level = 0 ∨ m.va % n ≠ 0 → only 2) ∧
      (level ≠ 0 → m.va % n = 0 →
        (nodeConfigured o m.node = false → only 3) ∧
        (nodeConfigured o m.node = true →
          (nodeOf old = m.node → only 0) ∧
          (nodeOf old ≠ m.node →
            (guardIn o old n = true → only 1) ∧
            (guardIn o old n = false → pageHeld s old n = false →
              (takeFrame s m.node level = none → only 3) ∧
              (takeFrame s m.node level = some (s1, frame) → o.exists frame = true → pageHeld s frame n = false →
                (badWrite s1 tn frame n = none →
                  (∃ t, told t 0 ∧ (∀ r k, (t.dev.slot r k).flow.bag = (s.dev.slot r k).flow.bag.map (Req.follow old frame n) ∧
                      (t.dev.slot r k).flow.posted = (s.dev.slot r k).flow.posted.map (Req.follow old frame n)) ∧
                    (∀ r, ∀ x ∈ (t.dev.core r).eng.tlb, ¬(x.asid = m.asid ∧ x.level = level ∧ x.page = m.va / n)) ∧
                    (free = 0 → s1.mem.wf = true → (e + 8 ≤ frame ∨ frame + n ≤ e) →
                      (∀ b < n, t.mem.read (frame + b) = s1.mem.read (old + b)) ∧
                      (frame % 2 ^ 14 = 0 → frame < 2 ^ 44 → leafBase (t.mem.word e) = frame)))) ∧
                (badWrite s1 tn frame n = some a → s.dev.plat.reg 0x3000 = 0 →
                  ∃ t, told t 4 ∧ t.dev.plat.reg 0x3018 = s.dev.plat.reg 0x3018 + 1 ∧ t.dev.mmeta.poison = s.dev.mmeta.poison ∧
                    t.dev.mmeta.empty = s.dev.mmeta.empty))))))) ∧
    (o.migs = [] → exec (.migration tn) s = .next s) ∧
    (walk s far va = some (level, leaf) →
      (f < 2 → pol.getLsbD 63 = true → bits pol 31 0 < count → level ≠ 0 → nodeOf old ≠ 0 → engineFrame o f old = true → s.dev.dieDown (8 + f) = false →
        guardIn o old n = false → (takeFrame s 0 level).isSome = true → (∀ x ∈ o.migs, ¬(x.asid = far ∧ x.va = va / n * n)) →
        exec (.migrationSample f page count) s = .next { s with dev := s.dev.onObjs (fun o =>
          { o with migs := o.migs ++ [⟨far, va / n * n, 0, 0, 0, 0, true⟩] }) }) ∧
      (pol.getLsbD 63 = false ∨ count ≤ bits pol 31 0 → exec (.migrationSample f page count) s = .next s))

/-- 10 R228, 25 R440, R443 to R447: replays are counted; 16 of them within 100 µs, or a lane lost on a 16-lane link, retrain it;
a training ends at 16 lanes, at the whole half or in failure; a neighbour's half-router that lost power fails the link to
it. Of a link that has failed no flit stays to be acknowledged, which is the model's choice (log 44). -/
def Obligations.LinksRetrainAndFail : Prop :=
  ∀ (s : State) (l lane peer : Nat) (bad : BitVec 16) (col : Bool),
    let now := s.dev.now
    let k : Link := Tab.get {} s.dev.objs.links l
    let up := (k.state = 2 ∨ k.state = 3) ∧ (if l < 7 then s.dev.plat.farFailed0 else s.dev.plat.farFailed1) = false
    let within := k.recent.filter (fun t => now < t + 180000)
    let becomes := fun (i : Instr) (x : Link) (events : List (Nat × Nat)) => ∃ t, exec i s = .next t ∧ t.mem = s.mem ∧
      t.dev.cores = s.dev.cores ∧ (Tab.get {} t.dev.objs.links l : Link) = x ∧
      (∀ j, j ≠ l → (Tab.get {} t.dev.objs.links j : Link) = Tab.get {} s.dev.objs.links j) ∧
      t.dev.plat.posts = s.dev.plat.posts ++ events ∧ t.dev.objs.fabric = s.dev.objs.fabric
    let training := { k with state := 1, since := now, retrains := if k.retrains = 255 then 255 else k.retrains + 1, recent := [] }
    let marks := if k.wide then bad else k.lanefail ||| bad
    let trained := fun (st : BitVec 3) => { k with state := st, lanefail := marks, wide := false, far := BitVec.ofNat 8 (linkFar s.dev l),
                                                   acked := if st = 4 then k.txseq else k.acked }
    let gone := { k with state := 4, wide := false, acked := k.txseq }
    let none := ∀ f ∈ s.dev.objs.fabric, f.stage = 0
    let low := (upto 8).any (fun i => marks.getLsbD i)
    let high := (upto 8).any (fun i => marks.getLsbD (8 + i))
    let used := if k.state = 2 then lane < 16 else if k.lanefail.toNat % 256 = 0 then lane < 8 else 8 ≤ lane ∧ lane < 16
    l < 14 →
    (up → becomes (.flitReplay l)
      { k with replays := if k.replays = 0xFFFF then 0xFFFF else k.replays + 1, recent := (now :: within).take 16 } []) ∧
    (up → 16 ≤ within.length → becomes (.replayThreshold l) training [(7, l)]) ∧
    (up → within.length < 16 → exec (.replayThreshold l) s = .next s) ∧
    (up → used → k.state = 2 → becomes (.laneLoss l lane) training [(7, l)]) ∧
    (up → used → k.state = 3 → none → becomes (.laneLoss l lane) gone [(7, l)]) ∧
    (up → ¬used → exec (.laneLoss l lane) s = .next s) ∧
    (k.state = 1 → now ≤ k.since + 180000 → none → becomes (.linkTrainingDone l bad)
      (trained (if low = false ∧ high = false then 2 else if low = false ∨ high = false then 3 else 4)) [(7, l)]) ∧
    (k.state = 1 → k.since + 180000 ≤ now → none → becomes (.linkTrainingTimeout l) gone [(7, l)]) ∧
    (k.state = 1 → now < k.since + 180000 → exec (.linkTrainingTimeout l) s = .next s) ∧
    (linkTo s.dev peer = some l → (decide (l < 7) = !col) → k.state ≠ 4 → none →
      becomes (.routerPowerLoss peer col) gone [(7, l)])

/-- 10 R225 to R228, 25 R440, R441, R443, R444, R451, R452, 04 R96, 11 R245: the source port sends a request over a usable route
or answers it with a notice; a response, a notice or the failure of a device on the route ends a load with its value or with
0x48 at the next boundary; a peer's packet whose check fails does nothing, and a word that its engine writes whole is set
full; no more than 2,048 flits of a link go unacknowledged, the next router's custody acknowledges a packet, and a packet
that waits on a link that fails becomes a notice of reason 1; drags fall and recover. Which moment is an acknowledgement,
the link that a response takes, what an occupancy measures, and the announcement of far links are the model's choices (logs
7, 44, 57). -/
def Obligations.PacketsCarryAndAnswer : Prop :=
  ∀ (s : State) (i occ link src va pa key n p queue : Nat) (f : FReq) (route : List Nat) (mark : Bool) (bs : List Byte) (notice : Byte)
    (op : PacketOp) (a : Answer),
    let o := s.dev.objs
    let q := f.req
    let t0 := q.target
    let routes := routesTo s.dev t0
    let flow := (s.dev.slot f.rank f.slot).flow
    let answered := fun (x : Instr) (v : RetVal) => ∃ t, exec x s = .next t ∧ t.mem = s.mem ∧ t.dev.objs.fabric = dropAt o.fabric i ∧
      (t.dev.slot f.rank f.slot).flow.rets = flow.rets ++ [⟨q, v⟩] ∧
      (∀ r k, ¬(r = f.rank ∧ k = f.slot) → t.dev.slot r k = s.dev.slot r k) ∧ t.dev.plat = s.dev.plat
    let lost := fun (b : Byte) => RetVal.defer 0x48 q.ptr (BitVec.ofNat 32 (b.toNat * 2 ^ 16 + q.elem))
    let best := (minimal o.peerSelf.toNat t0).filter (routeOk s.dev o.peerSelf.toNat)
    let rank := routeRank s.dev (occupancy occ)
    let first := (linkTo s.dev (route.head?.getD t0)).getD 0
    let cable : Link := Tab.get {} o.links first
    let drag : Nat × Nat := Tab.get (1, 0) o.drags p
    let slow : Nat × Nat := Tab.get (1, 0) o.drags t0
    let far : Nat × Nat := (min src va, max src va)
    let out : Link := Tab.get {} o.links (f.link s.dev)
    nth? o.fabric i = some f → f.rank < 2048 → f.slot < 16 → q.kind < 5 → q.op = .load n false → q.elem < 256 → 1 ≤ n → n ≤ 8 →
    (f.stage = 0 → (∀ g ∈ o.fabric.take i, sameOrder f g = false) →
      (chooseRoute s.dev (occupancy occ) t0 = some route → linkRoom cable (flits q.op) = false → exec (.packetCustody i occ) s = .next s) ∧
      (chooseRoute s.dev (occupancy occ) t0 = some route → linkRoom cable (flits q.op) = true →
        (route ∈ routes ∧ (best ≠ [] → route ∈ best ∧ ∀ x ∈ best, rankLt (rank x) (rank route) = false) ∧
          (best = [] → ∀ x ∈ routes, rankLt (rank x) (rank route) = false)) ∧
        ∃ t, exec (.packetCustody i occ) s = .next t ∧ t.mem = s.mem ∧ t.dev.cores = s.dev.cores ∧
          (∃ g, nth? t.dev.objs.fabric i = some g ∧ g.req = q ∧ g.route = route ∧ g.stage = 1 ∧ g.marked = decide (best = [])) ∧
          (Tab.get {} t.dev.objs.links first : Link) = { cable with txseq := cable.txseq + BitVec.ofNat 12 (flits q.op) }) ∧
      (routes = [] → answered (.packetCustody i occ) (lost (if o.knownDown.contains t0 then 0x31 else 0x21)))) ∧
    (f.stage = 1 → linkUp s.dev (f.link s.dev) = true → ∃ t g, exec (.packetCustody i occ) s = .next t ∧ t.mem = s.mem ∧
      t.dev.cores = s.dev.cores ∧ nth? t.dev.objs.fabric i = some g ∧ g = { f with stage := 2 } ∧
      (Tab.get {} t.dev.objs.links (f.link s.dev) : Link) = { out with acked := out.acked + BitVec.ofNat 12 (flits q.op) }) ∧
    (f.stage = 1 → linkUp s.dev (f.link s.dev) = false → exec (.packetCustody i occ) s = .next s) ∧
    (f.stage = 2 → ∃ t g, exec (.packetCustody i occ) s = .next t ∧ t.mem = s.mem ∧ t.dev.cores = s.dev.cores ∧
      nth? t.dev.objs.fabric i = some g ∧ g = { f with stage := 3 }) ∧
    (f.stage = 1 → o.fabric = [f] → f.link s.dev < 14 → out.state = 1 → out.since + 180000 ≤ s.dev.now →
      ∃ t, exec (.linkTrainingTimeout (f.link s.dev)) s = .next t ∧ t.dev.objs.fabric = [] ∧
        (t.dev.slot f.rank f.slot).flow.rets = flow.rets ++ [⟨q, lost 0x11⟩]) ∧
    (f.stage = 3 →
      (bs.length = n → answered (.responseArrival i true mark (.data bs)) (.words [extendN n false (ofBytes bs)] true)) ∧
      answered (.responseArrival i true mark .poison) (.defer 0x68 q.ptr (poisonOpnd q.elem 1)) ∧
      answered (.responseArrival i false mark a) (lost 0x42) ∧
      (∃ t, exec (.responseArrival i true true (.data bs)) s = .next t ∧ let x : Nat × Nat := Tab.get (1, 0) t.dev.objs.drags t0
        64 * 2 ^ (slow.2 + 3) * x.1 = 2 ^ x.2 * max (64 * (7 * slow.1)) (2 ^ (slow.2 + 3)))) ∧
    ((∀ g ∈ o.fabric, g.stage = 0) →
      (∃ t, exec (.failureAnnounce (.link src va false)) s = .next t ∧ t.mem = s.mem ∧ t.dev.cores = s.dev.cores ∧
        t.dev.objs.fabric = o.fabric ∧ hopOk t.dev src va = false ∧ hopOk t.dev va src = false) ∧
      ∃ t, exec (.failureAnnounce (.link src va true)) s = .next t ∧ t.mem = s.mem ∧ t.dev.cores = s.dev.cores ∧
        t.dev.objs.fabric = o.fabric ∧ ∀ x, x ∈ t.dev.objs.farLinks ↔ x ∈ o.farLinks ∧ x ≠ far) ∧
    (1 ≤ f.stage →
      (1 ≤ notice.toNat / 16 → notice.toNat / 16 ≤ 4 → 1 ≤ notice.toNat % 16 → notice.toNat % 16 ≤ 3 →
        answered (.errorNotice i notice) (lost notice)) ∧
      (o.fabric = [f] → f.route = [t0] →
        ∃ t, exec (.failureAnnounce (.device t0)) s = .next t ∧ t.dev.objs.fabric = [] ∧ t0 ∈ t.dev.objs.knownDown ∧
          (t.dev.slot f.rank f.slot).flow.rets = flow.rets ++ [⟨q, lost 0x33⟩])) ∧
    (link < 14 → linkUp s.dev link = true →
      let got := fun (d : Dev) (x : PacketOp) => (d.received link (packetFlits x)).responded link (responseFlits x)
      exec (.targetPacket ⟨link, src⟩ va false op) s = .next { s with dev := got s.dev op } ∧
      (src < 256 →
        (portWalk s src va bs.length false true = .ok (.glob pa) key → o.exists pa = true → s.heldBank (.glob pa) = false →
          s.lost (.glob pa) = false → ∃ t, exec (.targetPacket ⟨link, src⟩ va true (.write bs)) s = .next t ∧
            t.mem = (s.memAs pa bs.length key).setBytes pa bs ∧ t.dev.cores = s.dev.cores ∧ t.dev.plat = s.dev.plat) ∧
        ((∀ l x, portWalk s src va bs.length false true ≠ .ok l x) →
          walkPoison s (bits (s.dev.plat.reg (0x600 + 8 * peerIx src)) 15 0) va = none →
          exec (.targetPacket ⟨link, src⟩ va true (.write bs)) s = .next { s with dev := got s.dev (.write bs) }) ∧
        (portWalk s src va 8 false true = .ok (.glob pa) key → o.exists pa = true → s.heldBank (.glob pa) = false → bs.length = 8 →
          pa % 8 = 0 → s.lost (.glob pa) = false → (∀ l ∈ linesOf pa 8, s.dev.badTag l = false) → o.peerCover = [] → o.feWait = [] →
          Tab.wfFrom false 0 s.dev.mmeta.empty = true → ∃ t, exec (.targetPacket ⟨link, src⟩ va true (.engineWrite bs)) s = .next t ∧
            t.mem = (s.memAs pa 8 key).setBytes pa bs ∧
            ∀ w, Tab.get false t.dev.mmeta.empty w = if w = pa / 8 then false else Tab.get false s.dev.mmeta.empty w) ∧
        exec (.targetPacket ⟨link, src⟩ va true (.barrier queue)) s =
          .next { s with dev := (got s.dev (.barrier queue)).onObjs (fun o => { o with arrivals := o.arrivals ++ [(5, queue, 0)] }) })) ∧
    (Tab.get 0 o.dragMark p + 3600 ≤ s.dev.now → ∃ t, exec (.dragRecovery p) s = .next t ∧ t.mem = s.mem ∧ t.dev.cores = s.dev.cores ∧
      let x : Nat × Nat := Tab.get (1, 0) t.dev.objs.drags p
      64 * 2 ^ drag.2 * x.1 = 2 ^ x.2 * min (64 * 2 ^ drag.2) (64 * drag.1 + 2 ^ drag.2) ∧ Tab.get 0 t.dev.objs.dragMark p = s.dev.now) ∧
    (s.dev.now < Tab.get 0 o.dragMark p + 3600 → exec (.dragRecovery p) s = .next s)

end
end

