-- ==== Sys2Proof/Laws/Table.lean ====
section
/-! SUPPORT. What tables and memories do: a read after a write, and the canonical form that every memory operation
keeps. -/

namespace Sys2Proof.Machine

/-- A read after `Tab.set` sees the value written, and every other key as before. -/
theorem Tab.get_set {α : Type} (dflt : α) (t : Tab α) (k : Nat) (v : α) (j : Nat) :
    Tab.get dflt (Tab.set t k v) j = if k = j then v else Tab.get dflt t j := by
  induction t with
  | nil => simp [Tab.set, Tab.get]
  | cons e r ih =>
    obtain ⟨i, w⟩ := e
    simp only [Tab.set]
    by_cases h1 : k < i
    · simp [h1, Tab.get]
    · by_cases h2 : k = i
      · subst h2; simp [Tab.get]; split <;> rfl
      · simp only [h1, h2, if_false, Tab.get, ih]
        by_cases h3 : i = j
        · have : k ≠ j := by omega
          simp [h3, this]
        · simp [h3]

/-- A key below the bound of a canonical table is not listed. -/
theorem Tab.get_below {α : Type} [DecidableEq α] (dflt : α) (t : Tab α) (lo j : Nat)
    (h : Tab.wfFrom dflt lo t = true) (hj : j < lo) : Tab.get dflt t j = dflt := by
  induction t generalizing lo with
  | nil => rfl
  | cons e r ih =>
    obtain ⟨i, w⟩ := e
    simp only [Tab.wfFrom, Bool.and_eq_true, decide_eq_true_eq] at h
    have hi : i ≠ j := by omega
    simp only [Tab.get, hi, if_false]
    exact ih (i + 1) h.2 (by omega)

/-- A weaker bound keeps the canonical form. -/
theorem Tab.wfFrom_mono {α : Type} [DecidableEq α] (dflt : α) (t : Tab α) (lo lo' : Nat) (hl : lo' ≤ lo)
    (h : Tab.wfFrom dflt lo t = true) : Tab.wfFrom dflt lo' t = true := by
  cases t with
  | nil => rfl
  | cons e r =>
    simp only [Tab.wfFrom, Bool.and_eq_true, decide_eq_true_eq] at h ⊢
    exact ⟨⟨by omega, h.1.2⟩, h.2⟩

/-- A read after `Tab.put` in a canonical table. -/
theorem Tab.get_put {α : Type} [DecidableEq α] (dflt : α) (t : Tab α) (lo k : Nat) (v : α) (j : Nat)
    (h : Tab.wfFrom dflt lo t = true) :
    Tab.get dflt (Tab.put dflt t k v) j = if k = j then v else Tab.get dflt t j := by
  induction t generalizing lo with
  | nil => by_cases hv : v = dflt <;> simp [Tab.put, Tab.get, hv]
  | cons e r ih =>
    obtain ⟨i, w⟩ := e
    simp only [Tab.wfFrom, Bool.and_eq_true, decide_eq_true_eq] at h
    have hb := fun q hq => Tab.get_below dflt r (i + 1) q h.2 hq
    by_cases h1 : k < i
    · by_cases hv : v = dflt
      · have hik : i ≠ k := by omega
        by_cases hkj : k = j
        · subst hkj; simp [Tab.put, h1, hv, Tab.get, hik, hb k (by omega)]
        · simp [Tab.put, h1, hv, hkj]
      · simp [Tab.put, h1, hv, Tab.get]
    · by_cases h2 : k = i
      · subst h2
        by_cases hv : v = dflt
        · by_cases hkj : k = j
          · subst hkj; simp [Tab.put, hv, hb k (by omega)]
          · simp [Tab.put, hv, hkj, Tab.get]
        · by_cases hkj : k = j <;> simp [Tab.put, hv, hkj, Tab.get]
      · simp only [Tab.put, h1, h2, if_false, Tab.get, ih (i + 1) h.2]
        by_cases h3 : i = j
        · have : k ≠ j := by omega
          simp [h3, this]
        · simp [h3]

/-- `Tab.put` keeps the canonical form. -/
theorem Tab.put_wfFrom {α : Type} [DecidableEq α] (dflt : α) (t : Tab α) (lo k : Nat) (v : α) (hk : lo ≤ k)
    (h : Tab.wfFrom dflt lo t = true) : Tab.wfFrom dflt lo (Tab.put dflt t k v) = true := by
  induction t generalizing lo with
  | nil => by_cases hv : v = dflt <;> simp [Tab.put, Tab.wfFrom, hv, hk]
  | cons e r ih =>
    obtain ⟨i, w⟩ := e
    simp only [Tab.wfFrom, Bool.and_eq_true, decide_eq_true_eq] at h
    obtain ⟨⟨hi, hw⟩, hr⟩ := h
    by_cases h1 : k < i
    · by_cases hv : v = dflt
      · simp [Tab.put, h1, hv, Tab.wfFrom, hi, hw, hr]
      · have : k + 1 ≤ i := h1
        simp [Tab.put, h1, hv, Tab.wfFrom, hk, hw, hr, this]
    · by_cases h2 : k = i
      · subst h2
        by_cases hv : v = dflt
        · simp only [Tab.put, hv, if_true, h1, if_false]
          exact Tab.wfFrom_mono dflt r (k + 1) lo (by omega) hr
        · simp [Tab.put, hv, Tab.wfFrom, hk, hr]
      · have : i + 1 ≤ k := by omega
        simp [Tab.put, h1, h2, Tab.wfFrom, hi, hw, ih (i + 1) this hr]

/-! ### Memories -/

@[simp] theorem Mem.wf_nil : Mem.wf [] = true := rfl

/-- A byte read after a byte written, in a canonical memory. -/
theorem Mem.read_write (m : Mem) (a b : Nat) (v : Byte) (h : m.wf = true) :
    (m.write a v).read b = if a = b then v else m.read b :=
  Tab.get_put 0 m 0 a v b h

theorem Mem.write_wf (m : Mem) (a : Nat) (v : Byte) (h : m.wf = true) : (m.write a v).wf = true :=
  Tab.put_wfFrom 0 m 0 a v (Nat.zero_le a) h

theorem Mem.writeN_wf (n : Nat) (m : Mem) (a v : Nat) (h : m.wf = true) : (m.writeN a n v).wf = true := by
  induction n generalizing m a v with
  | zero => exact h
  | succ n ih => exact ih _ _ _ (Mem.write_wf m a _ h)

theorem Mem.setWord_wf (m : Mem) (a : Nat) (v : Word) (h : m.wf = true) : (m.setWord a v).wf = true :=
  Mem.writeN_wf 8 m a v.toNat h

theorem Mem.setWords_wf (ws : List Word) (m : Mem) (a : Nat) (h : m.wf = true) : (m.setWords a ws).wf = true := by
  induction ws generalizing m a with
  | nil => exact h
  | cons w r ih => exact ih _ _ (Mem.setWord_wf m a w h)

theorem Mem.setBytes_wf (bs : List Byte) (m : Mem) (a : Nat) (h : m.wf = true) : (m.setBytes a bs).wf = true := by
  induction bs generalizing m a with
  | nil => exact h
  | cons b r ih => exact ih _ _ (Mem.write_wf m a b h)

/-- `writeN` leaves every byte outside its `n` bytes. -/
theorem Mem.read_writeN_outside (n : Nat) (m : Mem) (a v b : Nat) (h : m.wf = true) (hb : b < a ∨ a + n ≤ b) :
    (m.writeN a n v).read b = m.read b := by
  induction n generalizing m a v with
  | zero => rfl
  | succ n ih =>
    have hab : a ≠ b := by omega
    rw [Mem.writeN, ih _ _ _ (Mem.write_wf m a _ h) (by omega), Mem.read_write _ _ _ _ h, if_neg hab]

/-- `setBytes` leaves every byte outside its bytes. -/
theorem Mem.read_setBytes_outside (bs : List Byte) (m : Mem) (a b : Nat) (h : m.wf = true)
    (hb : b < a ∨ a + bs.length ≤ b) : (m.setBytes a bs).read b = m.read b := by
  induction bs generalizing m a with
  | nil => rfl
  | cons x r ih =>
    simp only [List.length_cons] at hb
    have hab : a ≠ b := by omega
    rw [Mem.setBytes, ih _ _ (Mem.write_wf m a _ h) (by omega), Mem.read_write _ _ _ _ h, if_neg hab]

/-- A word read where a word was written is that word. -/
theorem Mem.readN_writeN (n : Nat) (m : Mem) (a v : Nat) (h : m.wf = true) :
    (m.writeN a n v).readN a n = v % 256 ^ n := by
  induction n generalizing m a v with
  | zero => simp [Mem.readN, Nat.mod_one]
  | succ n ih =>
    have h1 := Mem.write_wf m a (BitVec.ofNat 8 v) h
    rw [Mem.writeN, Mem.readN, ih _ _ _ h1, Mem.read_writeN_outside _ _ _ _ _ h1 (by omega),
      Mem.read_write _ _ _ _ h, if_pos rfl, BitVec.toNat_ofNat, show 256 ^ (n + 1) = 256 * 256 ^ n by omega, Nat.mod_mul]

end Sys2Proof.Machine
end

