-- ==== Sys2Proof/Laws/State.lean ====
section
/-! SUPPORT. What each named update of the state does to each field: one lemma per field per update, true by rfl, so
that no later proof unfolds a record update; and what a read sees after an update. -/

namespace Sys2Proof.Machine

/-! ### Fields that an update of the device leaves -/

@[simp] theorem Dev.onCore_coaches (d : Dev) (r : Nat) (f : Core → Core) : (d.onCore r f).coaches = d.coaches := rfl
@[simp] theorem Dev.onCore_dies (d : Dev) (r : Nat) (f : Core → Core) : (d.onCore r f).dies = d.dies := rfl
@[simp] theorem Dev.onCore_mmeta (d : Dev) (r : Nat) (f : Core → Core) : (d.onCore r f).mmeta = d.mmeta := rfl
@[simp] theorem Dev.onCore_objs (d : Dev) (r : Nat) (f : Core → Core) : (d.onCore r f).objs = d.objs := rfl
@[simp] theorem Dev.onCore_plat (d : Dev) (r : Nat) (f : Core → Core) : (d.onCore r f).plat = d.plat := rfl
@[simp] theorem Dev.onCore_now (d : Dev) (r : Nat) (f : Core → Core) : (d.onCore r f).now = d.now := rfl
@[simp] theorem Dev.onCore_tick (d : Dev) (r : Nat) (f : Core → Core) : (d.onCore r f).tick = d.tick := rfl
@[simp] theorem Dev.onCore_agenda (d : Dev) (r : Nat) (f : Core → Core) : (d.onCore r f).agenda = d.agenda := rfl
@[simp] theorem Dev.onCore_rank (d : Dev) (r : Nat) (f : Core → Core) : (d.onCore r f).rank = d.rank := rfl
@[simp] theorem Dev.onCore_who (d : Dev) (r : Nat) (f : Core → Core) : (d.onCore r f).who = d.who := rfl
@[simp] theorem Dev.onCore_free (d : Dev) (r : Nat) (f : Core → Core) : (d.onCore r f).free = d.free := rfl
@[simp] theorem Dev.onSlot_coaches (d : Dev) (r k : Nat) (f : Slot → Slot) : (d.onSlot r k f).coaches = d.coaches := rfl
@[simp] theorem Dev.onSlot_dies (d : Dev) (r k : Nat) (f : Slot → Slot) : (d.onSlot r k f).dies = d.dies := rfl
@[simp] theorem Dev.onSlot_mmeta (d : Dev) (r k : Nat) (f : Slot → Slot) : (d.onSlot r k f).mmeta = d.mmeta := rfl
@[simp] theorem Dev.onSlot_objs (d : Dev) (r k : Nat) (f : Slot → Slot) : (d.onSlot r k f).objs = d.objs := rfl
@[simp] theorem Dev.onSlot_plat (d : Dev) (r k : Nat) (f : Slot → Slot) : (d.onSlot r k f).plat = d.plat := rfl
@[simp] theorem Dev.onSlot_now (d : Dev) (r k : Nat) (f : Slot → Slot) : (d.onSlot r k f).now = d.now := rfl
@[simp] theorem Dev.onSlot_tick (d : Dev) (r k : Nat) (f : Slot → Slot) : (d.onSlot r k f).tick = d.tick := rfl
@[simp] theorem Dev.onSlot_agenda (d : Dev) (r k : Nat) (f : Slot → Slot) : (d.onSlot r k f).agenda = d.agenda := rfl
@[simp] theorem Dev.onSlot_rank (d : Dev) (r k : Nat) (f : Slot → Slot) : (d.onSlot r k f).rank = d.rank := rfl
@[simp] theorem Dev.onSlot_who (d : Dev) (r k : Nat) (f : Slot → Slot) : (d.onSlot r k f).who = d.who := rfl
@[simp] theorem Dev.onSlot_free (d : Dev) (r k : Nat) (f : Slot → Slot) : (d.onSlot r k f).free = d.free := rfl
@[simp] theorem Dev.onMe_coaches (d : Dev) (f : Slot → Slot) : (d.onMe f).coaches = d.coaches := rfl
@[simp] theorem Dev.onMe_dies (d : Dev) (f : Slot → Slot) : (d.onMe f).dies = d.dies := rfl
@[simp] theorem Dev.onMe_mmeta (d : Dev) (f : Slot → Slot) : (d.onMe f).mmeta = d.mmeta := rfl
@[simp] theorem Dev.onMe_objs (d : Dev) (f : Slot → Slot) : (d.onMe f).objs = d.objs := rfl
@[simp] theorem Dev.onMe_plat (d : Dev) (f : Slot → Slot) : (d.onMe f).plat = d.plat := rfl
@[simp] theorem Dev.onMe_now (d : Dev) (f : Slot → Slot) : (d.onMe f).now = d.now := rfl
@[simp] theorem Dev.onMe_tick (d : Dev) (f : Slot → Slot) : (d.onMe f).tick = d.tick := rfl
@[simp] theorem Dev.onMe_agenda (d : Dev) (f : Slot → Slot) : (d.onMe f).agenda = d.agenda := rfl
@[simp] theorem Dev.onMe_rank (d : Dev) (f : Slot → Slot) : (d.onMe f).rank = d.rank := rfl
@[simp] theorem Dev.onMe_who (d : Dev) (f : Slot → Slot) : (d.onMe f).who = d.who := rfl
@[simp] theorem Dev.onMe_free (d : Dev) (f : Slot → Slot) : (d.onMe f).free = d.free := rfl
@[simp] theorem Dev.onMy_coaches (d : Dev) (f : Core → Core) : (d.onMy f).coaches = d.coaches := rfl
@[simp] theorem Dev.onMy_dies (d : Dev) (f : Core → Core) : (d.onMy f).dies = d.dies := rfl
@[simp] theorem Dev.onMy_mmeta (d : Dev) (f : Core → Core) : (d.onMy f).mmeta = d.mmeta := rfl
@[simp] theorem Dev.onMy_objs (d : Dev) (f : Core → Core) : (d.onMy f).objs = d.objs := rfl
@[simp] theorem Dev.onMy_plat (d : Dev) (f : Core → Core) : (d.onMy f).plat = d.plat := rfl
@[simp] theorem Dev.onMy_now (d : Dev) (f : Core → Core) : (d.onMy f).now = d.now := rfl
@[simp] theorem Dev.onMy_tick (d : Dev) (f : Core → Core) : (d.onMy f).tick = d.tick := rfl
@[simp] theorem Dev.onMy_agenda (d : Dev) (f : Core → Core) : (d.onMy f).agenda = d.agenda := rfl
@[simp] theorem Dev.onMy_rank (d : Dev) (f : Core → Core) : (d.onMy f).rank = d.rank := rfl
@[simp] theorem Dev.onMy_who (d : Dev) (f : Core → Core) : (d.onMy f).who = d.who := rfl
@[simp] theorem Dev.onMy_free (d : Dev) (f : Core → Core) : (d.onMy f).free = d.free := rfl
@[simp] theorem Dev.onEng_coaches (d : Dev) (r : Nat) (f : CoreEng → CoreEng) : (d.onEng r f).coaches = d.coaches := rfl
@[simp] theorem Dev.onEng_dies (d : Dev) (r : Nat) (f : CoreEng → CoreEng) : (d.onEng r f).dies = d.dies := rfl
@[simp] theorem Dev.onEng_mmeta (d : Dev) (r : Nat) (f : CoreEng → CoreEng) : (d.onEng r f).mmeta = d.mmeta := rfl
@[simp] theorem Dev.onEng_objs (d : Dev) (r : Nat) (f : CoreEng → CoreEng) : (d.onEng r f).objs = d.objs := rfl
@[simp] theorem Dev.onEng_plat (d : Dev) (r : Nat) (f : CoreEng → CoreEng) : (d.onEng r f).plat = d.plat := rfl
@[simp] theorem Dev.onEng_now (d : Dev) (r : Nat) (f : CoreEng → CoreEng) : (d.onEng r f).now = d.now := rfl
@[simp] theorem Dev.onEng_tick (d : Dev) (r : Nat) (f : CoreEng → CoreEng) : (d.onEng r f).tick = d.tick := rfl
@[simp] theorem Dev.onEng_agenda (d : Dev) (r : Nat) (f : CoreEng → CoreEng) : (d.onEng r f).agenda = d.agenda := rfl
@[simp] theorem Dev.onEng_rank (d : Dev) (r : Nat) (f : CoreEng → CoreEng) : (d.onEng r f).rank = d.rank := rfl
@[simp] theorem Dev.onEng_who (d : Dev) (r : Nat) (f : CoreEng → CoreEng) : (d.onEng r f).who = d.who := rfl
@[simp] theorem Dev.onEng_free (d : Dev) (r : Nat) (f : CoreEng → CoreEng) : (d.onEng r f).free = d.free := rfl
@[simp] theorem Dev.onRegs_coaches (d : Dev) (r : Nat) (f : CoreRegs → CoreRegs) : (d.onRegs r f).coaches = d.coaches := rfl
@[simp] theorem Dev.onRegs_dies (d : Dev) (r : Nat) (f : CoreRegs → CoreRegs) : (d.onRegs r f).dies = d.dies := rfl
@[simp] theorem Dev.onRegs_mmeta (d : Dev) (r : Nat) (f : CoreRegs → CoreRegs) : (d.onRegs r f).mmeta = d.mmeta := rfl
@[simp] theorem Dev.onRegs_objs (d : Dev) (r : Nat) (f : CoreRegs → CoreRegs) : (d.onRegs r f).objs = d.objs := rfl
@[simp] theorem Dev.onRegs_plat (d : Dev) (r : Nat) (f : CoreRegs → CoreRegs) : (d.onRegs r f).plat = d.plat := rfl
@[simp] theorem Dev.onRegs_now (d : Dev) (r : Nat) (f : CoreRegs → CoreRegs) : (d.onRegs r f).now = d.now := rfl
@[simp] theorem Dev.onRegs_tick (d : Dev) (r : Nat) (f : CoreRegs → CoreRegs) : (d.onRegs r f).tick = d.tick := rfl
@[simp] theorem Dev.onRegs_agenda (d : Dev) (r : Nat) (f : CoreRegs → CoreRegs) : (d.onRegs r f).agenda = d.agenda := rfl
@[simp] theorem Dev.onRegs_rank (d : Dev) (r : Nat) (f : CoreRegs → CoreRegs) : (d.onRegs r f).rank = d.rank := rfl
@[simp] theorem Dev.onRegs_who (d : Dev) (r : Nat) (f : CoreRegs → CoreRegs) : (d.onRegs r f).who = d.who := rfl
@[simp] theorem Dev.onRegs_free (d : Dev) (r : Nat) (f : CoreRegs → CoreRegs) : (d.onRegs r f).free = d.free := rfl
@[simp] theorem Dev.onFlow_coaches (d : Dev) (r k : Nat) (f : Flow → Flow) : (d.onFlow r k f).coaches = d.coaches := rfl
@[simp] theorem Dev.onFlow_dies (d : Dev) (r k : Nat) (f : Flow → Flow) : (d.onFlow r k f).dies = d.dies := rfl
@[simp] theorem Dev.onFlow_mmeta (d : Dev) (r k : Nat) (f : Flow → Flow) : (d.onFlow r k f).mmeta = d.mmeta := rfl
@[simp] theorem Dev.onFlow_objs (d : Dev) (r k : Nat) (f : Flow → Flow) : (d.onFlow r k f).objs = d.objs := rfl
@[simp] theorem Dev.onFlow_plat (d : Dev) (r k : Nat) (f : Flow → Flow) : (d.onFlow r k f).plat = d.plat := rfl
@[simp] theorem Dev.onFlow_now (d : Dev) (r k : Nat) (f : Flow → Flow) : (d.onFlow r k f).now = d.now := rfl
@[simp] theorem Dev.onFlow_tick (d : Dev) (r k : Nat) (f : Flow → Flow) : (d.onFlow r k f).tick = d.tick := rfl
@[simp] theorem Dev.onFlow_agenda (d : Dev) (r k : Nat) (f : Flow → Flow) : (d.onFlow r k f).agenda = d.agenda := rfl
@[simp] theorem Dev.onFlow_rank (d : Dev) (r k : Nat) (f : Flow → Flow) : (d.onFlow r k f).rank = d.rank := rfl
@[simp] theorem Dev.onFlow_who (d : Dev) (r k : Nat) (f : Flow → Flow) : (d.onFlow r k f).who = d.who := rfl
@[simp] theorem Dev.onFlow_free (d : Dev) (r k : Nat) (f : Flow → Flow) : (d.onFlow r k f).free = d.free := rfl
@[simp] theorem Dev.onMyFlow_coaches (d : Dev) (f : Flow → Flow) : (d.onMyFlow f).coaches = d.coaches := rfl
@[simp] theorem Dev.onMyFlow_dies (d : Dev) (f : Flow → Flow) : (d.onMyFlow f).dies = d.dies := rfl
@[simp] theorem Dev.onMyFlow_mmeta (d : Dev) (f : Flow → Flow) : (d.onMyFlow f).mmeta = d.mmeta := rfl
@[simp] theorem Dev.onMyFlow_objs (d : Dev) (f : Flow → Flow) : (d.onMyFlow f).objs = d.objs := rfl
@[simp] theorem Dev.onMyFlow_plat (d : Dev) (f : Flow → Flow) : (d.onMyFlow f).plat = d.plat := rfl
@[simp] theorem Dev.onMyFlow_now (d : Dev) (f : Flow → Flow) : (d.onMyFlow f).now = d.now := rfl
@[simp] theorem Dev.onMyFlow_tick (d : Dev) (f : Flow → Flow) : (d.onMyFlow f).tick = d.tick := rfl
@[simp] theorem Dev.onMyFlow_agenda (d : Dev) (f : Flow → Flow) : (d.onMyFlow f).agenda = d.agenda := rfl
@[simp] theorem Dev.onMyFlow_rank (d : Dev) (f : Flow → Flow) : (d.onMyFlow f).rank = d.rank := rfl
@[simp] theorem Dev.onMyFlow_who (d : Dev) (f : Flow → Flow) : (d.onMyFlow f).who = d.who := rfl
@[simp] theorem Dev.onMyFlow_free (d : Dev) (f : Flow → Flow) : (d.onMyFlow f).free = d.free := rfl
@[simp] theorem Dev.retire_coaches (d : Dev) (f : Slot → Slot) : (d.retire f).coaches = d.coaches := rfl
@[simp] theorem Dev.retire_dies (d : Dev) (f : Slot → Slot) : (d.retire f).dies = d.dies := rfl
@[simp] theorem Dev.retire_mmeta (d : Dev) (f : Slot → Slot) : (d.retire f).mmeta = d.mmeta := rfl
@[simp] theorem Dev.retire_objs (d : Dev) (f : Slot → Slot) : (d.retire f).objs = d.objs := rfl
@[simp] theorem Dev.retire_plat (d : Dev) (f : Slot → Slot) : (d.retire f).plat = d.plat := rfl
@[simp] theorem Dev.retire_now (d : Dev) (f : Slot → Slot) : (d.retire f).now = d.now := rfl
@[simp] theorem Dev.retire_tick (d : Dev) (f : Slot → Slot) : (d.retire f).tick = d.tick := rfl
@[simp] theorem Dev.retire_agenda (d : Dev) (f : Slot → Slot) : (d.retire f).agenda = d.agenda := rfl
@[simp] theorem Dev.retire_rank (d : Dev) (f : Slot → Slot) : (d.retire f).rank = d.rank := rfl
@[simp] theorem Dev.retire_who (d : Dev) (f : Slot → Slot) : (d.retire f).who = d.who := rfl
@[simp] theorem Dev.retire_free (d : Dev) (f : Slot → Slot) : (d.retire f).free = d.free := rfl
@[simp] theorem Dev.park_coaches (d : Dev) (c : WaitCond) : (d.park c).coaches = d.coaches := rfl
@[simp] theorem Dev.park_dies (d : Dev) (c : WaitCond) : (d.park c).dies = d.dies := rfl
@[simp] theorem Dev.park_mmeta (d : Dev) (c : WaitCond) : (d.park c).mmeta = d.mmeta := rfl
@[simp] theorem Dev.park_objs (d : Dev) (c : WaitCond) : (d.park c).objs = d.objs := rfl
@[simp] theorem Dev.park_plat (d : Dev) (c : WaitCond) : (d.park c).plat = d.plat := rfl
@[simp] theorem Dev.park_now (d : Dev) (c : WaitCond) : (d.park c).now = d.now := rfl
@[simp] theorem Dev.park_tick (d : Dev) (c : WaitCond) : (d.park c).tick = d.tick := rfl
@[simp] theorem Dev.park_agenda (d : Dev) (c : WaitCond) : (d.park c).agenda = d.agenda := rfl
@[simp] theorem Dev.park_rank (d : Dev) (c : WaitCond) : (d.park c).rank = d.rank := rfl
@[simp] theorem Dev.park_who (d : Dev) (c : WaitCond) : (d.park c).who = d.who := rfl
@[simp] theorem Dev.park_free (d : Dev) (c : WaitCond) : (d.park c).free = d.free := rfl
@[simp] theorem Dev.onCoach_cores (d : Dev) (u : Nat) (f : Coach → Coach) : (d.onCoach u f).cores = d.cores := rfl
@[simp] theorem Dev.onCoach_dies (d : Dev) (u : Nat) (f : Coach → Coach) : (d.onCoach u f).dies = d.dies := rfl
@[simp] theorem Dev.onCoach_mmeta (d : Dev) (u : Nat) (f : Coach → Coach) : (d.onCoach u f).mmeta = d.mmeta := rfl
@[simp] theorem Dev.onCoach_objs (d : Dev) (u : Nat) (f : Coach → Coach) : (d.onCoach u f).objs = d.objs := rfl
@[simp] theorem Dev.onCoach_plat (d : Dev) (u : Nat) (f : Coach → Coach) : (d.onCoach u f).plat = d.plat := rfl
@[simp] theorem Dev.onCoach_now (d : Dev) (u : Nat) (f : Coach → Coach) : (d.onCoach u f).now = d.now := rfl
@[simp] theorem Dev.onCoach_tick (d : Dev) (u : Nat) (f : Coach → Coach) : (d.onCoach u f).tick = d.tick := rfl
@[simp] theorem Dev.onCoach_agenda (d : Dev) (u : Nat) (f : Coach → Coach) : (d.onCoach u f).agenda = d.agenda := rfl
@[simp] theorem Dev.onCoach_rank (d : Dev) (u : Nat) (f : Coach → Coach) : (d.onCoach u f).rank = d.rank := rfl
@[simp] theorem Dev.onCoach_who (d : Dev) (u : Nat) (f : Coach → Coach) : (d.onCoach u f).who = d.who := rfl
@[simp] theorem Dev.onCoach_free (d : Dev) (u : Nat) (f : Coach → Coach) : (d.onCoach u f).free = d.free := rfl
@[simp] theorem Dev.onDie_cores (d : Dev) (n : Nat) (f : Die → Die) : (d.onDie n f).cores = d.cores := rfl
@[simp] theorem Dev.onDie_coaches (d : Dev) (n : Nat) (f : Die → Die) : (d.onDie n f).coaches = d.coaches := rfl
@[simp] theorem Dev.onDie_mmeta (d : Dev) (n : Nat) (f : Die → Die) : (d.onDie n f).mmeta = d.mmeta := rfl
@[simp] theorem Dev.onDie_objs (d : Dev) (n : Nat) (f : Die → Die) : (d.onDie n f).objs = d.objs := rfl
@[simp] theorem Dev.onDie_plat (d : Dev) (n : Nat) (f : Die → Die) : (d.onDie n f).plat = d.plat := rfl
@[simp] theorem Dev.onDie_now (d : Dev) (n : Nat) (f : Die → Die) : (d.onDie n f).now = d.now := rfl
@[simp] theorem Dev.onDie_tick (d : Dev) (n : Nat) (f : Die → Die) : (d.onDie n f).tick = d.tick := rfl
@[simp] theorem Dev.onDie_agenda (d : Dev) (n : Nat) (f : Die → Die) : (d.onDie n f).agenda = d.agenda := rfl
@[simp] theorem Dev.onDie_rank (d : Dev) (n : Nat) (f : Die → Die) : (d.onDie n f).rank = d.rank := rfl
@[simp] theorem Dev.onDie_who (d : Dev) (n : Nat) (f : Die → Die) : (d.onDie n f).who = d.who := rfl
@[simp] theorem Dev.onDie_free (d : Dev) (n : Nat) (f : Die → Die) : (d.onDie n f).free = d.free := rfl
@[simp] theorem Dev.onObjs_cores (d : Dev) (f : Objs → Objs) : (d.onObjs f).cores = d.cores := rfl
@[simp] theorem Dev.onObjs_coaches (d : Dev) (f : Objs → Objs) : (d.onObjs f).coaches = d.coaches := rfl
@[simp] theorem Dev.onObjs_dies (d : Dev) (f : Objs → Objs) : (d.onObjs f).dies = d.dies := rfl
@[simp] theorem Dev.onObjs_mmeta (d : Dev) (f : Objs → Objs) : (d.onObjs f).mmeta = d.mmeta := rfl
@[simp] theorem Dev.onObjs_plat (d : Dev) (f : Objs → Objs) : (d.onObjs f).plat = d.plat := rfl
@[simp] theorem Dev.onObjs_now (d : Dev) (f : Objs → Objs) : (d.onObjs f).now = d.now := rfl
@[simp] theorem Dev.onObjs_tick (d : Dev) (f : Objs → Objs) : (d.onObjs f).tick = d.tick := rfl
@[simp] theorem Dev.onObjs_agenda (d : Dev) (f : Objs → Objs) : (d.onObjs f).agenda = d.agenda := rfl
@[simp] theorem Dev.onObjs_rank (d : Dev) (f : Objs → Objs) : (d.onObjs f).rank = d.rank := rfl
@[simp] theorem Dev.onObjs_who (d : Dev) (f : Objs → Objs) : (d.onObjs f).who = d.who := rfl
@[simp] theorem Dev.onObjs_free (d : Dev) (f : Objs → Objs) : (d.onObjs f).free = d.free := rfl
@[simp] theorem Dev.onPlat_cores (d : Dev) (f : Plat → Plat) : (d.onPlat f).cores = d.cores := rfl
@[simp] theorem Dev.onPlat_coaches (d : Dev) (f : Plat → Plat) : (d.onPlat f).coaches = d.coaches := rfl
@[simp] theorem Dev.onPlat_dies (d : Dev) (f : Plat → Plat) : (d.onPlat f).dies = d.dies := rfl
@[simp] theorem Dev.onPlat_mmeta (d : Dev) (f : Plat → Plat) : (d.onPlat f).mmeta = d.mmeta := rfl
@[simp] theorem Dev.onPlat_objs (d : Dev) (f : Plat → Plat) : (d.onPlat f).objs = d.objs := rfl
@[simp] theorem Dev.onPlat_now (d : Dev) (f : Plat → Plat) : (d.onPlat f).now = d.now := rfl
@[simp] theorem Dev.onPlat_tick (d : Dev) (f : Plat → Plat) : (d.onPlat f).tick = d.tick := rfl
@[simp] theorem Dev.onPlat_agenda (d : Dev) (f : Plat → Plat) : (d.onPlat f).agenda = d.agenda := rfl
@[simp] theorem Dev.onPlat_rank (d : Dev) (f : Plat → Plat) : (d.onPlat f).rank = d.rank := rfl
@[simp] theorem Dev.onPlat_who (d : Dev) (f : Plat → Plat) : (d.onPlat f).who = d.who := rfl
@[simp] theorem Dev.onPlat_free (d : Dev) (f : Plat → Plat) : (d.onPlat f).free = d.free := rfl
@[simp] theorem Dev.onMeta_cores (d : Dev) (f : Meta → Meta) : (d.onMeta f).cores = d.cores := rfl
@[simp] theorem Dev.onMeta_coaches (d : Dev) (f : Meta → Meta) : (d.onMeta f).coaches = d.coaches := rfl
@[simp] theorem Dev.onMeta_dies (d : Dev) (f : Meta → Meta) : (d.onMeta f).dies = d.dies := rfl
@[simp] theorem Dev.onMeta_objs (d : Dev) (f : Meta → Meta) : (d.onMeta f).objs = d.objs := rfl
@[simp] theorem Dev.onMeta_plat (d : Dev) (f : Meta → Meta) : (d.onMeta f).plat = d.plat := rfl
@[simp] theorem Dev.onMeta_now (d : Dev) (f : Meta → Meta) : (d.onMeta f).now = d.now := rfl
@[simp] theorem Dev.onMeta_tick (d : Dev) (f : Meta → Meta) : (d.onMeta f).tick = d.tick := rfl
@[simp] theorem Dev.onMeta_agenda (d : Dev) (f : Meta → Meta) : (d.onMeta f).agenda = d.agenda := rfl
@[simp] theorem Dev.onMeta_rank (d : Dev) (f : Meta → Meta) : (d.onMeta f).rank = d.rank := rfl
@[simp] theorem Dev.onMeta_who (d : Dev) (f : Meta → Meta) : (d.onMeta f).who = d.who := rfl
@[simp] theorem Dev.onMeta_free (d : Dev) (f : Meta → Meta) : (d.onMeta f).free = d.free := rfl
@[simp] theorem Dev.post_cores (d : Dev) (k n : Nat) : (d.post k n).cores = d.cores := rfl
@[simp] theorem Dev.post_coaches (d : Dev) (k n : Nat) : (d.post k n).coaches = d.coaches := rfl
@[simp] theorem Dev.post_dies (d : Dev) (k n : Nat) : (d.post k n).dies = d.dies := rfl
@[simp] theorem Dev.post_mmeta (d : Dev) (k n : Nat) : (d.post k n).mmeta = d.mmeta := rfl
@[simp] theorem Dev.post_objs (d : Dev) (k n : Nat) : (d.post k n).objs = d.objs := rfl
@[simp] theorem Dev.post_now (d : Dev) (k n : Nat) : (d.post k n).now = d.now := rfl
@[simp] theorem Dev.post_tick (d : Dev) (k n : Nat) : (d.post k n).tick = d.tick := rfl
@[simp] theorem Dev.post_agenda (d : Dev) (k n : Nat) : (d.post k n).agenda = d.agenda := rfl
@[simp] theorem Dev.post_rank (d : Dev) (k n : Nat) : (d.post k n).rank = d.rank := rfl
@[simp] theorem Dev.post_who (d : Dev) (k n : Nat) : (d.post k n).who = d.who := rfl
@[simp] theorem Dev.post_free (d : Dev) (k n : Nat) : (d.post k n).free = d.free := rfl
@[simp] theorem Dev.setReg_cores (d : Dev) (o : Nat) (v : Word) : (d.setReg o v).cores = d.cores := rfl
@[simp] theorem Dev.setReg_coaches (d : Dev) (o : Nat) (v : Word) : (d.setReg o v).coaches = d.coaches := rfl
@[simp] theorem Dev.setReg_dies (d : Dev) (o : Nat) (v : Word) : (d.setReg o v).dies = d.dies := rfl
@[simp] theorem Dev.setReg_mmeta (d : Dev) (o : Nat) (v : Word) : (d.setReg o v).mmeta = d.mmeta := rfl
@[simp] theorem Dev.setReg_objs (d : Dev) (o : Nat) (v : Word) : (d.setReg o v).objs = d.objs := rfl
@[simp] theorem Dev.setReg_now (d : Dev) (o : Nat) (v : Word) : (d.setReg o v).now = d.now := rfl
@[simp] theorem Dev.setReg_tick (d : Dev) (o : Nat) (v : Word) : (d.setReg o v).tick = d.tick := rfl
@[simp] theorem Dev.setReg_agenda (d : Dev) (o : Nat) (v : Word) : (d.setReg o v).agenda = d.agenda := rfl
@[simp] theorem Dev.setReg_rank (d : Dev) (o : Nat) (v : Word) : (d.setReg o v).rank = d.rank := rfl
@[simp] theorem Dev.setReg_who (d : Dev) (o : Nat) (v : Word) : (d.setReg o v).who = d.who := rfl
@[simp] theorem Dev.setReg_free (d : Dev) (o : Nat) (v : Word) : (d.setReg o v).free = d.free := rfl
@[simp] theorem Dev.onObjs_objs (d : Dev) (f : Objs → Objs) : (d.onObjs f).objs = f d.objs := rfl
@[simp] theorem Dev.onPlat_plat (d : Dev) (f : Plat → Plat) : (d.onPlat f).plat = f d.plat := rfl
@[simp] theorem Dev.onMeta_mmeta (d : Dev) (f : Meta → Meta) : (d.onMeta f).mmeta = f d.mmeta := rfl

/-! ### Fields of a core -/

@[simp] theorem Core.onSlot_running (c : Core) (k : Nat) (f : Slot → Slot) : (c.onSlot k f).running = c.running := rfl
@[simp] theorem Core.onSlot_failed (c : Core) (k : Nat) (f : Slot → Slot) : (c.onSlot k f).failed = c.failed := rfl
@[simp] theorem Core.onSlot_lmem (c : Core) (k : Nat) (f : Slot → Slot) : (c.onSlot k f).lmem = c.lmem := rfl
@[simp] theorem Core.onSlot_empty (c : Core) (k : Nat) (f : Slot → Slot) : (c.onSlot k f).empty = c.empty := rfl
@[simp] theorem Core.onSlot_lpoison (c : Core) (k : Nat) (f : Slot → Slot) : (c.onSlot k f).lpoison = c.lpoison := rfl
@[simp] theorem Core.onSlot_regs (c : Core) (k : Nat) (f : Slot → Slot) : (c.onSlot k f).regs = c.regs := rfl
@[simp] theorem Core.onSlot_eng (c : Core) (k : Nat) (f : Slot → Slot) : (c.onSlot k f).eng = c.eng := rfl
@[simp] theorem Core.onSlot_vec (c : Core) (k : Nat) (f : Slot → Slot) : (c.onSlot k f).vec = c.vec := rfl
@[simp] theorem Core.setEmpty_running (c : Core) (w : Nat) (b : Bool) : (c.setEmpty w b).running = c.running := rfl
@[simp] theorem Core.setEmpty_failed (c : Core) (w : Nat) (b : Bool) : (c.setEmpty w b).failed = c.failed := rfl
@[simp] theorem Core.setEmpty_lmem (c : Core) (w : Nat) (b : Bool) : (c.setEmpty w b).lmem = c.lmem := rfl
@[simp] theorem Core.setEmpty_lpoison (c : Core) (w : Nat) (b : Bool) : (c.setEmpty w b).lpoison = c.lpoison := rfl
@[simp] theorem Core.setEmpty_regs (c : Core) (w : Nat) (b : Bool) : (c.setEmpty w b).regs = c.regs := rfl
@[simp] theorem Core.setEmpty_eng (c : Core) (w : Nat) (b : Bool) : (c.setEmpty w b).eng = c.eng := rfl
@[simp] theorem Core.setEmpty_vec (c : Core) (w : Nat) (b : Bool) : (c.setEmpty w b).vec = c.vec := rfl
@[simp] theorem Core.setEmpty_slots (c : Core) (w : Nat) (b : Bool) : (c.setEmpty w b).slots = c.slots := rfl

/-! ### Fields of a slot -/

@[simp] theorem Slot.advance_life (t : Slot) : (t.advance).life = t.life := rfl
@[simp] theorem Slot.jump_life (t : Slot) (n : PcIx) : (t.jump n).life = t.life := rfl
@[simp] theorem Slot.advance_owner (t : Slot) : (t.advance).owner = t.owner := rfl
@[simp] theorem Slot.jump_owner (t : Slot) (n : PcIx) : (t.jump n).owner = t.owner := rfl
@[simp] theorem Slot.advance_x (t : Slot) : (t.advance).x = t.x := rfl
@[simp] theorem Slot.jump_x (t : Slot) (n : PcIx) : (t.jump n).x = t.x := rfl
@[simp] theorem Slot.advance_p (t : Slot) : (t.advance).p = t.p := rfl
@[simp] theorem Slot.jump_p (t : Slot) (n : PcIx) : (t.jump n).p = t.p := rfl
@[simp] theorem Slot.advance_tag (t : Slot) : (t.advance).tag = t.tag := rfl
@[simp] theorem Slot.jump_tag (t : Slot) (n : PcIx) : (t.jump n).tag = t.tag := rfl
@[simp] theorem Slot.advance_asid (t : Slot) : (t.advance).asid = t.asid := rfl
@[simp] theorem Slot.jump_asid (t : Slot) (n : PcIx) : (t.jump n).asid = t.asid := rfl
@[simp] theorem Slot.advance_domain (t : Slot) : (t.advance).domain = t.domain := rfl
@[simp] theorem Slot.jump_domain (t : Slot) (n : PcIx) : (t.jump n).domain = t.domain := rfl
@[simp] theorem Slot.advance_part (t : Slot) : (t.advance).part = t.part := rfl
@[simp] theorem Slot.jump_part (t : Slot) (n : PcIx) : (t.jump n).part = t.part := rfl
@[simp] theorem Slot.advance_lmbase (t : Slot) : (t.advance).lmbase = t.lmbase := rfl
@[simp] theorem Slot.jump_lmbase (t : Slot) (n : PcIx) : (t.jump n).lmbase = t.lmbase := rfl
@[simp] theorem Slot.advance_lmlim (t : Slot) : (t.advance).lmlim = t.lmlim := rfl
@[simp] theorem Slot.jump_lmlim (t : Slot) (n : PcIx) : (t.jump n).lmlim = t.lmlim := rfl
@[simp] theorem Slot.advance_member (t : Slot) : (t.advance).member = t.member := rfl
@[simp] theorem Slot.jump_member (t : Slot) (n : PcIx) : (t.jump n).member = t.member := rfl
@[simp] theorem Slot.advance_gsize (t : Slot) : (t.advance).gsize = t.gsize := rfl
@[simp] theorem Slot.jump_gsize (t : Slot) (n : PcIx) : (t.jump n).gsize = t.gsize := rfl
@[simp] theorem Slot.advance_gdepth (t : Slot) : (t.advance).gdepth = t.gdepth := rfl
@[simp] theorem Slot.jump_gdepth (t : Slot) (n : PcIx) : (t.jump n).gdepth = t.gdepth := rfl
@[simp] theorem Slot.advance_lead (t : Slot) : (t.advance).lead = t.lead := rfl
@[simp] theorem Slot.jump_lead (t : Slot) (n : PcIx) : (t.jump n).lead = t.lead := rfl
@[simp] theorem Slot.advance_smask (t : Slot) : (t.advance).smask = t.smask := rfl
@[simp] theorem Slot.jump_smask (t : Slot) (n : PcIx) : (t.jump n).smask = t.smask := rfl
@[simp] theorem Slot.advance_fault (t : Slot) : (t.advance).fault = t.fault := rfl
@[simp] theorem Slot.jump_fault (t : Slot) (n : PcIx) : (t.jump n).fault = t.fault := rfl
@[simp] theorem Slot.advance_roles (t : Slot) : (t.advance).roles = t.roles := rfl
@[simp] theorem Slot.jump_roles (t : Slot) (n : PcIx) : (t.jump n).roles = t.roles := rfl
@[simp] theorem Slot.advance_chans (t : Slot) : (t.advance).chans = t.chans := rfl
@[simp] theorem Slot.jump_chans (t : Slot) (n : PcIx) : (t.jump n).chans = t.chans := rfl
@[simp] theorem Slot.advance_bars (t : Slot) : (t.advance).bars = t.bars := rfl
@[simp] theorem Slot.jump_bars (t : Slot) (n : PcIx) : (t.jump n).bars = t.bars := rfl
@[simp] theorem Slot.advance_parked (t : Slot) : (t.advance).parked = t.parked := rfl
@[simp] theorem Slot.jump_parked (t : Slot) (n : PcIx) : (t.jump n).parked = t.parked := rfl
@[simp] theorem Slot.advance_held (t : Slot) : (t.advance).held = t.held := rfl
@[simp] theorem Slot.jump_held (t : Slot) (n : PcIx) : (t.jump n).held = t.held := rfl
@[simp] theorem Slot.advance_pre (t : Slot) : (t.advance).pre = t.pre := rfl
@[simp] theorem Slot.jump_pre (t : Slot) (n : PcIx) : (t.jump n).pre = t.pre := rfl
@[simp] theorem Slot.advance_elide (t : Slot) : (t.advance).elide = t.elide := rfl
@[simp] theorem Slot.jump_elide (t : Slot) (n : PcIx) : (t.jump n).elide = t.elide := rfl
@[simp] theorem Slot.advance_aborting (t : Slot) : (t.advance).aborting = t.aborting := rfl
@[simp] theorem Slot.jump_aborting (t : Slot) (n : PcIx) : (t.jump n).aborting = t.aborting := rfl
@[simp] theorem Slot.advance_stepping (t : Slot) : (t.advance).stepping = t.stepping := rfl
@[simp] theorem Slot.jump_stepping (t : Slot) (n : PcIx) : (t.jump n).stepping = t.stepping := rfl
@[simp] theorem Slot.advance_sent (t : Slot) : (t.advance).sent = t.sent := rfl
@[simp] theorem Slot.jump_sent (t : Slot) (n : PcIx) : (t.jump n).sent = t.sent := rfl
@[simp] theorem Slot.advance_start (t : Slot) : (t.advance).start = t.start := rfl
@[simp] theorem Slot.jump_start (t : Slot) (n : PcIx) : (t.jump n).start = t.start := rfl
@[simp] theorem Slot.advance_taken (t : Slot) : (t.advance).taken = t.taken := rfl
@[simp] theorem Slot.jump_taken (t : Slot) (n : PcIx) : (t.jump n).taken = t.taken := rfl
@[simp] theorem Slot.advance_ginst (t : Slot) : (t.advance).ginst = t.ginst := rfl
@[simp] theorem Slot.advance_lapsed (t : Slot) : (t.advance).lapsed = t.lapsed := rfl
@[simp] theorem Slot.advance_vlane (t : Slot) : (t.advance).vlane = t.vlane := rfl
@[simp] theorem Slot.advance_vbase (t : Slot) : (t.advance).vbase = t.vbase := rfl
@[simp] theorem Slot.jump_ginst (t : Slot) (n : PcIx) : (t.jump n).ginst = t.ginst := rfl
@[simp] theorem Slot.jump_lapsed (t : Slot) (n : PcIx) : (t.jump n).lapsed = t.lapsed := rfl
@[simp] theorem Slot.jump_vlane (t : Slot) (n : PcIx) : (t.jump n).vlane = t.vlane := rfl
@[simp] theorem Slot.jump_vbase (t : Slot) (n : PcIx) : (t.jump n).vbase = t.vbase := rfl
@[simp] theorem Slot.advance_voffs (t : Slot) : (t.advance).voffs = t.voffs := rfl
@[simp] theorem Slot.jump_voffs (t : Slot) (n : PcIx) : (t.jump n).voffs = t.voffs := rfl
@[simp] theorem Slot.advance_flow (t : Slot) : (t.advance).flow = t.flow := rfl
@[simp] theorem Slot.jump_flow (t : Slot) (n : PcIx) : (t.jump n).flow = t.flow := rfl
@[simp] theorem Slot.advance_pc (t : Slot) : t.advance.pc = t.pc + 1 := rfl
@[simp] theorem Slot.jump_pc (t : Slot) (n : PcIx) : (t.jump n).pc = n := rfl
@[simp] theorem Slot.setX_life (t : Slot) (r : XReg) (v : Word) : (t.setX r v).life = t.life := by
  unfold Slot.setX; split <;> rfl
@[simp] theorem Slot.setX_owner (t : Slot) (r : XReg) (v : Word) : (t.setX r v).owner = t.owner := by
  unfold Slot.setX; split <;> rfl
@[simp] theorem Slot.setX_p (t : Slot) (r : XReg) (v : Word) : (t.setX r v).p = t.p := by
  unfold Slot.setX; split <;> rfl
@[simp] theorem Slot.setX_pc (t : Slot) (r : XReg) (v : Word) : (t.setX r v).pc = t.pc := by
  unfold Slot.setX; split <;> rfl
@[simp] theorem Slot.setX_tag (t : Slot) (r : XReg) (v : Word) : (t.setX r v).tag = t.tag := by
  unfold Slot.setX; split <;> rfl
@[simp] theorem Slot.setX_asid (t : Slot) (r : XReg) (v : Word) : (t.setX r v).asid = t.asid := by
  unfold Slot.setX; split <;> rfl
@[simp] theorem Slot.setX_domain (t : Slot) (r : XReg) (v : Word) : (t.setX r v).domain = t.domain := by
  unfold Slot.setX; split <;> rfl
@[simp] theorem Slot.setX_part (t : Slot) (r : XReg) (v : Word) : (t.setX r v).part = t.part := by
  unfold Slot.setX; split <;> rfl
@[simp] theorem Slot.setX_lmbase (t : Slot) (r : XReg) (v : Word) : (t.setX r v).lmbase = t.lmbase := by
  unfold Slot.setX; split <;> rfl
@[simp] theorem Slot.setX_lmlim (t : Slot) (r : XReg) (v : Word) : (t.setX r v).lmlim = t.lmlim := by
  unfold Slot.setX; split <;> rfl
@[simp] theorem Slot.setX_member (t : Slot) (r : XReg) (v : Word) : (t.setX r v).member = t.member := by
  unfold Slot.setX; split <;> rfl
@[simp] theorem Slot.setX_gsize (t : Slot) (r : XReg) (v : Word) : (t.setX r v).gsize = t.gsize := by
  unfold Slot.setX; split <;> rfl
@[simp] theorem Slot.setX_gdepth (t : Slot) (r : XReg) (v : Word) : (t.setX r v).gdepth = t.gdepth := by
  unfold Slot.setX; split <;> rfl
@[simp] theorem Slot.setX_lead (t : Slot) (r : XReg) (v : Word) : (t.setX r v).lead = t.lead := by
  unfold Slot.setX; split <;> rfl
@[simp] theorem Slot.setX_smask (t : Slot) (r : XReg) (v : Word) : (t.setX r v).smask = t.smask := by
  unfold Slot.setX; split <;> rfl
@[simp] theorem Slot.setX_fault (t : Slot) (r : XReg) (v : Word) : (t.setX r v).fault = t.fault := by
  unfold Slot.setX; split <;> rfl
@[simp] theorem Slot.setX_roles (t : Slot) (r : XReg) (v : Word) : (t.setX r v).roles = t.roles := by
  unfold Slot.setX; split <;> rfl
@[simp] theorem Slot.setX_chans (t : Slot) (r : XReg) (v : Word) : (t.setX r v).chans = t.chans := by
  unfold Slot.setX; split <;> rfl
@[simp] theorem Slot.setX_bars (t : Slot) (r : XReg) (v : Word) : (t.setX r v).bars = t.bars := by
  unfold Slot.setX; split <;> rfl
@[simp] theorem Slot.setX_parked (t : Slot) (r : XReg) (v : Word) : (t.setX r v).parked = t.parked := by
  unfold Slot.setX; split <;> rfl
@[simp] theorem Slot.setX_held (t : Slot) (r : XReg) (v : Word) : (t.setX r v).held = t.held := by
  unfold Slot.setX; split <;> rfl
@[simp] theorem Slot.setX_pre (t : Slot) (r : XReg) (v : Word) : (t.setX r v).pre = t.pre := by
  unfold Slot.setX; split <;> rfl
@[simp] theorem Slot.setX_elide (t : Slot) (r : XReg) (v : Word) : (t.setX r v).elide = t.elide := by
  unfold Slot.setX; split <;> rfl
@[simp] theorem Slot.setX_aborting (t : Slot) (r : XReg) (v : Word) : (t.setX r v).aborting = t.aborting := by
  unfold Slot.setX; split <;> rfl
@[simp] theorem Slot.setX_stepping (t : Slot) (r : XReg) (v : Word) : (t.setX r v).stepping = t.stepping := by
  unfold Slot.setX; split <;> rfl
@[simp] theorem Slot.setX_sent (t : Slot) (r : XReg) (v : Word) : (t.setX r v).sent = t.sent := by
  unfold Slot.setX; split <;> rfl
@[simp] theorem Slot.setX_start (t : Slot) (r : XReg) (v : Word) : (t.setX r v).start = t.start := by
  unfold Slot.setX; split <;> rfl
@[simp] theorem Slot.setX_taken (t : Slot) (r : XReg) (v : Word) : (t.setX r v).taken = t.taken := by
  unfold Slot.setX; split <;> rfl
@[simp] theorem Slot.setX_ginst (t : Slot) (r : XReg) (v : Word) : (t.setX r v).ginst = t.ginst := by
  unfold Slot.setX; split <;> rfl
@[simp] theorem Slot.setX_lapsed (t : Slot) (r : XReg) (v : Word) : (t.setX r v).lapsed = t.lapsed := by
  unfold Slot.setX; split <;> rfl
@[simp] theorem Slot.setX_vlane (t : Slot) (r : XReg) (v : Word) : (t.setX r v).vlane = t.vlane := by
  unfold Slot.setX; split <;> rfl
@[simp] theorem Slot.setX_vbase (t : Slot) (r : XReg) (v : Word) : (t.setX r v).vbase = t.vbase := by
  unfold Slot.setX; split <;> rfl
@[simp] theorem Slot.setX_voffs (t : Slot) (r : XReg) (v : Word) : (t.setX r v).voffs = t.voffs := by
  unfold Slot.setX; split <;> rfl
@[simp] theorem Slot.setX_flow (t : Slot) (r : XReg) (v : Word) : (t.setX r v).flow = t.flow := by
  unfold Slot.setX; split <;> rfl
@[simp] theorem Slot.setP_life (t : Slot) (r : PReg) (b : Bool) : (t.setP r b).life = t.life := by
  unfold Slot.setP; split <;> rfl
@[simp] theorem Slot.setP_owner (t : Slot) (r : PReg) (b : Bool) : (t.setP r b).owner = t.owner := by
  unfold Slot.setP; split <;> rfl
@[simp] theorem Slot.setP_x (t : Slot) (r : PReg) (b : Bool) : (t.setP r b).x = t.x := by
  unfold Slot.setP; split <;> rfl
@[simp] theorem Slot.setP_pc (t : Slot) (r : PReg) (b : Bool) : (t.setP r b).pc = t.pc := by
  unfold Slot.setP; split <;> rfl
@[simp] theorem Slot.setP_tag (t : Slot) (r : PReg) (b : Bool) : (t.setP r b).tag = t.tag := by
  unfold Slot.setP; split <;> rfl
@[simp] theorem Slot.setP_asid (t : Slot) (r : PReg) (b : Bool) : (t.setP r b).asid = t.asid := by
  unfold Slot.setP; split <;> rfl
@[simp] theorem Slot.setP_domain (t : Slot) (r : PReg) (b : Bool) : (t.setP r b).domain = t.domain := by
  unfold Slot.setP; split <;> rfl
@[simp] theorem Slot.setP_part (t : Slot) (r : PReg) (b : Bool) : (t.setP r b).part = t.part := by
  unfold Slot.setP; split <;> rfl
@[simp] theorem Slot.setP_lmbase (t : Slot) (r : PReg) (b : Bool) : (t.setP r b).lmbase = t.lmbase := by
  unfold Slot.setP; split <;> rfl
@[simp] theorem Slot.setP_lmlim (t : Slot) (r : PReg) (b : Bool) : (t.setP r b).lmlim = t.lmlim := by
  unfold Slot.setP; split <;> rfl
@[simp] theorem Slot.setP_member (t : Slot) (r : PReg) (b : Bool) : (t.setP r b).member = t.member := by
  unfold Slot.setP; split <;> rfl
@[simp] theorem Slot.setP_gsize (t : Slot) (r : PReg) (b : Bool) : (t.setP r b).gsize = t.gsize := by
  unfold Slot.setP; split <;> rfl
@[simp] theorem Slot.setP_gdepth (t : Slot) (r : PReg) (b : Bool) : (t.setP r b).gdepth = t.gdepth := by
  unfold Slot.setP; split <;> rfl
@[simp] theorem Slot.setP_lead (t : Slot) (r : PReg) (b : Bool) : (t.setP r b).lead = t.lead := by
  unfold Slot.setP; split <;> rfl
@[simp] theorem Slot.setP_smask (t : Slot) (r : PReg) (b : Bool) : (t.setP r b).smask = t.smask := by
  unfold Slot.setP; split <;> rfl
@[simp] theorem Slot.setP_fault (t : Slot) (r : PReg) (b : Bool) : (t.setP r b).fault = t.fault := by
  unfold Slot.setP; split <;> rfl
@[simp] theorem Slot.setP_roles (t : Slot) (r : PReg) (b : Bool) : (t.setP r b).roles = t.roles := by
  unfold Slot.setP; split <;> rfl
@[simp] theorem Slot.setP_chans (t : Slot) (r : PReg) (b : Bool) : (t.setP r b).chans = t.chans := by
  unfold Slot.setP; split <;> rfl
@[simp] theorem Slot.setP_bars (t : Slot) (r : PReg) (b : Bool) : (t.setP r b).bars = t.bars := by
  unfold Slot.setP; split <;> rfl
@[simp] theorem Slot.setP_parked (t : Slot) (r : PReg) (b : Bool) : (t.setP r b).parked = t.parked := by
  unfold Slot.setP; split <;> rfl
@[simp] theorem Slot.setP_held (t : Slot) (r : PReg) (b : Bool) : (t.setP r b).held = t.held := by
  unfold Slot.setP; split <;> rfl
@[simp] theorem Slot.setP_pre (t : Slot) (r : PReg) (b : Bool) : (t.setP r b).pre = t.pre := by
  unfold Slot.setP; split <;> rfl
@[simp] theorem Slot.setP_elide (t : Slot) (r : PReg) (b : Bool) : (t.setP r b).elide = t.elide := by
  unfold Slot.setP; split <;> rfl
@[simp] theorem Slot.setP_aborting (t : Slot) (r : PReg) (b : Bool) : (t.setP r b).aborting = t.aborting := by
  unfold Slot.setP; split <;> rfl
@[simp] theorem Slot.setP_stepping (t : Slot) (r : PReg) (b : Bool) : (t.setP r b).stepping = t.stepping := by
  unfold Slot.setP; split <;> rfl
@[simp] theorem Slot.setP_sent (t : Slot) (r : PReg) (b : Bool) : (t.setP r b).sent = t.sent := by
  unfold Slot.setP; split <;> rfl
@[simp] theorem Slot.setP_start (t : Slot) (r : PReg) (b : Bool) : (t.setP r b).start = t.start := by
  unfold Slot.setP; split <;> rfl
@[simp] theorem Slot.setP_taken (t : Slot) (r : PReg) (b : Bool) : (t.setP r b).taken = t.taken := by
  unfold Slot.setP; split <;> rfl
@[simp] theorem Slot.setP_ginst (t : Slot) (r : PReg) (b : Bool) : (t.setP r b).ginst = t.ginst := by
  unfold Slot.setP; split <;> rfl
@[simp] theorem Slot.setP_lapsed (t : Slot) (r : PReg) (b : Bool) : (t.setP r b).lapsed = t.lapsed := by
  unfold Slot.setP; split <;> rfl
@[simp] theorem Slot.setP_vlane (t : Slot) (r : PReg) (b : Bool) : (t.setP r b).vlane = t.vlane := by
  unfold Slot.setP; split <;> rfl
@[simp] theorem Slot.setP_vbase (t : Slot) (r : PReg) (b : Bool) : (t.setP r b).vbase = t.vbase := by
  unfold Slot.setP; split <;> rfl
@[simp] theorem Slot.setP_voffs (t : Slot) (r : PReg) (b : Bool) : (t.setP r b).voffs = t.voffs := by
  unfold Slot.setP; split <;> rfl
@[simp] theorem Slot.setP_flow (t : Slot) (r : PReg) (b : Bool) : (t.setP r b).flow = t.flow := by
  unfold Slot.setP; split <;> rfl

/-! ### What a read sees after an update -/

theorem Dev.onCore_core (d : Dev) (r : Nat) (f : Core → Core) (q : Nat) :
    (d.onCore r f).core q = if r = q then f (d.core r) else d.core q := by
  simp [Dev.onCore, Dev.core, Tab.get_set]

@[simp] theorem Dev.onCore_core_self (d : Dev) (r : Nat) (f : Core → Core) :
    (d.onCore r f).core r = f (d.core r) := by simp [Dev.onCore_core]

theorem Core.onSlot_slot (c : Core) (k : Nat) (f : Slot → Slot) (j : Nat) :
    (c.onSlot k f).slot j = if k = j then f (c.slot k) else c.slot j := by
  simp [Core.onSlot, Core.slot, Tab.get_set]

@[simp] theorem Core.onSlot_slot_self (c : Core) (k : Nat) (f : Slot → Slot) :
    (c.onSlot k f).slot k = f (c.slot k) := by simp [Core.onSlot_slot]

theorem Dev.onSlot_slot (d : Dev) (r k : Nat) (f : Slot → Slot) (q j : Nat) :
    (d.onSlot r k f).slot q j = if r = q ∧ k = j then f (d.slot r k) else d.slot q j := by
  simp only [Dev.onSlot, Dev.slot, Dev.onCore_core]
  by_cases hr : r = q
  · subst hr
    by_cases hk : k = j
    · subst hk; simp
    · simp [hk, Core.onSlot_slot]
  · simp [hr]

@[simp] theorem Dev.onSlot_slot_self (d : Dev) (r k : Nat) (f : Slot → Slot) :
    (d.onSlot r k f).slot r k = f (d.slot r k) := by simp [Dev.onSlot_slot]

@[simp] theorem Dev.onMe_me (d : Dev) (f : Slot → Slot) : (d.onMe f).me = f d.me := by
  simp only [Dev.me, Dev.onMe, Dev.onSlot_rank, Dev.onSlot_who, Dev.onSlot_slot_self]

theorem Dev.onMe_slot (d : Dev) (f : Slot → Slot) (q j : Nat) :
    (d.onMe f).slot q j = if d.rank = q ∧ d.who = j then f d.me else d.slot q j :=
  Dev.onSlot_slot d d.rank d.who f q j

@[simp] theorem Dev.retire_me (d : Dev) (f : Slot → Slot) : (d.retire f).me = (f d.me).advance :=
  Dev.onMe_me d (fun t => (f t).advance)

/-- Nothing of a core but the slot changes. -/
theorem Dev.onSlot_core (d : Dev) (r k : Nat) (f : Slot → Slot) (q : Nat) :
    (d.onSlot r k f).core q = if r = q then (d.core r).onSlot k f else d.core q :=
  Dev.onCore_core d r _ q

theorem Dev.onCoach_coach (d : Dev) (u : Nat) (f : Coach → Coach) (q : Nat) :
    (d.onCoach u f).coach q = if u = q then f (d.coach u) else d.coach q := by
  simp [Dev.onCoach, Dev.coach, Tab.get_set]

theorem Dev.onDie_die (d : Dev) (n : Nat) (f : Die → Die) (q : Nat) :
    (d.onDie n f).die q = if n = q then f (d.die n) else d.die q := by
  simp [Dev.onDie, Dev.die, Tab.get_set]

/-- An `x` register read after one is written: `x0` reads zero and discards (12 R257). -/
theorem Slot.setX_xr (t : Slot) (r : XReg) (v : Word) (q : XReg) :
    (t.setX r v).xr q = if q = 0 then 0 else if q = r then v else t.xr q := by
  unfold Slot.setX Slot.xr
  by_cases hq : q = 0
  · rw [if_pos hq, if_pos hq]
  · rw [if_neg hq, if_neg hq, if_neg hq]
    by_cases hr : r = 0
    · have hn : ¬q = r := by rw [hr]; exact hq
      rw [if_pos hr, if_neg hn]
    · rw [if_neg hr, Tab.get_set]
      by_cases h : q = r
      · rw [if_pos h, if_pos (by rw [h])]
      · rw [if_neg h, if_neg (fun e => h (BitVec.eq_of_toNat_eq e.symm))]

@[simp] theorem Slot.setP_xr (t : Slot) (r : PReg) (b : Bool) (q : XReg) : (t.setP r b).xr q = t.xr q := by
  simp [Slot.xr]

@[simp] theorem Slot.setX_pr (t : Slot) (r : XReg) (v : Word) (q : PReg) : (t.setX r v).pr q = t.pr q := by
  simp [Slot.pr]

@[simp] theorem Slot.advance_xr (t : Slot) (q : XReg) : t.advance.xr q = t.xr q := rfl
@[simp] theorem Slot.advance_pr (t : Slot) (q : PReg) : t.advance.pr q = t.pr q := rfl

/-- A predicate read after one is written: `p0` reads true and discards (12 R257). -/
theorem Slot.setP_pr (t : Slot) (r : PReg) (b : Bool) (q : PReg) :
    (t.setP r b).pr q = if q = 0 then true else if q = r then b else t.pr q := by
  have h (w : BitVec 8) (r q : PReg) (b : Bool) :
      (if b then w ||| ((1 : BitVec 8) <<< r.toNat) else w &&& ~~~((1 : BitVec 8) <<< r.toNat)).getLsbD q.toNat =
        if q = r then b else w.getLsbD q.toNat := by
    have hq : q.toNat < 8 := q.isLt
    have hr : r.toNat < 8 := r.isLt
    have e : (q = r) = (q.toNat = r.toNat) := propext BitVec.toNat_inj.symm
    simp only [e]
    cases b <;> by_cases h : q.toNat = r.toNat
    · simp [h, hr]
    · by_cases h2 : q.toNat < r.toNat
      · simp [h, h2, hq]
      · have : q.toNat - r.toNat ≠ 0 := by omega
        simp [h, h2, hq, this]
    · simp [h, hr]
    · by_cases h2 : q.toNat < r.toNat
      · simp [h, h2]
      · have : q.toNat - r.toNat ≠ 0 := by omega
        simp [h, BitVec.getLsbD_one, this]
  unfold Slot.setP Slot.pr
  by_cases hq : q = 0
  · rw [if_pos hq, hq]; rfl
  · have hb : (q == 0) = false := beq_false_of_ne hq
    by_cases hr : r = 0
    · have hn : ¬q = r := by rw [hr]; exact hq
      rw [if_pos hr, if_neg hq, if_neg hn]
    · rw [if_neg hr, if_neg hq, hb, Bool.false_or, Bool.false_or]; exact h t.p r q b

end Sys2Proof.Machine
end

