-- ==== Sys2Proof/Laws/Sending.lean ====
section
/-! SUPPORT. One lemma per shared operation of sending: waiting (02 R35 Park), the stalls before a request (06 R115, R124,
R125, R134), sending (02 R35 Send, 06 R114), and a checked access (14 R301). -/

namespace Sys2Proof.Machine

theorem parkUnless_pos (s : State) (c : WaitCond) (k : State → Out) (h : c.holds s s.dev.rank s.dev.who = true) :
    parkUnless s c k = k s := by simp [parkUnless, h]
theorem parkUnless_neg (s : State) (c : WaitCond) (k : State → Out) (h : c.holds s s.dev.rank s.dev.who = false) :
    parkUnless s c k = onlyMine s (fun t => { t with parked := some c }) := by simp [parkUnless, h, devStep, onlyMine, Dev.park]

theorem enter_cls (f : Flow) (c : Cls) (id n : Nat) (k : Cls) :
    (f.enter c id n).cls k = if k = c ∧ k ≠ .none then f.cls k ++ [(id, n)] else f.cls k := by
  cases c <;> cases k <;> simp [Flow.enter, Flow.setCls, Flow.cls]

theorem sendNow_sends (s : State) (q : Ask) (p : Word) (l : Loc) (key : Nat) :
    ∃ t, sendNow s q p l key = .next t ∧ Sends s t q.cls q.op q.dst l q.acq q.judged := by
  refine ⟨_, rfl, { q.req s.dev p l key with id := s.dev.me.flow.nextId }, ⟨rfl, rfl, rfl, rfl, rfl, rfl⟩, ?_⟩
  have hme : (s.dev.onMe (fun t =>
      { t.advance with flow := sendFlow t.flow (q.req s.dev p l key) q.acq
                       parked := if q.judged then some (.answer t.flow.nextId) else none })).me.flow = sendFlow s.dev.me.flow (q.req s.dev p l key) q.acq := by
    rw [Dev.onMe_me]
  dsimp only
  rw [hme]
  refine ⟨?_, ?_, ?_, ?_, ?_, ?_, ?_, ?_⟩
  · cases h : q.cls <;> simp [sendFlow, Flow.spent, Flow.send, Flow.raiseCnt, Flow.enter, Flow.setCls, Ask.req, h, Flow.cls]
  · intro k; cases h : q.cls <;> cases k <;> simp [sendFlow, Flow.spent, Flow.send, Flow.raiseCnt, Flow.enter, Flow.setCls, Ask.req, h, Flow.cls]
  · cases h : q.cls <;> simp [sendFlow, Flow.spent, Flow.send, Flow.raiseCnt, Flow.enter, Flow.setCls, Ask.req, h]
  · cases h : q.cls <;> simp [sendFlow, Flow.spent, Flow.send, Flow.raiseCnt, Flow.enter, Flow.setCls, Ask.req, h]
  · cases h : q.cls <;> simp [sendFlow, Flow.spent, Flow.send, Flow.raiseCnt, Flow.enter, Flow.setCls, Ask.req, h]
  · cases h : q.cls <;> simp [sendFlow, Flow.spent, Flow.send, Flow.raiseCnt, Flow.enter, Flow.setCls, Ask.req, h]
  · cases h : q.cls <;> simp [sendFlow, Flow.spent, Flow.send, Flow.raiseCnt, Flow.enter, Flow.setCls, Ask.req, h]
  · simp only [Dev.onMe, Dev.onSlot, Dev.onCore, Core.onSlot, Slot.advance, Dev.me, Dev.slot]

theorem askAt_sends (s : State) (q : Ask) (p : Word) (l : Loc) (key : Nat)
    (h : Passes s q.spaces p q.n q.align q.rd q.wr l key) (hb : q.op.writes = true → BindAllows s l q.n) :
    ∃ t, askAt s q p = .next t ∧ Sends s t q.cls q.op q.dst l q.acq q.judged := by
  obtain ⟨h1, h2⟩ := h
  have h5 : (pspace p = 5 && q.spaces.contains 5 && !privSlot s.dev.who) = false := by
    by_cases hp : pspace p = 5
    · by_cases hv : privSlot s.dev.who = true
      · simp [hv]
      · simp [checkAcc, checks5, hp, hv] at h2
    · simp [hp]
  have hg : guardRefuses s.dev q l = false := by
    cases l <;> simp [guardRefuses]
    intro hw; exact hb hw _ _ rfl
  have hc : q.spaces.contains (pspace p) = true := by simpa using h1
  unfold askAt
  rw [h5, hc, h2]
  simp only [hg]
  exact sendNow_sends s q p l key

theorem sendStalls_go (s : State) (load w : Bool) (k : State → Out) (h : MaySend s load w none) :
    sendStalls s load k w = k s := by
  obtain ⟨m1, m2, m3, _⟩ := h
  have a1 : WaitCond.sendHold.holds s s.dev.rank s.dev.who = true := by
    have : (s.dev.slot s.dev.rank s.dev.who).flow.acq = [] := m1
    simp [WaitCond.holds, this]
  have a3 : (WaitCond.room w).holds s s.dev.rank s.dev.who = true := m3
  unfold sendStalls
  rw [parkUnless_pos _ _ _ a1]
  cases load
  · exact parkUnless_pos _ _ _ a3
  · simp only [if_true]; rw [parkUnless_pos _ _ _ (m2 rfl)]; exact parkUnless_pos _ _ _ a3

theorem afterRelease_go (s : State) (load w : Bool) (rel : Option Scope) (k : State → Out) (h : MaySend s load w rel) :
    afterRelease s rel k = k s := by
  cases rel with
  | none => rfl
  | some sc => exact parkUnless_pos _ _ _ (h.2.2.2 sc rfl)

theorem may_send_weaken {s : State} {load w : Bool} {rel : Option Scope} (h : MaySend s load w rel) : MaySend s load w none :=
  ⟨h.1, h.2.1, h.2.2.1, fun _ e => by cases e⟩

theorem access_sends (s : State) (rel : Option Scope) (load : Bool) (q : Ask) (base : Word) (off : Int) (p : Word) (l : Loc) (key : Nat)
    (hm : MaySend s load q.op.writes rel) (hp : padvance base off = some p)
    (h : Passes s q.spaces p q.n q.align q.rd q.wr l key) (hb : q.op.writes = true → BindAllows s l q.n) :
    ∃ t, access s rel load q base off = .next t ∧ Sends s t q.cls q.op q.dst l q.acq q.judged := by
  have e : access s rel load q base off = askAt s q p := by
    unfold access
    rw [sendStalls_go _ _ _ _ (may_send_weaken hm), afterRelease_go _ _ _ _ _ hm, hp]
  rw [e]; exact askAt_sends s q p l key h hb

theorem passes_space0_glob (s : State) (p : Word) (n al : Nat) (rd wr : Bool) (loc : Loc) (key : Nat) (h : Passes s [0] p n al rd wr loc key) :
    ∃ pa, loc = .glob pa := by
  obtain ⟨h1, h2⟩ := h
  have h0 : pspace p = 0 := by simpa using h1
  unfold checkAcc at h2
  split at h2
  · cases h2
  · simp only [h0] at h2
    have key : ∀ va lv leaf, checks78 s.dev.objs (s.dev.me.asid.toNat) va n rd wr lv leaf = .ok loc key → ∃ pa, loc = .glob pa := by
      intro va lv leaf h
      unfold checks78 at h
      split at h
      · cases h
      · split at h
        · cases h
        · cases h; exact ⟨_, rfl⟩
    split at h2
    · exact key _ _ _ h2
    · split at h2
      · exact key _ _ _ h2
      · cases h2
      · cases h2


end Sys2Proof.Machine
end

