-- ==== Sys2Proof/Tests/Slice0.lean ====
section
/-! SUPPORT. Tests: words the manual writes out, ill-formed terms, and for every claim with hypotheses a state and operands
that meet them (the witness is named after the claim). -/

section
-- One theorem at a time: each waits for the kernel, and every waiting one would hold a thread and its stack.
set_option Elab.async false
open Sys2Proof Sys2Proof.Machine

/-- A state whose core 0 runs with one live thread in slot `k`, which is the issuing one. -/
def one (k : Nat) (t : Slot) (c : Core := {}) (d : Dev := {}) (m : Mem := []) : State :=
  { mem := m, dev := { d with cores := [(0, { c with running := true, slots := [(k, { t with life := .live })] })], who := k } }

/-- A state whose core 0 runs with the given slots and engines; slot `who` issues. -/
def many (who : Nat) (slots : Tab Slot) (eng : CoreEng := {}) (d : Dev := {}) (m : Mem := []) : State :=
  { mem := m, dev := { d with cores := [(0, { running := true, eng := eng, slots := slots })], who := who } }

/-- A register's value after an instruction; zero where there is no next state. -/
def regAfter (o : Out) (x : XReg) : Word :=
  match o with
  | .next t => t.dev.me.xr x
  | _ => 0

/-- The program counter after an instruction. -/
def pcAfter (o : Out) : Nat :=
  match o with
  | .next t => t.dev.me.pc.toNat
  | _ => 0
/-! ### Integer instructions: the manual's worked results (13 R269, R270, R272, R274) -/

/-- Slot 1 with the operands of 13 R270's table. -/
def sInt : State := one 1 { x := [(2, 0xFFFFFFFFFFFFFFF9), (3, 5), (4, 0x8000000000000000), (5, 0xFFFFFFFFFFFFFFFF), (9, 0x1000000000000100)],
                            chans := [(2, [(0xF00, false)])] }

theorem test_div_truncates : regAfter (exec (.div 1 2 (.imm 2)) sInt) 1 = 0xFFFFFFFFFFFFFFFD := by decide
theorem test_rem_sign : regAfter (exec (.rem 1 2 (.imm 2)) sInt) 1 = 0xFFFFFFFFFFFFFFFF := by decide
theorem test_divz : regAfter (exec (.divz 1 2 (.imm 2)) sInt) 1 = 0x7FFFFFFFFFFFFFFC := by decide
theorem test_div_zero : regAfter (exec (.div 1 3 (.imm 0)) sInt) 1 = 0xFFFFFFFFFFFFFFFF := by decide
theorem test_remz_zero : regAfter (exec (.remz 1 3 (.imm 0)) sInt) 1 = 5 := by decide
theorem test_div_corner : regAfter (exec (.div 1 4 (.reg 5)) sInt) 1 = 0x8000000000000000 := by decide
theorem test_mulh : regAfter (exec (.mulh 1 5 (.imm 2)) sInt) 1 = 0xFFFFFFFFFFFFFFFF := by decide
theorem test_mulhz : regAfter (exec (.mulhz 1 5 (.imm 2)) sInt) 1 = 1 := by decide
theorem test_clz_zero : regAfter (exec (.clz 1 0) sInt) 1 = 64 := by decide
theorem test_shl_mod : regAfter (exec (.shl 1 3 (.imm 65)) sInt) 1 = 10 := by decide
theorem test_add_wraps : regAfter (exec (.add 1 5 (.imm 1)) sInt) 1 = 0 := by decide
theorem test_x0_discards : regAfter (exec (.add 0 3 (.imm 1)) sInt) 0 = 0 := by decide
theorem test_sar_sign : regAfter (exec (.sar 1 4 (.imm 63)) sInt) 1 = 0xFFFFFFFFFFFFFFFF := by decide
theorem test_rol : regAfter (exec (.rol 1 4 (.imm 1)) sInt) 1 = 1 := by decide
theorem test_min_signed : regAfter (exec (.min 1 4 (.reg 3)) sInt) 1 = 0x8000000000000000 := by decide
theorem test_minz_unsigned : regAfter (exec (.minz 1 4 (.reg 3)) sInt) 1 = 5 := by decide
theorem test_bext_channel : regAfter (exec (.bext 1 (.ch 2) 8 3) sInt) 1 = 0xFFFFFFFFFFFFFFFF := by decide
theorem test_bextz_channel : regAfter (exec (.bextz 1 (.ch 2) 8 3) sInt) 1 = 15 := by decide
theorem test_bins : regAfter (exec (.bins 3 5 4 3) sInt) 3 = 0xF5 := by decide
theorem test_lih : regAfter (exec (.lih 4 0x1234) sInt) 4 = 0x1234000000000000 := by decide
theorem test_li_sign : regAfter (exec (.li 1 0xFFFFFFFFFFFF) sInt) 1 = 0xFFFFFFFFFFFFFFFF := by decide
theorem test_padd : regAfter (exec (.padd 1 9 (.imm 8)) sInt) 1 = 0x1000000000000108 := by decide
theorem test_br_wraps : pcAfter (exec (.br 0xFFF6) (one 1 { pc := 22 })) = 12 := by decide
theorem test_lp_ends : pcAfter (exec (.lp 3 7) (one 1 { x := [(3, 1)], pc := 22 })) = 23 := by decide
theorem test_lp_x0_branches : pcAfter (exec (.lp 0 7) sInt) = 7 := by decide
theorem test_callr_reads_first : pcAfter (exec (.callr 5 5) (one 1 { x := [(5, 9)], pc := 22 })) = 9 := by decide

/-- The widest field, and a channel with a word and one without. -/
theorem wit_ShiftsCountsAndBitFields : (0#6).toNat + (63#6).toNat < 64 ∧ (63#6).toNat + (0#6).toNat < 64 ∧
    isHelper sInt.dev.who = true ∧ Tab.get [] sInt.dev.me.chans 2 = [(0xF00, false)] ∧ Tab.get [] sInt.dev.me.chans 3 = [] := by decide

/-- Each clause of the pointer operations: in range at both ends and beyond, known and reserved codes, tags at their bounds. -/
theorem wit_PointerOperations :
    (pspace 0x1000000000000000 ≤ 6 ∧ addrWidth 1 = 18 ∧ addrWidth 0 = 49 ∧ addrWidth 5 = 24) ∧
    (6 < pspace 0x7000000000000000) ∧
    (pspace (0x1000000000000000 : Word) ≤ 6 ∧ pfmtOf 0x1820000000000000 = 8 ∧ plcode 0x1860000000000000 = 3 ∧ pfmtOf 0x1900000000000000 = 9) ∧
    ((2047#11).toNat < 2 ^ 11 ∧ (255#11).toNat < 2 ^ 8 ∧ (0#11).toNat < 2 ^ 0 ∧ 2 ^ 8 ≤ (256#64).toNat) := by decide
/-! ### Memory instructions -/

/-- Slot 1 with a window over all of local memory and pointers into it: `x9` to a word, `x10` to one aligned to 64 bytes. -/
def sMem : State :=
  one 1 { lmlim := 0x40000, smask := 1, owner := some 4, x := [(4, 1), (9, 0x1000000000000100), (10, 0x1000000000001000), (11, 7)] }

/-- The last word of the local window. -/
def sTop : State := one 1 { lmlim := 0x40000, x := [(9, 0x100000000003FFF8)] }

theorem mayRel (s : State) (l w : Bool) (sc : Scope) (h1 : s.dev.me.flow.acq = [])
    (h2 : l = true → WaitCond.coHold.holds s s.dev.rank s.dev.who = true) (h3 : s.dev.room s.dev.rank s.dev.who 1 w = true)
    (h4 : releaseOk s.dev s.dev.rank s.dev.who sc = true) : MaySend s l w (some sc) :=
  ⟨h1, h2, h3, fun _ h => by cases h; exact h4⟩

theorem mayPlain (s : State) (l w : Bool) (h1 : s.dev.me.flow.acq = [])
    (h2 : l = true → WaitCond.coHold.holds s s.dev.rank s.dev.who = true) (h3 : s.dev.room s.dev.rank s.dev.who 1 w = true) :
    MaySend s l w none :=
  ⟨h1, h2, h3, fun _ h => by cases h⟩

theorem sMem_load : MaySend sMem true false none := mayPlain _ _ _ (by decide) (by decide) (by decide)
theorem sMem_store : MaySend sMem false true none := mayPlain _ _ _ (by decide) (by decide) (by decide)
theorem sMem_both : MaySend sMem true true none := mayPlain _ _ _ (by decide) (by decide) (by decide)
theorem sMem_rel (sc : Scope) : MaySend sMem false true (some sc) :=
  mayRel _ _ _ _ (by decide) (by decide) (by decide) (by cases sc <;> decide)
theorem sMem_bothRel (sc : Scope) : MaySend sMem true true (some sc) :=
  mayRel _ _ _ _ (by decide) (by decide) (by decide) (by cases sc <;> decide)
theorem sMem_bind (o n : Nat) : BindAllows sMem (.loc 0 o) n := fun r o h => by cases h; rfl

/-- A load and a store at the last byte of their window, plain and ordered. -/
theorem wit_LoadsAndStoresSend : sMem.dev.me.elide = none ∧ MaySend sMem true false none ∧ MaySend sMem false true (some .sys) ∧
    padvance (sMem.dev.x 9) 8 = some 0x1000000000000108 ∧
    Passes sMem [0, 1, 2, 4, 5, 6] 0x1000000000000108 8 8 true false (.loc 0 0x108) 0 ∧
    Passes sMem [0, 1, 2, 4, 5, 6] 0x1000000000000108 8 8 false true (.loc 0 0x108) 0 ∧ BindAllows sMem (.loc 0 0x108) 8 ∧
    Passes sTop [0, 1, 2, 4, 5, 6] 0x100000000003FFF8 8 8 true false (.loc 0 0x3FFF8) 0 :=
  ⟨by decide, sMem_load, sMem_rel _, by decide, by unfold Passes; decide, by unfold Passes; decide, sMem_bind _ _, by unfold Passes; decide⟩

/-- Full/empty forms and the memory-side routines; `enq` and `deq` on a header of global memory. -/
def sGlob : State := one 1 { x := [(9, 0x20000), (8, 0x20040)] } { eng := { tlb := [⟨0, 2, 2, 0x100000F⟩] } }

theorem wit_FullEmptyAndRoutinesSend :
    (MaySend sMem true false none ∧ MaySend sMem false true (some .core) ∧ MaySend sMem true true none ∧ BindAllows sMem (.loc 0 0x1000) 32 ∧
      Passes sMem [0, 1, 2, 6] 0x1000000000001000 8 8 true true (.loc 0 0x1000) 0 ∧
      Passes sMem [0, 1, 2, 6] 0x1000000000001000 8 8 false true (.loc 0 0x1000) 0 ∧
      Passes sMem [0, 1, 2, 6] 0x1000000000001000 16 16 true true (.loc 0 0x1000) 0 ∧
      Passes sMem [0, 1, 2, 6] 0x1000000000001000 32 32 true true (.loc 0 0x1000) 0) ∧
    (padvance (sGlob.dev.x 9) 0 = some 0x20000 ∧ Passes sGlob [0] 0x20000 16 16 true true (.glob 0x1000000) 0 ∧
      sGlob.dev.x 8 ≠ 0 ∧ tagsKnown (sGlob.dev.x 8) = true ∧ locBitsOk (sGlob.dev.x 8) = true ∧ pspace (sGlob.dev.x 8) = 0 ∧
      paddr (sGlob.dev.x 8) % 8 = 0 ∧ checks5 sGlob.dev 0 1 sGlob.dev.me .scalar 0x20000 8 8 = none) ∧
    MaySend sGlob true true none ∧ MaySend sGlob false true none ∧ MaySend sGlob true false none :=
  ⟨⟨sMem_load, sMem_rel _, sMem_both, sMem_bind _ _, by unfold Passes; decide, by unfold Passes; decide, by unfold Passes; decide,
    by unfold Passes; decide⟩, by unfold Passes; decide,
    mayPlain _ _ _ (by decide) (by decide) (by decide), mayPlain _ _ _ (by decide) (by decide) (by decide),
    mayPlain _ _ _ (by decide) (by decide) (by decide)⟩

theorem wit_AtomicsAndReductionsSend : MaySend sMem true true (some .dev) ∧ MaySend sMem false true none ∧
    padvance (sMem.dev.x 9) 0 = some 0x1000000000000100 ∧ Passes sMem [0, 1, 2, 6] 0x1000000000000100 8 8 true true (.loc 0 0x100) 0 ∧
    Passes sMem [0, 1, 2, 6] 0x1000000000000100 4 4 true true (.loc 0 0x100) 0 ∧ BindAllows sMem (.loc 0 0x100) 8 :=
  ⟨sMem_bothRel _, sMem_store, by decide, by unfold Passes; decide, by unfold Passes; decide, sMem_bind _ _⟩

/-- A request of slot 1 for a global word, as an example for its home. -/
def reqOf (op : ReqOp) (pa : Nat) : Req :=
  { id := 0, cls := .st, op := op, ptr := 0x20000, loc := .glob pa, dst := .x 5, pc := 3, asid := 0, domain := 0, die := true, pkg := true,
    sys := true, kind := 1, elem := 0, key := 0, judged := false }

/-- Slot 1 with one request in its bag, and memory with one word. -/
def sBag (op : ReqOp) : State :=
  one 1 { flow := { bag := [reqOf op 0x100], st := [(0, 1)], die := 1, pkg := 1, sys := 1 } } {} {} [(0x100, 0xFE), (0x101, 0xFF)]

def cntAfter (o : Out) : List (BitVec 9) :=
  match o with
  | .next t => [t.dev.me.flow.die, t.dev.me.flow.pkg, t.dev.me.flow.sys]
  | _ => []

theorem wit_FencesAndDrains :
    (sMem.dev.me.flow.ld = [] ∧ sMem.dev.me.flow.acq = [] ∧ sMem.dev.me.flow.posted = [] ∧ sMem.dev.me.flow.counter .sys = 0 ∧
      hasSf sMem.dev.my.eng 1 = false ∧ WaitCond.drain.holds sMem 0 1 = true) ∧
    (sBag (.store 8 1)).dev.me.flow.counter .sys ≠ 0 ∧ (∃ q ∈ (one 1 { flow := { posted := [{ reqOf (.store 8 1) 0 with loc := .peer 0 0 }] } }).dev.me.flow.posted, q.ready = false) := by
  decide

theorem wit_PerformedStoresAndLoads : InBag (sBag (.store 8 0x0102)) 0 1 0 (reqOf (.store 8 0x0102) 0x100) ∧ Served (sBag (.store 8 0x0102)) 0x100 8 ∧
    (sBag (.store 8 0x0102)).memOk ∧ InBag (sBag (.load 1 true)) 0 1 0 (reqOf (.load 1 true) 0x100) :=
  ⟨by unfold InBag NoneReady; decide, by unfold Served; decide, by unfold State.memOk; decide, by unfold InBag NoneReady; decide⟩

/-- The byte that a home leaves at an address, and the value it returns first. -/
def memAfter (o : Out) (a n : Nat) : Nat :=
  match o with
  | .next t => t.mem.readN a n
  | _ => 0

def retAfter (o : Out) : Option RetVal :=
  match o with
  | .next t => t.dev.me.flow.rets.head?.map (·.val)
  | _ => none

theorem test_store_low_byte_first : memAfter (exec (.perform 0 1 0) (sBag (.store 2 0x0102))) 0x100 1 = 2 := by decide
theorem test_load_extends : retAfter (exec (.perform 0 1 0) (sBag (.load 1 true))) = some (.words [0xFFFFFFFFFFFFFFFE] true) := by decide
theorem test_amo_min_signed : memAfter (exec (.perform 0 1 0) (sBag (.amo .min false 5 0))) 0x100 4 = 5 := by decide
theorem test_amo_add_narrow : memAfter (exec (.perform 0 1 0) (sBag (.amo .add false 0xFFFFFFFF 0))) 0x100 8 = 0xFFFD := by decide
theorem test_amo_cas_fails : memAfter (exec (.perform 0 1 0) (sBag (.amo .cas true 1 2))) 0x100 8 = 0xFFFE := by decide

theorem wit_PerformedAtomics : InBag (sBag (.amo .add false 1 0)) 0 1 0 (reqOf (.amo .add false 1 0) 0x100) ∧
    Served (sBag (.amo .add false 1 0)) 0x100 4 ∧ (sBag (.amo .add false 1 0)).memOk ∧
    InBag (sBag (.red .fadd false 1)) 0 1 0 (reqOf (.red .fadd false 1) 0x100) ∧ AmoFn.fadd ≠ .cas :=
  ⟨by unfold InBag NoneReady; decide, by unfold Served; decide, by unfold State.memOk; decide, by unfold InBag NoneReady; decide, by decide⟩

/-- The same with the word empty. -/
def sEmpty (op : ReqOp) : State := { sBag op with dev := { (sBag op).dev with mmeta := { empty := [(0x20, true)] } } }

theorem wit_PerformedFullEmptyOps : InBag (sBag (.fe .take 0)) 0 1 0 (reqOf (.fe .take 0) 0x100) ∧ Served (sBag (.fe .take 0)) 0x100 8 ∧
    Tab.get false (sBag (.fe .take 0)).dev.mmeta.empty 0x20 = false ∧ firstWaiter (sBag (.fe .take 0)).dev.objs.feWait (.glob 0x100) = none ∧
    InBag (sEmpty (.fe .peek 0)) 0 1 0 (reqOf (.fe .peek 0) 0x100) ∧ Tab.get false (sEmpty (.fe .peek 0)).dev.mmeta.empty 0x20 = true ∧
    Tab.wfFrom false 0 (sEmpty (.fe .fill 7)).dev.mmeta.empty = true ∧ InBag (sEmpty (.fe .fill 7)) 0 1 0 (reqOf (.fe .fill 7) 0x100) :=
  by
  unfold InBag NoneReady Served; decide

theorem test_take_empties : (match exec (.perform 0 1 0) (sBag (.fe .take 0)) with
    | .next t => Tab.get false t.dev.mmeta.empty 0x20
    | _ => false) = true := by decide
theorem test_fill_fills : (match exec (.perform 0 1 0) (sEmpty (.fe .fill 7)) with
    | .next t => !Tab.get false t.dev.mmeta.empty 0x20 && t.mem.readN 0x100 8 == 7
    | _ => false) = true := by decide

/-- An acknowledgement and a value on the return path. -/
def sAck : State := one 1 { flow := { acks := [⟨reqOf (.store 8 1) 0x100, none⟩], st := [(0, 1)], die := 1, pkg := 1, sys := 1 } }
def sRet : State := one 1 { flow := { rets := [⟨reqOf (.load 8 false) 0x100, .words [77] true⟩], st := [(0, 1)] } }

theorem wit_AcknowledgeAndReturn : nth? (sAck.dev.slot 0 1).flow.acks 0 = some ⟨reqOf (.store 8 1) 0x100, none⟩ ∧
    nth? (sRet.dev.slot 0 1).flow.rets 0 = some ⟨reqOf (.load 8 false) 0x100, .words [77] true⟩ ∧
    (reqOf (.load 8 false) 0x100).dst = .x 5 := by decide
theorem test_ack_lowers_counters : cntAfter (exec (.acknowledge 0 1 0) sAck) = [0, 0, 0] := by decide
theorem test_return_reaches_register : regAfter (exec (.returnValue 0 1 0) sRet) 5 = 77 := by decide
/-! ### Waiting, faults and handlers -/

/-- Slot 1 parked on `wait ld=0` with nothing outstanding, and with one load. -/
def sWait (n : Nat) : State :=
  one 1 { parked := some (.counts (some 0) none none none), flow := { ld := if n = 0 then [] else [(0, n)] } }

theorem wit_WakesFetchesAndIllegalWords :
    ((sWait 0).dev.slot 0 1).parked = some (.counts (some 0) none none none) ∧
    (WaitCond.counts (some 0) none none none).holds (sWait 0) 0 1 = true ∧ (sWait 0).dev.plat.dieOp = none ∧
    (WaitCond.counts (some 0) none none none).holds (sWait 1) 0 1 = false ∧
    isHelper sMem.dev.who = true ∧ sMem.dev.my.eng.events.length < 64 ∧ sMem.dev.my.eng.eventWait = [] ∧
    isHelper (one 0 {}).dev.who = false ∧ (one 0 {}).dev.me.elide = none := by decide

/-- The word at a place of core 0's local memory after an instruction. -/
def lmemAfter (o : Out) (a : Nat) : Word :=
  match o with
  | .next t => (t.dev.core 0).lmem.word a
  | _ => 0

/-- 20 R377: word 0 of the record of slot 1 at word 7: cause, op valid, slot 1, group lead 0, PC. -/
theorem test_trap_record : lmemAfter (exec (.trap 9) (one 1 { pc := 7 })) 25600 = 0x7881000000000007 := by decide
theorem test_trap_immediate : lmemAfter (exec (.trap 9) (one 1 { pc := 7 })) 25616 = 9 := by decide

theorem wit_TakingAFault : (one 1 { pc := 7 }).dev.me.elide = none ∧
    ¬((0x78 : Byte) = 0x10 ∧ isHelper (one 1 { pc := 7 }).dev.who = true ∧ handsOff (one 1 { pc := 7 }).dev 0 = true) := by decide

/-- Slot 1 with a deferred fault, and with a store-fault record; faults wait for slots 13 and 15. -/
def sDefer : State := one 1 { flow := { deferred := [⟨0x68, 0x20000, 0⟩] } }
def sSfault : State := one 1 {} { eng := { sfq := [⟨0x68, 0, 1, 1, 0, 3, 0x20000⟩] } }
def sPend : State := many 0 [] { pend13 := [⟨1, 5, 0x68, none, false, 0⟩], pend15 := [⟨13, 5, 0x01, none, false, 0⟩] }

theorem wit_FaultsReachTheirHandlers :
    ((sDefer.dev.slot 0 1).life = .live ∧ (sDefer.dev.slot 0 1).held = false ∧ (sDefer.dev.slot 0 1).pre = none ∧
      (sDefer.dev.slot 0 1).elide = none ∧ (sDefer.dev.slot 0 1).parked = none ∧
      (sDefer.dev.slot 0 1).flow.deferred = [⟨0x68, 0x20000, 0⟩]) ∧
    ((sSfault.dev.slot 0 1).life = .live ∧ (sSfault.dev.slot 0 1).flow.deferred = [] ∧
      (sSfault.dev.core 0).eng.sfq.find? (fun y => y.slot == 1) = some ⟨0x68, 0, 1, 1, 0, 3, 0x20000⟩) ∧
    sPend.dev.engineUp 0 = true ∧ (sPend.dev.core 0).eng.pend13 = [⟨1, 5, 0x68, none, false, 0⟩] ∧ serviceIdle ((sPend.dev.core 0).slot 13) = true ∧
    (sPend.dev.core 0).eng.pend15 = [⟨13, 5, 0x01, none, false, 0⟩] ∧ serviceIdle ((sPend.dev.core 0).slot 15) = true := by decide

theorem test_store_fault_operand : lmemAfter (exec (.impreciseStoreFault 0 1) sSfault) 25616 = 0x16800 := by decide

/-- Slot 13 handles a fault of slot 1, which is held; `x4` asks for skip, `x5` for redirect to word 9. -/
def sHand : State :=
  many 13 [(1, { life := .live, held := true, pc := 7 }), (13, { life := .live, x := [(4, 1), (5, 0x90003), (6, 0x80000000)] })]
    { hand13 := some ⟨1, 5, 0x68, none, false, 0⟩ }

/-- The PC of slot 1 after an instruction of another. -/
def pc1After (o : Out) : Nat :=
  match o with
  | .next t => (t.dev.slot 0 1).pc.toNat
  | _ => 0

theorem wit_TrapsAndReturns : sHand.dev.my.eng.hand13 = some ⟨1, 5, 0x68, none, false, 0⟩ ∧ (sHand.dev.slot 0 1).life = .live ∧
    (sHand.dev.slot 0 1).held = true ∧ (sHand.dev.x 5).getLsbD 31 = false ∧ bits (sHand.dev.x 5) 15 2 = 0 ∧ bits (sHand.dev.x 5) 1 0 = 3 ∧
    (sHand.dev.x 6).getLsbD 31 = true ∧ (1 ≤ (one 1 { pc := 7 }).dev.who ∧ (one 1 { pc := 7 }).dev.who ≤ 11 ∧
      (one 1 { pc := 7 }).dev.me.elide = none) := by decide
theorem test_eret_skip : pc1After (exec (.eret 4) sHand) = 8 := by decide
theorem test_eret_redirect : pc1After (exec (.eret 5) sHand) = 9 := by decide

/-- Records that wait for room, and a walk under a one-level table: root 0x8000, its entry a 256 GiB leaf. -/
def sQueued : State :=
  many 0 [] { sfWait := [(⟨0x68, 0, 1, 1, 0, 3, 0x20000⟩, none)], eventWait := [((1, 2), none)], mail := [⟨3, 0, 0⟩] }
    { objs := { roots := [(3, 0x8000)] } } [(0x8000, 0x0F)]

set_option maxRecDepth 4000 in
theorem wit_QueuedRecordsAndWalks :
    (sQueued.dev.core 0).eng.sfWait = [(⟨0x68, 0, 1, 1, 0, 3, 0x20000⟩, none)] ∧ (sQueued.dev.core 0).eng.sfq.length < 16 ∧
    (sQueued.dev.core 0).eng.eventWait = [((1, 2), none)] ∧ (sQueued.dev.core 0).eng.events.length < 64 ∧
    nth? (sQueued.dev.core 0).eng.mail 0 = some ⟨3, 0, 0⟩ ∧ walkHeld sQueued 3 0 = false ∧ sQueued.dev.engineUp 0 = true ∧
    walkPoison sQueued 3 0 = none ∧ (walk sQueued 3 0).isSome = true ∧
    (∀ k < 16, (sQueued.dev.slot 0 k).flow.posted = []) :=
  ⟨by decide, by decide, by decide, by decide, by decide, by decide, by decide, by decide, by decide, by decide⟩

/-- Slot 1 asked to leave, parked, its 4 µs passed: for a hand-off, for a `ctxsave` of slot 15, and for a save of die 0. -/
def sPreFor (dst : Option XReg) (op : Option DieOp) : State :=
  many 0 [(1, { life := .live, pre := some ⟨1, 0, 0, 0x100000, false, dst⟩, parked := some .event, x := [(5, 9)] }),
          (15, { life := .live, parked := some (.preempted 1) })] {} { now := 7200, plat := { dieOp := op } }
def sPre : State := sPreFor none none

theorem wit_PreemptedContextsLeaveTheirSlots : (∀ dst ∈ [none, some (4 : XReg)], ∀ op ∈ [none, some (⟨true, 0x100000, 0⟩ : DieOp)],
    ((sPreFor dst op).dev.slot 0 1).pre = some ⟨1, 0, 0, 0x100000, false, dst⟩ ∧ ((sPreFor dst op).dev.slot 0 1).life = .live ∧
      ((sPreFor dst op).dev.slot 0 1).elide = none ∧ ((sPreFor dst op).dev.slot 0 1).lapsed = false ∧ (sPreFor dst op).dev.plat.dieOp = op ∧
      enginesStill (haltThread (sPreFor dst op).dev 0 1) 0 1 = true) ∧ (sPre.dev.slot 0 1).parked ≠ none ∧ 0 + 7200 ≤ sPre.dev.now := by decide
theorem test_preempted_frees_slot : (match exec (.preemptTimeout 0 1) sPre with
    | .next t => (t.dev.slot 0 1).life == .free && (t.dev.core 0).eng.saved.any (fun q => Tab.get 0 q.ctx.x 5 == 9)
    | _ => false) = true := by decide

/-- `ctxsave` gives its D status 0 and goes on. -/
theorem test_ctxsave_answers : (match exec (.preemptTimeout 0 1) (sPreFor (some 4) none) with
    | .next t => (t.dev.slot 0 15).xr 4 == 0 && (t.dev.slot 0 15).parked.isNone && (t.dev.slot 0 15).pc == 1
    | _ => false) = true := by decide

/-- A core whose control context and one helper are parked. -/
def parkedCore : Core :=
  { running := true, slots := [(0, { life := .live, parked := some .event }), (1, { life := .live, parked := some (.sem 0) })] }

/-- Every core of die 0 parked, in the mode in which a die is a logical device of its own. -/
def sDead : State := { mem := [], dev := { objs := { mode := 2 }, cores := (upto 256).map (fun r => (r, parkedCore)) } }

set_option maxRecDepth 100000 in
theorem test_deadlock_conditions : deadlocked sDead 0 = true ∧ deadlocked (one 1 {}) 0 = false := by decide +kernel

set_option maxRecDepth 100000 in
theorem wit_DeadlockIsReportedOnce : 0 ∉ sDead.dev.plat.deadlockRaised ∧ (∀ n < 8, (sDead.dev.die n).halted = false) ∧
    (∀ r < 2048, ldevOf sDead.dev.objs.mode (dieOf r) = 0 → r < 256) ∧
    (∀ r < 256, (∀ k < 16, (sDead.dev.slot r k).life = .live → (sDead.dev.slot r k).held = false ∧ (sDead.dev.slot r k).pre = none ∧
        (sDead.dev.slot r k).flow.deferred = [] ∧ (sDead.dev.slot r k).parked.any (fun w => !w.holds sDead r k) = true) ∧
      (sDead.dev.slot r 0).life = .live ∧ (sDead.dev.slot r 0).parked = some .event ∧ (sDead.dev.core r).eng = {} ∧
      (sDead.dev.coach (unitOf r)).step = none ∧ ∀ k < 16, (sDead.dev.slot r k).flow = {}) ∧
    (sDead.dev.slot 0 1).life = .live ∧ (∀ c ∈ sDead.dev.cores, c.1 < 2048) ∧ sDead.dev.objs = { mode := 2 } ∧
    ((one 1 {}).dev.slot 0 1).parked = none := by decide +kernel
/-! ### Groups, semaphores and barriers -/

/-- Semaphore 0 with `v` units. -/
def sSem (v : Nat) : State := one 1 { smask := 1 } { regs := { sem := [(0, BitVec.ofNat 16 v)] } }

theorem wit_SemaphoreOperations : (isHelper (sSem 1).dev.who = true ∧ (sSem 1).dev.me.smask.getLsbD 0 = true) ∧ (sSem 1).dev.my.eng.semWait = [] ∧
    0 < (Tab.get 0 (sSem 1).dev.my.regs.sem 0).toNat ∧ WaitCond.coHold.holds (sSem 1) 0 1 = true ∧ (Tab.get 0 (sSem 0).dev.my.regs.sem 0).toNat = 0 ∧
    releaseOk (sSem 65535).dev 0 1 .core = true ∧
    ¬((sSem 1).dev.who = 0 ∨ (isHelper (sSem 1).dev.who = true ∧ (sSem 1).dev.me.smask.getLsbD 7 = true)) := by decide

/-- A semaphore's units after an instruction. -/
def semAfter (o : Out) : Nat :=
  match o with
  | .next t => (Tab.get 0 (t.dev.core 0).regs.sem 0).toNat
  | _ => 0

theorem test_sem_takes_unit : semAfter (exec (.semWait 0) (sSem 1)) = 0 := by decide
theorem test_sem_saturates : semAfter (exec (.semPost 0 2) (sSem 65534)) = 65535 := by decide

/-- The control context with one event. -/
def sEvent : State := many 0 [(0, { life := .live })] { events := [(1, 2)] }

theorem wit_WaitsAndEvents : (sWait 1).dev.me.flow.ld.length ≤ (1#9).toNat ∧ ¬((sWait 1).dev.me.flow.ld.length ≤ (0#9).toNat) ∧
    sMem.dev.who ≠ 0 ∧ (one 0 {}).dev.my.eng.events = [] ∧ sEvent.dev.my.eng.events = [(1, 2)] ∧ (62#6).toNat % 2 = 0 := by decide
theorem test_evpop_pair : regAfter (exec (.evpop 62) sEvent) 63 = 2 := by decide

/-- The control context of core 0 with a record in local memory and a start word for slot 1, its lead. -/
def sCtl : State :=
  one 0 { lmlim := 0x40000, x := [(4, 0x1000000000000040), (5, 0x800000000001), (6, 1), (7, 0x80000000000A)] } {} {}

theorem wit_GroupRequestsSend : sCtl.dev.who = 0 ∧ MaySend sCtl false false none ∧
    ((sCtl.dev.x 5).getLsbD 63 = false ∧ bits (sCtl.dev.x 5) 31 28 = 0 ∧ bits (sCtl.dev.x 5) 7 4 = 0 ∧ bits (sCtl.dev.x 5) 3 0 = 1 ∧
      bits (sCtl.dev.x 5) 47 32 = 0x8000 ∧ bits (sCtl.dev.x 5) 27 24 = 0 ∧ bits (sCtl.dev.x 7) 3 0 = 10) ∧
    Passes sCtl [0, 1] (sCtl.dev.x 4) 64 64 true false (.loc 0 0x40) 0 ∧ bits (sCtl.dev.x 6) 63 8 = 0 ∧
    releaseOk sCtl.dev 0 0 .sys = true ∧ sMem.dev.who ≠ 0 ∧
    anyHeld sCtl (.loc 0 0x40) 64 = false ∧ sCtl.poisonedIn (.loc 0 0x40) 64 = false :=
  ⟨by decide, mayPlain _ _ _ (by decide) (by decide) (by decide), by decide, by unfold Passes; decide, by decide, by decide, by decide, by decide, by decide⟩

/-- A task thread of a group of one. -/
def sTask : State :=
  many 1 [(1, { life := .live, lead := 1, x := [(4, 5)], owner := some 4 })]
    { groups := [⟨1, 1, 0, 4, 1, [1], 0, 0xFFFFFFFF, 0, [0, 0, 0, 0, 0, 0, 0, 0], 2, false, false⟩] }

theorem wit_EndingAThread : isHelper sTask.dev.who = true ∧ sTask.dev.me.gdepth = 0 ∧ drained sTask.dev.me.flow = true ∧
    (groupOf sTask.dev.my.eng sTask.dev.me.lead).map (·.forced) = some false ∧ isHelper sCtl.dev.who = false ∧
    (one 1 { gdepth := 1 }).dev.me.gdepth ≠ 0 ∧ sHand.dev.who = 13 := by decide
theorem test_end_zeroes : regAfter (exec (.endThread 4) sTask) 4 = 0 := by decide
theorem test_end_joins_status : (match exec (.endThread 4) sTask with
    | .next t => (groupOf (t.dev.core 0).eng 1).map (·.status)
    | _ => none) = some 7 := by decide

/-- One participant of queue 4's core barrier, before and after its arrival. -/
def sBar : State :=
  many 1 [(1, { life := .live, lead := 1, owner := some 4 })]
    { groups := [⟨1, 1, 0, 4, 1, [1], 0, 0xFFFFFFFF, 0, [0, 0, 0, 0, 0, 0, 0, 0], 2, false, false⟩] }
    { objs := { queues := [⟨4, 0, 0, 0, 1, 0, 0, 0, [], 0, [1, 1, 1, 1, 1], [], [], 0, none, false⟩], arrivals := [(1, 4, 0)] } }
def sBarDone : State :=
  many 1 [(1, { life := .live, lead := 1, owner := some 4, sent := 1, bars := [(1, some 0)] })]
    { groups := [⟨1, 1, 0, 4, 1, [1], 0, 0xFFFFFFFF, 0, [0, 0, 0, 0, 0, 0, 0, 0], 2, false, false⟩] }
    { objs := { queues := [⟨4, 0, 0, 0, 1, 0, 0, 0, [], 0, [1, 1, 1, 1, 1], [], [], 0, none, false⟩], bars := [⟨1, 4, 0, 1, 0⟩] } }

theorem wit_BarriersCountArrivals : isHelper sBar.dev.who = true ∧ barNeed sBar.dev 0 (levelNum .core) (myQueue sBar.dev) (barInst sBar.dev (levelNum .core)) ≠ 0 ∧
    Tab.get none sBar.dev.me.bars (levelNum .core) = none ∧ releaseOk sBar.dev 0 1 .core = true ∧ sBar.dev.me.sent = 0 ∧
    (sBarDone.dev.me.sent = 1 ∧ isHelper sBarDone.dev.who = true ∧ WaitCond.coHold.holds sBarDone 0 1 = true ∧
      barNeed sBarDone.dev 0 (levelNum .core) (myQueue sBarDone.dev) (barInst sBarDone.dev (levelNum .core)) ≠ 0 ∧ Tab.get none sBarDone.dev.me.bars (levelNum .core) = some 0 ∧
      barDone sBarDone.dev.objs (levelNum .core) (myQueue sBarDone.dev) (barInst sBarDone.dev (levelNum .core)) 0 = true) ∧
    nth? sBar.dev.objs.arrivals 0 = some (1, 4, 0) := by decide
/-! ### System instructions -/

/-- The supervisor agent of core 0. -/
def sSup (x : Tab Word) : State := many 15 [(15, { life := .live, x := x })]

theorem wit_ControlRegisterReads : isHelper (sSup []).dev.who = false ∧ (sHand.dev.who = 13) ∧
    (isHelper (sSem 1).dev.who = true ∧ (sSem 1).dev.me.smask.getLsbD 0 = true) ∧
    ¬(sMem.dev.who = 0 ∨ sMem.dev.who = 13 ∨ sMem.dev.who = 14 ∨ sMem.dev.who = 15) := by decide

/-- Values at the ends of what the registers admit: the greatest, and one beyond. -/
theorem wit_ControlRegisterWrites : isHelper (sSup []).dev.who = false ∧ (sSup [(4, 0xFFFF)]).dev.who = 15 ∧
    (0xFFFF : Word).toNat < 2 ^ 16 ∧ ¬((0x10000 : Word).toNat < 2 ^ 16) ∧
    ((0x40000 : Word).toNat ≤ 0x40000 ∧ (0x40000 : Word).toNat % 8 = 0) ∧ ¬((0x40008 : Word).toNat ≤ 0x40000) ∧
    (((sSup []).dev.who = 0 ∨ (sSup []).dev.who = 15) ∧ ((sSup []).dev.slot 0 1).life ≠ .live) ∧
    (bits 0x77 7 4 ≤ 7 ∧ bits 0x77 3 0 ≤ 7) ∧ ¬(bits 0x80 7 4 ≤ 7) ∧ (sSup []).dev.my.eng.mq = [] ∧ ¬(sSup []).dev.who = 0 := by decide

/-- A permitted write is read back. -/
theorem test_ctlw_reads_back : (match exec (.ctlw 0x20 0 false 4) (sSup [(4, 0x77)]) with
    | .next t => ctlValue t.dev 0x20 15
    | _ => 0) = 0x77 := by decide

/-- A request under way that used a translation of ASID 0, and one at a word that a bound of 64 makes code. -/
def sUser : State := many 0 [(0, { life := .live }), (1, { life := .live, flow := { bag := [reqOf (.load 8 false) 0x20000] } })]
def sBelow : State :=
  many 0 [(0, { life := .live, x := [(4, 64)] }), (1, { lmbase := 0x400, life := .live, flow := { bag := [{ reqOf (.load 8 false) 0 with loc := .loc 0 0x100 }] } })]

theorem wit_TranslationsInvalidated : (sSup [(4, 0xFFFF)]).dev.who = 15 ∧ bits ((sSup [(4, 0xFFFF)]).dev.x 4) 63 16 = 0 ∧
    bits (0x10000 : Word) 63 16 ≠ 0 ∧ usersOf (sSup [(4, 0xFFFF)]).dev 3 .all = [] ∧ usersOf sUser.dev 0 (.asid 0) = [.req 0 1 0] ∧
    (sMem.dev.who ≠ 0 ∧ sMem.dev.who ≠ 12 ∧ sMem.dev.who ≠ 15) := by decide

/-- The control context raises the bound; the greatest bound, one beyond it, and one over the live window. -/
def sBound : State := one 0 { x := [(4, 21845), (5, 21846), (6, 1), (7, 0x10000), (8, 0x1000000000000100)] }
    { regs := { xb := 2, gfbase := 0x39A00 } } {}

theorem wit_BoundsAndOverlays : sBound.dev.who = 0 ∧ (sBound.dev.x 4).toNat < 2 ^ 15 ∧ (sBound.dev.x 6).toNat ≤ sBound.dev.my.regs.xb.toNat ∧
    ¬((sBound.dev.x 5).toNat ≤ 21845) ∧ ¬((sBound.dev.x 5).toNat ≤ sBound.dev.my.regs.xb.toNat) ∧ sMem.dev.who ≠ 0 ∧
    (bits (0x10000 : Word) 63 31 = 0 ∧ (0x10000 : Word).getLsbD 15 = false ∧ bits (0x10000 : Word) 30 16 = 1 ∧
      bits (0x10000 : Word) 14 0 + bits (0x10000 : Word) 30 16 ≤ sBound.dev.my.regs.xb.toNat ∧
      sBound.dev.my.regs.xb.toNat < bits (0x10002 : Word) 14 0 + bits (0x10002 : Word) 30 16) ∧
    (pspace (sBound.dev.x 8) = 1 ∧ paddr (sBound.dev.x 8) % 4 = 0) ∧
    (belowBound sBelow.dev 64 = [.req 0 1 0] ∧ (User.req 0 1 0).active sBelow.dev = true ∧ belowBound sBound.dev 21845 = []) ∧
    ovldHeld sBound (sBound.dev.x 8) 1 = false ∧
    (match ovldBytes (one 0 {} {} { objs := { roots := [(0, 0x8000)] } } [(0x8000, 0x0B)]) 0x20000 0 1 with
      | (bs, some (c, q)) => (bs, c, q)
      | _ => ([], 0, 0)) = ([], 0x11, 0x20000) ∧
    (ovldBytes (one 0 { x := [(8, 0x1000000000000100)], lmlim := 0x40000 }) 0x1000000000000100 0 1).2.isNone = true := by decide +kernel
theorem test_setxb_too_large : regAfter (exec (.setxb 9 5) sBound) 9 = 1 := by decide

/-- A queue, its parameter block in global memory, and a free number. -/
def sQueue : State :=
  many 15 [(15, { life := .live, x := [(4, 4), (5, 5), (6, 0x20000), (7, 0x301), (9, 3)] })] {}
    { objs := { dispatch := false, roots := [(0, 0x8000)], queues := [⟨4, 0, 0, 0, 1, 0, 0, 0, [], 0, [1, 1, 1, 1, 1], [], [], 0, none, false⟩] } } [(0x8000, 0x0F), (0x20000, 1)]

set_option maxRecDepth 8000 in
theorem wit_LaunchQueueOperations : sQueue.dev.who = 15 ∧ (sQueue.dev.x 4).toNat < 2 ^ 8 ∧
    (tagsKnown (sQueue.dev.x 6) = true ∧ locBitsOk (sQueue.dev.x 6) = true ∧ pspace (sQueue.dev.x 6) = 0 ∧ paddr (sQueue.dev.x 6) % 8 = 0 ∧
      blockHeld sQueue (sQueue.dev.x 6) = false ∧ (blockFrom sQueue (sQueue.dev.x 6) [0, 1, 2, 3, 4, 5, 6, 7]).toOption = some [1, 0, 0, 0, 0, 0, 0, 0]) ∧
    findQueue sQueue.dev.objs 5 = none ∧ (findQueue sQueue.dev.objs 4).isSome = true ∧ bits (1 : Word) 5 0 ≠ 0 ∧
    (bits (sQueue.dev.x 7) 63 10 = 0 ∧ bits (sQueue.dev.x 7) 7 6 = 0 ∧ bits (sQueue.dev.x 7) 5 0 ≠ 0) ∧
    ownsLive sQueue.dev 4 = false ∧ modeFree sQueue.dev = true ∧ sQueue.dev.objs.dispatch = false ∧ (sQueue.dev.x 0).toNat < 3 ∧
    modeFree sBar.dev = false := by decide +kernel

/-- The debug context of core 0 on a halted die, with slot 1 live; the supervisor agent with a store-fault record. -/
def sDebug : State :=
  many 14 [(1, { life := .live, x := [(3, 9)] }), (14, { life := .live, x := [(4, 0x301)] })] {} { dies := [(0, { halted := true })] }
def sStepped : State :=
  many 14 [(1, { life := .live, pc := 8 }), (14, { life := .live, sent := 1, x := [(4, 0x301)] })] {} { dies := [(0, { halted := true })] }
def sPop : State := many 15 [(15, { life := .live })] { sfq := [⟨0x68, 0, 1, 1, 0, 3, 0x20000⟩] }
/-- Slot 13 handles a fault of slot 1; the record of slot 2 before its own is not for it to see. -/
def sPop13 : State := many 13 [(13, { life := .live, fault := 0x40000 })] { sfq := [⟨0x68, 0, 2, 1, 0, 3, 0⟩, ⟨0x68, 0, 1, 1, 0, 3, 0x20000⟩] }

/-- The supervisor agent, a page of node 0 mapped, a live helper to save and a free owned slot to restore. -/
def sFrame : State :=
  many 15 [(1, { life := .live }), (2, { owner := some 4 }), (15, { life := .live, x := [(4, 1), (5, 0x20000), (6, 2)] })]
    { tlb := [⟨0, 0, 0, 0x0F⟩] } { objs := { roots := [(0, 0x8000)] } } [(0x8000, 0x0F)]

set_option maxRecDepth 8000 in
theorem wit_PopsMigrationsAndFrames :
    (sDebug.dev.who = 14 ∧ bits (sDebug.dev.x 4) 63 14 = 0 ∧ bits (sDebug.dev.x 4) 7 4 = 0 ∧ (sDebug.dev.die 0).halted = true ∧
      sDebug.dev.me.sent = 0 ∧ bits (sDebug.dev.x 4) 3 0 ≠ 14 ∧ (sDebug.dev.slot 0 1).life = .live ∧ sStepped.dev.me.sent = 1 ∧
      (sStepped.dev.slot 0 1).stepping = false ∧ sMem.dev.who ≠ 14) ∧
    (sPop.dev.who = 15 ∧ sPop.dev.my.eng.sfq = [⟨0x68, 0, 1, 1, 0, 3, 0x20000⟩] ∧ (sSup []).dev.my.eng.sfq = [] ∧
      sPop13.dev.who = 13 ∧ sPop13.dev.my.eng.sfq = [⟨0x68, 0, 2, 1, 0, 3, 0⟩] ++ ⟨0x68, 0, 1, 1, 0, 3, 0x20000⟩ :: [] ∧
      sPop13.dev.me.fault.toNat / 2 ^ 18 = 1) ∧
    (sFrame.dev.who = 15 ∧ tagsKnown (sFrame.dev.x 5) = true ∧ locBitsOk (sFrame.dev.x 5) = true ∧ pspace (sFrame.dev.x 5) = 0 ∧
      paddr (sFrame.dev.x 5) % 2 ^ 16 = 0 ∧ (pmigStatus sFrame (sFrame.dev.x 5) 0).isSome = true ∧
      frameHeld sFrame (sFrame.dev.x 5) = false ∧ checkWalk sFrame 0 0x20000 40960 false true = .ok (.glob 0x20000) 0 ∧ (sFrame.dev.slot 0 1).pre = none ∧
      (sFrame.dev.slot 0 2).life ≠ .live ∧ checkWalk sFrame 0 0x20000 40960 true false = .ok (.glob 0x20000) 0 ∧
      restoreStatus sFrame.dev sFrame.mem 0 2 0x20000 ≠ 0) := by decide
/-! ### Guards -/

/-- Slot 1 with a region's base in `x4`, a guard word's pointer in `x5` and a buffer's in `x6`; `b`: the bind entries. -/
def sGuard (b : Tab BindEnt) : State :=
  one 1 { lead := 1, start := 1, lmlim := 0x40000, x := [(4, 0x10000), (5, 0x20008), (6, 0x1000000000000100)] } { eng := { tlb := [⟨0, 2, 2, 0x100000F⟩], bind := b } }

def sHeld : State := sGuard [(0, { guard := 0x1000008, mode := 2, group := 1, scope := 5, valid := true, buffer := 0x100 })]

/-- An entry released before, for a buffer at an offset. -/
def sIdle (o : BitVec 18) : State := sGuard [(0, { guard := 0x1000008, valid := true, buffer := o })]

theorem wit_GuardInstructionsSend :
    ((sGuard []).dev.who ≤ 10 ∧ MaySend (sGuard []) false false none ∧ MaySend (sGuard []) true false none ∧
      releaseOk (sGuard []).dev 0 1 .sys = true ∧ pspace ((sGuard []).dev.x 4) = 0 ∧ paddr ((sGuard []).dev.x 4) % (256 * 2 ^ (8#4).toNat) = 0 ∧
      tagsKnown ((sGuard []).dev.x 4) = true ∧ locBitsOk ((sGuard []).dev.x 4) = true ∧ pspace ((sGuard []).dev.x 5) = 0 ∧
      paddr ((sGuard []).dev.x 5) % 8 = 0) ∧
    GuardWord (sGuard []) ((sGuard []).dev.x 5) (.glob 0x1000008) ∧ GuardWord sHeld (sHeld.dev.x 5) (.glob 0x1000008) ∧
    MaySend sHeld false false none ∧ (isHelper sHeld.dev.who = true ∧
      (bindFor sHeld.dev.my.eng (.glob 0x1000008)).map (fun b => (b.1, b.2.mode, b.2.ginst)) = some (0, 2, sHeld.dev.me.ginst) ∧
      (Tab.get {} sHeld.dev.my.eng.bind 0).due = 0 ∧ releaseOk sHeld.dev 0 1 (scopeOfCode 5) = true) ∧
    (tagsKnown ((sGuard []).dev.x 6) = true ∧ locBitsOk ((sGuard []).dev.x 6) = true ∧ pspace ((sGuard []).dev.x 6) = 1 ∧
      paddr ((sGuard []).dev.x 6) % 8 = 0 ∧ windowOk (sGuard []).dev.my 1 (sGuard []).dev.me (paddr ((sGuard []).dev.x 6)) 8 = true ∧
      bindFor (sGuard []).dev.my.eng (.glob 0x1000008) = none ∧ freeEntry (sGuard []).dev.my.eng = some 0) ∧
    ((bindFor (sIdle 0x100).dev.my.eng (.glob 0x1000008)).map (fun b => (b.1, b.2.mode, b.2.buffer.toNat)) = some (0, 0, 0x100) ∧
      (bindFor (sIdle 0x800).dev.my.eng (.glob 0x1000008)).map (fun b => (b.1, b.2.mode, b.2.buffer.toNat)) = some (0, 0, 0x800) ∧
      paddr ((sIdle 0x100).dev.x 6) = 0x100) ∧
    10 < (sSup []).dev.who ∧ isHelper sCtl.dev.who = false :=
  ⟨⟨by decide, mayPlain _ _ _ (by decide) (by decide) (by decide), mayPlain _ _ _ (by decide) (by decide) (by decide), by decide, by decide,
      by decide, by decide, by decide, by decide, by decide⟩,
    ⟨by decide, .inr ⟨by decide, ⟨0, 2, 2, 0x100000F⟩, by decide, by decide⟩⟩, ⟨by decide, .inr ⟨by decide, ⟨0, 2, 2, 0x100000F⟩, by decide, by decide⟩⟩,
    mayPlain _ _ _ (by decide) (by decide) (by decide), by decide, by decide, by decide, by decide, by decide⟩

/-- A guard of two 256-byte sub-blocks at VA 0x20000 (PA 0x20000), in a mode, with its wait list and stamps. -/
def aGuard (mode : BitVec 2) (home : Bool) (wait : List GReq) : Machine.Guard :=
  { word := 0x100, base := 0x20000, asid := 0, epoch := 3, code := 0, count := 1, scope := .sys, mode := mode, shared := 0, next := 5, home := home,
    last := (0, 1), hmark := 0, valid := true, holder := (0, 1), bpeer := 0, brank := 0, bslot := 1, binst := 0, stamps := [(0, 4)], wait := wait,
    waitAt := 0, stampsAt := 0, busy := false }

/-- The same with core 0's bind entries, memory and guard: entry 0 waits for one sub-block at offset 0x100. -/
def sManager (g : Machine.Guard) (x : List Xfer) (gr : List Grant) : State :=
  many 1 [(1, { life := .live, lead := 1, lmlim := 0x40000 })]
    { bind := [(0, { guard := 0x100, mode := 2, buffer := 0x100, valid := true, due := 1, count := 1 }), (1, { guard := 0x100, buffer := 0x800, valid := true, count := 1 })],
      xfers := x }
    { objs := { guards := [g], grants := gr, roots := [(0, 0x8000)] } } [(0x8000, 0x0F), (0x20000, 7)]
def aXfer (refresh : Bool) (src : Option (Nat × Nat)) (l : List Nat) : Xfer := ⟨refresh, 0x100, 0, 0, 1, 0, src, l, 0x20000, 0, 4, 3, none, false, [], []⟩
def gReq (x : Bool) (e : Nat) : Req := reqOf (.gacq x e) 0x100
def aGrant : Grant := ⟨0, 1, gReq true 0, 0x100, true, 0, [0], 4, 3, none⟩

/-- What that grant tells its core. -/
def aGiven : Given := ⟨true, 0, 0x100, 0, 1, 5, 3, 4, [0], none⟩

theorem ownKey_of_unwritten (s : State) (pa n key : Nat) (h : ∀ l ∈ linesOf pa n, s.dev.lineSlot l = none) : OwnKey s pa n key :=
  fun l hl k hk => by rw [h l hl] at hk; cases hk

set_option maxRecDepth 8000 in
theorem wit_GuardsAreGrantedAndMoved :
    (nth? (sManager (aGuard 0 true [⟨0, 1, gReq true 0⟩]) [] []).dev.objs.guards 0 = some (aGuard 0 true [⟨0, 1, gReq true 0⟩]) ∧
      managerBusy (sManager (aGuard 0 true [⟨0, 1, gReq true 0⟩]) [] []) 0x100 = false ∧
      managerBusy (sManager { aGuard 0 true [] with busy := true } [] []) 0x100 = true ∧ (aGuard 0 true []).mode = 0 ∧ ((aGuard 1 true []).mode ≠ 2 ∧ (aGuard 1 true []).shared ≠ 0xFFF) ∧ (aGuard 2 true []).mode = 2) ∧
    ((sManager (aGuard 0 true []) [] [aGrant]).dev.objs.grants.find? (fun g => g.rank == 0 && g.slot == 1) = some aGrant ∧
      guardOf (sManager (aGuard 0 true []) [] [aGrant]).dev.objs aGrant.word = some (aGuard 0 true []) ∧
      bufferOk ((sManager (aGuard 0 true []) [] []).dev.core 0) 1 ((sManager (aGuard 0 true []) [] []).dev.slot 0 1) aGiven
        (Tab.get {} ((sManager (aGuard 0 true []) [] []).dev.core 0).eng.bind 0) = true ∧
      bufferOk ((sManager (aGuard 0 true []) [] []).dev.core 0) 1 ((sManager (aGuard 0 true []) [] []).dev.slot 0 1) { aGiven with count := 255, code := 8 }
        (Tab.get {} ((sManager (aGuard 0 true []) [] []).dev.core 0).eng.bind 0) = false ∧ aGrant.req.dst = .x 5) ∧
    (nth? ((sManager (aGuard 2 true []) [aXfer false none [0]] []).dev.core 0).eng.xfers 0 = some (aXfer false none [0]) ∧
      (Tab.get {} ((sManager (aGuard 2 true []) [] []).dev.core 0).eng.bind 0).due ≠ 0 ∧ ((sManager (aGuard 2 true []) [] []).dev.core 0).lmem.wf = true ∧
      regionAt (sManager (aGuard 2 true []) [] []) (aGuard 2 true []) 0 = some (0x20000, 0) ∧
      anyPoison (sManager (aGuard 2 true []) [] []) (.glob 0x20000) 256 = false ∧
      anyPoison (sManager (aGuard 2 true []) [] []) (.loc 0 0x800) 256 = false ∧ (sManager (aGuard 2 true []) [] []).dev.plat.pfault = false ∧
      (aXfer false none [0]).placed = [] ∧ (aXfer false none [0]).filled = [] ∧ (aXfer false none [0]).slot < 16) ∧
    (walk (sManager (aGuard 0 false []) [aXfer true (some (0, 1)) [0]] []) 0 0x20000 = some (0, 0x0F) ∧ leafWrite 0x0F = true ∧
      (sManager (aGuard 0 false []) [aXfer true (some (0, 1)) [0]] []).dev.engineUp 0 = true ∧
      OwnKey (sManager (aGuard 0 false []) [aXfer true (some (0, 1)) [0]] []) 0x20000 256 (leafKey 0x0F) ∧
      (sManager (aGuard 0 false []) [aXfer true (some (0, 1)) [0]] []).memOk) :=
  ⟨by decide, by decide, ⟨by decide, by decide, by decide, by decide, by decide, by decide, by decide, by decide, by decide, by decide⟩, by decide, by decide,
    by decide, ownKey_of_unwritten _ _ _ _ (by decide), by unfold State.memOk; decide⟩
/-- The memory that a delivery and a refresh read and write is served. -/
theorem wit_GuardsAreGrantedAndMoved_served :
    let s := sManager (aGuard 0 false []) [aXfer true (some (0, 1)) [0]] []
    regionHeld s 0x100 0 = false ∧ walkHeld s 0 0x20000 = false ∧ anyHeld s (.glob 0x20000) 256 = false ∧ anyPoison s (.loc 0 0x800) 256 = false ∧
      (∀ l ∈ linesOf 0x20000 256, s.dev.badTag l = false ∧ s.lost (.glob (64 * l)) = false) ∧ managerDown s.dev 0x100 = false ∧
      managerDown ({ s.dev with dies := [(0, { failed := true })] } : Dev) 0x100 = true ∧ (aXfer false none [0]).guard = (aGuard 0 false []).word := by
  decide
/-- What follows a refresh: an `unbind`'s answer; an entry replaced, that of the last dirty holder. -/
theorem wit_GuardsAreGrantedAndMoved_after :
    let y : Xfer := { aXfer true (some (0, 1)) [] with entry := 1, after := 4 }
    let s := sManager (aGuard 0 false []) [y, { y with after := 2, req := some (gReq true 0) }] []
    let g := aGuard 0 false []
    let c := Tab.get {} (s.dev.core 0).eng.bind 1
    (nth? (s.dev.core 0).eng.xfers 0 = some y ∧ y.guard = g.word ∧ g.home = false ∧ g.last = (y.rank, y.entry) ∧ g.epoch = y.epoch ∧
      g.next - 1 = y.high ∧ c.valid = true ∧ c.mode = 0 ∧ c.gpeer = none ∧ c.guard.toNat = g.word) ∧
    (nth? (s.dev.core 0).eng.xfers 1).map (·.req) = some (some (gReq true 0)) := by decide
/-- A transfer whose source is a peer's buffer waits for the peer's packets, of a delivery and of a refresh. -/
theorem wit_GuardsAreGrantedAndMoved_peer :
    nth? ((sManager (aGuard 2 true []) [aXfer false (some (2053, 0)) [0], aXfer true (some (2053, 0)) [0]] []).dev.core 0).eng.xfers 0 =
      some (aXfer false (some (2053, 0)) [0]) := by decide
/-- A peer's `gacq` joins the wait list under its own number; its sub-block lands in the buffer of a local entry. -/
theorem test_peer_gacq_waits :
    (guardOf (peerGuard (sManager (aGuard 1 true []) [] []) 5 0x100 (.gacq 1 33 true 0 3 4)).dev.objs 0x100).map
      (fun g => g.wait.map (fun w => (w.rank, w.slot, w.excl))) = some [(2053, 1, true)] := by decide
def sPeerSends : State :=
  let s := sManager (aGuard 2 false []) [] []
  { s with dev := s.dev.onEng 2053 (fun e => { e with xfers := [aXfer false (some (2053, 0)) [0]] }) }
set_option maxRecDepth 20000 in
theorem test_peer_block_lands :
    let t := peerBlock sPeerSends 5 0 0 (List.replicate 256 9) none
    ((t.dev.core 0).lmem.read 0x1FF, (Tab.get {} (t.dev.core 0).eng.bind 0).due, (t.dev.core 2053).eng.xfers.length) = (9, 0, 0) := by
  decide +kernel

/-! ### Gates, sections, delegation and conversations -/

/-- Table 0 of one entry at 0x40: valid, domain 2, ASID 9, entry word 64, window 0x100 to 0x800, depth 3, callers 0. -/
def aGate : Word := 0x8400120100010118
def sCaller : State :=
  one 1 { lmlim := 0x40000, pc := 7, x := [(1, 5), (2, 6)] } { regs := { gfbase := 0x10000 } } { plat := { regs := [(0x1200, 0x100000000040)] } }
    (Mem.setWord (Mem.setWord (Mem.setWord (Mem.setWord [] 0x40 aGate) 0x48 4) 0x50 2) 0x58 1)

/-- The callee of `sCaller`, as the call leaves it. -/
def sCallee : State := match exec (.gcall 0 0) sCaller with
  | .next t => t
  | _ => sCaller

theorem wit_GateCallsSwitchContexts :
    isHelper sCtl.dev.who = false ∧ isHelper sCaller.dev.who = true ∧ turnpike sCaller 0 1 = none ∧
    (turnpike sCaller 0 0 = some ⟨aGate, 4, 2, 1⟩ ∧ Turnpike.valid ⟨aGate, 4, 2, 1⟩ = true ∧ Turnpike.reservedOk ⟨aGate, 4, 2, 1⟩ = true ∧
      overlapsFrames sCaller.dev.my (Turnpike.wbase ⟨aGate, 4, 2, 1⟩) (Turnpike.wlim ⟨aGate, 4, 2, 1⟩) = false ∧ sCaller.dev.me.domain = 0 ∧
      sCaller.dev.me.gdepth.toNat ≤ Turnpike.maxd ⟨aGate, 4, 2, 1⟩ ∧ Turnpike.maxd ⟨aGate, 4, 2, 1⟩ < (4#3).toNat) ∧
    Turnpike.valid ⟨0, 4, 2, 1⟩ = false ∧ Turnpike.reservedOk ⟨aGate, 5, 2, 1⟩ = false ∧ sCaller.dev.my.lmem.wf = true ∧
    (sCaller.dev.me.flow.ld = [] ∧ sCaller.dev.me.flow.st = [] ∧ sCaller.dev.me.flow.cp = [] ∧ sCaller.dev.me.flow.tl = [] ∧ sCaller.dev.me.flow.posted = []) := by
  decide

set_option maxRecDepth 8000 in
theorem wit_gret : sCallee.dev.me.gdepth = 1 ∧ sCallee.dev.me.pc = 64 ∧ sCallee.dev.me.xr 2 = 6 ∧ sCallee.dev.me.xr 1 = 0 ∧
    bits (sCallee.dev.my.lmem.word (0x10000 + 552)) 15 10 = 0 ∧ turnpike sCallee 0 0 = some ⟨aGate, 4, 2, 1⟩ ∧
    (turnpike { sCallee with mem := Mem.setWord sCallee.mem 0x40 0 } 0 0).map (·.valid) = some false := by decide +kernel

/-- A callee that wrote `x1`, `x2`, returns. -/
theorem test_gret_restores : (match exec .gret (one 1 { gdepth := 1, x := [(1, 77), (2, 78)] } sCallee.dev.my sCallee.dev sCallee.mem) with
    | .next t => [t.dev.me.xr 1, t.dev.me.xr 2, BitVec.ofNat 64 t.dev.me.pc.toNat]
    | _ => []) = [77, 6, 8] := by decide +kernel

/-- Slot 1 in a section that wrote byte 0x10, with the registers of its beginning. -/
def sElide : State := one 1 { x := [(2, 9)], elide := some ⟨40, [(2, 8)], 2, [], [(0x10, 0xAB)]⟩ }

theorem wit_ElisionSections : isHelper sCtl.dev.who = false ∧ isHelper sCaller.dev.who = true ∧
    (sCaller.dev.me.flow.ld = [] ∧ sCaller.dev.me.flow.st = []) ∧ sCaller.dev.me.elide = none ∧
    sElide.dev.me.elide = some ⟨40, [(2, 8)], 2, [], [(0x10, 0xAB)]⟩ ∧ bindAllows sElide.dev.my 0x10 1 = true ∧ sElide.dev.my.lmem.wf = true := by decide
theorem test_ele_commits : (match exec .ele sElide with
    | .next t => (t.dev.core 0).lmem.readN 0x10 1
    | _ => 0) = 0xAB := by decide
theorem test_ela_restores : (match exec (.ela 5) sElide with
    | .next t => [t.dev.me.xr 1, t.dev.me.xr 2, BitVec.ofNat 64 t.dev.me.pc.toNat]
    | _ => []) = [0x503, 8, 40] := by decide

/-- A delegated call of slot 1 of core 0 to word 3 of core 1, in each place it passes. -/
def dReq : Req := reqOf (.dcall 1 3 [7, 8]) 0
def dEnt : DReq := ⟨3, [7, 8], 2, 4, 0, 1, 0, false, false, dReq⟩
def sDcall (f : Flow) (c1 : Core) : State :=
  { mem := [], dev := { cores := [(0, { running := true, slots := [(1, { life := .live, x := [(1, 7), (4, 1)], flow := f })] }), (1, c1)], who := 1 } }
def sServe : State := sDcall {} { running := true, eng := { dq := [dEnt] } }
def sDret : State :=
  { sDcall {} {} with dev := { (sDcall {} {}).dev with
    cores := [(0, { running := true, slots := [(1, { life := .live })] }),
              (1, { running := true, eng := { dserve := some dEnt }, slots := [(11, { life := .live, x := [(4, 99)] })] })], rank := 1, who := 11 } }

theorem wit_DelegatedCalls :
    (isHelper (sDcall {} {}).dev.who = true ∧ ldevOf (sDcall {} {}).dev.objs.mode (dieOf 1) = ldevOf (sDcall {} {}).dev.objs.mode (dieOf 0) ∧
      releaseOk (sDcall {} {}).dev 0 1 (commonScope (sDcall {} {}).dev.objs.mode 0 1) = true ∧ ((sDcall {} {}).dev.core 1).eng.dq.length < 32) ∧
    MaySend (sDcall {} {}) true false none ∧
    InBag (sDcall { bag := [dReq] } { running := true, regs := { xb := 4, dmask := 1 } }) 0 1 0 dReq ∧
    (((sDcall {} {}).dev.die (dieOf 1)).halted = false ∧ ((sDcall {} {}).dev.die (dieOf 1)).failed = false ∧ 3 < (4#15).toNat ∧ (1 : Word).getLsbD dReq.domain = true) ∧
    ((sServe.dev.core 1).eng.dq = [dEnt] ∧ serviceIdle (sServe.dev.slot 1 11) = true ∧ (sServe.dev.core 1).eng.dserve = none ∧ (sServe.dev.core 1).running = true ∧
      (sServe.dev.die (dieOf 1)).halted = false ∧ dEnt.args.length ≤ 6 ∧ dEnt.slot < 16) ∧
    (sDret.dev.who = 11 ∧ sDret.dev.my.eng.dserve = some dEnt ∧ ¬(dEnt.rank = sDret.dev.rank ∧ dEnt.slot = 11) ∧
      releaseOk sDret.dev 1 11 (commonScope sDret.dev.objs.mode 1 0) = true) ∧ sCaller.dev.who ≠ 11 :=
  ⟨by decide, mayPlain _ _ _ (by decide) (by decide) (by decide), by unfold InBag NoneReady; decide, by decide, by decide, by decide, by decide⟩

/-- 08 R180: the caller's rank and slot in `x7`. -/
theorem test_serve_registers : (match exec (.delegatedCallServe 1) sServe with
    | .next t => [(t.dev.slot 1 11).xr 1, (t.dev.slot 1 11).xr 2, (t.dev.slot 1 11).xr 3, (t.dev.slot 1 11).xr 7]
    | _ => []) = [7, 8, 0, 0x800] := by decide
theorem test_dret_answers : (match exec (.dret 4) sDret with
    | .next t => (t.dev.slot 0 1).flow.rets.map (·.val)
    | _ => []) = [.words [99] true] := by decide

/-- Conversation 1 of two roles: role 0, held by slot 1, sends kind 0 to role 1, held by slot 2, from stage 0 to stage 1, the final one. -/
def aConv (held : List (Nat × Nat × Req)) : Conv :=
  { isOpen := true, header := 0x10004101, edges := [0x1300], mask := 1, opener := 0,
    holders := [(0, some (0, 1, 2)), (1, some (0, 2, 3))], held := held }
def sConv (op : ReqOp) (held : List (Nat × Nat × Req)) : State :=
  many 1 [(1, { life := .live, lmlim := 0x40000, x := [(9, 0x20000), (8, 0x1000000000000100)], roles := [(2, 0x100000001)], flow := { bag := [reqOf op 0] } }), (2, { life := .live })]
    { tlb := [⟨0, 2, 2, 0x100000F⟩] } { objs := { convs := [(1, aConv held)] } }
def cSend : ReqOp := .csend 2 0 0x100000000 [5]

theorem wit_Conversations :
    (MaySend (sConv cSend []) false false none ∧ pspace ((sConv cSend []).dev.x 9) = 0 ∧
      checks5 (sConv cSend []).dev 0 1 (sConv cSend []).dev.me .scalar ((sConv cSend []).dev.x 9) 8 8 = none ∧
      (WaitCond.role 2).holds (sConv cSend []) 0 1 = true ∧ releaseOk (sConv cSend []).dev 0 1 .sys = true ∧
      roleReg (sConv cSend []).dev.me 2 = some 0x100000001 ∧ payloadFault (sConv cSend []).dev ((sConv cSend []).dev.x 8) 63 = none ∧
      bits (0x1FFFF : Word) 63 17 = 0) ∧
    (InBag (sConv (.cjoin 1 1 0x100000000) []) 0 1 0 (reqOf (.cjoin 1 1 0x100000000) 0) ∧
      convCurrent (sConv cSend []).dev.objs 0x100000000 = some (aConv []) ∧ 1 ≤ hdrRoles (aConv []).header ∧ (aConv []).mask.getLsbD 0 = true ∧
      Tab.get none (aConv []).holders 4 = none ∧ (aConv []).opener.toNat = 0 ∧ (sConv cSend []).dev.dieDown (aConv []).home = false ∧
      ({ (sConv cSend []).dev with dies := [(0, { failed := true })] } : Dev).dieDown (aConv []).home = true) ∧
    (InBag (sConv cSend []) 0 1 0 (reqOf cSend 0) ∧ Tab.get none (aConv []).holders 0 = some (0, 1, 2) ∧ 0 ≤ hdrKinds (aConv []).header ∧
      (aConv []).stage.toNat ≠ hdrFinal (aConv []).header ∧ (aConv []).edges.find? (fun e => edgeKey e == 0 * 2 ^ 8 + 0 * 2 ^ 5 + 0) = some 0x1300 ∧
      edgeField 0x1300 17 12 = 1 ∧ edgeField 0x1300 8 8 = 1 ∧ Tab.get none (aConv []).holders (edgeField 0x1300 11 9) = some (0, 2, 3)) ∧
    ((Tab.get {} (sConv cSend [(0, 1, reqOf cSend 0)]).dev.objs.convs 1).held = [(0, 1, reqOf cSend 0)]) :=
  ⟨⟨mayPlain _ _ _ (by decide) (by decide) (by decide), by decide, by decide, by decide,
      by decide, by decide, by decide, by decide⟩,
    ⟨by unfold InBag NoneReady; decide, by decide, by decide, by decide, by decide, by decide, by decide, by decide⟩,
    ⟨by unfold InBag NoneReady; decide, by decide, by decide, by decide, by decide, by decide, by decide, by decide⟩, by decide⟩

/-- 19 R373: a message is its control word and its payload, and the end word follows where the edge says so. -/
theorem test_csend_arrives : (match exec (.perform 0 1 0) (sConv cSend []) with
    | .next t => (Tab.get [] (t.dev.slot 0 2).chans 3).map (·.2)
    | _ => []) = [true, false, true] := by decide
theorem test_held_send_is_taken : (match exec (.heldSendAccept 1) (sConv cSend [(0, 1, reqOf cSend 0)]) with
    | .next t => ((Tab.get [] (t.dev.slot 0 2).chans 3).length, (Tab.get {} t.dev.objs.convs 1).stage.toNat)
    | _ => (0, 0)) = (3, 1) := by decide
/-! ### Vector instructions -/

/-- Slot 1 with tags V and C, a vector length of `n`, lanes 0 to 7 of `v3` at 0.5, `v4` an index; streams: 0 FP32 in, 1 FP32 out,
2 INT32 in, 4 PSB4 in, 5 PSB4 out, blocks of 16; `c2`: the words of channel 2. -/
def vStreams : Tab Stream :=
  [(0, { bound := true, slot := 1, base := 0x1100000000001000, w0 := 15, ahead := (List.range 16).map (fun (i : Nat) => (i, none)) }),
   (1, { bound := true, slot := 1, base := 0x1100000000002000, w0 := 0x800000000000000F }),
   (2, { bound := true, slot := 1, base := 0x1800000000003000, w0 := 15, ahead := (List.range 16).map (fun (i : Nat) => (i, none)) }),
   (4, { bound := true, slot := 1, base := 0x1500000000004000, w0 := 15, ahead := [(0, none)] }),
   (5, { bound := true, slot := 1, base := 0x1500000000005000, w0 := 0x800000000000000F })]
def sVec (n : BitVec 9) (c2 : List (Word × Bool)) : State :=
  one 1 { tag := 6, lmlim := 0x40000, x := [(4, 5), (9, 0x1000000000000100)], chans := [(2, c2)] }
    { vec := { vl := n, v := (List.range 8).map (fun (i : Nat) => (3 * 256 + i, (0x3F000000 : BitVec 32))), m := [(1, 1)] }, eng := { streams := vStreams } }

/-- The words of 15 R331's worked example before its second issue. -/
def fiveWords : List (Word × Bool) :=
  [(0x400000003F800000, false), (0x4080000040400000, false), (0x40C0000040A00000, false), (0x4100000040E00000, false), (0x4120000041100000, false),
   (0x8000000000000000, true)]

theorem source_reg (s : State) (fmt : Nat) (r : VReg) : SourceGives s fmt (.v r) ((upto s.dev.vec.len).map (fun i => s.dev.vec.laneAt r i)) s := ⟨rfl, rfl⟩

theorem source_stream : SourceGives (sVec 16 []) 1 (.s 0) ((List.range 16).map (laneImg 1)) (streamTo (sVec 16 []) 0 (fun y => { y with ahead := [], pos := y.pos + 16 })) :=
  ⟨List.range 16, by decide, ⟨by unfold StreamOk; decide, [], by decide, rfl⟩, rfl⟩

theorem source_chan : SourceGives (sVec 8 fiveWords) 1 (.ch 2)
    ((fiveWords.take 4).flatMap (fun w => [w.1.extractLsb' 0 32, w.1.extractLsb' 32 32]))
    { sVec 8 fiveWords with dev := ((sVec 8 fiveWords).dev.onMe (fun t => { t with chans := Tab.set t.chans 2 (fiveWords.drop 4) })).onVec (fun v => { v with vcnt := 8 }) } :=
  ⟨by decide, by decide, by decide, by decide, (fiveWords.take 4).map (·.1), fiveWords.drop 4, by decide, .inl (by decide), rfl, by decide +kernel⟩

/-- The last issue of the example: one word stands before the control word. -/
theorem source_short : (let w := fiveWords.drop 4
    2 * ((w.take 1).map (·.1)).length < 8 ∧ w = [(0x4120000041100000, false), (0x8000000000000000, true)]) := by decide

theorem wit_VectorArithmetic : holdsV (sVec 8 fiveWords).dev.me.tag = true ∧ DestReady (sVec 16 []) 1 (.s 1) 16 ∧ DestReady (sVec 8 []) 1 (.v 1) 8 ∧
    (∃ l u, SourceGives (sVec 16 []) 1 (.s 0) l u) ∧ (∃ l u, SourceGives (sVec 8 fiveWords) 1 (.ch 2) l u) ∧
    (∃ l, SourceGives (sVec 8 []) 8 (.v 3) l (sVec 8 [])) :=
  ⟨by decide, by unfold DestReady StreamOk; decide, trivial, ⟨_, _, source_stream⟩, ⟨_, _, source_chan⟩, ⟨_, source_reg _ _ _⟩⟩

/-- Lanes of a register after an instruction. -/
def lanesAfter (o : Out) (r : VReg) (n : Nat) : List Nat :=
  match o with
  | .next t => (List.range n).map (fun i => (t.dev.vec.laneAt r i).toNat)
  | _ => []

/-- 15 R331's worked example: the second issue. -/
theorem test_vfadd_channel : lanesAfter (exec (.vfadd .fp32 .rne (.v 1) (.ch 2) (.v 3) 0) (sVec 8 fiveWords)) 1 8 =
    [0x3FC00000, 0x40200000, 0x40600000, 0x40900000, 0x40B00000, 0x40D00000, 0x40F00000, 0x41080000] := by decide +kernel
/-- And the third. -/
theorem test_vfadd_short : lanesAfter (exec (.vfadd .fp32 .rne (.v 1) (.ch 2) (.v 3) 0) (sVec 8 (fiveWords.drop 4))) 1 3 =
    [0x41180000, 0x41280000, 0] := by decide +kernel
theorem test_vadd_masked : lanesAfter (exec (.vadd (.v 3) (.v 3) (.imm 1) 1) (sVec 8 [])) 3 2 = [0x3F000001, 0x3F000000] := by decide +kernel

theorem wit_VectorComparesReductionsAndMoves : holdsV (sVec 16 []).dev.me.tag = true ∧ (∃ l u, SourceGives (sVec 16 []) 1 (.s 0) l u) ∧
    DestReady (sVec 16 []) 1 (.s 1) 16 ∧ (isPsb 5 = true ∧ isPsb 1 = false ∧ isPsb 2 = false) ∧ StreamOk (sVec 16 []) 5 5 1 true ∧
    (sVec 16 []).dev.vec.len % blockLen (plcode 0x1500000000005000) = 0 ∧
    StreamGives (sVec 16 []) 4 5 [0] (streamTo (sVec 16 []) 4 (fun y => { y with ahead := [], pos := y.pos + 1 })) :=
  ⟨by decide, ⟨_, _, source_stream⟩, by unfold DestReady StreamOk; decide, by decide, by unfold StreamOk; decide, by decide,
    ⟨by unfold StreamOk; decide, [], by decide, rfl⟩⟩

theorem test_vredMax : regAfter (exec (.vredMax .fp32 5 (.v 3) 0) (sVec 8 [])) 5 = 0x3F000000 := by decide +kernel
theorem test_vsetl_zero : regAfter (exec (.vsetl 5 0) (sVec 8 [])) 5 = 0 := by decide
theorem test_vsetl_clamps : regAfter (exec (.vsetl 5 9) (sVec 8 [])) 5 = 256 := by decide
theorem test_mfirst : regAfter (exec (.mfirst 5 1) (sVec 8 [])) 5 = 0 := by decide +kernel
theorem test_mpop_all : regAfter (exec (.mpop 5 0) (sVec 8 [])) 5 = 8 := by decide +kernel

theorem wit_PairsRunBothHalves : scalarFault (sVec 8 []).dev.me (.padd 3 4 (.imm 1)) = none ∧
    scalarFault (one 1 { tag := 6, x := [(4, 0x7000000000000000)] }).dev.me (.padd 3 4 (.imm 1)) = some (0x13, 0x7000000000000000, 0) ∧
    holdsV (one 1 { tag := 6, x := [(4, 0x7000000000000000)] }).dev.me.tag = true ∧ holdsV sMem.dev.me.tag = false ∧
    (Tab.get {} (sVec 8 []).dev.my.eng.streams 3).bound = false ∧
    holdsV (sVec 8 []).dev.me.tag = true ∧ (∃ l, SourceGives (sVec 8 []) 8 (.v 3) l (sVec 8 [])) ∧ (∃ l u, SourceGives (sVec 16 []) 1 (.s 0) l u) :=
  ⟨by decide, by decide, by decide, by decide, by decide, by decide, ⟨_, source_reg _ _ _⟩, ⟨_, _, source_stream⟩⟩
theorem test_pair_reads_first : regAfter (exec (.pair (.int .add 3 (.v 3) 3 0) (.int .add 4 4 (.imm 1))) (sVec 8 [])) 4 = 6 ∧
    lanesAfter (exec (.pair (.int .add 3 (.v 3) 3 0) (.int .add 4 4 (.imm 1))) (sVec 8 [])) 3 1 = [0x7E000000] := by decide +kernel

/-- Two active lanes of a unit access, an even and an odd word. -/
theorem wit_VectorAccessesSend : holdsV (sVec 2 []).dev.me.tag = true ∧ (sVec 2 []).dev.me.sent = 0 ∧ widthOk (pfmtOf ((sVec 2 []).dev.x 9)) 4 = true ∧
    (pspace ((sVec 2 []).dev.x 9) ≠ 3 ∧ pspace ((sVec 2 []).dev.x 9) ≠ 4 ∧ (sVec 2 []).dev.room 0 1 2 false = true ∧ (sVec 2 []).dev.room 0 1 2 true = true) ∧
    MaySend (sVec 2 []) true false none ∧ MaySend (sVec 2 []) false true none ∧
    (∀ i ∈ ([0, 1] : List Nat), ∃ p key, padvance ((sVec 2 []).dev.x 9) ((0 : Int) + (i : Int) * 4) = some p ∧
      checkAcc (sVec 2 []) 0 1 (sVec 2 []).dev.me .vector p 4 4 true false = .ok (.loc 0 (0x100 + 4 * i)) key ∧
      checkAcc (sVec 2 []) 0 1 (sVec 2 []).dev.me .vector p 4 4 false true = .ok (.loc 0 (0x100 + 4 * i)) key ∧
      BindAllows (sVec 2 []) (.loc 0 (0x100 + 4 * i)) 4) := by
  refine ⟨by decide, by decide, by decide, by decide, mayPlain _ _ _ (by decide) (by decide) (by decide),
    mayPlain _ _ _ (by decide) (by decide) (by decide), ?_⟩
  intro i hi
  simp only [List.mem_cons, List.not_mem_nil, or_false] at hi
  rcases hi with rfl | rfl
  · exact ⟨0x1000000000000100, 0, by decide, by decide, by decide, fun r o h => by cases h; rfl⟩
  · exact ⟨0x1000000000000104, 0, by decide, by decide, by decide, fun r o h => by cases h; rfl⟩

/-- The lanes and places of the requests that a vector store sends. -/
theorem test_vst_sends : (match exec (.vst .b32 3 9 0 0) (sVec 2 []) with
    | .next t => t.dev.me.flow.bag.map (fun q => (q.elem, q.loc, q.op))
    | _ => []) = [(0, .loc 0 0x100, .store 4 0x3F000000), (1, .loc 0 0x104, .store 4 0x3F000000)] := by decide +kernel
/-! ### Matrix instructions -/

/-- Slot 1 with the tag, all four accumulator names enabled, `x4` and `x5` PSB5 operands in blocks of 16, `x6` a BF16 one. -/
def sMat : State :=
  one 1 { tag := 2, lmlim := 0x40000, x := [(4, 0x1500000000001000), (5, 0x1500000000009000), (6, 0x1200000000010000), (7, 0x1000000000000800), (8, 0), (9, 32)] }
    { regs := { accmap := 0xFAC } }

theorem wit_MatrixCommandsAndQueries : MayQueue sMat ∧
    (MatrixOperand sMat (sMat.dev.x 4) (rowsBytes (sMat.dev.x 4) 128 (16#16).toNat) ∧
      MatrixOperand sMat (sMat.dev.x 5) (rowsBytes (sMat.dev.x 5) (16#16).toNat 128) ∧ isPsb (pfmtOf (sMat.dev.x 4)) = true ∧
      pfmtOf (sMat.dev.x 6) = 2 ∧ MatrixOperand sMat (sMat.dev.x 6) (rowsBytes (sMat.dev.x 6) 128 128)) ∧
    (16 ≤ (32768#16).toNat ∧ (32768#16).toNat ≤ 32768 ∧ (32768#16).toNat % 16 = 0 ∧ (16#16).toNat % blockLen (plcode (sMat.dev.x 4)) = 0 ∧
      accEn sMat.dev.my.regs.accmap 3 = true ∧ coopBad sMat.dev 3 0 0 = false ∧ coopOf sMat.dev (unitOf sMat.dev.rank) = none ∧
      accBank sMat.dev.my.regs.accmap 0 ≠ accBank sMat.dev.my.regs.accmap 3) ∧
    (MatrixOperand sMat (sMat.dev.x 7) (256 * (64#7).toNat) ∧ MatrixOperand sMat (sMat.dev.x 7) (512 * (64#7).toNat) ∧
      (0#2).toNat + (4#3).toNat ≤ 4) ∧
    (holdsM sMat.dev.me.tag = true ∧ bits (64 : Word) 63 6 ≠ 0 ∧ bits (sMat.dev.x 8) 63 6 = 0 ∧
      unitOf sMat.dev.rank % 32 = 4 * bits (sMat.dev.x 8) 2 0 + bits (sMat.dev.x 8) 4 3 ∧ MaySend sMat false false none ∧
      ((sMat.dev.x 8).getLsbD 5 = false ∧ isMember sMat.dev sMat.dev.rank (bits (sMat.dev.x 8) 2 0) (bits (sMat.dev.x 8) 4 3) = false) ∧
      ((sMat.dev.x 9).getLsbD 5 = true ∧ WaitCond.coachIdle.holds sMat sMat.dev.rank sMat.dev.who = true) ∧ unitOf sMat.dev.rank % 32 ≠ 4 * bits (1 : Word) 2 0 + bits (1 : Word) 4 3) ∧
    holdsM sMem.dev.me.tag = false := by
  refine ⟨by unfold MayQueue; decide, by unfold MatrixOperand; decide, by decide, by unfold MatrixOperand; decide,
    ⟨by decide, by decide, by decide, by decide, mayPlain _ _ _ (by decide) (by decide) (by decide), by decide, by decide, by decide⟩, by decide⟩

/-- 09 R199: `mqry` after reset of the map and the weight. -/
theorem test_mqry : regAfter (exec (.mqry 5) sMat) 5 = 0xFAC80 := by decide

def aMacz (acc : Nat) : MCmd := ⟨0, 1, .macz acc 128 128, 0, false, 0, 0, 0, 0⟩
def aMm (k next : Nat) : MCmd := ⟨0, 1, .mm false false false 0 0x1200000000001000 0x1200000000009000 k 128 128, next, false, 0, 0, 0, 0⟩
/-- Core 0 with a queue of commands, buffers and the array. -/
def sUnit (q : List MCmd) (bufs : List MBuf) (st : Option MStep) (mtl : List (Nat × Nat × Nat)) : State :=
  let e : CoreEng := { mq := q, mbuf := bufs, mtl := mtl }
  let t : Slot := { life := .live, tag := 2, flow := { tl := [(0, 1)] } }
  { mem := [], dev := { cores := [(0, { running := true, slots := [(1, t)], eng := e, regs := { accmap := 0xFAC } })], who := 1, now := 16, coaches := [(0, { step := st })] } }
/-- A buffer of a step of depth 16: one element of A and of B is 2, the rest is 0. -/
def aBuf : MBuf := ⟨0, 0, 0x40000000 :: List.replicate 2047 0, 0x40000000 :: List.replicate 2047 0, none⟩
def aWord : EWord := ⟨0x20000, [(0, 1), (7, 8)], some (.glob 0x100, 0), 1, 0, false, false, false, false⟩
def sEWord : State := many 1 [(1, { life := .live })] { ewords := [aWord] } { mmeta := { empty := [(0x20, true)] } } [(0x101, 9)]

/-- A PSB feed that does not pair (05 R108, 24 R425). -/
def aPsb : MCmd := ⟨0, 1, .mm false false false 0 0x1400000000001000 0x1400000000009000 16 16 16, 0, false, 0, 0, 0, 0⟩
theorem wit_MatrixStepsRun_slip :
    bufsUsed (sUnit [aPsb] [] none []).dev 0 < 2 ∧ nextFetch (sUnit [aPsb] [] none []).dev 0 [] [aPsb] = some (aPsb, 0) ∧
      ((sUnit [aPsb] [] none []).dev.slot 0 1).flow.ocClear 0 = true ∧ rushed ((sUnit [aPsb] [] none []).dev.slot 0 1) = false ∧
      psbOperand aPsb.op = some 0x1400000000001000 := by decide +kernel
theorem test_matrix_slip : (match exec (.matrixOperandFetch 0 0 true) (sUnit [aPsb] [] none []) with
    | .next t => (t.dev.core 0).eng.mbuf.map (·.bad)
    | _ => []) = [some (0x50, 0x100, 0x1400000000001000)] := by decide +kernel

theorem wit_MatrixStepsRun :
    (bufsUsed (sUnit [aMm 128 0] [] none []).dev 0 < 2 ∧ nextFetch (sUnit [aMm 128 0] [] none []).dev 0 [] [aMm 128 0] = some (aMm 128 0, 0) ∧
      ((sUnit [aMm 128 0] [] none []).dev.slot 0 1).flow.ocClear 0 = true ∧ rushed ((sUnit [aMm 128 0] [] none []).dev.slot 0 1) = false) ∧
    (((sUnit [aMm 256 0] [aBuf] none []).dev.coach 0).step = none ∧
      (∀ j < 8, contends (sUnit [aMm 256 0] [aBuf] none []).dev (0 * 8 + j) = (0 * 8 + j == 0)) ∧
      0 + 1 < (aMm 256 0).steps (sUnit [aMm 256 0] [aBuf] none []).dev 0 ∧ (aMm 256 0).grp = false ∧ aBuf.bad = none) ∧
    ((sUnit [] [] (some ⟨0, aMacz 3, 0, none, true, [(0, 3, 0, 0)], 0⟩) []).dev.coach 0).step = some ⟨0, aMacz 3, 0, none, true, [(0, 3, 0, 0)], 0⟩ ∧
    ((sUnit [] [] (some ⟨0, aMm 16 1, 0, some aBuf, true, [(0, 0, 0, 0)], 0⟩) []).dev.coach 0).step = some ⟨0, aMm 16 1, 0, some aBuf, true, [(0, 0, 0, 0)], 0⟩ ∧ unitOf 0 = 0 ∧ (sUnit [] [] none []).dev.engineUp 0 = true ∧
    (((sUnit [] [] none [(0, 1, 16)]).dev.core 0).eng.mtl = [(0, 1, 16)] ∧ 16 ≤ (sUnit [] [] none [(0, 1, 16)]).dev.now ∧
      ((sUnit [] [] none [(0, 1, 16)]).dev.core 0).eng.ewords = []) ∧
    (nth? (sEWord.dev.core 0).eng.ewords 0 = some aWord ∧ aWord.loc = some (.glob 0x100, 0) ∧ sEWord.dev.objs.exists 0x100 = true ∧
      sEWord.heldBank (.glob 0x100) = false ∧ sEWord.lost (.glob 0x100) = false ∧ sEWord.dev.engineUp 0 = true ∧
      ¬(pspace aWord.ptr = 0 ∧ rangeHit sEWord.dev.objs (sEWord.dev.thr 0 1).asid.toNat (paddr aWord.ptr) 8 = true) ∧ sEWord.dev.objs.feWait = [] ∧
      Tab.wfFrom false 0 sEWord.dev.mmeta.empty = true ∧ sEWord.memOk) := by
  unfold State.memOk; decide +kernel

/-- The operands can be read, and a word of one may be read by an engine step of its own; a word's step, and the step after it. -/
theorem wit_MatrixStepsRun_words :
    (∀ x ∈ stepReads (sUnit [aMm 128 0] [] none []).dev 0 (aMm 128 0) 0, slabPoison ((sUnit [aMm 128 0] [] none []).dev.core x.1) x.2.2 = false) ∧
      (∃ x ∈ stepReads (sUnit [aMm 128 0] [] none []).dev 0 (aMm 128 0) 0, x.1 = 0 ∧ ∃ y ∈ x.2.2, 0x200 ∈ touched y.1 y.2) ∧
      ((sUnit [aMm 128 0] [] none []).dev.core 0).eng.mfeed = [] ∧ (∀ l ∈ linesOf 0x100 8, sEWord.dev.badTag l = false) ∧
      aWord.placed = false ∧ ({ aWord with placed := true } : EWord).placed = true := by decide +kernel
theorem test_engine_word : memAfter (exec (.engineStep 0 (.word 0)) sEWord) 0x100 8 = 0x0800000000000001 := by decide +kernel
/-- The word is in place before it is full: it is set full by a further step. -/
theorem test_engine_word_fills_after : (match exec (.engineStep 0 (.word 0)) sEWord with
    | .next t => (Tab.get false t.dev.mmeta.empty 0x20, match exec (.engineStep 0 (.word 0)) t with
      | .next u => Tab.get false u.dev.mmeta.empty 0x20
      | _ => true)
    | _ => (false, true)) = (true, false) := by decide +kernel
/-! ### Copies, streams and messages -/

/-- A memory that holds the given words. -/
def words (l : List (Nat × Word)) : Mem := l.foldl (fun m e => Mem.setWord m e.1 e.2) []

/-- Slot 1 with tag C; `x4` global, `x5` local, `x6` a block of zeros, `x7` a length, `x8` a counter; progress record 5 of a copy. -/
def sCopy : State :=
  one 1 { tag := 3, lmlim := 0x40000, x := [(4, 0x20000), (5, 0x1000000000001000), (6, 0x1000000000000100), (7, 256), (8, 0x1000000000000200), (10, 0x1000000000000300)] }
    { regs := { prbase := 0x42000 }, lmem := words [(0x100, 64), (0x300, 0), (0x308, 0x1000000000002000), (0x2140, 0x1000000000000040), (0x2148, 0x22000), (0x2150, 0x20000), (0x2160, 0x100)] }
def fullComp : Comp := { creg := 8, ev := true, tag := 9 }

theorem wit_CopiesEnterTheEngine : holdsC sCopy.dev.me.tag = true ∧ sCopy.dev.me.flow.acq = [] ∧ sCopy.dev.my.eng.copies.length < 128 ∧
    lenOf sCopy.dev (.reg 7) = some 256 ∧ (∃ x, lenOf (one 1 { x := [(7, 0x100000000)] }).dev x = none) ∧
    copyBad sCopy.dev (.cp 0x1000000000001000 0x20000 256) 0 (some 0x1000000000000200) = none ∧
    (payloadFault sCopy.dev (sCopy.dev.x 6) 4 = none ∧ copyBad sCopy.dev (.cpa 0x1000000000001000 0x20000 64 0 0) 0 none = none) ∧
    (payloadFault sCopy.dev (sCopy.dev.x 10) 1 = none ∧ payloadFault sCopy.dev (sCopy.dev.x 10) 2 = none ∧
      copyBad sCopy.dev (.cpm (sCopy.dev.x 10) 0x20000 256 [0x1000000000002000]) 0 none = none) ∧
    sCopy.dev.my.regs.prbase.getLsbD 18 = true ∧ bits (sCopy.dev.my.lmem.word (0x2000 + 64 * 5)) 63 60 = 1 ∧
    (touched (0x2000 + 64 * 5) 64).any (fun i => Tab.get false sCopy.dev.my.lpoison i) = false ∧
    copyBad sCopy.dev (.cp 0x22000 0x20000 0x100) 0x40 none = none ∧ sMat.dev.my.regs.prbase.getLsbD 18 = false :=
  ⟨by decide +kernel, by decide +kernel, by decide +kernel, by decide +kernel, ⟨.reg 7, by decide +kernel⟩, by decide +kernel, by decide +kernel, by decide +kernel, by decide +kernel, by decide +kernel, by decide +kernel, by decide +kernel, by decide +kernel⟩

/-- Slot 1 with tags C and N, a stream register in each state, and remote counter 2 at 1. -/
def sSend (tag : BitVec 3) : State :=
  one 1 { tag := tag, lmlim := 0x40000, x := [(4, 0x1100000000001000), (5, 0x1000000000000100), (6, 0x60901), (7, 0x100060901)] }
    { eng := { rctr := [(2, 1)], streams := [(1, { bound := true, slot := 1, accepted := true, pos := 3 }),
                                             (2, { bound := true, slot := 1, accepted := true, w0 := 0x8000000000000000, out := [(0, 1, 0)] })] } }

theorem wit_StreamsSendsAndCounters :
    (holdsC (sSend 3).dev.me.tag = true ∧ (sSend 3).dev.me.flow.acq = [] ∧ payloadFault (sSend 3).dev ((sSend 3).dev.x 5) 4 = none ∧
      strideOk 0 = true ∧ (Tab.get {} (sSend 3).dev.my.eng.streams 0).bound = false ∧ (Tab.get {} (sSend 3).dev.my.eng.streams 0).out = [] ∧
      isPsb (pfmtOf 0x1100000000001000) = false ∧ pspace (0x1100000000001000 : Word) = 1) ∧
    ((Tab.get {} (sSend 3).dev.my.eng.streams 1).bound = true ∧ (Tab.get {} (sSend 3).dev.my.eng.streams 1).slot = (sSend 3).dev.who ∧
      (Tab.get {} (sSend 3).dev.my.eng.streams 1).w0.getLsbD 63 = false ∧ (Tab.get {} (sSend 3).dev.my.eng.streams 2).w0.getLsbD 63 = true ∧
      (Tab.get {} (sSend 3).dev.my.eng.streams 2).out ≠ []) ∧
    holdsN (sSend 4).dev.me.tag = true ∧
    (bits (0x60901 : Word) 63 33 = 0 ∧ (0x60901 : Word).getLsbD 23 = false ∧ payloadFault (sSend 4).dev ((sSend 4).dev.x 5) 32 = none ∧
      (0x60901 : Word).getLsbD 32 = false) ∧
    (Tab.get none (sSend 4).dev.my.eng.armed 2 = none ∧ (1#32).toNat ≤ (Tab.get (0 : BitVec 32) (sSend 4).dev.my.eng.rctr 2).toNat ∧
      (Tab.get (0 : BitVec 32) (sSend 4).dev.my.eng.rctr 2).toNat < (2#32).toNat) := by decide

theorem test_rcset_add_saturates : (match exec (.rcsetAdd 9 2 10) (one 1 { tag := 4, x := [(10, 0xFFFFFFFF)] } { eng := { rctr := [(2, 5)] } }) with
    | .next t => (t.dev.me.xr 9, Tab.get 0 t.dev.my.eng.rctr 2)
    | _ => (0, 0)) = (5, 0xFFFFFFFF) := by decide
theorem test_sdrop_position : regAfter (exec (.sdrop 9 1) (sSend 3)) 9 = 3 := by decide

/-- A copy of 64 bytes from VA 0x20000 to VA 0x21000, its one piece open or complete. -/
def aCopy (done : List Nat) : Copy := ⟨0, 1, 0, 3, .cp 0x21000 0x20000 64, 1, 0, 0, done, [], [], [], none, [0], [], false, false, false, false, 0⟩
def nMsg : Msg := { remote := false, peer := 0, rank := 0, slot := 2, chan := 1, cnt := true, ctr := 2, endw := true, payload := [5, 6], target := 0 }
def nReq : Req := reqOf (.send nMsg) 0
/-- An input stream, an output one with an element, an armed send and a message under way. -/
def sMoves (done : List Nat) (thr : BitVec 32) : State :=
  many 1 [(1, { life := .live, flow := { cp := [(0, 1)] } }), (2, { life := .live, chans := [(1, [(4, false)])] })]
    { copies := [aCopy done], armed := [(3, some (nReq, thr))], rctr := [(2, 7), (3, 5)],
      streams := [(0, { bound := true, slot := 1, accepted := true, base := 0x0100000000020000, w0 := 3, s0 := 4 }),
                  (1, { bound := true, slot := 1, accepted := true, base := 0x0100000000022000, w0 := 0x8000000000000003, s0 := 4, out := [(1, 0x3F800000, 3)], pos := 2 })] }
    { objs := { roots := [(0, 0x8000)], msgs := [(0, 1, nReq)] } } [(0x8000, 0x0F), (0x20000, 7), (0x2003F, 9)]

theorem pieces : pieceParts (aCopy []) 0 = [(0, 64)] ∧ pieceOpen (aCopy []) 0 = true ∧ pieceCount (aCopy [0]) ≤ copyHole (aCopy [0]) := by decide

set_option maxRecDepth 8000 in
theorem wit_CopiesAndStreamsMove :
    (nth? ((sMoves [] 5).dev.core 0).eng.copies 0 = some (aCopy []) ∧ ((sMoves [] 5).dev.thr 0 1).flow.ocClear 0 = true ∧
      remoteEnd (sMoves [] 5).dev 0x20000 = false ∧ padvance 0x20000 0 = some 0x20000 ∧
      copyPlace (sMoves [] 5) 0 0 0x20000 64 true false = .ok (.glob 0x20000) 0 ∧
      copyPlace (sMoves [] 5) 0 0 0x21000 64 false true = .ok (.glob 0x21000) 0 ∧ noMemory (sMoves [] 5) (.glob 0x21000) = none ∧
      (sMoves [] 5).heldBank (.glob 0x21000) = false ∧ ((Loc.glob 0x20000).words 64).any (fun w => (sMoves [] 5).poisoned w) = false ∧
      ((Loc.glob 0x21000).words 64).any (fun w => (sMoves [] 5).lost w) = false ∧ (sMoves [] 5).dev.objs.feWait = [] ∧ (sMoves [] 5).memOk) ∧
    (hasCtr (aCopy [0]).comp = false ∧ (aCopy [0]).comp.getLsbD 0 = true ∧ ((sMoves [0] 5).dev.core 0).eng.events.length < 64 ∧
      ((sMoves [0] 5).dev.core 0).eng.eventWait = []) ∧
    (streamBusy (sMoves [] 5).dev 0 0 11 = false ∧ (Tab.get {} ((sMoves [] 5).dev.core 0).eng.streams 0).elemPtr 0 = some 0x0100000000020000 ∧
      elemPlaces (sMoves [] 5) 0 (Tab.get {} ((sMoves [] 5).dev.core 0).eng.streams 0) 0x0100000000020000 true = .ok [(.glob 0x20000, 4, 0)]) ∧
    (streamBusy (sMoves [] 5).dev 0 1 12 = false ∧ (Tab.get {} ((sMoves [] 5).dev.core 0).eng.streams 1).elemPtr 1 = some 0x0100000000022004 ∧
      elemPlaces (sMoves [] 5) 0 (Tab.get {} ((sMoves [] 5).dev.core 0).eng.streams 1) 0x0100000000022004 false = .ok [(.glob 0x22004, 4, 0)] ∧
      4 = streamElem 0x0100000000022000) ∧
    (nth? (sMoves [] 5).dev.objs.msgs 0 = some (0, 1, nReq) ∧ isHelper nMsg.slot = true ∧ ((sMoves [] 5).dev.slot 0 2).life = .live ∧
      Tab.get none ((sMoves [] 5).dev.core 0).eng.armed 2 = none) ∧
    Tab.get none ((sMoves [] 5).dev.core 0).eng.armed 3 = some (nReq, 5) := by
  unfold State.memOk; decide +kernel

/-- The memory that they read and write is served; a word of a copy and one of a stream in place, to be set full. -/
def sFull : State :=
  many 1 [(1, { life := .live, flow := { cp := [(0, 1)] } })]
    { copies := [{ aCopy [0] with inPlace := [(0, 0, .glob 0x21000, 8)] }],
      streams := [(1, { bound := true, slot := 1, accepted := true, w0 := 0x8000000000000003, cover := [(0, .glob 0x22000, 0xFF)] })] }
    { mmeta := { empty := [(0x4200, true), (0x4400, true)] } }
set_option maxRecDepth 8000 in
theorem wit_CopiesAndStreamsMove_served :
    let s := sMoves [] 5
    let e := (s.dev.core 0).eng
    (s.dev.engineUp 0 = true ∧ (aCopy []).ending = false ∧ partHeld s (aCopy []) (0, 64) = false ∧ (∀ l ∈ linesOf 0x21000 64, s.dev.badTag l = false) ∧
      ∀ l ∈ (Loc.glob 0x20000).lines 64 ++ (Loc.glob 0x21000).lines 64, noMemory s l = none ∧ placeHeld s l = false) ∧
    (elemHeld s (Tab.get {} e.streams 0) 0x0100000000020000 = false ∧ anyHeld s (.glob 0x20000) 4 = false ∧ s.poisonedIn (.glob 0x20000) 4 = false ∧
      (Tab.get {} e.streams 0).fetched = [] ∧ (Tab.get {} e.streams 1).written = []) ∧
    (nth? (sFull.dev.core 0).eng.copies 0 = some { aCopy [0] with inPlace := [(0, 0, .glob 0x21000, 8)] } ∧
      copyRuns sFull 0 { aCopy [0] with inPlace := [(0, 0, .glob 0x21000, 8)] } = true ∧
      8 ≤ fullBelow { aCopy [0] with inPlace := [(0, 0, .glob 0x21000, 8)] } ∧ sFull.dev.objs.feWait = [] ∧ Tab.wfFrom false 0 sFull.dev.mmeta.empty = true ∧
      nth? (Tab.get {} (sFull.dev.core 0).eng.streams 1).cover 0 = some (0, .glob 0x22000, 0xFF)) := by decide +kernel

/-- 06 R132: a stream's word is set full by a step of its own. -/
theorem test_stream_word_fills : (match exec (.engineStep 0 (.cover 1 0)) sFull with
    | .next t => (Tab.get false t.dev.mmeta.empty 0x4400, Tab.get false t.dev.mmeta.empty 0x4200)
    | _ => (true, true)) = (false, true) := by decide +kernel

theorem test_copy_piece : memAfter (exec (.copyPiece 0 0 0 none) (sMoves [] 5)) 0x21000 1 = 7 ∧ memAfter (exec (.copyPiece 0 0 0 none) (sMoves [] 5)) 0x2103F 1 = 9 := by
  decide +kernel
/-- A side-band mismatch at a PSB element of stream 0 and at block 0 of a PSB copy (05 R108, 24 R425). -/
def sSlip : State :=
  many 1 [(1, { life := .live, flow := { cp := [(0, 1)] } })]
    { copies := [{ aCopy [] with kind := .cp 0x0420000000021000 0x0420000000020000 64 }],
      streams := [(0, { bound := true, slot := 1, accepted := true, base := 0x0420000000020000, w0 := 3, s0 := 1 })] }
    { objs := { roots := [(0, 0x8000)] } } [(0x8000, 0x0F), (0x20000, 7)]
set_option maxRecDepth 8000 in
theorem wit_CopiesAndStreamsMove_slip :
    let st := Tab.get {} (sSlip.dev.core 0).eng.streams 0
    streamBusy sSlip.dev 0 0 11 = false ∧ st.ahead.any (·.2.isSome) = false ∧ st.pos + st.ahead.length < patternLen st.w0 ∧
      (st.ahead.length + 1) * streamElem st.base ≤ 4096 ∧ (sSlip.dev.thr 0 1).flow.ocClear st.bindId = true ∧
      st.elemPtr 0 = some 0x0420000000020000 ∧ (elemPlaces sSlip 0 st 0x0420000000020000 true).isOk = true ∧ isPsb (pfmtOf st.base) = true := by
  decide +kernel
theorem test_stream_slip : (match exec (.streamRunaheadFetch 0 0 true) sSlip with
    | .next t => (Tab.get {} (t.dev.core 0).eng.streams 0).ahead
    | _ => []) = [(0, some (0x50, 0x0420000000020000, 0x100))] := by decide +kernel
theorem test_copy_slip : memAfter (exec (.copyPiece 0 0 0 (some 0)) sSlip) 0x21000 1 = 0 ∧ (match exec (.copyPiece 0 0 0 (some 0)) sSlip with
    | .next t => (t.dev.core 0).eng.events
    | _ => []) = [(0x3158500000000000, 0)] := by decide +kernel
theorem test_stream_drain : memAfter (exec (.streamDrain 0 1 false) (sMoves [] 5)) 0x22000 8 = 0x3F80000000000000 := by decide +kernel
/-- 10 R216: the payload, then the end word of type 2; the counter named goes up. -/
theorem test_message_placed : (match exec (.messagePlacement 0) (sMoves [] 5) with
    | .next t => (Tab.get [] (t.dev.slot 0 2).chans 1, Tab.get 0 (t.dev.core 0).eng.rctr 2)
    | _ => ([], 0)) = ([(4, false), (5, false), (6, false), (0x8000000000000000, true)], 8) := by decide +kernel
/-! ### Scheduling, control space and upkeep -/

def aQueue (n c w : Nat) (recs : List QRec) : Queue := ⟨n, 2, 3, c, w, 0, 0, 0, [0xFF, 0, 0, 0], 0, [1, 1, 1, 1, 1], recs, [], 0, some 0, false⟩
/-- Records of groups of two and of one. -/
def recTwo : QRec := ⟨0x111, [0x80000000], true, none⟩
def recOne : QRec := ⟨0x222, [0x40000000], true, none⟩
/-- Core 0 with a slot of queue 4 and one of queue 5; queue 6 is of a lower class, 7 is empty. -/
def sDisp : State :=
  let c : Core := { running := true, slots := [(1, { owner := some 5 }), (2, { life := .live }), (3, { owner := some 4 })] }
  let o : Objs := { queues := [aQueue 4 1 3 [recOne], aQueue 5 1 1 [recTwo, recOne], aQueue 6 0 9 [recOne], aQueue 7 3 9 []] }
  { mem := [], dev := { now := 1800000, cores := [(0, c)], objs := o } }

theorem wit_SchedulerArbitrations : sDisp.dev.objs.dispatch = true ∧ (sDisp.dev.objs.queues.map (·.num)).Nodup ∧
    (contenders sDisp.dev.objs (fun q => maskHas 0 q 0)).map (·.num) = [4, 5] ∧ (contenders sDisp.dev.objs (fun q => maskHas 0 q 9)) = [] ∧
    coreQualifies sDisp.dev (aQueue 4 1 3 [recOne]) 0 = true ∧ coreQualifies sDisp.dev (aQueue 5 1 1 [recTwo, recOne]) 0 = false ∧
    ((sDisp.dev.core 0).running = true ∧ (sDisp.dev.coach (unitOf 0)).final = false ∧ ((sDisp.dev.core 0).slot ((0 + 0) % 10 + 1)).life = .free) ∧
    (sDisp.dev.die 0).failed = false ∧ sDisp.dev.engineUp 0 = true ∧ sDisp.dev.plat.pfault = false ∧ (aQueue 4 1 3 [recOne]).since = some 0 ∧ 0 + 1800000 ≤ sDisp.dev.now := by decide +kernel

/-- 03 R57: the weights 3 and 1 give the slot to queue 4, which pays their sum. -/
theorem test_slot_arbitration : (match exec (.slotArbitration 0) sDisp with
    | .next t => ((t.dev.slot 0 1).owner, (t.dev.core 0).eng.arbCredit)
    | _ => (none, [])) = (some 4, [(4, -1), (5, 1)]) := by decide +kernel

/-- A device in a boot status, owned or not, with a queue and a page of host memory under ASID `a`. -/
def sOwn (st : BitVec 4) (owned : Bool) (owner : BitVec 2) (leaf : Byte) (a : Nat) : State :=
  let o : Objs := { queues := [{ aQueue 4 1 3 [] with nodes := 2, pool := 0x30000 }], roots := [(a, 0x8000)] }
  { mem := [(0x8000, leaf)], dev := { plat := { status := st, owned := owned, owner := owner }, objs := o } }

theorem walk_own (a : Nat) : walk (sOwn 6 true 0 0x1F a) a 0x20000 = some (0, 0x1F) := by
  have h : Tab.get 0 (sOwn 6 true 0 0x1F a).dev.objs.roots a = 0x8000 := by simp [sOwn, Tab.get]
  have h0 : walkPoison (sOwn 6 true 0 0x1F a) a 0x20000 = none := by
    unfold walkPoison
    rw [h]
    exact (by decide : (walkReads [(0x8000, 0x1F)] 3 0 0x8000 0x20000).find? (fun x => (sOwn 6 true 0 0x1F 0).poisoned (.glob x)) = none)
  unfold walk
  rw [h, h0]
  show (if none.isSome = true then none else walkFrom [(0x8000, 0x1F)] 3 0 0x8000 0x20000) = some (0, 0x1F)
  decide

/-- Commands that ports gave in the current cycle. -/
def sClaims (owned : Bool) (l : List (Nat × Word)) : State :=
  { mem := [], dev := { plat := { status := 6, owned := owned, claims := l } } }

theorem wit_OwnershipAndHostWindow :
    ((sOwn 6 false 0 0 0).dev.plat.status = 6 ∧ (sOwn 6 false 0 0 0).dev.plat.cxlHost1 = false ∧ (sOwn 6 true 0 0x1F 0).lost (.glob 0x20000) = false) ∧
    ((sClaims false [(3, 0x100), (0, 0x100)]).dev.plat.claims = [((3 : BitVec 2).toNat, 0x100), ((0 : BitVec 2).toNat, 0x100)] ∧
      (sClaims false [(3, 0x100)]).dev.plat.claims = [((3 : BitVec 2).toNat, 0x100)] ∧
      (sClaims true [(0, 0x230)]).dev.plat.claims = [((0 : BitVec 2).toNat, BitVec.ofNat 64 (0x200 + 16 * (3 : BitVec 2).toNat))] ∧
      (sClaims true [(0, 0x300)]).dev.plat.claims = [((0 : BitVec 2).toNat, 0x300)] ∧ (sClaims false []).dev.plat.owned = false) ∧
    ((sOwn 6 true 0 0 0).dev.plat.owned = true ∧ (sOwn 6 true 0 0 0).dev.plat.owner = 0) ∧
    ((sOwn 6 true 3 0 0).dev.plat.owned = true ∧ (sOwn 6 true 3 0 0).dev.plat.owner = 3) ∧ (3 : BitVec 2) ≠ 0 ∧
    (enqueueRecord (sOwn 6 true 0 0 0) false 4 none 0 [0x40000000, 0, 0, 0, 0, 0, 0, 0xFFFFFFFFFFFFFFFF]).2 = 0 ∧
    (∀ a, walk (sOwn 6 true 0 0x1F a) a 0x20000 = some (0, 0x1F)) ∧ leafHost 0x1F = true ∧ leafHost 0x0F = false ∧
    (∀ a, checks78 (sOwn 6 true 0 0x1F a).dev.objs a 0x20000 1 false true 0 0x1F = .ok (.glob 0x20000) 0) ∧
    (sOwn 6 true 0 0x1F 0).dev.objs.exists 0x20000 = true ∧
    ((∀ x ∈ (sOwn 6 true 0 0 0).dev.objs.queues, x.num = 4 → queueDown (sOwn 6 true 0 0 0).dev x = false) ∧
      (∀ x ∈ (sOwn 6 true 0 0 0).dev.objs.queues, queueDown { (sOwn 6 true 0 0 0).dev with dies := [(0, { failed := true })] } x = true)) :=
  ⟨by decide, by decide, by decide, by decide, by decide, by decide, walk_own, by decide, by decide, fun a => rfl, by decide, by decide⟩

/-- A claim waits for its cycle's end, where the lowest port's takes the device (11 R232). -/
theorem test_claim : (match exec (.claim 1) (sClaims false [(3, 0x100)]) with
    | .next t => t.dev.plat.claims
    | _ => []) = [(3, 0x100)] := by decide
theorem test_lowest_port : (let p := settleClaims (sClaims false [(3, 0x100), (0, 0x100)]).dev.plat
    (p.owned, p.owner, p.epoch)) = (true, 0, 1) := by decide

/-- Core 0 stopped or running with a bound of 10 words, and a key slot with a staged key. -/
def sLoad (run busy : Bool) : State :=
  let k : KeySlot := { ver := 3, pending := some [2] }
  { mem := [], dev := { plat := { status := 6, owned := true, owner := 0, scrubBusy := busy, keys := [(0, k)] }, cores := [(0, { running := run, regs := { xb := 10 }, slots := if run then [(1, { life := .live })] else [] })] } }

theorem wit_ControlSpaceWrites : 5 ≤ (sLoad true false).dev.plat.status.toNat ∧ (sLoad true false).dev.plat.pfault = false ∧ (sLoad true false).dev.plat.status ≠ 15 ∧ ((sLoad true false).dev.plat.owned = true ∧ (sLoad true false).dev.plat.owner = 0) ∧
    ((sLoad true false).dev.core 0).running = true ∧ ((sLoad false false).dev.core 0).running = false ∧ ((sLoad true false).dev.slot 0 1).life = .live ∧
    ((9#15).toNat < ((sLoad false false).dev.core 0).regs.xb.toNat ∧ ((sLoad false false).dev.core 0).regs.xb.toNat ≤ (10#15).toNat) ∧
    ((sLoad false false).dev.die 0).failed = false ∧ (sLoad false true).dev.plat.scrubBusy = true ∧ (6 ≤ (168#8).toNat ∧ (168#8).toNat ≤ 168) ∧
    (169#8).toNat > 168 ∧ Tab.get (0 : BitVec 2) (sLoad false false).dev.plat.mailState 0 ≠ 1 := by decide

theorem test_port_cannot_load : (match exec (.coreLoadDataWrite (.port 0) 5) (sLoad false false) with
    | .next t => (t.dev.plat.refused, (t.dev.core 0).lmem)
    | _ => (0, [])) = (1, []) := by decide
theorem test_version_wraps : (match exec (.scrubStart .supervisor 6) (sLoad false false) with
    | .next t => t.dev.plat.keys.map (fun (e : Nat × KeySlot) => (e.2.ver, e.2.prev))
    | _ => []) = [(0, some 3)] := by decide

/-- Core 0 keeps an idle entry of a guard at peer 1. -/
def sRemote : State :=
  { mem := [], dev := { cores := [(0, { running := true, eng := { bind := [(0, { valid := true, gpeer := some 1, epoch := 7 })] } })] } }

theorem wit_ReclaimsAndDieSaves : (sLoad false false).dev.plat.reclaimBusy = false ∧ (0x8000000000000000 : Word).getLsbD 63 = true ∧
    (Tab.get {} ((sLoad false false).dev.core 0).eng.bind 0 : BindEnt).mode = 0 ∧ isLast (sLoad false false).dev.objs 0 0 {} = false ∧
    ((Tab.get {} ((sLoad false false).dev.core 0).eng.bind 0 : BindEnt).gpeer = none ∧ (let b : BindEnt := Tab.get {} (sRemote.dev.core 0).eng.bind 0
      (∃ p, b.gpeer = some p) ∧ b.mode = 0 ∧ b.valid = true ∧ b.epoch ≠ 0xFFFF ∧ sRemote.dev.plat.status ≠ 15 ∧ sRemote.dev.plat.reclaimBusy = false)) ∧
    ((sManager (aGuard 2 true []) [] []).dev.plat.status ≠ 15 ∧ (Tab.get {} ((sManager (aGuard 2 true []) [] []).dev.core 0).eng.bind 0 : BindEnt).mode ≠ 0) ∧
    (sLoad false false).dev.plat.dieOp = none ∧ bits (0x100000 : Word) 43 20 * 2 ^ 20 ≠ 0 ∧ bits (0 : Word) 43 20 * 2 ^ 20 = 0 ∧
    ((sLoad false false).dev.die 0).halted = false ∧ ((sLoad false false).dev.die 0).failed = false ∧ (sLoad false false).dev.plat.pfault = false ∧ (sLoad false false).mem.wf = true :=
  ⟨by decide, by decide, by decide, by decide, ⟨by decide, ⟨1, by decide⟩, by decide⟩, by decide⟩
theorem wit_die_free : ∀ n, n < 256 → ∀ k, 1 ≤ k → k ≤ 10 → ((sLoad false false).dev.slot (0 * 256 + n) k).life = .free := by
  intro n _ k _ _
  unfold sLoad Dev.slot Dev.core
  by_cases h : n = 0
  · simp [Tab.get, h, Core.slot]
  · simp [Tab.get, Ne.symm h, Core.slot]
theorem wit_save_ready : saveReady (sLoad false false).dev ⟨true, 0x100000, 0⟩ = true := by decide +kernel

/-- All 2,048 cores run. -/
def sBoot : State :=
  { mem := [], dev := { plat := { status := 5 }, cores := (List.range 2048).map (fun (r : Nat) => (r, ({ running := true } : Core))) } }
/-- A platform whose cap is at its end, with one coach at bin 6 and one at bin 5, debug enabled. -/
def sPower : State :=
  { mem := [], dev := { now := 36000000, coaches := [(0, { abin := 6, volt := 150 }), (1, { abin := 5 })], plat := { status := 6, cap := 6, over1s := true, mailState := [(3, 1)], debug := true } } }

theorem wit_BootPowerAndDebug : sBoot.dev.plat.status = 5 ∧ 2048 ≤ (sBoot.dev.cores.filter (fun c => c.2.running)).length ∧
    (sPower.dev.plat.status = 6 ∧ Tab.get 0 sPower.dev.plat.mailState 3 = 1 ∧ Mem.wf sPower.dev.plat.mailbox = true) ∧
    (sPower.dev.plat.cap = 6 ∧ sPower.dev.plat.over1s = true ∧ sPower.dev.plat.capSince + 36000000 ≤ sPower.dev.now) ∧
    ((sPower.dev.coach 0).abin = 6 ∧ (sPower.dev.coach 0).final = false ∧ (sPower.dev.coach 1).abin ≠ 6 ∧ (sPower.dev.coach 1).volt.toNat ≤ 150) ∧
    ((sOwn 1 false 0 0 0).dev.plat.status = 1 ∧ (sOwn 2 false 0 0 0).dev.plat.status = 2 ∧ (sOwn 3 false 0 0 0).dev.plat.status = 3 ∧
      (sOwn 4 false 0 0 0).dev.plat.status = 4 ∧ 5 ≤ (sOwn 15 false 0 0 0).dev.plat.status.toNat) ∧
    sPower.dev.plat.debug = true ∧ (sPower.dev.slot 0 14).life ≠ .live ∧ (sLoad false false).dev.plat.debug = false ∧
    (sPower.dev.engineUp 0 = true ∧ serviceIdle (sPower.dev.slot 0 14) = true ∧ ((many 0 [(14, { life := .live })]).dev.slot 0 14).life = .live) ∧
    ((sOwn 15 false 0 0 0).dev.plat.status = 15 ∧ isMaster (sOwn 15 false 0 0 0).dev.plat 3 = true) := by decide +kernel
/-- The verdict on an image rests on its digest, signature and version, which the device finds (log 8): it is good or it is not. -/
theorem wit_recovery (p : Plat) : imageVerdict p (some p.recovery) = 0 ∨ imageVerdict p (some p.recovery) ≠ 0 := em _

/-- 11 R237: bin 5 raised gives 6 and starts the 20 ms. -/
theorem test_idcode : (match exec .tapIdcode sPower with
    | .next t => t.dev.plat.idcode
    | _ => none) = some 0x1A0805A7 := by decide
theorem test_ageing_final : (match exec (.ageingSample 0 151 0) sPower with
    | .next t => ((t.dev.coach 0).final, t.dev.plat.posts)
    | _ => (false, [])) = (true, [(5, 0)]) := by decide

/-- A scrub pass over line 4 (PA 0x100), whose key slot is at version 2 after 1; core 0 with one failed bank, one with two. -/
def sScrub (v : BitVec 2) : State :=
  let k : KeySlot := { ver := 2, prev := some 1 }
  { mem := [(0x100, 7)], dev := { plat := { scrubBusy := true, keys := [(0, k)] }, mmeta := { kver := [(4, v)], key := [(4, 0)] }, objs := { farCxl := true }, dies := [(1, { remap := [(1, 1)] })], cores := [(0, { regs := { lmstat := 35 } }), (1, { regs := { lmstat := 2339 } })] } }

theorem wit_MemoryUpkeep : ((sScrub 1).dev.plat.scrubBusy = true ∧ (sScrub 1).dev.objs.exists 0x100 = true ∧ (sScrub 1).lost (.glob 0x100) = false ∧ (sScrub 1).heldBank (.glob 0x100) = false ∧
      (sScrub 1).dev.plat.reg 0x3000 = 0 ∧ (sScrub 1).mem.wf = true) ∧
    ((Tab.get {} (sScrub 1).dev.plat.keys 0 : KeySlot).prev = some (Tab.get 0 (sScrub 1).dev.mmeta.kver 4)) ∧
    (Tab.get 0 (sScrub 3).dev.mmeta.kver 4 ≠ 2 ∧ Tab.get 0 (sScrub 3).dev.mmeta.kver 4 ≠ 1) ∧ Tab.get 0 (sScrub 2).dev.mmeta.kver 4 = 2 ∧
    (((sScrub 1).dev.die 1).failed = false ∧ Tab.get 0 ((sScrub 1).dev.die 1).remap 255 ≠ 2 ∧ Tab.get 0 ((sScrub 1).dev.die 1).remap 1 = 1) ∧
    (((sScrub 1).dev.core 2).regs.lmstat.getLsbD 5 = false ∧ ((sScrub 1).dev.core 0).regs.lmstat.getLsbD 5 = true ∧
      ((sScrub 1).dev.core 0).regs.lmstat.getLsbD 11 = false ∧ bits ((sScrub 1).dev.core 0).regs.lmstat 4 0 = 3 ∧
      ((sScrub 1).dev.core 1).regs.lmstat.getLsbD 11 = true ∧ bits ((sScrub 1).dev.core 1).regs.lmstat 10 6 = 4) ∧
    ((sScrub 1).dev.plat.cxlHost1 = false ∧ 32767 + 1 ≤ 32768 ∧ Tab.get 0 (sScrub 1).dev.objs.cxl 32767 = 0) ∧
    ((sScrub 1).dev.objs.farCxl = true ∧ (sScrub 1).dev.mmeta.key = [(4, 0)] ∧ Tab.get 0 (sScrub 2).dev.mmeta.kver 4 = (Tab.get {} (sScrub 2).dev.plat.keys 0 : KeySlot).ver) ∧
    (targets (sScrub 1) (2 ^ 42) (2 ^ 42 + 2 ^ 27) = false ∧ migTargets (sScrub 1) (2 ^ 42) (2 ^ 42 + 2 ^ 27) = false) := by decide +kernel

/-- A pass that has visited every line of node 0, the only configured node, and one that has visited none. -/
def sPass (l : List (Nat × Nat)) : State := { mem := [], dev := { plat := { scrubBusy := true, visited := l }, objs := { farLp6 := false } } }
theorem wit_MemoryUpkeep_pass : (sPass [(0, hbmBytes / 64)]).dev.plat.scrubBusy = true ∧
    (sPass [(0, hbmBytes / 64)]).dev.plat.visited.Pairwise (fun a b => a.2 ≤ b.1) ∧ (∀ e ∈ (sPass [(0, hbmBytes / 64)]).dev.plat.visited, e.1 ≤ e.2) ∧
    (∀ m ∈ configuredLines (sPass [(0, hbmBytes / 64)]).dev.objs, ∀ l, m.1 ≤ l → l < m.2 → ∃ e ∈ (sPass [(0, hbmBytes / 64)]).dev.plat.visited, e.1 ≤ l ∧ l < e.2) ∧
    (∃ m ∈ configuredLines (sPass []).dev.objs, ∃ l, m.1 ≤ l ∧ l < m.2 ∧ ¬((∃ e ∈ (sPass []).dev.plat.visited, e.1 ≤ l ∧ l < e.2) ∨ (sPass []).lost (.glob (64 * l)) = true)) := by
  refine ⟨rfl, by simp [sPass], by simp [sPass], ?_, ⟨(0, hbmBytes / 64), by simp [configuredLines, sPass], 0, by decide, by decide, by decide⟩⟩
  intro m hm l h1 h2
  simp [configuredLines, sPass] at hm
  subst hm
  exact ⟨_, by simp [sPass], h1, h2⟩

theorem test_bank_marks : (match exec (.localBankMarkFailed 0 (.mark 5)) (sScrub 1) with
    | .next t => bits (t.dev.core 0).regs.lmstat 11 0
    | _ => 0) = 2048 + 64 * 5 + 35 := by decide +kernel
/-! ### Migration, links and packets; the step -/

/-- VA 0 under ASID 0 is a 64 KiB page of the far tier; `free`: node 0's list of frames has one at 0x100000. -/
def sMig (free : Bool) (migs : List Mig) : State :=
  let t : Slot := { life := .live, parked := some .service, pc := 7 }
  { mem := words [(0x8000, 0x10001), (0x10000, 0x14001), (0x14000, 0x1000000000F), (0x18000, if free then 0x100000 else 0), (0x18008, 0x100000), (0x10000000008, 77)],
    dev := { plat := { regs := [(0x560, 0x8000000000000005), (0x570, 0x18000)] }, objs := { roots := [(0, 0x8000)], migs := migs }, cores := [(0, { running := true, slots := [(15, t)] })] } }
def aMig : Mig := ⟨0, 0, 0, 0, 15, 5, false⟩

set_option maxRecDepth 8000 in
theorem wit_MigrationsMovePages : (sMig true [aMig]).dev.objs.migs = [aMig] ∧ walk (sMig true [aMig]) 0 0 = some (2, 0x1000000000F) ∧
    migServes (sMig true [aMig]) 0 aMig = true ∧ walkHeld (sMig true [aMig]) 0 0 = false ∧ engineFrame (sMig true []).dev.objs 0 (leafBase 0x1000000000F) = true ∧ (sMig true []).dev.dieDown (8 + 0) = false ∧ nodeConfigured (sMig true [aMig]).dev.objs 0 = true ∧
    nodeConfigured (sMig true [aMig]).dev.objs 2 = false ∧ nodeOf (leafBase 0x1000000000F) = 1 ∧ guardIn (sMig true [aMig]).dev.objs (leafBase 0x1000000000F) 65536 = false ∧
    pageHeld (sMig true [aMig]) (leafBase 0x1000000000F) 65536 = false ∧ (takeFrame (sMig false [aMig]) 0 2).isNone = true ∧
    (takeFrame (sMig true [aMig]) 0 2).map (·.2) = some 0x100000 ∧ (sMig true [aMig]).dev.objs.exists 0x100000 = true ∧
    pageHeld (sMig true [aMig]) 0x100000 65536 = false ∧ badWrite (sMig true [aMig]) ⟨0, none⟩ 0x100000 65536 = none ∧
    badWrite (sMig true [aMig]) ⟨0, some 1023⟩ 0x100000 65536 = some 0x10FFC0 ∧ badWrite (sMig true [aMig]) ⟨0, some 1024⟩ 0x100000 65536 = none ∧
    ((sMig true [aMig]).dev.slot 0 15).parked = some .service ∧ (sMig true [aMig]).dev.plat.reg (frameList 1 2) = 0 ∧
    leafAt (sMig true [aMig]) 0 0 = 0x14000 ∧ (takeFrame (sMig true [aMig]) 0 2).any (fun x => x.1.mem.wf) = true ∧
    ((sMig true []).dev.plat.reg 0x560).getLsbD 63 = true ∧ bits ((sMig true []).dev.plat.reg 0x560) 31 0 < 6 := by decide +kernel

/-- 22 R420: a write of the new frame that meets an uncorrectable error ends the move with status 4, the frame back in its list. -/
theorem test_migration_aborts : (match exec (.migration ⟨0, some 3⟩) (sMig true [aMig]) with
    | .next t => [(t.dev.slot 0 15).xr 5, t.mem.word 0x14000, t.mem.word 0x18000, t.dev.plat.reg 0x3018]
    | _ => []) = [4, 0x1000000000F, 0x100000, 1] := by decide +kernel

/-- 04 R88: the page's bytes stand in the frame, its leaf names it, and `pmig` gets status 0 and goes on. -/
theorem test_migration_moves : (match exec (.migration ⟨0, none⟩) (sMig true [aMig]) with
    | .next t => [t.mem.readN 0x100008 8, (t.mem.word 0x14000).toNat, (t.mem.word 0x18000).toNat, (t.dev.slot 0 15).pc.toNat, t.dev.objs.migs.length]
    | _ => []) = [77, 0x10000F, 0, 8, 0] := by decide +kernel

/-- Link 0 in a state, with replays of the last 100 µs. -/
def sLink (st : BitVec 3) (n : Nat) (fab : List FReq) : State :=
  let k : Link := { state := st, recent := List.replicate n 200000, since := 100000, retrains := 255, replays := 0xFFFF, lanefail := 0x0001 }
  { mem := [], dev := { now := 280000, objs := { links := [(0, k)], popmap := 0xFFFFFFFFFFFFFFFF, fabric := fab }, cores := [(0, { running := true, slots := [(1, { life := .live, flow := { ld := [(0, 1)] } })] })] } }

theorem wit_LinksRetrainAndFail : (Tab.get {} (sLink 2 16 []).dev.objs.links 0 : Link).state = 2 ∧ (sLink 2 16 []).dev.plat.farFailed0 = false ∧
    16 ≤ ((Tab.get {} (sLink 2 16 []).dev.objs.links 0 : Link).recent.filter (fun t => (sLink 2 16 []).dev.now < t + 180000)).length ∧
    ((Tab.get {} (sLink 2 15 []).dev.objs.links 0 : Link).recent.filter (fun t => (sLink 2 15 []).dev.now < t + 180000)).length < 16 ∧
    (Tab.get {} (sLink 3 0 []).dev.objs.links 0 : Link).lanefail.toNat % 256 ≠ 0 ∧ (Tab.get {} (sLink 1 0 []).dev.objs.links 0 : Link).state = 1 ∧
    (sLink 1 0 []).dev.now = (Tab.get {} (sLink 1 0 []).dev.objs.links 0 : Link).since + 180000 ∧ linkTo (sLink 2 0 []).dev 1 = some 0 ∧
    decide (0 < 7) = !false := by decide

theorem test_lane_loss_half : (match exec (.laneLoss 0 8) (sLink 3 0 []) with
    | .next t => ((Tab.get {} t.dev.objs.links 0 : Link).state, t.dev.plat.posts)
    | _ => (0, [])) = (4, [(7, 0)]) := by decide
theorem test_training_half : (match exec (.linkTrainingDone 0 0x0100) (sLink 1 0 []) with
    | .next t => ((Tab.get {} t.dev.objs.links 0 : Link).state, (Tab.get {} t.dev.objs.links 0 : Link).lanefail)
    | _ => (0, 0)) = (4, 0x0101) := by decide

/-- A load of slot 1 from peer 1, at the port, sent, in the next router's custody, or accepted. -/
def fReq (stage : Nat) : FReq :=
  ⟨0, 1, { reqOf (.load 8 false) 0 with cls := .ld, loc := .peer 1 0x100 }, if stage = 0 then [] else [1], stage, false⟩
theorem wit_LinksRetrainAndFail_custody : linkTo (sLink 2 0 [fReq 0]).dev 1 = some 0 ∧ (Tab.get {} (sLink 2 0 [fReq 0]).dev.objs.links 0 : Link).state ≠ 4 ∧
    ∀ f ∈ (sLink 2 0 [fReq 0]).dev.objs.fabric, f.stage = 0 := by decide
theorem wit_PacketsCarryAndAnswer : nth? (sLink 2 0 [fReq 0]).dev.objs.fabric 0 = some (fReq 0) ∧ (fReq 0).req.kind < 5 ∧ (fReq 0).req.op = .load 8 false ∧
    (fReq 0).req.elem < 256 ∧ chooseRoute (sLink 2 0 []).dev (occupancy 0) 1 = some [1] ∧ routesTo (sLink 4 0 []).dev 1 = [] ∧ linkUp (sLink 2 0 []).dev 0 = true ∧
    nth? (sLink 2 0 [fReq 1]).dev.objs.fabric 0 = some (fReq 1) ∧ (fReq 1).stage = 1 ∧ (fReq 1).route = [(fReq 1).req.target] ∧
    (1 ≤ (0x42 : Byte).toNat / 16 ∧ (0x42 : Byte).toNat / 16 ≤ 4 ∧ 1 ≤ (0x42 : Byte).toNat % 16 ∧ (0x42 : Byte).toNat % 16 ≤ 3) ∧
    (linkRoom (Tab.get {} (sLink 2 0 []).dev.objs.links 0) 2 = true ∧ linkRoom ({ txseq := 2047 } : Link) 2 = false ∧ linkRoom ({ txseq := 2047, acked := 1 } : Link) 2 = true) ∧
    ((fReq 1).link (sLink 1 0 [fReq 1]).dev = 0 ∧ linkUp (sLink 1 0 [fReq 1]).dev 0 = false ∧ linkUp (sLink 2 0 [fReq 1]).dev ((fReq 1).link (sLink 2 0 [fReq 1]).dev) = true ∧
      (sLink 1 0 [fReq 1]).dev.objs.fabric = [fReq 1] ∧ (fReq 2).stage = 2 ∧ (fReq 3).stage = 3) ∧
    Tab.get 0 (sLink 2 0 []).dev.objs.dragMark 1 + 3600 ≤ (sLink 2 0 []).dev.now := by decide

/-- 10 R228, 25 R445: custody at the next router acknowledges the flits. -/
theorem test_custody_acknowledges : (match exec (.packetCustody 0 0) (sLink 2 0 [fReq 1]) with
    | .next t => ((Tab.get {} t.dev.objs.links 0 : Link).acked, t.dev.objs.fabric.map (·.stage))
    | _ => (0, [])) = (2, [2]) := by decide

/-- A page exported to peer 1 (04 R96): its words may be written. -/
def sExport : State :=
  { mem := words [(0x8000, 0x2F)], dev := { plat := { regs := [(0x608, 0x8000000000000000)] }, objs := { roots := [(0, 0x8000)] } } }
theorem wit_export : portWalk sExport 1 0x20000 8 false true = .ok (.glob 0x20000) 0 ∧ portWalk sExport 2 0x20000 8 false true = .bad 0x11 ∧
    walkPoison sExport (bits (sExport.dev.plat.reg (0x600 + 8 * peerIx 2)) 15 0) 0x20000 = none ∧ sExport.dev.objs.exists 0x20000 = true ∧ sExport.heldBank (.glob 0x20000) = false ∧ sExport.lost (.glob 0x20000) = false ∧ linkUp ({ sExport.dev with objs := { sExport.dev.objs with links := [(0, { state := 2 })] } } : Dev) 0 = true ∧
    (∀ l ∈ linesOf 0x20000 8, sExport.dev.badTag l = false) ∧ sExport.dev.objs.peerCover = [] := by decide

theorem test_response_returns : (match exec (.responseArrival 0 true true (.data [7, 0, 0, 0, 0, 0, 0, 0])) (sLink 2 0 [fReq 3]) with
    | .next t => ((t.dev.slot 0 1).flow.rets.map (·.val), Tab.get (1, 0) t.dev.objs.drags 1)
    | _ => ([], (0, 0))) = ([.words [7] true], (7, 3)) := by decide
theorem test_failed_device : (match exec (.failureAnnounce (.device 1)) (sLink 2 0 [fReq 1]) with
    | .next t => (t.dev.slot 0 1).flow.rets.map (·.val)
    | _ => []) = [.defer 0x48 0x20000 0x330000] := by decide

/-- Slot 1 at word 0 of a core with a bound of one word, which is `nop` (12 R264) or zero in every bit (12 R266). -/
def sStep (op : Byte) (a : List Move) (pc : PcIx) : State :=
  one 1 { pc := pc } { regs := { xb := 1 }, lmem := if op = 0 then [] else [(11, op)] } { agenda := a }

theorem wit_StepRunsTheDecodedInstruction :
    (sStep 1 [⟨1, .event .tapIdcode⟩] 0).dev.agenda = [⟨1, .event .tapIdcode⟩] ∧ (sStep 1 [⟨1, .issue 0 1⟩] 0).dev.agenda = [⟨1, .issue 0 1⟩] ∧
    issuable (sStep 1 [] 0).dev 0 1 = true ∧ issuable (sStep 1 [] 0).dev 0 2 = false ∧ (sStep 1 [] 0).dev.me.aborting = none ∧
    (sStep 1 [] 1).dev.my.regs.xb.toNat ≤ (sStep 1 [] 1).dev.me.pc.toNat ∧ (sStep 1 [] 0).dev.me.pc.toNat < (sStep 1 [] 0).dev.my.regs.xb.toNat ∧
    fetchPoisoned (sStep 1 [] 0).dev.my 0 = false ∧
    decode (wordOfBytes ((sStep 1 [] 0).dev.my.lmem.bytes 0 12)) = .ok ⟨⟨false, 0⟩, ⟨0, false, false⟩, .nop⟩ ∧
    decode (wordOfBytes ((sStep 0 [] 0).dev.my.lmem.bytes 0 12)) = .error (.check 1) ∧
    guardTrue (sStep 1 [] 0).dev.me ⟨false, 0⟩ = true ∧ guardTrue (sStep 1 [] 0).dev.me ⟨true, 0⟩ = false := by decide

/-- The step at the word `nop` moves the PC and the clock; at the word of zeros it raises 0x01. -/
theorem test_step_nop : (match step (sStep 1 [⟨1, .issue 0 1⟩] 0) with
    | .next t => ((t.dev.slot 0 1).pc, (t.dev.slot 0 1).held, t.dev.now)
    | _ => (0, false, 0)) = (1, false, 1) := by decide
theorem test_step_illegal : (match step (sStep 0 [⟨1, .issue 0 1⟩] 0) with
    | .next t => ((t.dev.slot 0 1).pc, (t.dev.slot 0 1).held, (t.dev.core 0).lmem.readN (25600 + 7) 1)
    | _ => (0, false, 0)) = (0, true, 0x01) := by decide

theorem wit_StepsKeepMemoryCanonical : State.reset.memOk ∧ (sBag (.store 8 1)).memOk ∧
    (∃ t, step { sStep 1 [⟨1, .issue 0 1⟩] 0 with mem := [(0x100, 7)] } = .next t) := by
  refine ⟨by unfold State.memOk; decide, by unfold State.memOk; decide, ?_⟩
  exact ⟨_, rfl⟩

/-- A decoded word round the encoder: the manual's `(p3) ld.acq.b64.dev x5, x9, 16 +pp`. -/
theorem wit_DecodeInvertsEncode : (⟨⟨false, 3⟩, ⟨0, false, true⟩, .ld .b64 false (.acq .dev) 5 9 (.imm 16)⟩ : Coded).wf = true ∧
    encode ⟨⟨false, 3⟩, ⟨0, false, true⟩, .ld .b64 false (.acq .dev) 5 9 (.imm 16)⟩ = some 0x3000C40509FFAE0000000010 := by decide
/-! ### Well-formedness: an ill-formed term for each check, refused -/

theorem wf_refuses_scalars : Instr.wf (.bext 1 (.x 2) 5 59) = false ∧ Instr.wf (.bextz 1 (.ch 2) 1 63) = false ∧ Instr.wf (.bins 1 2 63 1) = false ∧
    Instr.wf (.ptag 1 2 7 (.reg 3)) = false ∧ Instr.wf (.ptag 1 2 6 (.imm 256)) = false ∧ Instr.wf (.ptag 1 2 0 (.imm 1)) = false ∧
    Instr.wf (.pfmt 1 2 9 0) = false ∧ Instr.wf (.pfmt 1 2 0 4) = false ∧ Instr.wf (.semPost 0 0) = false ∧ Instr.wf (.evpop 3) = false ∧
    Instr.wf (.evpop 0) = false ∧ Instr.wf (.sfpop 63) = false ∧ Instr.wf (.ctlr 1 0x00A 0 false) = false ∧ Instr.wf (.ctlr 1 0x010 1 true) = false ∧
    Instr.wf (.ctlw 0x003 1 false 2) = false ∧ Instr.wf (.ctlw 0x027 0 false 2) = false := by decide
theorem wf_refuses_memory : Instr.wf (.ld .b64 true .plain 1 2 (.imm 0)) = false ∧ Instr.wf (.mosCas2 .plain 1 3 4 6) = false ∧
    Instr.wf (.mosCas2 .plain 1 4 5 7) = false ∧ Instr.wf (.mosCas2 .plain 1 4 5 4) = false ∧ Instr.wf (.mosCas4 .plain 1 2 5 8) = false ∧
    Instr.wf (.mosCas4 .plain 1 4 5 10) = false ∧ Instr.wf (.mosCas4 .plain 1 4 5 4) = false ∧ Instr.wf (.mosChase 1 2 0 0) = false ∧
    Instr.wf (.mosChase 2 2 0 4) = false ∧ Instr.wf (.dcall 1 2 0 7) = false ∧ Instr.wf (.csend 0 1 0 33) = false ∧
    Instr.wf (.nsend false 33 1 2) = false ∧ Instr.wf (.tsend false 63 0 0 1 2) = false := by decide
theorem wf_refuses_vectors : Instr.wf (.vfadd .fp32 .rne (.s 1) (.s 1) (.v 0) 0) = false ∧ Instr.wf (.vfmin .bf16 (.v 1) (.v 2) (.imm 0x10000) 0) = false ∧
    Instr.wf (.vfma .fp16 .rne 1 (.v 2) (.imm 0x10000) 0) = false ∧ Instr.wf (.vfabs .fp32 (.s 1) (.s 1) 0) = false ∧
    Instr.wf (.vadd (.s 7) (.s 7) (.v 0) 0) = false ∧ Instr.wf (.vrcp .fp32 .rne (.s 0) (.s 0) 0) = false ∧
    Instr.wf (.vcmpEq .bf16 1 (.v 2) (.imm 0xFFFFFFFF) 0) = false ∧ Instr.wf (.vsel (.s 2) (.s 2) (.v 1) 0) = false ∧
    Instr.wf (.vcvt 1 1 .rne (.v 1) (.v 2) 0) = false ∧ Instr.wf (.vcvt 5 8 .rne (.s 1) (.v 2) 0) = false ∧ Instr.wf (.vcvt 5 1 .rtz (.s 1) (.v 2) 0) = false ∧
    Instr.wf (.vcvt 5 1 .rne (.s 1) (.v 2) 1) = false ∧
    Instr.wf (.vcvt 2 1 .rne (.s 1) (.s 1) 0) = false ∧ Instr.wf (.vredSum .i32 .rtz 1 (.v 2) 0) = false ∧ Instr.wf (.vscanSum .i32 .rup (.v 1) (.v 2) 0) = false ∧
    Instr.wf (.vscanMax .fp32 (.s 1) (.s 1) 0) = false ∧ Instr.wf (.vslide 1 2 0 256 0) = false ∧ Instr.wf (.vslide 1 2 0 0xFF00 0) = false ∧
    Instr.wf (.pair (.fp .abs .fp32 .rne 1 (.v 2) 3 0) .none) = false ∧ Instr.wf (.pair (.fp .max .fp32 .rtz 1 (.v 2) 3 0) .none) = false := by decide

/-- 12 R267's cases of decoding, and one for each of checks 1 to 4. -/
theorem decode_refuses : decode 0 = .error (.check 1) ∧ decode 0x086000000000000000000000 = .error (.check 2) ∧
    decode 0x081C010706FF000000000007 = .error (.check 3) ∧ decode 0x300200059009060000000000 = .error (.position 2) ∧
    decode 0xFFFFF8000001B00000000000 = .error (.check 2) ∧ decode 0xFC0000000000001000005400 = .error (.position 10) ∧
    decode 0x280000000000000000000000 = .error (.check 1) ∧ decode 0x260000030000000000000000 = .error (.position 1) := by decide
/-! ### Every constructor's decoding, by a word laid out from the manual's encodings (12 R254 to R264 and each description) -/

/-- A word without guard or hint decodes to an instruction. -/
abbrev Reads (w : IWord) (i : Instr) : Prop := decode w = .ok ⟨⟨false, 0⟩, ⟨0, false, false⟩, i⟩

/-- 13 R269 to R273: majors 0x08 to 0x0B. -/
theorem decode_integer :
    Reads 0x0800000309FF000080000001 (.add 3 9 (.imm 0x80000001)) ∧
    Reads 0x08040003090C000000000000 (.sub 3 9 (.reg 12)) ∧
    Reads 0x0808000309FF000080000001 (.and 3 9 (.imm 0x80000001)) ∧
    Reads 0x080C0003090C000000000000 (.or 3 9 (.reg 12)) ∧
    Reads 0x0810000309FF000080000001 (.xor 3 9 (.imm 0x80000001)) ∧
    Reads 0x08140003090C000000000000 (.andn 3 9 (.reg 12)) ∧
    Reads 0x0818000309FF000080000001 (.shl 3 9 (.imm 0x80000001)) ∧
    Reads 0x081C0003090C000000000000 (.shr 3 9 (.reg 12)) ∧
    Reads 0x0820000309FF000080000001 (.sar 3 9 (.imm 0x80000001)) ∧
    Reads 0x08240003090C000000000000 (.rol 3 9 (.reg 12)) ∧
    Reads 0x0828000309FF000080000001 (.min 3 9 (.imm 0x80000001)) ∧
    Reads 0x082C0003090C000000000000 (.max 3 9 (.reg 12)) ∧
    Reads 0x0830000309FF000080000001 (.minz 3 9 (.imm 0x80000001)) ∧
    Reads 0x08340003090C000000000000 (.maxz 3 9 (.reg 12)) ∧
    Reads 0x0838000309FF000080000001 (.mul 3 9 (.imm 0x80000001)) ∧
    Reads 0x083C0003090C000000000000 (.mulh 3 9 (.reg 12)) ∧
    Reads 0x0840000309FF000080000001 (.mulhz 3 9 (.imm 0x80000001)) ∧
    Reads 0x08440003090C000000000000 (.div 3 9 (.reg 12)) ∧
    Reads 0x0848000309FF000080000001 (.divz 3 9 (.imm 0x80000001)) ∧
    Reads 0x084C0003090C000000000000 (.rem 3 9 (.reg 12)) ∧
    Reads 0x0850000309FF000080000001 (.remz 3 9 (.imm 0x80000001)) ∧
    Reads 0x085400030900000000000000 (.clz 3 9) ∧
    Reads 0x085800030900000000000000 (.ctz 3 9) ∧
    Reads 0x085C00030900000000000000 (.popc 3 9) ∧
    Reads 0x0900000309FF00000000017A (.bext 3 (.x 9) 5 58) ∧
    Reads 0x090400037BFF000000000FC0 (.bextz 3 (.ch 3) 63 0) ∧
    Reads 0x0908000309FF00000000003F (.bins 3 9 0 63) ∧
    Reads 0x0A0000030000800000000001 (.li 3 0x800000000001) ∧
    Reads 0x0A040003000000000000FFFE (.lih 3 0xFFFE) ∧
    Reads 0x0B000003090C000000000000 (.sel 3 9 (.reg 12)) := by decide

/-- 13 R274 to R277: majors 0x0C, 0x10, 0x11. -/
theorem decode_pointer :
    Reads 0x0C00000309FF0000FFFFFFFF (.padd 3 9 (.imm 0xFFFFFFFF)) ∧
    Reads 0x0C040003090C000000000000 (.pidx 3 9 (.reg 12)) ∧
    Reads 0x0C08000309FF00000007FF03 (.ptag 3 9 3 (.imm 2047)) ∧
    Reads 0x0C080003090C000000000006 (.ptag 3 9 6 (.reg 12)) ∧
    Reads 0x0C0C000309FF000000000038 (.pfmt 3 9 8 3) ∧
    Reads 0x0C10000309FF000000000003 (.pget 3 9 3) ∧
    Reads 0x0C1400030900000000000000 (.plin 3 9) ∧
    Reads 0x10000067090C000000000000 (.cmpEq 7 9 (.reg 12)) ∧
    Reads 0x10040067090C000000000000 (.cmpNe 7 9 (.reg 12)) ∧
    Reads 0x10080067090C000000000000 (.cmpLt 7 9 (.reg 12)) ∧
    Reads 0x100C0067090C000000000000 (.cmpLe 7 9 (.reg 12)) ∧
    Reads 0x101000610900000000000000 (.cmpLtz 1 9) ∧
    Reads 0x101400610900000000000000 (.cmpLez 1 9) ∧
    Reads 0x110000616263000000000000 (.pand 1 2 3) ∧
    Reads 0x110400616263000000000000 (.por 1 2 3) ∧
    Reads 0x110800616263000000000000 (.pxor 1 2 3) ∧
    Reads 0x110C00616200000000000000 (.pnot 1 2) ∧
    Reads 0x111000616200000000000000 (.pmov 1 2) := by decide

/-- 13 R278 to R287: majors 0x01, 0x18 to 0x27. -/
theorem decode_control :
    Reads 0x010000000000000000000000 (.nop) ∧
    Reads 0x18000000FF00000000008000 (.br 0x8000) ∧
    Reads 0x19000000FF00000000007FFF (.jmp 0x7FFF) ∧
    Reads 0x1A000003FF00000000000005 (.call 3 5) ∧
    Reads 0x1B0000030900000000000000 (.callr 3 9) ∧
    Reads 0x1C0000000900000000000000 (.ret 9) ∧
    Reads 0x1D000003FF00000000000005 (.lp 3 5) ∧
    Reads 0x20000003090C000000000000 (.start 3 9 12) ∧
    Reads 0x210000030900000000000000 (.reap 3 9) ∧
    Reads 0x220000000900000000000000 (.endThread 9) ∧
    Reads 0x240000008B00000000000000 (.semWait 7) ∧
    Reads 0x240400008BFF00000000FFFF (.semPost 7 0xFFFF) ∧
    Reads 0x240800618600000000000000 (.semTry 1 2) ∧
    Reads 0x2500000000000081400003FF (.wait (some 511) none none (some 5)) ∧
    Reads 0x250000000000000020780000 (.wait none (some 0) (some 7) none) ∧
    Reads 0x2600003E0000000000000000 (.evpop 62) ∧
    Reads 0x27000003090C000000000001 (.spawn true 3 9 12) := by decide

/-- 14 R301 to R309: majors 0x30 to 0x33. -/
theorem decode_memory :
    Reads 0x30000003090C010000000000 (.ld .b8 true .plain 3 9 (.reg 12)) ∧
    Reads 0x3000000309FFCA00FFFFFFF8 (.ld .b16 false (.acq .sys) 3 9 (.imm 0xFFFFFFF8)) ∧
    Reads 0x31000000090C740000000008 (.st .b32 (.rel .quad) 9 12 8) ∧
    Reads 0x3200000309FF260000000008 (.ldFePeek .grp 3 9 (.imm 8)) ∧
    Reads 0x32040003090C460000000000 (.ldFeTake .core 3 9 (.reg 12)) ∧
    Reads 0x33000000090C860000000008 (.stFeFill .die 9 12 8) ∧
    Reads 0x33040000090CA60000000008 (.stFePut .dev 9 12 8) ∧
    Reads 0x330800000900060000000008 (.stFeClr 9 8) := by decide

/-- 14 R308, R309: majors 0x38 and 0x39. -/
theorem decode_atomics :
    Reads 0x38000003090CDC0000000008 (.amoAdd false (.ar .sys) 3 9 12 8) ∧
    Reads 0x38040003090CDE0000000008 (.amoAnd true (.ar .sys) 3 9 12 8) ∧
    Reads 0x38080003090CDC0000000008 (.amoOr false (.ar .sys) 3 9 12 8) ∧
    Reads 0x380C0003090CDE0000000008 (.amoXor true (.ar .sys) 3 9 12 8) ∧
    Reads 0x38100003090CDC0000000008 (.amoMin false (.ar .sys) 3 9 12 8) ∧
    Reads 0x38140003090CDE0000000008 (.amoMax true (.ar .sys) 3 9 12 8) ∧
    Reads 0x38180003090CDC0000000008 (.amoMinz false (.ar .sys) 3 9 12 8) ∧
    Reads 0x381C0003090CDE0000000008 (.amoMaxz true (.ar .sys) 3 9 12 8) ∧
    Reads 0x38200003090CDC0000000008 (.amoSwap false (.ar .sys) 3 9 12 8) ∧
    Reads 0x38240003090CDE0000000008 (.amoCas true (.ar .sys) 3 9 12 8) ∧
    Reads 0x38280003090C340000000008 (.amoFadd (.rel .grp) 3 9 12 8) ∧
    Reads 0x382C0003090C340000000008 (.amoFmin (.rel .grp) 3 9 12 8) ∧
    Reads 0x38300003090C340000000008 (.amoFmax (.rel .grp) 3 9 12 8) ∧
    Reads 0x39000000090C060000000008 (.redAdd true .plain 9 12 8) ∧
    Reads 0x39040000090C040000000008 (.redAnd false .plain 9 12 8) ∧
    Reads 0x39080000090C060000000008 (.redOr true .plain 9 12 8) ∧
    Reads 0x390C0000090C040000000008 (.redXor false .plain 9 12 8) ∧
    Reads 0x39100000090C060000000008 (.redMin true .plain 9 12 8) ∧
    Reads 0x39140000090C040000000008 (.redMax false .plain 9 12 8) ∧
    Reads 0x39180000090C060000000008 (.redMinz true .plain 9 12 8) ∧
    Reads 0x391C0000090C040000000008 (.redMaxz false .plain 9 12 8) ∧
    Reads 0x39280000090C540000000008 (.redFadd (.rel .core) 9 12 8) ∧
    Reads 0x392C0000090C540000000008 (.redFmin (.rel .core) 9 12 8) ∧
    Reads 0x39300000090C540000000008 (.redFmax (.rel .core) 9 12 8) := by decide

/-- 14 R310 to R316: majors 0x3A to 0x42. -/
theorem decode_sync :
    Reads 0x3A00003E090CAF0000000000 (.mosCas2 (.acq .dev) 7 62 9 12) ∧
    Reads 0x3A04003C090C010000000000 (.mosCas4 .plain 1 60 9 12) ∧
    Reads 0x3A080000090CD00000000000 (.mosEnq (.rel .sys) 9 12) ∧
    Reads 0x3A0C00030900C80000000000 (.mosDeq (.acq .sys) 3 9) ∧
    Reads 0x3A10003E090000F0FFFFFFF8 (.mosChase 62 9 15 0xFFFFFFF8) ∧
    Reads 0x400000000000C00000000000 (.fence .sys) ∧
    Reads 0x400400000000200000000000 (.fenceOc .grp) ∧
    Reads 0x400800000000800000000000 (.fenceCo .die) ∧
    Reads 0x410000000000000000000000 (.drains) ∧
    Reads 0x425000000000000000000000 (.barArrive .sys) ∧
    Reads 0x420400000000000000000000 (.barWait .grp) ∧
    Reads 0x422800000000000000000000 (.barArrivewait .quad) := by decide

/-- 14 R317 to R323: majors 0x48 to 0x62. -/
theorem decode_guards :
    Reads 0x48000003090CA00000000FFF (.bind .dev 3 9 12 255 15) ∧
    Reads 0x490000030900000000000000 (.unbind 3 9) ∧
    Reads 0x4A000003090C000000000000 (.gacqX 3 9 12) ∧
    Reads 0x4A040003090C000000000000 (.gacqS 3 9 12) ∧
    Reads 0x4B0000000900000000000000 (.grel 9) ∧
    Reads 0x4C0000000900000000000000 (.gflush 9) ∧
    Reads 0x50000000FFFF00000000FFFF (.gcall 63 1023) ∧
    Reads 0x510000000000000000000000 (.gret) ∧
    Reads 0x520000030900000000067FFF (.dcall 3 9 0x7FFF 6) ∧
    Reads 0x530000000900000000000000 (.dret 9) ∧
    Reads 0x58000003090C000000000000 (.copen 3 9 12) ∧
    Reads 0x5900008309FF000000000007 (.cjoin 3 9 7) ∧
    Reads 0x5A000000830C00000000201F (.csend 3 12 31 32) ∧
    Reads 0x5B000000810C000000000000 (.cdeleg 1 12) ∧
    Reads 0x5C0000030900000000000000 (.cclose 3 9) ∧
    Reads 0x5D0000030900000000000000 (.cstat 3 9) ∧
    Reads 0x60000000FF00000000007FFF (.elb 0x7FFF) ∧
    Reads 0x610000000000000000000000 (.ele) ∧
    Reads 0x62000000FF000000000000FF (.ela 255) := by decide

/-- 15 R332 to R334: majors 0x80 to 0x82. -/
theorem decode_vectorArith :
    Reads 0x800000414243000000000038 (.vfadd .fp32 .rne (.v 1) (.v 2) (.v 3) 7) ∧
    Reads 0x80040041770C000000000079 (.vfsub .bf16 .rna (.v 1) (.s 7) (.x 12) 7) ∧
    Reads 0x800800417B430000000000BA (.vfmul .fp16 .rtz (.v 1) (.ch 3) (.v 3) 7) ∧
    Reads 0x800C0041420C00000000003B (.vfma .fp32 .rup 1 (.v 2) (.x 12) 7) ∧
    Reads 0x80100041774300000000007C (.vfms .bf16 .rdn 1 (.s 7) (.v 3) 7) ∧
    Reads 0x801400417B0C0000000000B8 (.vfnma .fp16 .rne 1 (.ch 3) (.x 12) 7) ∧
    Reads 0x801800414243000000000038 (.vfmin .fp32 (.v 1) (.v 2) (.v 3) 7) ∧
    Reads 0x801C0041770C000000000078 (.vfmax .bf16 (.v 1) (.s 7) (.x 12) 7) ∧
    Reads 0x802000417B000000000000B8 (.vfabs .fp16 (.v 1) (.ch 3) 7) ∧
    Reads 0x802400414200000000000038 (.vfneg .fp32 (.v 1) (.v 2) 7) ∧
    Reads 0x8100007242FF800000010008 (.vadd (.s 2) (.v 2) (.imm 0x80000001) 1) ∧
    Reads 0x8104005F42FF800000010008 (.vsub (.v 31) (.v 2) (.imm 0x80000001) 1) ∧
    Reads 0x8108005F42FF800000010008 (.vmul (.v 31) (.v 2) (.imm 0x80000001) 1) ∧
    Reads 0x810C005F42FF800000010008 (.vand (.v 31) (.v 2) (.imm 0x80000001) 1) ∧
    Reads 0x8110005F42FF800000010008 (.vor (.v 31) (.v 2) (.imm 0x80000001) 1) ∧
    Reads 0x8114005F42FF800000010008 (.vxor (.v 31) (.v 2) (.imm 0x80000001) 1) ∧
    Reads 0x8118005F42FF800000010008 (.vshl (.v 31) (.v 2) (.imm 0x80000001) 1) ∧
    Reads 0x811C005F42FF800000010008 (.vshr (.v 31) (.v 2) (.imm 0x80000001) 1) ∧
    Reads 0x8120005F42FF800000010008 (.vsar (.v 31) (.v 2) (.imm 0x80000001) 1) ∧
    Reads 0x8124005F42FF800000010008 (.vmin (.v 31) (.v 2) (.imm 0x80000001) 1) ∧
    Reads 0x8128005F42FF800000010008 (.vmax (.v 31) (.v 2) (.imm 0x80000001) 1) ∧
    Reads 0x820000414200000000000010 (.vrcp .fp32 .rne (.v 1) (.v 2) 2) ∧
    Reads 0x820400414200000000000051 (.vrsqrt .bf16 .rna (.v 1) (.v 2) 2) ∧
    Reads 0x820800414200000000000092 (.vsqrt .fp16 .rtz (.v 1) (.v 2) 2) ∧
    Reads 0x820C00414200000000000013 (.vexp2 .fp32 .rup (.v 1) (.v 2) 2) ∧
    Reads 0x821000414200000000000054 (.vlog2 .bf16 .rdn (.v 1) (.v 2) 2) := by decide

/-- 15 R335 to R344: majors 0x83 to 0x8A. -/
theorem decode_vectorMove :
    Reads 0x8300006D42430000000000D0 (.vcmpEq .i32 5 (.v 2) (.v 3) 2) ∧
    Reads 0x8304006D4243000000000010 (.vcmpNe .fp32 5 (.v 2) (.v 3) 2) ∧
    Reads 0x8308006D4243000000000050 (.vcmpLt .bf16 5 (.v 2) (.v 3) 2) ∧
    Reads 0x830C006D4243000000000090 (.vcmpLe .fp16 5 (.v 2) (.v 3) 2) ∧
    Reads 0x840000717243000000000020 (.vsel (.s 1) (.s 2) (.v 3) 4) ∧
    Reads 0x85000041420000000017001A (.vcvt 7 1 .rtz (.v 1) (.v 2) 3) ∧
    Reads 0x86000003420000000000004C (.vredSum .bf16 .rdn 3 (.v 2) 1) ∧
    Reads 0x8604000372000000000000C8 (.vredMax .i32 3 (.s 2) 1) ∧
    Reads 0x860800034200000000000088 (.vredMin .fp16 3 (.v 2) 1) ∧
    Reads 0x87000041420000000000000B (.vscanSum .fp32 .rup (.v 1) (.v 2) 1) ∧
    Reads 0x8704004142000000000000C8 (.vscanMax .i32 (.v 1) (.v 2) 1) ∧
    Reads 0x870800714200000000000008 (.vscanMin .fp32 (.s 1) (.v 2) 1) ∧
    Reads 0x880000414243000000000028 (.vperm 1 2 3 5) ∧
    Reads 0x880400414200000000FF0028 (.vbcast 1 (.lane 2 255) 5) ∧
    Reads 0x880400410900000000000028 (.vbcast 1 (.x 9) 5) ∧
    Reads 0x88040041FF00800000010028 (.vbcast 1 (.imm 0x80000001) 5) ∧
    Reads 0x88080041420C0000FF010028 (.vslide 1 2 12 0xFF01 5) ∧
    Reads 0x890000410900FFFFFFFC0030 (.vld .b32 1 9 0xFFFFFFFC 6) ∧
    Reads 0x89040041090C000000040070 (.vldStride .b16 1 9 12 4 6) ∧
    Reads 0x8908004109430000000400B0 (.vldIndex .b8 1 9 3 4 6) ∧
    Reads 0x8A0000410900FFFFFFFC0030 (.vst .b32 1 9 0xFFFFFFFC 6) ∧
    Reads 0x8A040041090C000000040070 (.vstStride .b16 1 9 12 4 6) ∧
    Reads 0x8A08004109430000000400B0 (.vstIndex .b8 1 9 3 4 6) := by decide

/-- 15 R345 to R347: majors 0x8B to 0x8D. -/
theorem decode_vectorState :
    Reads 0x8B0000030900000000000000 (.vsetl 3 9) ∧
    Reads 0x8B000003FF00000000FF0001 (.vsetlImm 3 255) ∧
    Reads 0x8B0000030000000000000002 (.vsetlRd 3) ∧
    Reads 0x8B0000000900000000000003 (.vsetlStart 9) ∧
    Reads 0x8C0000696A6B000000000000 (.mand 1 2 3) ∧
    Reads 0x8C0400696A6B000000000000 (.mor 1 2 3) ∧
    Reads 0x8C0800696A6B000000000000 (.mxor 1 2 3) ∧
    Reads 0x8C0C00696A00000000000000 (.mnot 1 2) ∧
    Reads 0x8C1000036A00000000000000 (.mpop 3 2) ∧
    Reads 0x8C1400036A00000000000000 (.mfirst 3 2) ∧
    Reads 0x8D00000342FF0000000000FF (.vget 3 2 (.imm 255)) ∧
    Reads 0x8D040041090C000000000000 (.vput 1 9 (.x 12)) := by decide

/-- 16 R349 to R355: majors 0x90 to 0x98. -/
theorem decode_matrix :
    Reads 0x9000007F090C0D0080000010 (.mm false true 3 9 12 0x8000 1 3) ∧
    Reads 0x9100007C7D0C000000100508 (.mmc .psb4 true 0 1 12 16) ∧
    Reads 0x9100007C7D0C000000100600 (.mmc .psb7 false 0 1 12 16) ∧
    Reads 0x9200007E090C000000200010 (.sqd true 2 9 12 32 0 0) ∧
    Reads 0x930000037D0C000000000340 (.topkMax 3 1 12 64 3) ∧
    Reads 0x930400037D00000000000401 (.topkMin 3 1 0 1 4) ∧
    Reads 0x9400007D0000060000000000 (.macz 1 2 1) ∧
    Reads 0x950000037E00000000000004 (.macst .rdn 3 2 0 0) ∧
    Reads 0x9600007E0900030000000000 (.macld 2 9 3 0) ∧
    Reads 0x970000030900000000000000 (.mcoop 3 9) ∧
    Reads 0x980000030000000000000000 (.mqry 3) := by decide

/-- 16 R356 to R367: majors 0xA0 to 0xA8. -/
theorem decode_copies :
    Reads 0xA000000309FF7FFDFFFFFFF8 (.cp 3 9 (.imm 0xFFFFFFF8) ⟨127, 63, true⟩) ∧
    Reads 0xA1000003090C010000000000 (.cpa 3 9 12 ⟨1, 0, false⟩) ∧
    Reads 0xA2000003090C000800000000 (.cpm 3 9 (.reg 12) ⟨0, 2, false⟩) ∧
    Reads 0xA3000003FF0000000000007F (.cpres 3 127) ∧
    Reads 0xA4000077090C000000000000 (.sbind 7 9 12) ∧
    Reads 0xA50000037600000000000000 (.sdrop 3 6) ∧
    Reads 0xA6000000090C000000000060 (.nsend true 32 9 12) ∧
    Reads 0xA7000000090CFFFFFFFF0F01 (.tsend false 1 15 0xFFFFFFFF 9 12) ∧
    Reads 0xA8000003FF0000000000000F (.rcsetRd 3 15) ∧
    Reads 0xA8040003FF0C000000000001 (.rcsetWr 3 1 12) ∧
    Reads 0xA8080003FF0C000000000002 (.rcsetAdd 3 2 12) := by decide

/-- 13 R288 to R299: majors 0xE0 to 0xED. -/
theorem decode_system :
    Reads 0xE00000030000000000013003 (.ctlr 3 3 3 true) ∧
    Reads 0xE10000000900000000000025 (.ctlw 0x25 0 false 9) ∧
    Reads 0xE2000000000000000000FFFF (.trap 0xFFFF) ∧
    Reads 0xE30000000900000000000000 (.eret 9) ∧
    Reads 0xE40000000900000000000030 (.tlbinvAsid 3 9) ∧
    Reads 0xE4000000090C000000000011 (.tlbinvPage 1 9 12) ∧
    Reads 0xE40000000900000000000022 (.tlbinvAll 2 9) ∧
    Reads 0xE50000030900000000000000 (.setxb 3 9) ∧
    Reads 0xE60000000900000000000001 (.rtinv true 9) ∧
    Reads 0xE7000003090C000000000000 (.ovld 3 9 12) ∧
    Reads 0xE8000003090C000000000000 (.pmig 3 9 12) ∧
    Reads 0xE9000003090C000000000000 (.qctlCreate 3 9 12) ∧
    Reads 0xE9000003090C000000000001 (.qctlWeight 3 9 12) ∧
    Reads 0xE9000003090C000000000002 (.qctlMask 3 9 12) ∧
    Reads 0xE9000003090C000000000003 (.qctlDestroy 3 9 12) ∧
    Reads 0xE9000003090C000000000004 (.qctlStop 3 9 12) ∧
    Reads 0xE9000003090C000000000005 (.qctlRestart 3 9 12) ∧
    Reads 0xE9000003090C000000000006 (.qctlMode 3 9 12) ∧
    Reads 0xE9000003090C000000000007 (.qctlCounts 3 9 12) ∧
    Reads 0xEA000003090C000000000000 (.dbgRd 3 9 12) ∧
    Reads 0xEA000003090C000000000001 (.dbgWr 3 9 12) ∧
    Reads 0xEA000003090C000000000002 (.dbgStep 3 9 12) ∧
    Reads 0xEA000003090C000000000003 (.dbgPost 3 9 12) ∧
    Reads 0xEB00003E0000000000000000 (.sfpop 62) ∧
    Reads 0xEC000003090C000000000000 (.ctxsave 3 9 12) ∧
    Reads 0xED000003090C000000000000 (.ctxrest 3 9 12) := by decide

/-- 12 R260 to R262: format P. -/
theorem decode_pairs :
    Reads 0xFC0786498000000000000000 (.pair .none (.int .mul 3 9 (.reg 12))) ∧
    Reads 0xFC2806001000080000000000 (.pair .none (.li 3 0x20001)) ∧
    Reads 0xFC288648000040A080004E00 (.pair (.fp .neg .fp16 .rne 1 (.ch 3) 0 0) (.padd 3 9 (.imm 8))) ∧
    Reads 0xFC09064980000150887C0000 (.pair (.int .max 1 (.v 2) 3 7) (.pidx 3 9 (.reg 12))) ∧
    Reads 0xFC0B0E498000019288600300 (.pair (.cmp .le .i32 5 (.v 2) 3 0) (.cmp .le 7 9 (.reg 12))) ∧
    Reads 0xFC0B8248000001A080683C00 (.pair (.sel 1 (.s 7) 3 2) (.cmpLtz 1 9)) ∧
    Reads 0xFC0C02480000000000000000 (.pair .none (.cmpLez 1 9)) ∧
    Reads 0xFC2C860003FFF84088620000 (.pair (.fp .ma .fp32 .rdn 1 (.v 2) 3 0) (.lp 3 0x7FFF)) := by decide

end
end

section
/-! SUPPORT. Words of memory after a write of words. -/

namespace Sys2Proof.Machine

/-! ### Words of a memory -/

/-- `readN` sees only its own `n` bytes. -/
theorem Mem.readN_congr (n : Nat) (m m' : Mem) (a : Nat) (h : ∀ b, a ≤ b → b < a + n → m'.read b = m.read b) :
    m'.readN a n = m.readN a n := by
  induction n generalizing a with
  | zero => rfl
  | succ n ih =>
    rw [Mem.readN, Mem.readN, h a (by omega) (by omega), ih (a + 1) (fun b h1 h2 => h b (by omega) (by omega))]

theorem Mem.word_congr (m m' : Mem) (a : Nat) (h : ∀ b, a ≤ b → b < a + 8 → m'.read b = m.read b) :
    m'.word a = m.word a := by
  rw [Mem.word, Mem.word, Mem.readN_congr 8 m m' a h]

@[simp] theorem Mem.word_setWord_same (m : Mem) (a : Nat) (v : Word) (h : m.wf = true) : (m.setWord a v).word a = v := by
  rw [Mem.word, Mem.setWord, Mem.readN_writeN 8 m a _ h]
  exact BitVec.eq_of_toNat_eq (by rw [BitVec.toNat_ofNat]; omega)

/-- `setWords` leaves every byte outside its words. -/
theorem Mem.read_setWords_outside (ws : List Word) (m : Mem) (a b : Nat) (h : m.wf = true)
    (hb : b < a ∨ a + 8 * ws.length ≤ b) : (m.setWords a ws).read b = m.read b := by
  induction ws generalizing m a with
  | nil => rfl
  | cons w r ih =>
    rw [List.length_cons] at hb
    rw [Mem.setWords, ih _ _ (Mem.setWord_wf m a w h) (by omega), Mem.setWord,
      Mem.read_writeN_outside 8 m a _ b h (by omega)]

/-- A word read where words were written is the one written there. -/
theorem Mem.word_setWords (ws : List Word) (m : Mem) (a i : Nat) (h : m.wf = true) (hi : i < ws.length) :
    (m.setWords a ws).word (a + 8 * i) = nth 0 ws i := by
  induction ws generalizing m a i with
  | nil => exact absurd hi (Nat.not_lt_zero i)
  | cons w r ih =>
    have hw := Mem.setWord_wf m a w h
    cases i with
    | zero =>
      calc ((m.setWord a w).setWords (a + 8) r).word (a + 8 * 0)
          = (m.setWord a w).word a :=
            Mem.word_congr _ _ a (fun b _ hb => Mem.read_setWords_outside r _ (a + 8) b hw (by omega))
        _ = w := Mem.word_setWord_same m a w h
    | succ i =>
      rw [show a + 8 * (i + 1) = a + 8 + 8 * i by omega]
      exact ih _ (a + 8) i hw (Nat.lt_of_succ_lt_succ hi)

end Sys2Proof.Machine
end

section
/-! SUPPORT. What taking a fault does (02 R35 Raise, 20 R377 to R380), for every slot of every core. -/

namespace Sys2Proof.Machine

/-! ### Faults that wait for a handler -/

theorem joinPend_joins (l : List Pend) (p : Pend) : Joins l (joinPend l p) p := by
  induction l with
  | nil => exact ⟨[], [], rfl, rfl, by simp, by simp⟩
  | cons q r ih =>
    by_cases h : q.time = p.time ∧ p.slot < q.slot
    · exact ⟨[], q :: r, rfl, by simp [joinPend, h], by simp, fun y hy => by cases hy; exact h⟩
    · obtain ⟨a, b, rfl, h2, h3, h4⟩ := ih
      refine ⟨q :: a, b, rfl, by simp [joinPend, h, h2], ?_, h4⟩
      rintro y (_ | ⟨_, hy⟩)
      · exact h
      · exact h3 y hy

/-! ### The device with a fault's record written and its thread held -/

/-- The device once a fault's record stands and its thread is held, before the fault waits for its handler. -/
def Dev.recorded (d : Dev) (r k : Nat) (cause : Byte) (addr : Word) (opnd : BitVec 32) : Dev :=
  ((d.putRecord r k cause addr opnd).onSlot r k (fun t =>
    { t with held := true, parked := none, flow := { t.flow with walked := [] } })).onEng r (endAwait k)

theorem Dev.raiseRec_of_elide_none (d : Dev) (r k : Nat) (cause : Byte) (addr : Word) (opnd : BitVec 32)
    (h : (d.slot r k).elide = none) :
    d.raiseRec r k cause addr opnd = (d.recorded r k cause addr opnd).queueFault r k cause := by
  rw [Dev.raiseRec, h]
  rfl

/-- An update of a core that leaves its slots leaves every slot of the device. -/
theorem Dev.onCore_slot_of_slots (d : Dev) (r : Nat) (f : Core → Core) (h : (f (d.core r)).slots = (d.core r).slots) (q j : Nat) :
    (d.onCore r f).slot q j = d.slot q j := by
  rw [Dev.slot, Dev.onCore_core]
  split
  next e => rw [Core.slot, h, e]; rfl
  next => rfl

section
variable (d : Dev) (r k : Nat) (cause : Byte) (addr : Word) (opnd : BitVec 32)

@[simp] theorem Dev.recorded_plat : (d.recorded r k cause addr opnd).plat = d.plat := rfl
@[simp] theorem Dev.recorded_now : (d.recorded r k cause addr opnd).now = d.now := rfl

@[simp] theorem Dev.recorded_eng : ((d.recorded r k cause addr opnd).core r).eng = endAwait k (d.core r).eng := by
  simp [Dev.recorded, Dev.putRecord, Dev.onEng, Dev.onSlot]

@[simp] theorem Dev.recorded_lmem : ((d.recorded r k cause addr opnd).core r).lmem =
    (d.core r).lmem.setWords (recordAt (d.core r) k) (recordWords (d.core r) k (d.slot r k) cause addr opnd) := by
  simp [Dev.recorded, Dev.putRecord, Dev.onEng, Dev.onSlot, Dev.slot]

theorem Dev.onEng_slot (f : CoreEng → CoreEng) (q j : Nat) : (d.onEng r f).slot q j = d.slot q j :=
  Dev.onCore_slot_of_slots d r _ rfl q j

theorem Dev.putRecord_slot (q j : Nat) : (d.putRecord r k cause addr opnd).slot q j = d.slot q j :=
  Dev.onCore_slot_of_slots d r _ rfl q j

theorem Dev.recorded_slot (q j : Nat) : (d.recorded r k cause addr opnd).slot q j = if r = q ∧ k = j then
    { d.slot r k with held := true, parked := none, flow := { (d.slot r k).flow with walked := [] } } else d.slot q j := by
  simp only [Dev.recorded, Dev.onEng_slot, Dev.onSlot_slot, Dev.putRecord_slot]

/-! ### The fault joins those that wait for a handler -/

@[simp] theorem Dev.queueFault_lmem : ((d.queueFault r k cause).core r).lmem = (d.core r).lmem := by
  unfold Dev.queueFault
  dsimp only
  split_ifs <;> simp [Dev.onEng, Dev.core, Dev.onCore, Dev.post, Dev.onPlat, Tab.get_set]

theorem Dev.queueFault_slot (q j : Nat) : (d.queueFault r k cause).slot q j = d.slot q j := by
  unfold Dev.queueFault
  dsimp only
  split_ifs
  · exact Dev.onCore_slot_of_slots d r (fun c => { c with failed := true }) rfl q j
  all_goals exact Dev.onEng_slot d r _ q j

/-- What the fault that slot 13 handles ends, when slot 13 faults in its turn (20 R380). -/
def CoreEng.handledEnds (e : CoreEng) : Option Byte := e.hand13.bind (fun h => if isHelper h.slot then some h.cause else none)

/-- The fault of slot `k` as it waits for a handler (20 R379). -/
def Dev.pendOf (ends : Option Byte) : Pend :=
  { slot := k, domain := (d.slot r k).domain, cause := cause, ends := ends, time := d.now }

theorem Dev.queueFault_slot15 : ((d.queueFault r 15 cause).core r).failed = true ∧
    ((d.queueFault r 15 cause).core r).eng = (d.core r).eng ∧ (d.queueFault r 15 cause).plat.posts = d.plat.posts ++ [(1, r)] := by
  simp [Dev.queueFault, Dev.core, Dev.onCore, Tab.get_set, Dev.post, Dev.onPlat]

theorem Dev.queueFault_slot13 : ((d.queueFault r 13 cause).core r).eng = { (d.core r).eng with
    pend15 := joinPend (d.core r).eng.pend15
      (d.pendOf r 13 cause (d.core r).eng.handledEnds) } := by
  simp [Dev.queueFault, Dev.onEng, Dev.pendOf, CoreEng.handledEnds]

theorem Dev.queueFault_handled (h1 : 1 ≤ k) (h2 : k ≤ 11) (h : (vectorOf d.plat (d.slot r k).domain).getLsbD 63 = true) :
    ((d.queueFault r k cause).core r).eng = { (d.core r).eng with
      pend13 := joinPend (d.core r).eng.pend13 (d.pendOf r k cause none) } := by
  have h15 : k ≠ 15 := by omega
  have h13 : k ≠ 13 := by omega
  simp [Dev.queueFault, h15, h13, h1, h2, h, Dev.onEng, Dev.pendOf]

theorem Dev.queueFault_agent (h15 : k ≠ 15) (h13 : k ≠ 13)
    (h : ¬(1 ≤ k ∧ k ≤ 11 ∧ (vectorOf d.plat (d.slot r k).domain).getLsbD 63 = true)) :
    ((d.queueFault r k cause).core r).eng = { (d.core r).eng with
      pend15 := joinPend (d.core r).eng.pend15 (d.pendOf r k cause (if isHelper k then some cause else none)) } := by
  rw [Dev.queueFault]
  dsimp only
  rw [if_neg h15, if_neg h13, if_neg (by simpa [and_assoc] using h)]
  simp [Dev.onEng, Dev.pendOf]

end

/-! ### Taking a fault -/

theorem recordAt_eq_recordBase (c : Core) (k : Nat) : recordAt c k = recordBase c k := rfl

theorem isHelper_iff (k : Nat) : isHelper k = true ↔ 1 ≤ k ∧ k ≤ 10 := by simp [isHelper]

/-- The four words of a fault's record as 20 R377 lays them out. -/
theorem record_written (c : Core) (k : Nat) (t : Slot) (cause : Byte) (addr : Word) (opnd : BitVec 32) (h : c.lmem.wf = true) :
    let m := c.lmem.setWords (recordAt c k) (recordWords c k t cause addr opnd)
    let base := recordBase c k
    m.word base = nth 0 (recordWords c k t cause addr opnd) 0 ∧ m.word (base + 8) = addr ∧
      m.word (base + 16) = BitVec.ofNat 64 opnd.toNat ∧ m.word (base + 24) = nth 0 (recordWords c k t cause addr opnd) 3 ∧
      ∀ a, a < base ∨ base + 32 ≤ a → m.read a = c.lmem.read a := by
  have hw := fun i (hi : i < 4) => Mem.word_setWords (recordWords c k t cause addr opnd) c.lmem (recordAt c k) i h hi
  exact ⟨hw 0 (by decide), hw 1 (by decide), hw 2 (by decide), hw 3 (by decide),
    fun a ha => Mem.read_setWords_outside _ _ _ _ h ha⟩

/-- The raise of a thread outside an elision section is the taking of its fault. -/
theorem raiseRec_takesFault (s : State) (r k : Nat) (cause : Byte) (addr : Word) (opnd : BitVec 32)
    (he : (s.dev.slot r k).elide = none) :
    TakesFault s { s with dev := s.dev.raiseRec r k cause addr opnd } r k cause addr opnd := by
  have hs (q j : Nat) := Dev.recorded_slot s.dev r k cause addr opnd q j
  have hown : (s.dev.recorded r k cause addr opnd).slot r k = _ := (hs r k).trans (if_pos ⟨rfl, rfl⟩)
  have hpend (ends : Option Byte) : (s.dev.recorded r k cause addr opnd).pendOf r k cause ends =
      { slot := k, domain := (s.dev.slot r k).domain, cause := cause, ends := ends, time := s.dev.now } := by
    rw [Dev.pendOf, hown]; rfl
  rw [Dev.raiseRec_of_elide_none _ _ _ _ _ _ he]
  unfold TakesFault
  dsimp only
  refine ⟨rfl, fun hwf => ?_, ?_, ?_, ?_, ?_, ?_, ?_⟩
  · rw [Dev.queueFault_lmem, Dev.recorded_lmem]
    obtain ⟨w0, w1, w2, w3, rest⟩ := record_written (s.dev.core r) k (s.dev.slot r k) cause addr opnd hwf
    refine ⟨w0.trans ?_, w1, w2, w3, rest⟩
    simp [recordWords, nth, w64, fld, b2n, isHelper_iff]
  · rw [Dev.queueFault_slot, hown]
    exact ⟨rfl, rfl, rfl, rfl, rfl⟩
  · intro q j hqj
    rw [Dev.queueFault_slot, hs, if_neg (fun e => hqj ⟨e.1.symm, e.2.symm⟩)]
  · rintro rfl
    obtain ⟨hf, heng, hp⟩ := Dev.queueFault_slot15 (s.dev.recorded r 15 cause addr opnd) r cause
    exact ⟨hf, heng.trans (Dev.recorded_eng ..), hp⟩
  · intro h1 h2 hv
    refine ⟨_, joinPend_joins _ _, ?_⟩
    rw [Dev.queueFault_handled _ _ _ _ h1 h2 (by rw [hown]; exact hv), hpend, Dev.recorded_eng]
    rfl
  · intro hk hv
    refine ⟨_, joinPend_joins _ _, ?_⟩
    rw [Dev.queueFault_agent _ _ _ _ (by omega) (by omega) (by rw [hown]; exact hv), hpend, Dev.recorded_eng]
    simp only [isHelper_iff]
    rfl
  · rintro rfl
    refine ⟨(s.dev.core r).eng.handledEnds, _, joinPend_joins _ _, ?_, fun h hh => ?_⟩
    · rw [Dev.queueFault_slot13, hpend, Dev.recorded_eng]
      rfl
    · rw [CoreEng.handledEnds, hh]
      simp only [Option.bind_some, isHelper_iff]

/-- A fault of the issuing thread outside an elision section is taken, where no page-fault hand-off takes its place (20 R377, R391). -/
theorem fault_takesFault (s : State) (cause : Byte) (addr : Word) (opnd : BitVec 32) (he : s.dev.me.elide = none)
    (hh : ¬(cause = 0x10 ∧ isHelper s.dev.who = true ∧ handsOff s.dev s.dev.rank = true)) :
    ∃ t, fault s cause addr opnd = .next t ∧ TakesFault s t s.dev.rank s.dev.who cause addr opnd := by
  have hr : s.dev.raise cause addr opnd = s.dev.raiseRec s.dev.rank s.dev.who cause addr opnd :=
    if_neg (fun h => hh (by simp only [Bool.and_eq_true, decide_eq_true_eq] at h; exact ⟨h.1.1.1, h.1.1.2, h.1.2⟩))
  exact ⟨{ s with dev := s.dev.raise cause addr opnd }, rfl, hr ▸ raiseRec_takesFault s _ _ cause addr opnd he⟩

end Sys2Proof.Machine
end

section
/-! OBLIGATION. Wake-ups, fetches at the bound and words that do not decode (03 R43, 04 R79, 12 R265, R267). -/

namespace Sys2Proof.Machine

/-- A record posted to a queue with room joins it last (10 R215). -/
theorem Dev.event_eng_of_room (d : Dev) (r : Nat) (w0 w1 : Word) (hold : Option (Nat × Nat))
    (hl : (d.core r).eng.events.length < 64) (hw : (d.core r).eng.eventWait = []) :
    ((d.event r w0 w1 hold).core r).eng = { (d.core r).eng with events := (d.core r).eng.events ++ [(w0, w1)] } := by
  simp [Dev.event, Dev.onEng, hl, hw]

theorem Dev.event_slot (d : Dev) (r : Nat) (w0 w1 : Word) (hold : Option (Nat × Nat)) (q j : Nat) :
    (d.event r w0 w1 hold).slot q j = d.slot q j := Dev.onEng_slot d r _ q j

theorem Dev.wakeThread_slot (d : Dev) (r k q j : Nat) :
    (wakeThread d r k).slot q j = if q = r ∧ j = k then { d.slot r k with parked := none } else d.slot q j := by
  rw [show (wakeThread d r k).slot q j = (d.onSlot r k (fun t => { t with parked := none })).slot q j from rfl, Dev.onSlot_slot]
  simp only [eq_comm]

theorem saveHolds_of_no_dieOp (d : Dev) (r k : Nat) (h : d.plat.dieOp = none) : saveHolds d r k = false := by
  rw [saveHolds, h]

theorem exec_parkedThreadWake (r k : Nat) (s : State) : exec (.parkedThreadWake r k) s = execParkedThreadWake r k s := rfl
theorem exec_instructionFetchBeyondBound (s : State) :
    exec .instructionFetchBeyondBound s = execInstructionFetchBeyondBound s := rfl

theorem parkedThreadWake_of_holds (s : State) (r k : Nat) (c : WaitCond) (hp : (s.dev.slot r k).parked = some c)
    (hc : c.holds s r k = true) (hd : s.dev.plat.dieOp = none) :
    exec (.parkedThreadWake r k) s = .next { s with dev := wakeThread s.dev r k } := by
  simp [exec_parkedThreadWake, execParkedThreadWake, hp, devStep, hc, saveHolds_of_no_dieOp _ _ _ hd]

theorem parkedThreadWake_of_not_holds (s : State) (r k : Nat) (c : WaitCond) (hp : (s.dev.slot r k).parked = some c)
    (hc : c.holds s r k = false) : exec (.parkedThreadWake r k) s = .next s := by
  simp [exec_parkedThreadWake, execParkedThreadWake, hp, devStep, hc]

/-- A helper's fetch at or above the bound parks it and asks the control context for an overlay (04 R79, 10 R215). -/
theorem fetchBeyondBound_of_helper (s : State) (hh : isHelper s.dev.who = true) :
    exec .instructionFetchBeyondBound s = .next { s with
      dev := (s.dev.park .overlay).event s.dev.rank (overlayEvent s.dev.who s.dev.me.pc).1 (overlayEvent s.dev.who s.dev.me.pc).2 none } := by
  simp [exec_instructionFetchBeyondBound, execInstructionFetchBeyondBound, devStep, hh]

theorem fetchBeyondBound_of_not_helper (s : State) (hh : isHelper s.dev.who = false) :
    exec .instructionFetchBeyondBound s = parksOn s .overlay := by
  simp [exec_instructionFetchBeyondBound, execInstructionFetchBeyondBound, devStep, hh, parksOn, onlyMine, Dev.park]

/-- Parking the issuing thread leaves its core's engines. -/
@[simp] theorem Dev.park_eng (d : Dev) (c : WaitCond) : ((d.park c).core d.rank).eng = (d.core d.rank).eng := by
  simp [Dev.park, Dev.onMe, Dev.onSlot]

@[simp] theorem Dev.park_me (d : Dev) (c : WaitCond) : (d.park c).me = { d.me with parked := some c } := by
  rw [Dev.park, Dev.onMe_me]

/-- Settles O19: each event by its own rule, and the faults of checks 1 to 4 by what taking a fault does. -/
theorem wakesFetchesAndIllegalWords : Obligations.WakesFetchesAndIllegalWords := by
  unfold Obligations.WakesFetchesAndIllegalWords
  intro s r k c n p
  refine ⟨fun hp hc hd => ?_, parkedThreadWake_of_not_holds s r k c, fun hh hl hw => ?_,
    fetchBeyondBound_of_not_helper s, rfl, rfl, fun he => ⟨?_, ?_⟩⟩
  · exact ⟨_, parkedThreadWake_of_holds s r k c hp hc hd, rfl, Dev.wakeThread_slot s.dev r k, rfl, rfl⟩
  · refine ⟨_, fetchBeyondBound_of_helper s hh, rfl, (Dev.event_slot ..).trans (Dev.park_me s.dev .overlay), ?_⟩
    have hroom := Dev.event_eng_of_room (s.dev.park .overlay) s.dev.rank (overlayEvent s.dev.who s.dev.me.pc).1
      (overlayEvent s.dev.who s.dev.me.pc).2 none (by rwa [Dev.park_eng]) (by rwa [Dev.park_eng])
    rw [Dev.park_eng] at hroom
    exact congrArg CoreEng.events hroom
  · exact fault_takesFault s 0x01 _ _ he (by simp)
  · exact fault_takesFault s 0x02 _ _ he (by simp)

end Sys2Proof.Machine
end

section
/-! OBLIGATION. What a step does before its move and as its move (03 R41, R57, R65, R70, 11 R232, 12 R253, R255, 24 R428). -/

namespace Sys2Proof.Machine

/-! ### What settling before a move leaves -/

/-- A relation that the default meets and that a change of each entry keeps holds between what two tables read. -/
theorem Tab.get_map_rel {α : Type} (dflt : α) (R : α → α → Prop) (f : Nat × α → Nat × α) (hd : R dflt dflt)
    (hf : ∀ e, (f e).1 = e.1 ∧ R e.2 (f e).2) (t : Tab α) (k : Nat) : R (Tab.get dflt t k) (Tab.get dflt (t.map f) k) := by
  induction t with
  | nil => exact hd
  | cons e r ih =>
    obtain ⟨hk, hr⟩ := hf e
    rw [List.map_cons, ← Prod.eta (f e), ← Prod.eta e, Tab.get, Tab.get, hk]
    split
    · exact hr
    · exact ih

/-- What settling leaves of a core: its memory, registers and vector state, and its contexts but for their marks of aborted
sections. -/
structure Core.Settles (c c' : Core) : Prop where
  lmem : c'.lmem = c.lmem
  regs : c'.regs = c.regs
  vec : c'.vec = c.vec
  slot : ∀ k, c'.slot k = { c.slot k with lapsed := (c'.slot k).lapsed }

theorem Core.Settles.refl (c : Core) : c.Settles c := ⟨rfl, rfl, rfl, fun _ => rfl⟩

theorem Core.Settles.trans {a b c : Core} (h : a.Settles b) (g : b.Settles c) : a.Settles c :=
  ⟨g.lmem.trans h.lmem, g.regs.trans h.regs, g.vec.trans h.vec, fun k => by rw [g.slot k, h.slot k]⟩

/-- What settling leaves of the device. -/
structure Dev.Settles (d d' : Dev) : Prop where
  core : ∀ q, (d.core q).Settles (d'.core q)
  objs : d'.objs = { d.objs with dequeued := d'.objs.dequeued }
  coaches : d'.coaches = d.coaches
  mmeta : d'.mmeta = d.mmeta
  platRegs : d'.plat.regs = d.plat.regs

theorem Dev.Settles.of_cores_eq {d d' : Dev} (hc : d'.cores = d.cores) (ho : d'.objs = { d.objs with dequeued := d'.objs.dequeued })
    (hu : d'.coaches = d.coaches) (hm : d'.mmeta = d.mmeta) (hp : d'.plat.regs = d.plat.regs) : d.Settles d' :=
  ⟨fun q => by rw [Dev.core, Dev.core, hc]; exact Core.Settles.refl _, ho, hu, hm, hp⟩

theorem Dev.Settles.trans {a b c : Dev} (h : a.Settles b) (g : b.Settles c) : a.Settles c :=
  ⟨fun q => (h.core q).trans (g.core q), by rw [g.objs, h.objs], g.coaches.trans h.coaches, g.mmeta.trans h.mmeta,
    g.platRegs.trans h.platRegs⟩

@[simp] theorem settleCredits_objs (d : Dev) : (settleCredits d).objs = d.objs := rfl
@[simp] theorem settleCredits_now (d : Dev) : (settleCredits d).now = d.now := rfl
@[simp] theorem settleCredits_agenda (d : Dev) : (settleCredits d).agenda = d.agenda := rfl

theorem settleCredits_settles (d : Dev) : d.Settles (settleCredits d) := by
  refine ⟨fun q => ?_, rfl, rfl, rfl, rfl⟩
  refine Tab.get_map_rel {} Core.Settles _ (Core.Settles.refl _) (fun e => ?_) d.cores q
  split
  · exact ⟨rfl, Core.Settles.refl _⟩
  · exact ⟨rfl, rfl, rfl, rfl, fun _ => rfl⟩

/-- Only the list of reported deadlocks can change. -/
theorem settleReports_eq (s : State) (d : Dev) :
    ∃ l, settleReports s d = { d with plat := { d.plat with deadlockRaised := l } } := by
  unfold settleReports
  split
  · exact ⟨d.plat.deadlockRaised, rfl⟩
  · exact ⟨_, rfl⟩

@[simp] theorem settleReports_objs (s : State) (d : Dev) : (settleReports s d).objs = d.objs := by
  obtain ⟨l, h⟩ := settleReports_eq s d
  rw [h]

@[simp] theorem settleReports_now (s : State) (d : Dev) : (settleReports s d).now = d.now := by
  obtain ⟨l, h⟩ := settleReports_eq s d
  rw [h]

@[simp] theorem settleReports_agenda (s : State) (d : Dev) : (settleReports s d).agenda = d.agenda := by
  obtain ⟨l, h⟩ := settleReports_eq s d
  rw [h]

theorem settleReports_settles (s : State) (d : Dev) : d.Settles (settleReports s d) := by
  obtain ⟨l, h⟩ := settleReports_eq s d
  rw [h]
  exact .of_cores_eq rfl rfl rfl rfl rfl

@[simp] theorem claimCmd_regs (p : Plat) (n : Nat) (v : Word) : (claimCmd p n v).regs = p.regs := by
  unfold claimCmd
  dsimp only
  split
  · rfl
  · split
    · split <;> rfl
    · split <;> rfl
    · split <;> rfl
    · rfl

@[simp] theorem settleClaims_regs (p : Plat) : (settleClaims p).regs = p.regs := by
  have hfold (l : List (Nat × Word)) (q : Plat) : (l.foldl (fun p e => claimCmd p e.1 e.2) q).regs = q.regs := by
    induction l generalizing q with
    | nil => rfl
    | cons e r ih => rw [List.foldl_cons, ih, claimCmd_regs]
  exact hfold _ _

theorem settleLapsed_settles (d : Dev) : d.Settles (settleLapsed d) := by
  unfold settleLapsed
  split
  · refine ⟨fun q => ?_, rfl, rfl, rfl, rfl⟩
    refine Tab.get_map_rel {} Core.Settles _ (Core.Settles.refl _) (fun e => ?_) d.cores q
    refine ⟨rfl, rfl, rfl, rfl, fun k => ?_⟩
    exact Tab.get_map_rel {} (fun t t' => t' = { t with lapsed := t'.lapsed }) (fun e => (e.1, { e.2 with lapsed := false })) rfl
      (fun e => ⟨rfl, rfl⟩) e.2.slots k
  · exact .of_cores_eq rfl rfl rfl rfl rfl

@[simp] theorem settleLapsed_agenda (d : Dev) : (settleLapsed d).agenda = d.agenda := by
  unfold settleLapsed
  split <;> rfl

theorem pass_settles (d : Dev) (n : Nat) : d.Settles (pass d n) := by
  unfold pass
  split
  · exact .of_cores_eq rfl rfl rfl rfl rfl
  · have hclaims : d.Settles (if d.plat.claims.isEmpty then d else d.onPlat settleClaims) := by
      split
      · exact .of_cores_eq rfl rfl rfl rfl rfl
      · exact .of_cores_eq rfl rfl rfl rfl (settleClaims_regs _)
    have hdeq (e : Dev) : e.Settles (if d.objs.dequeued then e.onObjs (fun o => { o with dequeued := false }) else e) := by
      split <;> exact .of_cores_eq rfl rfl rfl rfl rfl
    exact ((hclaims.trans (hdeq _)).trans (settleLapsed_settles _)).trans (.of_cores_eq rfl rfl rfl rfl rfl)

@[simp] theorem pass_agenda (d : Dev) (n : Nat) : (pass d n).agenda = d.agenda := by
  unfold pass
  split
  · rfl
  · show (settleLapsed _).agenda = _
    rw [settleLapsed_agenda]
    split <;> split <;> rfl

@[simp] theorem pass_now (d : Dev) (n : Nat) : (pass d n).now = d.now + n := by
  unfold pass
  split
  next h => rw [h]; rfl
  next => rfl

/-! ### The move -/

theorem taken_of_agenda {s : State} {m : Move} {rest : List Move} (h : s.dev.agenda = m :: rest) :
    taken s = pass { settleReports s (settleCredits s.dev) with agenda := rest } (m.cycles s.dev) := by
  have ha : (settleReports s (settleCredits s.dev)).agenda = m :: rest := by simpa using h
  have hc : m.cycles (settleReports s (settleCredits s.dev)) = m.cycles s.dev := by simp [Move.cycles]
  rw [taken, ha, ← hc]

theorem taken_settles {s : State} {m : Move} {rest : List Move} (h : s.dev.agenda = m :: rest) : s.dev.Settles (taken s) := by
  rw [taken_of_agenda h]
  have hr : (settleReports s (settleCredits s.dev)).Settles { settleReports s (settleCredits s.dev) with agenda := rest } :=
    .of_cores_eq rfl rfl rfl rfl rfl
  exact (((settleCredits_settles _).trans (settleReports_settles _ _)).trans hr).trans (pass_settles _ _)

theorem taken_agenda {s : State} {m : Move} {rest : List Move} (h : s.dev.agenda = m :: rest) : (taken s).agenda = rest := by
  rw [taken_of_agenda h, pass_agenda]

theorem taken_now {s : State} {m : Move} {rest : List Move} (h : s.dev.agenda = m :: rest) :
    (taken s).now = s.dev.now + m.cycles s.dev := by
  rw [taken_of_agenda h, pass_now]
  simp

theorem Move.cycles_eq (d : Dev) (m : Move) :
    m.cycles d = if d.objs.dequeued = true ∧ m.act.dequeues = false then Nat.max 1 m.dt else m.dt := by
  simp [Move.cycles]

theorem step_of_event {s : State} {dt : Nat} {i : Instr} {rest : List Move} (h : s.dev.agenda = ⟨dt, .event i⟩ :: rest) :
    step s = exec i { s with dev := taken s } := by
  rw [step, takeMove, nextMove, h]

/-! ### The issue of an instruction -/

theorem step_of_issue_not_issuable {s : State} {dt r k : Nat} {rest : List Move} (h : s.dev.agenda = ⟨dt, .issue r k⟩ :: rest)
    (hi : issuable (taken s) r k = false) : step s = .next { s with dev := taken s } := by
  rw [step, takeMove, nextMove, h]
  simp [issue, hi]

theorem step_of_issue_issuable {s : State} {dt r k : Nat} {rest : List Move} (h : s.dev.agenda = ⟨dt, .issue r k⟩ :: rest)
    (hi : issuable (taken s) r k = true) : step s = issueHere { s with dev := entered (taken s) r k } := by
  rw [step, takeMove, nextMove, h]
  simp [issue, hi]

section
variable {s : State} (ha : s.dev.me.aborting = none)
include ha

theorem issueHere_beyond (hx : s.dev.my.regs.xb.toNat ≤ s.dev.me.pc.toNat) :
    issueHere s = exec .instructionFetchBeyondBound s := by
  simp [issueHere, ha, hx, exec_instructionFetchBeyondBound]

variable (hx : s.dev.me.pc.toNat < s.dev.my.regs.xb.toNat) (hp : fetchPoisoned s.dev.my s.dev.me.pc = false)
include hx hp

theorem issueHere_illegal {f : DecodeFault} (hd : decode (fetchWord s.dev.my s.dev.me.pc) = .error f) :
    issueHere s = exec (.illegalInstruction f) s := by
  simp only [issueHere, ha, hp, Nat.not_le.mpr hx, hd, Option.isSome_none, Bool.false_eq_true, if_false]
  rfl

theorem issueHere_decoded {c : Coded} (hd : decode (fetchWord s.dev.my s.dev.me.pc) = .ok c) :
    issueHere s = runCoded s c := by
  simp only [issueHere, ha, hp, Nat.not_le.mpr hx, hd, Option.isSome_none, Bool.false_eq_true, if_false]

end

theorem runCoded_of_guard {s : State} {c : Coded} (hg : guardTrue s.dev.me c.guard = true ∨ s.dev.me.sent ≠ 0)
    (he : s.dev.me.elide = none) : runCoded s c = exec c.instr s := by
  have hn : (decide (s.dev.me.sent = 0) && !guardTrue s.dev.me c.guard) = false := by
    rcases hg with h | h <;> simp [h]
  simp [runCoded, hn, he]

theorem runCoded_of_not_guard {s : State} {c : Coded} (hg : guardTrue s.dev.me c.guard = false) (hs : s.dev.me.sent = 0) :
    runCoded s c = onlyMine s stepsOn := by
  simp only [runCoded, hg, hs]
  rfl

/-- The issue of a thread that no abort awaits, by what its fetch and its word give. -/
theorem issueHere_runs_decoded (u : State) (c : Coded) (f : DecodeFault) (ha : u.dev.me.aborting = none) :
    let t := u.dev.me
    let word := wordOfBytes (u.dev.my.lmem.bytes (t.pc.toNat * 12) 12)
    (u.dev.my.regs.xb.toNat ≤ t.pc.toNat → issueHere u = exec .instructionFetchBeyondBound u) ∧
      (t.pc.toNat < u.dev.my.regs.xb.toNat → fetchPoisoned u.dev.my t.pc = false →
        (decode word = .error f → issueHere u = exec (.illegalInstruction f) u) ∧
        (decode word = .ok c →
          (guardTrue t c.guard = true ∨ t.sent ≠ 0 → t.elide = none → issueHere u = exec c.instr u) ∧
          (guardTrue t c.guard = false → t.sent = 0 → issueHere u = onlyMine u (fun t => { t with pc := t.pc + 1 })))) := by
  refine ⟨issueHere_beyond ha, fun hx hp => ⟨issueHere_illegal ha hx hp, fun hd => ?_⟩⟩
  rw [issueHere_decoded ha hx hp hd]
  exact ⟨runCoded_of_guard, runCoded_of_not_guard⟩

/-- Settles O2: the settling and the cycles before the move, then the move, case by case of what its issue meets. -/
theorem stepRunsTheDecodedInstruction : Obligations.StepRunsTheDecodedInstruction := by
  unfold Obligations.StepRunsTheDecodedInstruction
  intro s dt r k rest c i f
  refine ⟨fun m h => ?_, step_of_event, fun h => ⟨step_of_issue_not_issuable h, fun hi ha => ?_⟩⟩
  · have hs := taken_settles h
    refine ⟨taken_agenda h, ?_, hs.objs, hs.coaches, hs.mmeta, hs.platRegs, fun q j => ?_⟩
    · rw [taken_now h, Move.cycles_eq]
    · exact ⟨(hs.core q).slot j, (hs.core q).lmem, (hs.core q).regs, (hs.core q).vec⟩
  · rw [step_of_issue_issuable h hi]
    exact issueHere_runs_decoded _ c f ha

end Sys2Proof.Machine
end

section
/-! OBLIGATION. The hardware scheduler's arbitrations (03 R57 to R61). -/

namespace Sys2Proof.Machine

/-! ### The contenders of an arbitration (R58) -/

theorem foldl_max_le_iff {α : Type} (f : α → Nat) (l : List α) (a n : Nat) :
    l.foldl (fun a q => Nat.max a (f q)) a ≤ n ↔ a ≤ n ∧ ∀ q ∈ l, f q ≤ n := by
  induction l generalizing a with
  | nil => simp
  | cons x r ih =>
    rw [List.foldl_cons, ih, List.forall_mem_cons, ← and_assoc]
    exact and_congr_left' Nat.max_le

theorem oldestEligible_isSome (q : Queue) : (oldestEligible q).isSome = true ↔ ∃ y ∈ q.recs, y.eligible = true := by
  simp [oldestEligible]

theorem mem_contenders_iff (o : Objs) (place : Queue → Bool) (q : Queue) : q ∈ contenders o place ↔ Contends o place q := by
  let able := o.queues.filter (fun q => (oldestEligible q).isSome && place q)
  have hable (x : Queue) : x ∈ able ↔ x ∈ o.queues ∧ (∃ y ∈ x.recs, y.eligible = true) ∧ place x = true := by
    simp only [able, List.mem_filter, Bool.and_eq_true, oldestEligible_isSome]
  have htop (n : Nat) := foldl_max_le_iff effClass able 0 n
  have hmax : q ∈ able → ((effClass q == able.foldl (fun a q => Nat.max a (effClass q)) 0) = true ↔
      ∀ x ∈ able, effClass x ≤ effClass q) := by
    intro hq
    have hle := ((htop _).mp (Nat.le_refl _)).2
    rw [beq_iff_eq]
    exact ⟨fun e x hx => e ▸ hle x hx, fun h => Nat.le_antisymm (hle q hq) ((htop _).mpr ⟨Nat.zero_le _, h⟩)⟩
  have hc : q ∈ contenders o place ↔ q ∈ able ∧ ∀ x ∈ able, effClass x ≤ effClass q :=
    List.mem_filter.trans (and_congr_right hmax)
  rw [hc, hable, Contends]
  exact and_congr_right fun _ => forall_congr' fun x => imp_congr_left (hable x)

theorem contenders_mem_queues {o : Objs} {place : Queue → Bool} {q : Queue} (h : q ∈ contenders o place) : q ∈ o.queues :=
  List.mem_of_mem_filter (List.mem_of_mem_filter h)

theorem contenders_nums_nodup {o : Objs} (place : Queue → Bool) (h : (o.queues.map (·.num)).Nodup) :
    ((contenders o place).map (·.num)).Nodup :=
  h.sublist ((List.filter_sublist.trans List.filter_sublist).map _)

/-! ### A round of the weighted round robin (R57) -/

/-- A contender ranks at or before another once their weights are added: a higher credit, or the same and no higher number. -/
def Outranks (w e : Nat × Int × Int) : Prop :=
  e.2.1 + e.2.2 < w.2.1 + w.2.2 ∨ (e.2.1 + e.2.2 = w.2.1 + w.2.2 ∧ w.1 ≤ e.1)

theorem Outranks.refl (w : Nat × Int × Int) : Outranks w w := .inr ⟨rfl, Nat.le_refl _⟩

theorem Outranks.trans {a b c : Nat × Int × Int} (h : Outranks a b) (g : Outranks b c) : Outranks a c := by
  simp only [Outranks] at *
  omega

/-- One comparison of `swrr`: the leader so far, by number and credit, against a contender whose weight has been added. -/
def leader (b : Option (Nat × Int)) (e : Nat × Int × Int) : Option (Nat × Int) :=
  match b with
  | none => some (e.1, e.2.1)
  | some (i, v) => if e.2.1 > v || (e.2.1 == v && e.1 < i) then some (e.1, e.2.1) else some (i, v)

/-- The number and the credit of a contender once its weight is added, as `swrr` lists it. -/
def withWeight (e : Nat × Int × Int) : Nat × Int × Int := (e.1, e.2.1 + e.2.2, e.2.2)

/-- What a round leaves of each contender's credit: the winner pays the sum of the weights. -/
def paid (w : Nat) (sum : Int) (e : Nat × Int × Int) : Nat × Int :=
  (e.1, if e.1 = w then e.2.1 + e.2.2 - sum else e.2.1 + e.2.2)

/-- The last leader wins, and every contender's credit is listed after the winner has paid. -/
theorem swrr_of_leader {l : List (Nat × Int × Int)} {w : Nat} {v : Int} (h : (l.map withWeight).foldl leader none = some (w, v)) :
    swrr l = (some w, l.map (paid w (l.foldl (fun a e => a + e.2.2) 0))) := by
  have hsum : (l.map withWeight).foldl (fun a e => a + e.2.2) 0 = l.foldl (fun a e => a + e.2.2) 0 := by
    rw [List.foldl_map]
    rfl
  unfold swrr
  dsimp only
  split
  next hnone => cases h.symm.trans hnone
  next hsome =>
    cases h.symm.trans hsome
    refine Prod.ext rfl ?_
    rw [List.map_map, ← hsum]
    rfl

theorem leader_withWeight (w x : Nat × Int × Int) : leader (some (w.1, w.2.1 + w.2.2)) (withWeight x) =
    if w.2.1 + w.2.2 < x.2.1 + x.2.2 ∨ (x.2.1 + x.2.2 = w.2.1 + w.2.2 ∧ x.1 < w.1) then some (x.1, x.2.1 + x.2.2)
    else some (w.1, w.2.1 + w.2.2) := by
  unfold leader withWeight
  simp only [Bool.or_eq_true, Bool.and_eq_true, decide_eq_true_eq, beq_iff_eq, gt_iff_lt]

theorem leader_foldl_spec (l : List (Nat × Int × Int)) (w : Nat × Int × Int) :
    ∃ u, (u = w ∨ u ∈ l) ∧ Outranks u w ∧ (∀ e ∈ l, Outranks u e) ∧
      (l.map withWeight).foldl leader (some (w.1, w.2.1 + w.2.2)) = some (u.1, u.2.1 + u.2.2) := by
  induction l generalizing w with
  | nil => exact ⟨w, .inl rfl, .refl w, by simp, rfl⟩
  | cons x r ih =>
    rw [List.map_cons, List.foldl_cons]
    by_cases h : w.2.1 + w.2.2 < x.2.1 + x.2.2 ∨ (x.2.1 + x.2.2 = w.2.1 + w.2.2 ∧ x.1 < w.1)
    · obtain ⟨u, hu, hux, hur, hf⟩ := ih x
      have hxw : Outranks x w := by simp only [Outranks]; omega
      refine ⟨u, .inr (List.mem_cons.mpr hu), hux.trans hxw, List.forall_mem_cons.mpr ⟨hux, hur⟩, ?_⟩
      rw [leader_withWeight, if_pos h, hf]
    · obtain ⟨u, hu, huw, hur, hf⟩ := ih w
      have hwx : Outranks w x := by simp only [Outranks]; omega
      refine ⟨u, hu.imp_right (List.mem_cons_of_mem x), huw, List.forall_mem_cons.mpr ⟨huw.trans hwx, hur⟩, ?_⟩
      rw [leader_withWeight, if_neg h, hf]

/-- A round among contenders: one of them outranks every one and pays the sum of the weights. -/
theorem swrr_spec (l : List (Nat × Int × Int)) (h : l ≠ []) : ∃ w ∈ l, (∀ e ∈ l, Outranks w e) ∧
    swrr l = (some w.1, l.map (paid w.1 (l.foldl (fun a e => a + e.2.2) 0))) := by
  obtain ⟨x, r, rfl⟩ := List.exists_cons_of_ne_nil h
  obtain ⟨u, hu, hux, hur, hf⟩ := leader_foldl_spec r x
  refine ⟨u, List.mem_cons.mpr hu, List.forall_mem_cons.mpr ⟨hux, hur⟩, ?_⟩
  exact swrr_of_leader hf

/-! ### Credits as a table -/

theorem Tab.get_foldl_set_of_not_mem {α : Type} (dflt : α) (l : List (Nat × α)) (t : Tab α) (k : Nat) (h : ∀ e ∈ l, e.1 ≠ k) :
    Tab.get dflt (l.foldl (fun t e => Tab.set t e.1 e.2) t) k = Tab.get dflt t k := by
  induction l generalizing t with
  | nil => rfl
  | cons x r ih =>
    rw [List.forall_mem_cons] at h
    rw [List.foldl_cons, ih _ h.2, Tab.get_set, if_neg h.1]

theorem Tab.get_foldl_set_of_mem {α : Type} (dflt : α) (l : List (Nat × α)) (t : Tab α) (hn : (l.map (·.1)).Nodup)
    {e : Nat × α} (he : e ∈ l) : Tab.get dflt (l.foldl (fun t e => Tab.set t e.1 e.2) t) e.1 = e.2 := by
  induction l generalizing t with
  | nil => cases he
  | cons x r ih =>
    rw [List.map_cons, List.nodup_cons] at hn
    rw [List.foldl_cons]
    rcases List.mem_cons.mp he with rfl | h
    · rw [Tab.get_foldl_set_of_not_mem dflt r _ _ (fun y hy e => hn.1 (List.mem_map.mpr ⟨y, hy, e⟩)), Tab.get_set, if_pos rfl]
    · exact ih _ hn.2 h

theorem foldl_add_intCast {α : Type} (f : α → Nat) (l : List α) (a : Nat) :
    l.foldl (fun (s : Int) x => s + f x) a = ((l.map f).foldl (· + ·) a : Nat) := by
  induction l generalizing a with
  | nil => rfl
  | cons x r ih => rw [List.foldl_cons, List.map_cons, List.foldl_cons, ← ih, Nat.cast_add]

theorem arbitrate_nil (credit : Tab Int) : arbitrate [] credit = (none, []) := rfl

/-- An arbitration among contenders with distinct numbers is a round of the weighted round robin. -/
theorem arbitrate_wins (cs : List Queue) (credit : Tab Int) (hc : cs ≠ []) (hn : (cs.map (·.num)).Nodup) :
    ∃ w, Wins cs (Tab.get 0 credit) (Tab.get 0 (arbitrate cs credit).2) w ∧ (arbitrate cs credit).1 = some w.num := by
  let entry := fun (q : Queue) => (q.num, Tab.get 0 credit q.num, (q.weight : Int))
  obtain ⟨e, he, hout, hs⟩ := swrr_spec (cs.map entry) (by simpa using hc)
  obtain ⟨w, hw, rfl⟩ := List.mem_map.mp he
  have hsum : (cs.map entry).foldl (fun a e => a + e.2.2) 0 = (((cs.map (·.weight)).foldl (· + ·) 0 : Nat) : Int) := by
    rw [List.foldl_map]
    exact foldl_add_intCast (·.weight) cs 0
  rw [hsum] at hs
  have hkeys : ((swrr (cs.map entry)).2.map (·.1)).Nodup := by
    rw [hs, List.map_map, List.map_map]
    exact hn
  have hcredit : (arbitrate cs credit).2 = (swrr (cs.map entry)).2.foldl (fun t e => Tab.set t e.1 e.2) [] := rfl
  refine ⟨w, ⟨hw, fun q hq => hout _ (List.mem_map_of_mem hq), fun q hq => ?_, fun n h => ?_⟩, congrArg Prod.fst hs⟩
  · have hmem : paid w.num ((cs.map (·.weight)).foldl (· + ·) 0 : Nat) (entry q) ∈ (swrr (cs.map entry)).2 := by
      rw [hs]
      exact List.mem_map_of_mem (List.mem_map_of_mem hq)
    have hget := Tab.get_foldl_set_of_mem 0 _ [] hkeys hmem
    rw [hcredit]
    refine hget.trans ?_
    simp only [paid, entry]
    split <;> simp
  · rw [hcredit]
    refine Tab.get_foldl_set_of_not_mem 0 _ [] n ?_
    rw [hs]
    simpa [paid, entry] using h

end Sys2Proof.Machine
end

section
/-! OBLIGATION. The slot arbiters, the dispatchers and promotion as they use an arbitration (03 R57 to R61). -/

namespace Sys2Proof.Machine

/-! ### Queues by their numbers -/

theorem find?_num_of_mem {l : List Queue} (hn : (l.map (·.num)).Nodup) {q : Queue} (hq : q ∈ l) :
    l.find? (fun x => x.num == q.num) = some q := by
  induction l with
  | nil => cases hq
  | cons x r ih =>
    rw [List.map_cons, List.nodup_cons] at hn
    rcases List.mem_cons.mp hq with rfl | h
    · simp
    · have hne : x.num ≠ q.num := fun e => hn.1 (List.mem_map.mpr ⟨q, h, e.symm⟩)
      rw [List.find?_cons_of_neg (by simpa using hne)]
      exact ih hn.2 h

theorem mem_putQueue_self {o : Objs} {q u : Queue} (hq : q ∈ o.queues) (hu : u.num = q.num) : u ∈ (putQueue o u).queues :=
  List.mem_map.mpr ⟨q, hq, if_pos hu.symm⟩

theorem mem_putQueue_other {o : Objs} {q u : Queue} (hq : q ∈ o.queues) (hu : q.num ≠ u.num) : q ∈ (putQueue o u).queues :=
  List.mem_map.mpr ⟨q, hq, if_neg hu⟩

/-! ### The slot arbiter (R59) -/

theorem exec_slotArbitration (r : Nat) (s : State) : exec (.slotArbitration r) s = execSlotArbitration r s := rfl
theorem exec_dispatchArbitration (die : Nat) (s : State) : exec (.dispatchArbitration die) s = execDispatchArbitration die s := rfl
theorem exec_queuePromotion (n : Nat) (s : State) : exec (.queuePromotion n) s = execQueuePromotion n s := rfl

/-- The first free helper slot in the circle after the one last considered. -/
theorem nextFree_eq_some {c : Core} {last i : Nat} (hi : i < 10) (hfree : (c.slot ((last + i) % 10 + 1)).life = .free)
    (hbefore : ∀ j < i, (c.slot ((last + j) % 10 + 1)).life ≠ .free) : nextFree c last = some ((last + i) % 10 + 1) := by
  have hfind : (upto 10).find? ((fun k => (c.slot k).life == .free) ∘ fun i => (last + i) % 10 + 1) = some i :=
    List.find?_range_eq_some.mpr ⟨by simpa using hfree, by simpa using hi, fun j hj => by simpa using hbefore j hj⟩
  rw [nextFree, List.find?_map, hfind]
  rfl

/-- The arbiter's step at a free slot. -/
theorem slotArbitration_at {s : State} {r k : Nat} (hd : s.dev.objs.dispatch = true) (hr : (s.dev.core r).running = true)
    (hu : s.dev.engineUp r = true) (hf : (s.dev.coach (unitOf r)).final = false)
    (hk : nextFree (s.dev.core r) (s.dev.core r).eng.arbLast = some k) {w : Option Nat} {credit : Tab Int}
    (ha : arbitrate (slotContenders s.dev r) (s.dev.core r).eng.arbCredit = (w, credit)) :
    exec (.slotArbitration r) s = .next { s with
      dev := w.elim (s.dev.onEng r (fun e => { e with arbLast := k, arbCredit := credit })) (fun n =>
        (s.dev.onEng r (fun e => { e with arbLast := k, arbCredit := credit })).onSlot r k (fun t => { t with owner := some n })) } := by
  rw [exec_slotArbitration, execSlotArbitration]
  simp only [hd, hr, hu, hf, hk, ha, Bool.not_true, Bool.or_false, Bool.false_eq_true, if_false, devStep]
  cases w <;> rfl

theorem slotArbitration_of_final {s : State} {r : Nat} (h : (s.dev.coach (unitOf r)).final = true) :
    exec (.slotArbitration r) s = .next s := by
  simp [exec_slotArbitration, execSlotArbitration, h]

/-! ### The dispatcher (R61) -/

/-- What a core that a dispatcher picks for a queue offers. -/
theorem coreQualifies_spec {d : Dev} {q : Queue} {r : Nat} (h : coreQualifies d q r = true) :
    ∃ x, oldestEligible q = some x ∧ (d.core r).running = true ∧ maskHas d.objs.mode q r = true ∧
      (d.coach (unitOf r)).final = false ∧ bits (nth 0 x.words 0) 33 30 + promisedSlots d q r ≤ ((upto 11).filter (fun k =>
        isHelper k && ((d.core r).slot k).life == .free && ((d.core r).slot k).owner == some q.num)).length ∧
      (d.core r).eng.events.length < 64 ∧ (d.core r).eng.eventWait = [] := by
  unfold coreQualifies at h
  split at h
  · cases h
  next x hx =>
    simp only [Bool.and_eq_true, decide_eq_true_eq, Bool.not_eq_true', List.isEmpty_iff] at h
    obtain ⟨⟨⟨⟨⟨⟨hr, hm⟩, hf⟩, hs⟩, -⟩, he⟩, hw⟩ := h
    exact ⟨x, hx, hr, hm, hf, hs, he, hw⟩

/-- A queue whose record `x` has gone to core `r` as a task event. -/
def Queue.dispatched (q : Queue) (x : QRec) (r now : Nat) : Queue :=
  ({ q with recs := q.recs.filter (fun y => y.node != x.node), out := q.out ++ [{ x with core := some r }],
            promo := 0, since := none } : Queue).touch now

/-- The device after a die's dispatcher has sent record `x` of a queue to core `r`. -/
def Dev.dispatchTo (d : Dev) (die : Nat) (credit : Tab Int) (q : Queue) (x : QRec) (r : Nat) : Dev :=
  (((d.onDie die (fun h => { h with credit := credit })).onObjs (fun o =>
    { putQueue o (q.dispatched x r d.now) with dequeued := true })).onDie die (fun h => { h with last := r % 256 })).event r
      (w64 (fld 1 60)) (w64 x.node) none

section
variable {s : State} {die : Nat} (hd : s.dev.objs.dispatch = true) (hf : (s.dev.die die).failed = false)
  (hp : s.dev.plat.pfault = false) (h8 : die < 8)
include hd hf hp h8

theorem dispatchArbitration_none (hc : dispatchable s.dev die = []) :
    exec (.dispatchArbitration die) s = .next { s with dev := s.dev.onDie die (fun h => { h with credit := [] }) } := by
  have hg : ¬8 ≤ die := by omega
  rw [exec_dispatchArbitration, execDispatchArbitration]
  simp [hd, hf, hp, hg, hc, arbitrate_nil, devStep]

theorem dispatchArbitration_sends {credit : Tab Int} {q : Queue} {x : QRec} {r : Nat}
    (ha : arbitrate (dispatchable s.dev die) (s.dev.die die).credit = (some q.num, credit))
    (hq : s.dev.objs.queues.find? (fun y => y.num == q.num) = some q) (hx : oldestEligible q = some x)
    (hr : (coresAfter die (s.dev.die die).last).find? (fun r => coreQualifies s.dev q r) = some r) :
    exec (.dispatchArbitration die) s = .next { s with dev := s.dev.dispatchTo die credit q x r } := by
  have hg : ¬8 ≤ die := by omega
  rw [exec_dispatchArbitration, execDispatchArbitration]
  simp only [hd, hf, hp, hg, ha, hq, hx, hr, Bool.not_true, Bool.or_false, Bool.false_eq_true, if_false, decide_false,
    Option.bind_some, devStep]
  rfl

end

section
variable (d : Dev) (die : Nat) (credit : Tab Int) (q : Queue) (x : QRec) (r : Nat)

theorem Dev.dispatchTo_die : (d.dispatchTo die credit q x r).die die = { d.die die with credit := credit, last := r % 256 } := by
  show Dev.die (((d.onDie die (fun h => { h with credit := credit })).onObjs _).onDie die (fun h => { h with last := r % 256 })) die = _
  rw [Dev.onDie_die, if_pos rfl]
  show ({ (d.onDie die (fun h => { h with credit := credit })).die die with last := r % 256 } : Die) = _
  rw [Dev.onDie_die, if_pos rfl]

theorem Dev.dispatchTo_queues : (d.dispatchTo die credit q x r).objs.queues = (putQueue d.objs (q.dispatched x r d.now)).queues := rfl

theorem Dev.dispatchTo_slot (p j : Nat) : (d.dispatchTo die credit q x r).slot p j = d.slot p j :=
  Dev.event_slot _ r _ _ none p j

theorem Dev.dispatchTo_events (hl : (d.core r).eng.events.length < 64) (hw : (d.core r).eng.eventWait = []) :
    ((d.dispatchTo die credit q x r).core r).eng.events =
      (d.core r).eng.events ++ [(BitVec.ofNat 64 (2 ^ 60), BitVec.ofNat 64 x.node)] :=
  congrArg CoreEng.events (Dev.event_eng_of_room (((d.onDie die (fun h => { h with credit := credit })).onObjs (fun o =>
    { putQueue o (q.dispatched x r d.now) with dequeued := true })).onDie die (fun h => { h with last := r % 256 })) r
      (w64 (fld 1 60)) (w64 x.node) none hl hw)

end

/-! ### Promotion (R60) -/

theorem queuePromotion_due {s : State} {q : Queue} {t0 : Nat} (hn : (s.dev.objs.queues.map (·.num)).Nodup) (hq : q ∈ s.dev.objs.queues)
    (hs : q.since = some t0) (ht : t0 + 1800000 ≤ s.dev.now) :
    exec (.queuePromotion q.num) s = .next { s with dev := s.dev.onObjs (fun o => putQueue o
      { q with promo := if q.cls + q.promo < 3 then q.promo + 1 else q.promo, since := some (t0 + 1800000) }) } := by
  have hc : effClass q < 3 ↔ q.cls + q.promo < 3 := by
    show min 3 (q.cls + q.promo) < 3 ↔ _
    omega
  rw [exec_queuePromotion, execQueuePromotion, find?_num_of_mem hn hq]
  simp only [hs, promoCycles, ht, if_true, hc, devStep]

/-- The winner of a die's arbitration, its oldest eligible record and the core that takes it. -/
theorem dispatcher_sends {s : State} {die : Nat} (hd : s.dev.objs.dispatch = true) (hn : (s.dev.objs.queues.map (·.num)).Nodup)
    (h8 : die < 8) (hf : (s.dev.die die).failed = false) (hp : s.dev.plat.pfault = false) (hc : dispatchable s.dev die ≠ []) :
    ∃ w x c credit, Wins (dispatchable s.dev die) (Tab.get 0 (s.dev.die die).credit) (Tab.get 0 credit) w ∧ w ∈ s.dev.objs.queues ∧
      oldestEligible w = some x ∧ (coresAfter die (s.dev.die die).last).find? (fun r => coreQualifies s.dev w r) = some c ∧
      exec (.dispatchArbitration die) s = .next { s with dev := s.dev.dispatchTo die credit w x c } := by
  obtain ⟨w, hwin, hnum⟩ := arbitrate_wins (dispatchable s.dev die) (s.dev.die die).credit hc (contenders_nums_nodup _ hn)
  have hw : w ∈ s.dev.objs.queues := contenders_mem_queues hwin.1
  obtain ⟨⟨-, -, hplace⟩, -⟩ := (mem_contenders_iff _ _ w).mp hwin.1
  have hany : ((coresAfter die (s.dev.die die).last).find? (fun r => coreQualifies s.dev w r)).isSome = true := by
    simp only [Bool.and_eq_true] at hplace
    rw [List.find?_isSome]
    exact List.any_eq_true.mp hplace.2
  obtain ⟨c, hcore⟩ := Option.isSome_iff_exists.mp hany
  obtain ⟨x, hx, -⟩ := coreQualifies_spec (List.find?_some hcore)
  exact ⟨w, x, c, _, hwin, hw, hx, hcore,
    dispatchArbitration_sends hd hf hp h8 (Prod.ext hnum rfl) (find?_num_of_mem hn hw) hx hcore⟩

/-- Settles O52: each arbitration is a round of the weighted round robin among the contenders of the highest effective class. -/
theorem schedulerArbitrations : Obligations.SchedulerArbitrations := by
  unfold Obligations.SchedulerArbitrations
  intro s r k i die c o old mine own order fits hd hn
  refine ⟨mem_contenders_iff o, fun q r h => ?_, fun hr hu hf hi hk hfree hbefore => ?_, slotArbitration_of_final, fun h8 hdie hp => ?_,
    fun q hq t0 hs ht => ?_⟩
  · obtain ⟨x, hx, hrun, hm, hfin, hslots, hev, -⟩ := coreQualifies_spec h
    refine ⟨x, hx, hrun, hm, hfin, ?_, hev⟩
    rw [List.countP_eq_length_filter]
    exact (Nat.le_add_right _ _).trans hslots
  · have hnext : nextFree c c.eng.arbLast = some k := hk ▸ nextFree_eq_some hi (hk ▸ hfree) hbefore
    refine ⟨fun hc => ?_, fun hc => ?_⟩
    · exact slotArbitration_at hd hr hu hf hnext (w := none) (by rw [slotContenders, hc]; rfl)
    · obtain ⟨w, hwin, hnum⟩ := arbitrate_wins (contenders o mine) c.eng.arbCredit hc (contenders_nums_nodup mine hn)
      exact ⟨w, _, hwin, slotArbitration_at hd hr hu hf hnext (w := some w.num) (Prod.ext hnum rfl)⟩
  · refine ⟨dispatchArbitration_none hd hdie hp h8, fun hc => ?_⟩
    obtain ⟨w, x, c, credit, hwin, hw, hx, hcore, hexec⟩ := dispatcher_sends hd hn h8 hdie hp hc
    obtain ⟨-, -, -, -, -, -, hev, hwait⟩ := coreQualifies_spec (List.find?_some hcore)
    have hdieof := s.dev.dispatchTo_die die credit w x c
    refine ⟨_, w, x, c, ?_, hx, hcore, hexec, rfl, ?_, Dev.dispatchTo_events _ _ _ _ _ _ hev hwait, Dev.dispatchTo_slot _ _ _ _ _ _,
      fun q hq hne => mem_putQueue_other hq hne, w.dispatched x c s.dev.now, mem_putQueue_self hw rfl, rfl, rfl, rfl, rfl, rfl⟩
    · rw [hdieof]
      exact hwin
    · rw [hdieof]
  · exact ⟨_, queuePromotion_due hn hq hs ht, rfl, rfl, mem_putQueue_self hq rfl⟩

end Sys2Proof.Machine
end

section
/-! OBLIGATION. The deadlock report (03 R65 to R67, 20 R392). -/

namespace Sys2Proof.Machine

/-! ### The conditions of R65, one by one -/

/-- A core of a logical device on a die that has not failed. -/
def InLdev (d : Dev) (j r : Nat) : Prop := r < 2048 ∧ ldevOf d.objs.mode (dieOf r) = j ∧ (d.die (dieOf r)).failed = false

/-- A queue of a logical device keeps it awake: an armed wake, or a record that may be dispatched. -/
def QueueWaits (j : Nat) (q : Queue) : Prop := q.dev = j ∧ (q.wake = true ∨ ∃ y ∈ q.recs, y.eligible = true)

theorem mem_dieCores_iff (n r : Nat) : r ∈ dieCores n ↔ dieOf r = n := by
  simp only [dieCores, upto, List.mem_map, List.mem_range, dieOf]
  exact ⟨fun ⟨c, hc, h⟩ => by omega, fun h => ⟨r % 256, by omega, by omega⟩⟩

theorem mem_ldevDies_iff (d : Dev) (j n : Nat) :
    n ∈ ldevDies d j ↔ n < 8 ∧ ldevOf d.objs.mode n = j ∧ (d.die n).failed = false := by
  simp [ldevDies, upto]

theorem mem_ldevCores_iff (d : Dev) (j r : Nat) : r ∈ (ldevDies d j).flatMap dieCores ↔ InLdev d j r := by
  have h8 : dieOf r < 8 ↔ r < 2048 := by unfold dieOf; omega
  simp only [List.mem_flatMap, mem_dieCores_iff, mem_ldevDies_iff, InLdev, ← h8]
  exact ⟨fun ⟨_, h, e⟩ => e ▸ h, fun h => ⟨_, h, rfl⟩⟩

theorem deadlocked_iff (s : State) (j : Nat) : deadlocked s j = true ↔
    (∀ n < 8, (s.dev.die n).halted = false) ∧
    (∀ r, InLdev s.dev j r → allParked s r = true ∧ coreIdle s.dev r = true) ∧
    (∃ r k, InLdev s.dev j r ∧ k < 16 ∧ k ≠ 0 ∧ (s.dev.slot r k).life = .live ∧ standsParked s r k = true) ∧
    (∀ c ∈ s.dev.cores, c.1 < 2048 ∨ ∀ x ∈ c.2.eng.xfers, ldevOf s.dev.objs.mode (s.dev.objs.homeDie x.guard) ≠ j) ∧
    (∀ m ∈ s.dev.objs.msgs, ¬InLdev s.dev j m.1) ∧ (∀ m ∈ s.dev.objs.fabric, ¬InLdev s.dev j m.rank) ∧
    (∀ g ∈ s.dev.objs.grants, ¬InLdev s.dev j g.rank) ∧
    (∀ a ∈ s.dev.objs.arrivals, arrivalDev s.dev a.1 a.2.1 a.2.2 ≠ some j) ∧ ∀ q ∈ s.dev.objs.queues, ¬QueueWaits j q := by
  have hq (q : Queue) : (q.dev != j || (!q.wake && !q.recs.any (·.eligible))) = true ↔ ¬QueueWaits j q := by
    simp only [QueueWaits, not_or, not_exists, not_and, Bool.or_eq_true, bne_iff_ne, Bool.and_eq_true, Bool.not_eq_true',
      List.any_eq_false, Bool.not_eq_true, ne_eq]
    exact imp_iff_not_or.symm
  simp only [deadlocked, Bool.and_eq_true, List.all_eq_true, List.any_eq_true, hq, upto, List.mem_range, Bool.not_eq_true',
    mem_ldevCores_iff, List.contains_eq_mem, decide_eq_false_iff_not, Bool.or_eq_true, decide_eq_true_eq, bne_iff_ne, beq_iff_eq, and_assoc,
    exists_and_left]

/-! ### What makes a core raise its line, and what keeps it from that -/

/-- A context waits for what has not come about, and nothing of its own is to be taken first. -/
def ContextStands (s : State) (r k : Nat) : Prop :=
  (s.dev.slot r k).held = false ∧ (s.dev.slot r k).pre = none ∧ (s.dev.slot r k).flow.deferred = [] ∧
    (∀ x ∈ (s.dev.core r).eng.sfq, x.slot ≠ k) ∧ (s.dev.slot r k).parked.any (fun w => !w.holds s r k) = true

/-- Every live context of a core stands, and its control context waits in `evpop` at an empty queue. -/
def LineRaised (s : State) (r : Nat) : Prop :=
  (∀ k < 16, (s.dev.slot r k).life = .live → ContextStands s r k) ∧ (s.dev.slot r 0).life = .live ∧
    (s.dev.slot r 0).parked = some .event ∧ (s.dev.core r).eng.events = []

/-- Nothing of a core's is in an engine, a queue or a network. -/
def EnginesIdle (d : Dev) (r : Nat) : Prop :=
  let e := (d.core r).eng
  (e.copies = [] ∧ e.ewords = [] ∧ e.xfers = [] ∧ e.mq = [] ∧ e.mtl = [] ∧ e.mail = [] ∧ e.dq = [] ∧ e.streams = []) ∧
    (e.eventWait = [] ∧ e.sfWait = [] ∧ e.pend13 = [] ∧ e.pend15 = [] ∧ e.saved = []) ∧ (d.coach (unitOf r)).step = none ∧
    ∀ k < 16, (d.slot r k).flow.bag = [] ∧ (d.slot r k).flow.rets = [] ∧ (d.slot r k).flow.acks = [] ∧ (d.slot r k).flow.posted = []

theorem standsParked_of_stands {s : State} {r k : Nat} (h : ContextStands s r k) (hw : (s.dev.core r).eng.sfWait = []) :
    standsParked s r k = true := by
  obtain ⟨hheld, hpre, hdef, hsf, hany⟩ := h
  obtain ⟨w, hp, hn⟩ := (Option.any_eq_true _ _).mp hany
  have hno : hasSf (s.dev.core r).eng k = false := by simpa [hasSf, hw] using hsf
  simp [standsParked, hheld, hpre, hdef, hno, hp, by simpa using hn]

theorem allParked_of_line {s : State} {r : Nat} (h : LineRaised s r) (hw : (s.dev.core r).eng.sfWait = []) : allParked s r = true := by
  obtain ⟨hall, hlive, hev, hempty⟩ := h
  have hslots : ∀ k < 16, (s.dev.slot r k).life = .live → standsParked s r k = true :=
    fun k hk hl => standsParked_of_stands (hall k hk hl) hw
  simp only [allParked, Bool.and_eq_true, List.all_eq_true, upto, List.mem_range, beq_iff_eq, List.isEmpty_iff]
  refine ⟨⟨⟨fun k hk => ?_, hlive⟩, hev⟩, hempty⟩
  by_cases hl : (s.dev.slot r k).life = .live
  · simp [hslots k hk hl]
  · have hn : ((s.dev.core r).slot k).life ≠ .live := hl
    simp [hn]

theorem coreIdle_of_idle {d : Dev} {r : Nat} (h : EnginesIdle d r) : coreIdle d r = true := by
  obtain ⟨⟨h1, h2, h3, h4, h5, h6, h7, h8⟩, ⟨h9, h10, h11, h12, h13⟩, hstep, hflow⟩ := h
  have hq : ∀ k < 16, inFlight d (d.slot r k).flow = false := by
    intro k hk
    obtain ⟨hb, hr, ha, hp⟩ := hflow k hk
    simp [inFlight, hb, hr, ha, hp]
  simpa [coreIdle, h1, h2, h3, h4, h5, h6, h7, h8, h9, h10, h11, h12, h13, hstep, upto] using hq

/-- What a raised line rules out at its core. -/
theorem allParked_spec {s : State} {r : Nat} (h : allParked s r = true) :
    (∀ k < 15, (s.dev.slot r k).life = .live → (s.dev.slot r k).held = false ∧ (s.dev.slot r k).parked ≠ none) ∧
      (s.dev.slot r 0).parked = some .event ∧ (s.dev.core r).eng.events = [] := by
  simp only [allParked, Bool.and_eq_true, List.all_eq_true, upto, List.mem_range, beq_iff_eq, List.isEmpty_iff] at h
  obtain ⟨⟨⟨hall, -⟩, hev⟩, hempty⟩ := h
  refine ⟨fun k hk hl => ?_, hev, hempty⟩
  have hl' : ((s.dev.core r).slot k).life = .live := hl
  have hst : standsParked s r k = true := by simpa [hl', show k ≠ 15 by omega] using hall k (by omega)
  refine ⟨?_, fun hp => ?_⟩
  · simp only [standsParked, Bool.and_eq_true, Bool.not_eq_true'] at hst
    exact hst.1.1.1.1
  · simp [standsParked, hp] at hst

/-- What idle engines rule out at their core. -/
theorem coreIdle_spec {d : Dev} {r : Nat} (h : coreIdle d r = true) :
    (d.core r).eng.ewords = [] ∧ (d.core r).eng.mq = [] ∧ (d.core r).eng.mail = [] ∧ (d.core r).eng.xfers = [] ∧
      ∀ x ∈ (d.core r).eng.copies, x.parked = true := by
  simp only [coreIdle, Bool.and_eq_true, List.isEmpty_iff, List.all_eq_true, and_assoc] at h
  obtain ⟨hcopies, hewords, hxfers, hmq, -, hmail, -⟩ := h
  exact ⟨hewords, hmq, hmail, hxfers, fun x hx => (hcopies x hx).1⟩

/-- The conditions of R65 that the statement of a quiet device gives are those that the trap tests. -/
theorem deadlocked_of_quiet {s : State} {j : Nat} (hhalt : ∀ n < 8, (s.dev.die n).halted = false)
    (hcores : ∀ r, InLdev s.dev j r → LineRaised s r ∧ EnginesIdle s.dev r)
    (hlive : ∃ r k, InLdev s.dev j r ∧ 1 ≤ k ∧ k < 16 ∧ (s.dev.slot r k).life = .live)
    (hx : ∀ c ∈ s.dev.cores, 2048 ≤ c.1 → c.2.eng.xfers = [])
    (ho : s.dev.objs.msgs = [] ∧ s.dev.objs.fabric = [] ∧ s.dev.objs.grants = [] ∧ s.dev.objs.arrivals = [])
    (hq : ∀ q ∈ s.dev.objs.queues, ¬QueueWaits j q) : deadlocked s j = true := by
  obtain ⟨hm, hf, hg, ha⟩ := ho
  obtain ⟨r, k, hr, hk1, hk, hl⟩ := hlive
  have hwait {r : Nat} (hr : InLdev s.dev j r) : (s.dev.core r).eng.sfWait = [] := (hcores r hr).2.2.1.2.1
  refine (deadlocked_iff s j).mpr ⟨hhalt, fun r hr => ⟨allParked_of_line (hcores r hr).1 (hwait hr), coreIdle_of_idle (hcores r hr).2⟩,
    ⟨r, k, hr, hk, by omega, hl, standsParked_of_stands ((hcores r hr).1.1 k hk hl) (hwait hr)⟩, fun c hc => ?_, by simp [hm],
    by simp [hf], by simp [hg], by simp [ha], hq⟩
  by_cases hc' : c.1 < 2048
  · exact .inl hc'
  · exact .inr (by simp [hx c hc (by omega)])

/-! ### The trap -/

theorem exec_deadlockTrap (j : Nat) (s : State) : exec (.deadlockTrap j) s = execDeadlockTrap j s := rfl

theorem deadlockTrap_of_not_deadlocked {s : State} {j : Nat} (h : deadlocked s j = false) :
    exec (.deadlockTrap j) s =
      .next { s with dev := s.dev.onPlat (fun p => { p with deadlockRaised := p.deadlockRaised.filter (· != j) }) } := by
  simp [exec_deadlockTrap, execDeadlockTrap, h]

theorem deadlockTrap_of_raised {s : State} {j : Nat} (h : deadlocked s j = true) (hr : j ∈ s.dev.plat.deadlockRaised) :
    exec (.deadlockTrap j) s = .next s := by
  simp [exec_deadlockTrap, execDeadlockTrap, h, hr]

/-- Where the report stands. -/
def reportBase (d : Dev) : Nat := bits (d.plat.reg 0x200) 43 4 * 16

/-- The entries of the report: none where it has no place. -/
def reported (d : Dev) (j : Nat) : List (List Word) := if reportBase d = 0 then [] else reportEntries d j

/-- Global memory with the report written. -/
def reportMem (s : State) (j : Nat) : Mem :=
  (reported s.dev j).zipIdx.foldl (fun m e => m.setWords (reportBase s.dev + 16 * e.2) e.1) s.mem

/-- The device with the trap sent to slot 15 of the logical device's lowest core. -/
def Dev.trapped (d : Dev) (j : Nat) : Dev :=
  { (d.agentRecord (nth 0 (ldevDies d j) 0 * 256) 0x70 (w64 (reportBase d)) (BitVec.ofNat 32 (reported d j).length)).onPlat (fun p =>
      { p with deadlockRaised := j :: p.deadlockRaised }) with free := d.free + 1 }

theorem deadlockTrap_of_not_raised {s : State} {j : Nat} (h : deadlocked s j = true) (hr : j ∉ s.dev.plat.deadlockRaised) :
    exec (.deadlockTrap j) s = .next (State.physMem { s with dev := s.dev.trapped j } (reportMem s j) (reportBase s.dev)
      (16 * (reported s.dev j).length)) := by
  have hc : s.dev.plat.deadlockRaised.contains j = false := by simpa using hr
  rw [exec_deadlockTrap, execDeadlockTrap]
  simp only [h, hc, Bool.not_true, Bool.false_eq_true, if_false]
  rfl

/-- The record that an engine sends to slot 15, and the fault that waits there with it (20 R377, R380). -/
theorem agentRecord_spec (d : Dev) (r : Nat) (cause : Byte) (addr : Word) (opnd : BitVec 32) :
    (∃ p, Joins (d.core r).eng.pend15 ((d.agentRecord r cause addr opnd).core r).eng.pend15 p ∧ p.slot = 15 ∧ p.cause = cause) ∧
      ((d.core r).lmem.wf = true →
        ((d.agentRecord r cause addr opnd).core r).lmem.word (recordBase (d.core r) 15 + 8) = addr ∧
        ((d.agentRecord r cause addr opnd).core r).lmem.word (recordBase (d.core r) 15 + 16) = BitVec.ofNat 64 opnd.toNat) := by
  have hl : ((d.agentRecord r cause addr opnd).core r).lmem =
      (d.core r).lmem.setWords (recordAt (d.core r) 15) (recordWords (d.core r) 15 ((d.core r).slot 15) cause addr opnd) := by
    simp [Dev.agentRecord, Dev.onEng]
  have he : ((d.agentRecord r cause addr opnd).core r).eng.pend15 = joinPend (d.core r).eng.pend15
      { slot := 15, domain := (d.slot r 15).domain, cause := cause, ends := none, time := d.now } := by
    simp [Dev.agentRecord, Dev.onEng]
  refine ⟨⟨_, he ▸ joinPend_joins _ _, rfl, rfl⟩, fun hwf => ?_⟩
  obtain ⟨-, h1, h2, -, -⟩ := record_written (d.core r) 15 ((d.core r).slot 15) cause addr opnd hwf
  rw [hl]
  exact ⟨h1, h2⟩

/-! ### The report's entries (R392) -/

theorem acqWait_kind_lt (d : Dev) (r k : Nat) : (acqWait d r k).1 < 16 := by
  unfold acqWait
  split
  · simp
  · split <;> simp

theorem waitKind_kind_lt (d : Dev) (r k : Nat) (c : WaitCond) : (waitKind d r k c).1 < 16 := by
  unfold waitKind
  cases c
  case sendHold => exact acqWait_kind_lt d r k
  case answer id => dsimp only; split <;> simp
  all_goals simp

/-- The first word of a report's entry (R392). -/
def entryWord (r k queue kind pc : Nat) : Word := w64 (fld r 53 + fld k 49 + fld queue 41 + fld kind 37 + pc)

/-- The fields of an entry's first word are read back. -/
theorem bits_entryWord {r k queue kind pc : Nat} (hr : r < 2048) (hk : k < 16) (hq : queue < 256) (hw : kind < 16) (hp : pc < 32768) :
    bits (entryWord r k queue kind pc) 63 53 = r ∧ bits (entryWord r k queue kind pc) 52 49 = k ∧
      bits (entryWord r k queue kind pc) 14 0 = pc := by
  simp only [entryWord, bits, w64, fld, BitVec.toNat_ofNat]
  omega

theorem mem_reportEntries {d : Dev} {j r k : Nat} {c : WaitCond} (hr : InLdev d j r) (hk : k < 16) (hl : (d.slot r k).life = .live)
    (hp : (d.slot r k).parked = some c) :
    [entryWord r k (queueOf d r (d.slot r k)) (waitKind d r k c).1 (d.slot r k).pc.toNat, (waitKind d r k c).2] ∈ reportEntries d j := by
  refine List.mem_flatMap.mpr ⟨r, (mem_ldevCores_iff d j r).mpr hr, List.mem_flatMap.mpr ⟨k, by simpa [upto] using hk, ?_⟩⟩
  dsimp only
  rw [hp]
  simp only [hl, ne_eq, not_true_eq_false, if_false]
  exact List.mem_singleton.mpr rfl

/-- A condition of R65 that fails. -/
theorem not_deadlocked_of_broken {s : State} {j : Nat} (h : (∃ n < 8, (s.dev.die n).halted = true) ∨
      (∃ r k, InLdev s.dev j r ∧ 1 ≤ k ∧ k < 15 ∧ (s.dev.slot r k).life = .live ∧
        ((s.dev.slot r k).held = true ∨ (s.dev.slot r k).parked = none)) ∨
      (∃ r, InLdev s.dev j r ∧ ((s.dev.slot r 0).parked ≠ some .event ∨ (s.dev.core r).eng.events ≠ [] ∨ (s.dev.core r).eng.ewords ≠ [] ∨
        (s.dev.core r).eng.mq ≠ [] ∨ (s.dev.core r).eng.mail ≠ [] ∨ (s.dev.core r).eng.xfers ≠ [] ∨
        ∃ x ∈ (s.dev.core r).eng.copies, x.parked = false)) ∨
      (∀ r k, InLdev s.dev j r → 1 ≤ k → k < 16 → ¬(s.dev.slot r k).life = .live) ∨ (∃ f ∈ s.dev.objs.fabric, InLdev s.dev j f.rank) ∨
      (∃ m ∈ s.dev.objs.msgs, InLdev s.dev j m.1) ∨ ∃ q ∈ s.dev.objs.queues, QueueWaits j q) : deadlocked s j = false := by
  refine Bool.eq_false_iff.mpr fun hd => ?_
  obtain ⟨hhalt, hcores, ⟨r0, k0, hr0, hk0, hk0', hl0, -⟩, -, hmsgs, hfab, -, -, hqueues⟩ := (deadlocked_iff s j).mp hd
  rcases h with ⟨n, hn, h⟩ | ⟨r, k, hr, -, hk, hl, h⟩ | ⟨r, hr, h⟩ | h | ⟨f, hf, h⟩ | ⟨m, hm, h⟩ | ⟨q, hq, h⟩
  · exact Bool.false_ne_true ((hhalt n hn).symm.trans h)
  · obtain ⟨hslots, -⟩ := allParked_spec (hcores r hr).1
    obtain ⟨hheld, hparked⟩ := hslots k hk hl
    exact h.elim (fun h => Bool.false_ne_true (hheld.symm.trans h)) hparked
  · obtain ⟨-, hev, hempty⟩ := allParked_spec (hcores r hr).1
    obtain ⟨hew, hmq, hmail, hxf, hcopies⟩ := coreIdle_spec (hcores r hr).2
    rcases h with h | h | h | h | h | h | ⟨x, hx, h⟩
    · exact h hev
    · exact h hempty
    · exact h hew
    · exact h hmq
    · exact h hmail
    · exact h hxf
    · exact Bool.false_ne_true (h.symm.trans (hcopies x hx))
  · exact h r0 k0 hr0 (by omega) hk0 hl0
  · exact hfab f hf h
  · exact hmsgs m hm h
  · exact hqueues q hq h

/-- Settles O25: a quiet device meets every condition that the trap tests, a broken one fails one. -/
theorem deadlockIsReportedOnce : Obligations.DeadlockIsReportedOnce := by
  unfold Obligations.DeadlockIsReportedOnce
  intro s j d o mine live stands line idle waits quiet broken r c base es
  have hquiet : quiet → deadlocked s j = true := fun ⟨hhalt, hcores, hlive, hx, ho, hq⟩ =>
    deadlocked_of_quiet hhalt hcores hlive hx ho hq
  refine ⟨fun hq hr => ?_, fun hq hb p k hp hk hl hn => ?_, fun hq hr => deadlockTrap_of_raised (hquiet hq) hr, fun hb => ?_⟩
  · obtain ⟨hjoin, hrec⟩ := agentRecord_spec d r 0x70 (w64 (reportBase d)) (BitVec.ofNat 32 (reported d j).length)
    refine ⟨_, deadlockTrap_of_not_raised (hquiet hq) hr, List.mem_cons_self, hjoin, fun hwf => ?_, rfl⟩
    obtain ⟨h1, h2⟩ := hrec hwf
    exact ⟨h1, h2.trans (by rw [BitVec.toNat_ofNat]; rfl)⟩
  · obtain ⟨-, hcores, -⟩ := hq
    obtain ⟨-, -, -, -, hany⟩ := (hcores p hp).1.1 k hk hl
    obtain ⟨w, hw, -⟩ := (Option.any_eq_true _ _).mp hany
    have hes : es = reportEntries d j := if_neg hb
    refine ⟨_, hes ▸ mem_reportEntries hp hk hl hw, ?_⟩
    exact bits_entryWord hp.1 hk hn (waitKind_kind_lt d p k w) (d.slot p k).pc.isLt
  · refine ⟨_, deadlockTrap_of_not_deadlocked (not_deadlocked_of_broken hb), rfl, rfl, ?_⟩
    simp

end Sys2Proof.Machine
end

section
/-! SUPPORT. Global memory stays in its canonical form (log 2): what an outcome must keep, and what writes keep. -/

namespace Sys2Proof.Machine

/-! ### The outcome of a step -/

/-- The outcome leaves global memory in its canonical form. -/
def Out.MemOk : Out → Prop
  | .next t => t.mem.wf = true
  | _ => True

@[simp] theorem Out.memOk_next (t : State) : Out.MemOk (.next t) ↔ t.mem.wf = true := Iff.rfl
@[simp] theorem Out.memOk_fault (r : Fault) : Out.MemOk (.fault r) := trivial
@[simp] theorem Out.memOk_refused (r : Refusal) : Out.MemOk (.refused r) := trivial

@[simp] theorem Out.memOk_ite (c : Prop) [Decidable c] (a b : Out) :
    Out.MemOk (if c then a else b) ↔ if c then a.MemOk else b.MemOk := by
  split <;> rfl

@[simp] theorem State.mem_ite (c : Prop) [Decidable c] (a b : State) : (if c then a else b).mem = if c then a.mem else b.mem :=
  apply_ite State.mem c a b

@[simp] theorem Mem.wf_ite (c : Prop) [Decidable c] (a b : Mem) : (if c then a else b).wf = if c then a.wf else b.wf :=
  apply_ite Mem.wf c a b

@[simp] theorem fst_ite {α β : Type} (c : Prop) [Decidable c] (a b : α × β) : (if c then a else b).1 = if c then a.1 else b.1 :=
  apply_ite Prod.fst c a b

/-! ### Writes, one after another -/

theorem foldl_mem_wf {α : Type} {f : Mem → α → Mem} {l : List α} {m : Mem} (hm : m.wf = true)
    (hf : ∀ u a, u.wf = true → (f u a).wf = true) : (l.foldl f m).wf = true := by
  induction l generalizing m with
  | nil => exact hm
  | cons a l ih => exact ih (hf _ _ hm)

@[simp] theorem foldl_memOk {α : Type} {f : State → α → State} {l : List α} {s : State} (h : s.mem.wf = true)
    (hf : ∀ u a, u.mem.wf = true → (f u a).mem.wf = true) : (l.foldl f s).mem.wf = true := by
  induction l generalizing s with
  | nil => exact h
  | cons a l ih => exact ih (hf _ _ h)

@[simp] theorem Mem.wf_write {m : Mem} (hm : m.wf = true) (a v) : (m.write a v).wf = true := Mem.write_wf m a v hm
@[simp] theorem Mem.wf_writeN {m : Mem} (hm : m.wf = true) (a n v) : (m.writeN a n v).wf = true := Mem.writeN_wf n m a v hm
@[simp] theorem Mem.wf_setWord {m : Mem} (hm : m.wf = true) (a v) : (m.setWord a v).wf = true := Mem.setWord_wf m a v hm
@[simp] theorem Mem.wf_setWords {m : Mem} (hm : m.wf = true) (a l) : (m.setWords a l).wf = true := Mem.setWords_wf l m a hm
@[simp] theorem Mem.wf_setBytes {m : Mem} (hm : m.wf = true) (a l) : (m.setBytes a l).wf = true := Mem.setBytes_wf l m a hm

end Sys2Proof.Machine
end

section
/-! SUPPORT. Threads, their requests and what homes do with them keep global memory in its canonical form (log 2). -/

namespace Sys2Proof.Machine

section
variable {s : State} (h : s.mem.wf = true)
include h

/-! ### Memory at homes (04 R84, R89, R90) -/

@[simp] theorem devStep_memOk (f) : (devStep s f).MemOk := by
  simp [devStep, h]

omit h in
@[simp] theorem State.setFe_mem (s : State) (l b) : (s.setFe l b).mem = s.mem := by
  cases l <;> rfl

@[simp] theorem State.memAs_wf (pa n key) : (s.memAs pa n key).wf = true := by
  unfold State.memAs
  refine foldl_mem_wf h fun m l hm => ?_
  (repeat' split) <;> simp [hm]

omit h in
@[simp] theorem State.withDev_mem (s : State) (f) : (s.withDev f).mem = s.mem := rfl

omit h in
@[simp] theorem State.physMem_mem (s : State) (m pa n) : (s.physMem m pa n).mem = m := rfl

@[simp] theorem State.writeLoc_memOk (l key bs) : (s.writeLoc l key bs).mem.wf = true := by
  unfold State.writeLoc
  split <;> simp [h]

/-! ### Conditions, faults and the error log (02 R35, 20 R377, 22 R414) -/

@[simp] theorem parkUnless_memOk {c k} (hk : ∀ u, u.mem.wf = true → (k u).MemOk) : (parkUnless s c k).MemOk := by
  simp [parkUnless, devStep, h, hk s h]

@[simp] theorem fault_memOk (cause addr opnd) : (fault s cause addr opnd).MemOk := by
  simp [fault, h]

@[simp] theorem privFault_memOk : (privFault s).MemOk := by
  simp [privFault, h]

@[simp] theorem illegal_memOk (check) : (illegal s check).MemOk := by
  simp [illegal, h]

@[simp] theorem memRecord_memOk (ty die detail addr) : (memRecord s ty die detail addr).mem.wf = true := by
  simp [memRecord, h]

@[simp] theorem noteLine_memOk (line) : (noteLine s line).mem.wf = true := by
  simp [noteLine, h]

@[simp] theorem noteWord_memOk (r w) : (noteWord r s w).mem.wf = true := by
  simp [noteWord, h]

@[simp] theorem noteRead_memOk (l n) : (noteRead s l n).mem.wf = true := by
  unfold noteRead
  (repeat' split) <;> simp +contextual [h]

@[simp] theorem notePartial_memOk (l n) : (notePartial s l n).mem.wf = true := by
  unfold notePartial
  (repeat' split) <;> simp +contextual [h]

@[simp] theorem noteWalk_memOk (asid va) : (noteWalk s asid va).mem.wf = true := by
  unfold noteWalk
  split <;> simp [h]

@[simp] theorem noteWalks_memOk (asid va n) : (noteWalks s asid va n).mem.wf = true := by
  simp [noteWalks, h]

@[simp] theorem notePort_memOk (src va) : (notePort s src va).mem.wf = true := by
  simp [notePort, h]

@[simp] theorem noteCode_memOk (asid c p) : (noteCode s asid c p).mem.wf = true := by
  simp [noteCode, h]

@[simp] theorem walkFault_memOk (cause p opnd) : (walkFault s cause p opnd).MemOk := by
  simp [walkFault, h]

/-! ### Control transfer (13 R279) -/

@[simp] theorem jumpTo_memOk (f) : (jumpTo s f).MemOk := by
  simp [jumpTo, h]

/-! ### Loads, stores, atomics, fences and barriers (14) -/

@[simp] theorem sendNow_memOk (q p l key) : (sendNow s q p l key).MemOk := by
  simp [sendNow, h]

@[simp] theorem postNow_memOk (q p asid page) : (postNow s q p asid page).MemOk := by
  simp [postNow, h]

@[simp] theorem sendRefused_memOk (q p c) : (sendRefused s q p c).MemOk := by
  simp [sendRefused, h]

@[simp] theorem askAt_memOk (q p) : (askAt s q p).MemOk := by
  unfold askAt
  (repeat' split) <;> simp [h]

@[simp] theorem sendStalls_memOk {load k w} (hk : ∀ u, u.mem.wf = true → (k u).MemOk) : (sendStalls s load k w).MemOk := by
  unfold sendStalls
  refine parkUnless_memOk h fun u hu => ?_
  cases load
  · exact parkUnless_memOk hu hk
  · exact parkUnless_memOk hu fun v hv => parkUnless_memOk hv hk

@[simp] theorem afterRelease_memOk {r k} (hk : ∀ u, u.mem.wf = true → (k u).MemOk) : (afterRelease s r k).MemOk := by
  cases r with
  | none => exact hk s h
  | some sc => exact parkUnless_memOk h hk

@[simp] theorem access_memOk (rel load q base off) : (access s rel load q base off).MemOk := by
  unfold access
  refine sendStalls_memOk h fun u hu => afterRelease_memOk hu fun v hv => ?_
  split <;> simp [hv]

@[simp] theorem sectionAccess_memOk {base off n k} (hk : ∀ u e p, u.mem.wf = true → (k u e p).MemOk) :
    (sectionAccess s base off n k).MemOk := by
  unfold sectionAccess
  (repeat' split) <;> simp [h, hk]

@[simp] theorem execLd_memOk (sz sx o d a off) : (execLd sz sx o d a off s).MemOk := by
  unfold execLd
  dsimp only
  split
  · refine sectionAccess_memOk h fun u e p hu => parkUnless_memOk hu fun v hv => parkUnless_memOk hv fun w hw => ?_
    simp [hw]
  · exact access_memOk h _ _ _ _ _

@[simp] theorem execSt_memOk (sz o a b off) : (execSt sz o a b off s).MemOk := by
  simp +contextual [execSt, h]

@[simp] theorem feLoad_memOk (f d a off) : (feLoad f d a off s).MemOk := by
  simp [feLoad, h]

@[simp] theorem feStore_memOk (f rel a v off) : (feStore f rel a v off s).MemOk := by
  simp [feStore, h]

@[simp] theorem amo_memOk (f wide o d a b off) : (amo f wide o d a b off s).MemOk := by
  simp [amo, h]

@[simp] theorem red_memOk (f wide o a b off) : (red f wide o a b off s).MemOk := by
  simp [red, h]

@[simp] theorem casN_memOk (n o p d a b) : (casN n o p d a b s).MemOk := by
  simp [casN, h]

@[simp] theorem execMosEnq_memOk (o a b) : (execMosEnq o a b s).MemOk := by
  unfold execMosEnq
  refine sendStalls_memOk h fun u hu => afterRelease_memOk hu fun v hv => ?_
  simp [hv]

@[simp] theorem execMosChase_memOk (d a hops off) : (execMosChase d a hops off s).MemOk := by
  unfold execMosChase
  refine sendStalls_memOk h fun u hu => ?_
  split <;> simp [hu]

@[simp] theorem execFence_memOk (sc) : (execFence sc s).MemOk := by
  simp +contextual [execFence, h]

@[simp] theorem execFenceOc_memOk (sc) : (execFenceOc sc s).MemOk := by
  simp [execFenceOc, h]

@[simp] theorem execFenceCo_memOk (sc) : (execFenceCo sc s).MemOk := by
  simp [execFenceCo, h]

@[simp] theorem execDrains_memOk : (execDrains s).MemOk := by
  simp +contextual [execDrains, h]

@[simp] theorem barSlot_memOk {k} (hk : ∀ u, u.mem.wf = true → (k u).MemOk) : (barSlot s k).MemOk := by
  simp [barSlot, h, hk]

@[simp] theorem barOk_memOk {sc k} (hk : ∀ u, u.mem.wf = true → (k u).MemOk) : (barOk s sc k).MemOk := by
  simp [barOk, h, hk]

@[simp] theorem barPrior_memOk {sc k} (hk : ∀ u, u.mem.wf = true → (k u).MemOk) : (barPrior s sc k).MemOk := by
  unfold barPrior
  dsimp only
  split
  · exact hk s h
  · exact parkUnless_memOk h hk

@[simp] theorem execBarArrive_memOk (l) : (execBarArrive l s).MemOk := by
  unfold execBarArrive
  refine barSlot_memOk h fun u hu => barPrior_memOk hu fun v hv => parkUnless_memOk hv fun w hw => barOk_memOk hw fun x hx => ?_
  exact devStep_memOk hx _

@[simp] theorem barWait_memOk (l f) : (barWait s l f).MemOk := by
  unfold barWait
  exact parkUnless_memOk h fun u hu => barPrior_memOk hu fun v hv => devStep_memOk hv _

@[simp] theorem execBarWait_memOk (l) : (execBarWait l s).MemOk := by
  unfold execBarWait
  refine barSlot_memOk h fun u hu => barOk_memOk hu fun v hv => ?_
  simp [hv]

@[simp] theorem execBarArrivewait_memOk (l) : (execBarArrivewait l s).MemOk := by
  unfold execBarArrivewait
  split
  · exact barWait_memOk h _ _
  · refine barSlot_memOk h fun u hu => barPrior_memOk hu fun v hv => parkUnless_memOk hv fun w hw => barOk_memOk hw fun x hx => ?_
    exact devStep_memOk hx _

@[simp] theorem execBarrierArrival_memOk (i) : (execBarrierArrival i s).MemOk := by
  unfold execBarrierArrival
  split <;> simp [h]

/-! ### What a home performs, acknowledgements and returns (06 R116) -/

omit h in
@[simp] theorem frameDeferred_wf {m : Mem} (hm : m.wf = true) (pa l) : (frameDeferred m pa l).wf = true :=
  foldl_mem_wf (Mem.setWord_wf _ _ _ hm) fun _ _ hu => Mem.setWords_wf _ _ _ hu

omit h in
@[simp] theorem frameRoles_wf {m : Mem} (hm : m.wf = true) (pa t) : (frameRoles m pa t).wf = true :=
  foldl_mem_wf hm fun _ _ hu => Mem.setWord_wf _ _ _ hu

/-- The frame of a saved context is written word by word. -/
@[simp] theorem State.frameSync_memOk (r k xs) : (s.frameSync r k xs).mem.wf = true := by
  unfold State.frameSync
  (repeat' split)
  any_goals exact h
  refine foldl_mem_wf (frameRoles_wf (frameDeferred_wf ?_ _ _) _ _) fun m x hm => ?_
  · exact Mem.setWord_wf _ _ _ (Mem.setWord_wf _ _ _ (Mem.writeN_wf _ _ _ _ h))
  · simp [hm]

@[simp] theorem homeWrite_memOk (l q bs) : (homeWrite s l q bs).1.mem.wf = true := by
  unfold homeWrite
  (repeat' split) <;> simp [h]

@[simp] theorem routineWrite_memOk (pa key v) : (routineWrite s pa key v).mem.wf = true := by
  simp [routineWrite, h]

@[simp] theorem homeEnq_memOk (a q node) : (homeEnq s a q node).1.mem.wf = true := by
  have h3 (a b c k l m v w x) : (routineWrite (routineWrite (routineWrite s a k v) b l w) c m x).mem.wf = true :=
    routineWrite_memOk (routineWrite_memOk (routineWrite_memOk h _ _ _) _ _ _) _ _ _
  unfold homeEnq
  dsimp only
  (repeat' split) <;> simp [h, h3]

@[simp] theorem homeDeq_memOk (hd q) : (homeDeq s hd q).1.mem.wf = true := by
  unfold homeDeq
  dsimp only
  (repeat' split) <;> simp [h]

@[simp] theorem homeChase_memOk (q left taken off p) : (homeChase s q left taken off p).1.mem.wf = true := by
  unfold homeChase
  dsimp only
  (repeat' split) <;> simp [h]

@[simp] theorem homeOp_memOk (l q) : (homeOp s l q).1.mem.wf = true := by
  unfold homeOp
  cases q.op with
  | fe f v =>
    cases f with
    | peek | take | clr => dsimp only; (repeat' split) <;> simp [h]
    | fill | put => simp [h]
  | load | amo | red | cas => dsimp only; (repeat' split) <;> simp [h]
  | enq | deq => cases l <;> dsimp only <;> simp [h]
  | store | chase => simp [h]
  | _ => exact h

omit h in
@[simp] theorem markEligible_mem (s : State) (pa) : (markEligible s pa).mem = s.mem := rfl

@[simp] theorem serveWaiters_memOk (n a) : (serveWaiters n s a).mem.wf = true := by
  induction n generalizing s with
  | zero => exact h
  | succ n ih =>
    unfold serveWaiters
    split
    · exact h
    · next r k q _ =>
      have hop := homeOp_memOk h q.loc q
      split
      · exact h
      · next heq =>
        rw [heq] at hop
        refine ih ?_
        split <;> simp [hop]

@[simp] theorem serveAll_memOk (ls) : (serveAll s ls).mem.wf = true :=
  foldl_memOk h fun _ _ hu => serveWaiters_memOk hu _ _

@[simp] theorem fillWords_memOk (ws) : (fillWords s ws).mem.wf = true := by
  unfold fillWords
  refine serveAll_memOk (foldl_memOk (foldl_memOk h fun u w hu => by simpa using hu) fun u w hu => ?_) _
  split <;> simp [hu]

@[simp] theorem performMem_memOk (r k i q l) : (performMem s r k i q l).mem.wf = true := by
  unfold performMem
  have hop := homeOp_memOk (s := { s with dev := s.dev.onThrFlow r k (fun f => { f with bag := dropAt f.bag i }) }) h l q
  dsimp only
  split
  · exact h
  · next heq =>
    rw [heq] at hop
    (repeat' split) <;> simp [hop]

@[simp] theorem execAcknowledge_memOk (r k i) : (execAcknowledge r k i s).MemOk := by
  unfold execAcknowledge
  (repeat' split) <;> simp [h]

@[simp] theorem execReturnValue_memOk (r k i) : (execReturnValue r k i s).MemOk := by
  unfold execReturnValue
  dsimp only
  split
  · exact h
  · split
    · refine State.frameSync_memOk ?_ _ _ _
      split
      · split <;> simp [h]
      · exact h
    · split <;> simp [h]
    · simp [h]

end

end Sys2Proof.Machine
end

section
/-! SUPPORT. Guards, task groups, gates and conversations keep global memory in its canonical form (log 2). -/

namespace Sys2Proof.Machine

section
variable {s : State} (h : s.mem.wf = true)
include h

/-! ### Guards (07) -/

@[simp] theorem guardWordAt_memOk {p k} (hk : ∀ l, (k l).MemOk) : (guardWordAt s p k).MemOk := by
  unfold guardWordAt
  dsimp only
  (repeat' split) <;> simp [h, hk]

@[simp] theorem execBind_memOk (sc d a b n1 code) : (execBind sc d a b n1 code s).MemOk := by
  unfold execBind
  dsimp only
  split
  · exact privFault_memOk h
  · refine sendStalls_memOk h fun u hu => parkUnless_memOk hu fun v hv => ?_
    simp [hv]

@[simp] theorem homeBind_memOk (r k q region sc n1 code pa) : (homeBind s r k q region sc n1 code pa).1.mem.wf = true := by
  simp [homeBind, h]

@[simp] theorem execUnbind_memOk (d a) : (execUnbind d a s).MemOk := by
  unfold execUnbind
  dsimp only
  split
  · exact privFault_memOk h
  · refine sendStalls_memOk h fun u hu => ?_
    simp [hu]

@[simp] theorem homeUnbind_memOk (r k q pa) : (homeUnbind s r k q pa).1.mem.wf = true := by
  unfold homeUnbind
  split <;> simp [h]

@[simp] theorem gacqSend_memOk (excl d word l i b) : (gacqSend s excl d word l i b).MemOk := by
  simp [gacqSend, h]

@[simp] theorem gacq_memOk (excl d a b) : (gacq excl d a b s).MemOk := by
  unfold gacq
  dsimp only
  split
  · exact privFault_memOk h
  · refine sendStalls_memOk h fun u hu => ?_
    split
    · exact fault_memOk hu _ _ _
    · refine guardWordAt_memOk hu fun l => ?_
      (repeat' split) <;> simp [hu]

@[simp] theorem homeGacq_memOk (r k q i pa) : (homeGacq s r k q i pa).1.mem.wf = true := by
  unfold homeGacq
  split <;> simp [h]

@[simp] theorem execGrel_memOk (a) : (execGrel a s).MemOk := by
  unfold execGrel
  dsimp only
  split
  · exact privFault_memOk h
  · refine sendStalls_memOk h fun u hu => ?_
    split
    · exact fault_memOk hu _ _ _
    · refine guardWordAt_memOk hu fun l => ?_
      split
      · exact fault_memOk hu _ _ _
      · refine parkUnless_memOk hu fun v hv => parkUnless_memOk hv fun w hw => ?_
        simp [hw]

@[simp] theorem homeGrel_memOk (r k q i pa) : (homeGrel s r k q i pa).1.mem.wf = true := by
  unfold homeGrel
  split <;> simp [h]

@[simp] theorem execGflush_memOk (a) : (execGflush a s).MemOk := by
  unfold execGflush
  dsimp only
  split
  · exact privFault_memOk h
  · refine sendStalls_memOk h fun u hu => ?_
    simp [hu]

@[simp] theorem homeGflush_memOk (r k q pa) : (homeGflush s r k q pa).1.mem.wf = true := by
  unfold homeGflush
  split <;> simp [h]

@[simp] theorem execGuardGrant_memOk (gi) : (execGuardGrant gi s).MemOk := by
  unfold execGuardGrant
  (repeat' split) <;> simp [h]

@[simp] theorem grantFails_memOk (r k q i) : (grantFails s r k q i).mem.wf = true := by
  simp [grantFails, h]

@[simp] theorem grantLands_memOk (r k q x) : (grantLands s r k q x).mem.wf = true := by
  simp [grantLands, h]

@[simp] theorem execGrantArrival_memOk (r k) : (execGrantArrival r k s).MemOk := by
  unfold execGrantArrival
  (repeat' split) <;> simp [h]

@[simp] theorem xferDone_memOk (x) : (xferDone s x).mem.wf = true := by
  simp [xferDone, h]

@[simp] theorem nextBlock_memOk (r i rest) : (nextBlock s r i rest).mem.wf = true := by
  simp [nextBlock, h]

@[simp] theorem blockArrived_memOk (r i x rest) : (blockArrived s r i x rest).mem.wf = true := by
  simp [blockArrived, h]

@[simp] theorem landBlock_memOk (r i x size j rest got) : (landBlock s r i x size j rest got).mem.wf = true := by
  unfold landBlock
  (repeat' split) <;> simp [h]

@[simp] theorem noteRegion_memOk (word j) : (noteRegion s word j).mem.wf = true := by
  unfold noteRegion
  split <;> simp [h]

@[simp] theorem execGuardDelivery_memOk (r i) : (execGuardDelivery r i s).MemOk := by
  unfold execGuardDelivery
  (repeat' split) <;> simp [h]

@[simp] theorem refreshEnds_memOk (x d) : (refreshEnds s x d).mem.wf = true := by
  simp [refreshEnds, h]

@[simp] theorem writeKept_memOk (pa key bs) : (writeKept s pa key bs).mem.wf = true := by
  simp +contextual [writeKept, h]

@[simp] theorem refreshBytes_memOk (r i x g j w bs f) : (refreshBytes s r i x g j w bs f).mem.wf = true := by
  unfold refreshBytes
  dsimp only
  (repeat' split) <;> simp [h]

@[simp] theorem refreshBlock_memOk (r i x g j rest bs) : (refreshBlock s r i x g j rest bs).mem.wf = true := by
  simp [refreshBlock, h]

@[simp] theorem execGuardRefresh_memOk (r i) : (execGuardRefresh r i s).MemOk := by
  unfold execGuardRefresh
  (repeat' split) <;> simp [h]

@[simp] theorem stepBlock_memOk (r i w) : (stepBlock s r i w).mem.wf = true := by
  unfold stepBlock
  (repeat' split) <;> simp [h]

/-! ### Task groups and queues (03) -/

@[simp] theorem execEndThread_memOk (a) : (execEndThread a s).MemOk := by
  simp +contextual [execEndThread, h]

@[simp] theorem execStart_memOk (d a b) : (execStart d a b s).MemOk := by
  simp +contextual [execStart, h]

@[simp] theorem homeStart_memOk (r q w rec) : (homeStart s r q w rec).1.mem.wf = true := by
  simp [homeStart, h]

@[simp] theorem execReap_memOk (d a) : (execReap d a s).MemOk := by
  simp +contextual [execReap, h]

@[simp] theorem putWord_memOk (pa v) : (putWord s pa v).mem.wf = true := by
  unfold putWord
  split
  · exact h
  · refine serveWaiters_memOk ?_ _ _
    simp [h]

@[simp] theorem homeReap_memOk (r n) : (homeReap s r n).1.mem.wf = true := by
  unfold homeReap
  (repeat' split) <;> simp [h]

@[simp] theorem semFault_memOk (n) : (semFault s n).MemOk := by
  simp [semFault, h]

@[simp] theorem execSemWait_memOk (n) : (execSemWait n s).MemOk := by
  simp +contextual [execSemWait, h]

@[simp] theorem execSemPost_memOk (n k) : (execSemPost n k s).MemOk := by
  simp +contextual [execSemPost, h]

@[simp] theorem execSemTry_memOk (p n) : (execSemTry p n s).MemOk := by
  simp +contextual [execSemTry, h]

@[simp] theorem execWait_memOk (ld st cp tl) : (execWait ld st cp tl s).MemOk := by
  simp +contextual [execWait, h]

@[simp] theorem execEvpop_memOk (d) : (execEvpop d s).MemOk := by
  unfold execEvpop
  (repeat' split) <;> simp [h]

@[simp] theorem execEventQueuePost_memOk (r) : (execEventQueuePost r s).MemOk := by
  unfold execEventQueuePost
  split <;> simp [h]

@[simp] theorem enqueueRecord_memOk (head num domain ptr rec) : (enqueueRecord s head num domain ptr rec).1.mem.wf = true := by
  unfold enqueueRecord
  dsimp only
  (repeat' split) <;> simp [h]

@[simp] theorem execSpawn_memOk (head d a b) : (execSpawn head d a b s).MemOk := by
  unfold execSpawn
  dsimp only
  split
  · exact privFault_memOk h
  · refine sendStalls_memOk h fun u hu => parkUnless_memOk hu fun v hv => ?_
    (repeat' split) <;> simp [hv]

/-! ### Gates, delegated calls, conversations, elision (08) -/

@[simp] theorem execGcall_memOk (t i) : (execGcall t i s).MemOk := by
  unfold execGcall
  (repeat' split) <;> simp +contextual [h]

@[simp] theorem execGret_memOk : (execGret s).MemOk := by
  unfold execGret
  split
  · exact illegal_memOk h _
  · refine parkUnless_memOk h fun u hu => ?_
    dsimp only
    split <;> exact devStep_memOk hu _

@[simp] theorem doAbort_memOk (cause) : (doAbort cause s).MemOk := by
  simp +contextual [doAbort, h]

@[simp] theorem execDcall_memOk (d a pc n) : (execDcall d a pc n s).MemOk := by
  unfold execDcall
  dsimp only
  split
  · exact privFault_memOk h
  · refine sendStalls_memOk h fun u hu => parkUnless_memOk hu fun v hv => parkUnless_memOk hv fun w hw => ?_
    simp [hw]

@[simp] theorem homeDcall_memOk (r k q rank pc args) : (homeDcall s r k q rank pc args).1.mem.wf = true := by
  simp [homeDcall, h]

@[simp] theorem execDelegatedCallServe_memOk (r) : (execDelegatedCallServe r s).MemOk := by
  unfold execDelegatedCallServe
  dsimp only
  split <;> simp [h]

@[simp] theorem execDret_memOk (a) : (execDret a s).MemOk := by
  simp +contextual [execDret, h]

@[simp] theorem execCopen_memOk (d a b) : (execCopen d a b s).MemOk := by
  unfold execCopen
  refine sendStalls_memOk h fun u hu => ?_
  (repeat' split) <;> simp [hu]

@[simp] theorem execCjoin_memOk (n hd r) : (execCjoin n hd r s).MemOk := by
  simp +contextual [execCjoin, h]

@[simp] theorem execCsend_memOk (n b k m) : (execCsend n b k m s).MemOk := by
  unfold execCsend
  refine sendStalls_memOk h fun u hu => parkUnless_memOk hu fun v hv => parkUnless_memOk hv fun w hw => ?_
  (repeat' split) <;> simp [hw]

@[simp] theorem execCdeleg_memOk (n b) : (execCdeleg n b s).MemOk := by
  unfold execCdeleg
  refine sendStalls_memOk h fun u hu => parkUnless_memOk hu fun v hv => parkUnless_memOk hv fun w hw => ?_
  (repeat' split) <;> simp [hw]

@[simp] theorem execCclose_memOk (d hd) : (execCclose d hd s).MemOk := by
  simp +contextual [execCclose, h]

@[simp] theorem execCstat_memOk (d hd) : (execCstat d hd s).MemOk := by
  simp +contextual [execCstat, h]

@[simp] theorem noteTable_memOk (q p) : (noteTable s q p).mem.wf = true := by
  unfold noteTable
  split <;> simp [h]

@[simp] theorem homeCopen_memOk (q mask) : (homeCopen s q mask).1.mem.wf = true := by
  unfold homeCopen
  (repeat' split) <;> simp [h]

@[simp] theorem homeCjoin_memOk (r k q n role hd) : (homeCjoin s r k q n role hd).1.mem.wf = true := by
  unfold homeCjoin
  split <;> simp [h]

@[simp] theorem homeConv_memOk (r k q cap) : (homeConv s r k q cap).mem.wf = true := by
  unfold homeConv
  dsimp only
  (repeat' split) <;> simp [h]

@[simp] theorem execHeldSendAccept_memOk (n) : (execHeldSendAccept n s).MemOk := by
  unfold execHeldSendAccept
  dsimp only
  (repeat' split) <;> simp [h]

@[simp] theorem homeCclose_memOk (q hd) : (homeCclose s q hd).1.mem.wf = true := by
  unfold homeCclose
  split <;> simp [h]

@[simp] theorem execElb_memOk (t) : (execElb t s).MemOk := by
  simp +contextual [execElb, h]

@[simp] theorem execEle_memOk : (execEle s).MemOk := by
  unfold execEle
  split
  · exact illegal_memOk h _
  · refine parkUnless_memOk h fun u hu => ?_
    (repeat' split) <;> simp [hu]

@[simp] theorem execEla_memOk (code) : (execEla code s).MemOk := by
  simp [execEla, h]

end

end Sys2Proof.Machine
end

section
/-! SUPPORT. Engines keep global memory in its canonical form (log 2). -/

namespace Sys2Proof.Machine

section
variable {s : State} (h : s.mem.wf = true)
include h

/-! ### The matrix unit (09, 16) -/

@[simp] theorem needTag_memOk {holds k} (hk : ∀ u, u.mem.wf = true → (k u).MemOk) : (needTag s holds k).MemOk := by
  simp [needTag, h, hk]

@[simp] theorem mIssue_memOk (ptrs align subs op va vb) : (mIssue s ptrs align subs op va vb).MemOk := by
  unfold mIssue
  refine needTag_memOk h fun u hu => parkUnless_memOk hu fun v hv => parkUnless_memOk hv fun w hw => ?_
  dsimp only
  (repeat' split) <;> simp [hw]

@[simp] theorem mmIssue_memOk (ta tb sq acc a b k mr nc) : (mmIssue s ta tb sq acc a b k mr nc).MemOk := by
  simp [mmIssue, h]

@[simp] theorem execMmc_memOk (tgt ta acc accs b k) : (execMmc tgt ta acc accs b k s).MemOk := by
  simp [execMmc, h]

@[simp] theorem topkIssue_memOk (max d acc b k nb) : (topkIssue s max d acc b k nb).MemOk := by
  simp [topkIssue, h]

@[simp] theorem execMacz_memOk (acc mrows ncols) : (execMacz acc mrows ncols s).MemOk := by
  simp [execMacz, h]

@[simp] theorem execMacst_memOk (rnd d acc mrows ncols) : (execMacst rnd d acc mrows ncols s).MemOk := by
  simp [execMacst, h]

@[simp] theorem execMacld_memOk (acc a mrows ncols) : (execMacld acc a mrows ncols s).MemOk := by
  simp [execMacld, h]

@[simp] theorem execMqry_memOk (d) : (execMqry d s).MemOk := by
  simp +contextual [execMqry, h]

@[simp] theorem execMcoop_memOk (d a) : (execMcoop d a s).MemOk := by
  unfold execMcoop
  refine needTag_memOk h fun u hu => sendStalls_memOk hu fun v hv => ?_
  simp +contextual [hv]

@[simp] theorem homeMcoop_memOk (r k q v) : (homeMcoop s r k q v).1.mem.wf = true := by
  simp [homeMcoop, h]

@[simp] theorem noteFeed_memOk (r c st) : (noteFeed s r c st).mem.wf = true :=
  foldl_memOk h fun _ _ hu => foldl_memOk hu fun _ _ hv => noteRead_memOk hv _ _

@[simp] theorem execMatrixOperandFetch_memOk (u c slip) : (execMatrixOperandFetch u c slip s).MemOk := by
  unfold execMatrixOperandFetch
  dsimp only
  (repeat' split) <;> simp [h]

@[simp] theorem stepFeed_memOk (r q w) : (stepFeed s r q w).mem.wf = true := by
  unfold stepFeed
  dsimp only
  split <;> simp [h]

@[simp] theorem execMatrixStepBoundary_memOk (u) : (execMatrixStepBoundary u s).MemOk := by
  unfold execMatrixStepBoundary
  dsimp only
  (repeat' split) <;> simp [h]

@[simp] theorem emit_memOk (r m topk parts) : (emit s r m topk parts).mem.wf = true := by
  unfold emit
  dsimp only
  (repeat' split) <;> simp [h]

@[simp] theorem stepIn_memOk (m e) : (stepIn s m e).mem.wf = true := by
  unfold stepIn
  (repeat' split) <;> simp [h]

@[simp] theorem stepTopk_memOk (m) : (stepTopk s m).mem.wf = true := by
  unfold stepTopk
  split <;> simp [h]

@[simp] theorem execArrayStepEnd_memOk (u) : (execArrayStepEnd u s).MemOk := by
  unfold execArrayStepEnd
  split
  · exact h
  · split
    · exact h
    · exact stepTopk_memOk (foldl_memOk h fun _ _ hu => stepIn_memOk hu _ _) _

@[simp] theorem execMatrixTlRelease_memOk (r) : (execMatrixTlRelease r s).MemOk := by
  unfold execMatrixTlRelease
  dsimp only
  split <;> simp [h]

@[simp] theorem refuseWord_memOk (r w cause opnd) : (refuseWord s r w cause opnd).mem.wf = true := by
  simp [refuseWord, h]

omit h in
@[simp] theorem clearLine_mem (s : State) (e w) : (clearLine s e w).mem = s.mem := by
  unfold clearLine
  (repeat' split) <;> rfl

@[simp] theorem stepWord_memOk (r i) : (stepWord r i s).MemOk := by
  unfold stepWord
  dsimp only
  (repeat' split) <;> simp [h]

/-! ### The vector unit (15) -/

@[simp] theorem afterOther_memOk {o k} (hk : ∀ u, u.mem.wf = true → (k u).MemOk) : (afterOther s o k).MemOk := by
  unfold afterOther
  split <;> simp [h, hk]

@[simp] theorem streamIn_memOk {n need k} (hk : ∀ u g l, u.mem.wf = true → (k u g l).MemOk) : (streamIn s n need k).MemOk := by
  unfold streamIn
  refine parkUnless_memOk h fun u hu => ?_
  dsimp only
  split <;> simp [hu, hk]

@[simp] theorem channelIn_memOk {n k} (hk : ∀ u g l, u.mem.wf = true → (k u g l).MemOk) : (channelIn s n k).MemOk := by
  unfold channelIn
  exact parkUnless_memOk h fun u hu => parkUnless_memOk hu fun v hv => hk _ _ _ hv

@[simp] theorem vsource_memOk {pos a fmt o k} (hk : ∀ u g l, u.mem.wf = true → (k u g l).MemOk) : (vsource s pos a fmt o k).MemOk := by
  unfold vsource
  dsimp only
  split
  · exact afterOther_memOk h fun u hu => hk _ _ _ hu
  · split
    · exact fault_memOk h _ _ _
    · exact afterOther_memOk h fun u hu => streamIn_memOk hu fun v g l hv => hk _ _ _ hv
  · split
    · exact fault_memOk h _ _ _
    · split
      · exact fault_memOk h _ _ _
      · exact afterOther_memOk h fun u hu => channelIn_memOk hu hk

@[simp] theorem vdstRoom_memOk {x bytes k} (hk : ∀ u, u.mem.wf = true → (k u).MemOk) : (vdstRoom s x bytes k).MemOk := by
  cases x with
  | v r => exact hk s h
  | s n => exact parkUnless_memOk h hk

theorem vretire_memOk (g) : (vretire s g).MemOk := devStep_memOk h _

@[simp] theorem vwise_memOk {pos x dfmt a afmt o f fin} (hk : ∀ u g, u.mem.wf = true → (fin u g).MemOk) :
    (vwise s pos x dfmt a afmt o f fin).MemOk := by
  unfold vwise
  split
  · exact fault_memOk h _ _ _
  · refine vsource_memOk h fun u g l hu => ?_
    split
    · exact fault_memOk hu _ _ _
    · exact vdstRoom_memOk hu fun v hv => hk _ _ hv

@[simp] theorem vfp_memOk {fn t rnd pos x a b m o fin} (hk : ∀ u g, u.mem.wf = true → (fin u g).MemOk) :
    (vfp fn t rnd pos x a b m o fin s).MemOk := by
  unfold vfp
  exact vwise_memOk h hk

@[simp] theorem vint_memOk {fn pos x a b m o fin} (hk : ∀ u g, u.mem.wf = true → (fin u g).MemOk) :
    (vint fn pos x a b m o fin s).MemOk := by
  unfold vint
  exact vwise_memOk h hk

@[simp] theorem vfunc_memOk (fn t rnd x a m) : (vfunc fn t rnd x a m s).MemOk := by
  unfold vfunc
  exact needTag_memOk h fun u hu => vwise_memOk hu fun v g hv => vretire_memOk hv g

@[simp] theorem vone_memOk {f : Other → VEnd → State → Out} (hk : ∀ u, u.mem.wf = true → (f none vretire u).MemOk) : (vone f s).MemOk :=
  needTag_memOk h hk

@[simp] theorem vcmp_memOk {c t pos x a b m o fin} (hk : ∀ u g, u.mem.wf = true → (fin u g).MemOk) :
    (vcmp c t pos x a b m o fin s).MemOk := by
  unfold vcmp
  exact vsource_memOk h fun u g l hu => hk _ _ hu

@[simp] theorem vselect_memOk {pos x a b m o fin} (hk : ∀ u g, u.mem.wf = true → (fin u g).MemOk) :
    (vselect pos x a b m o fin s).MemOk := by
  unfold vselect
  exact vwise_memOk h hk

@[simp] theorem vquant_memOk (dst src x a) : (vquant dst src x a s).MemOk := by
  unfold vquant
  dsimp only
  split
  · exact fault_memOk h _ _ _
  · split
    · exact fault_memOk h _ _ _
    · split
      · exact fault_memOk h _ _ _
      · refine vsource_memOk h fun u g l hu => ?_
        split
        · exact fault_memOk hu _ _ _
        · split
          · exact fault_memOk hu _ _ _
          · exact parkUnless_memOk hu fun v hv => devStep_memOk hv _

@[simp] theorem vdequant_memOk (dst src rnd x a) : (vdequant dst src rnd x a s).MemOk := by
  unfold vdequant
  dsimp only
  (repeat' split)
  any_goals exact fault_memOk h _ _ _
  exact streamIn_memOk h fun u g l hu => vdstRoom_memOk hu fun v hv => devStep_memOk hv _

@[simp] theorem execVcvt_memOk (dstFmt srcFmt rnd d a m) : (execVcvt dstFmt srcFmt rnd d a m s).MemOk := by
  unfold execVcvt
  refine needTag_memOk h fun u hu => ?_
  split
  · exact vquant_memOk hu _ _ _ _
  · split
    · exact vdequant_memOk hu _ _ _ _ _
    · exact vwise_memOk hu fun _ _ hv => vretire_memOk hv _

@[simp] theorem vred_memOk (op t rnd x a m) : (vred op t rnd x a m s).MemOk := by
  unfold vred
  exact needTag_memOk h fun u hu => vsource_memOk hu fun v g l hv => devStep_memOk hv _

@[simp] theorem vscan_memOk (op t rnd x a m) : (vscan op t rnd x a m s).MemOk := by
  unfold vscan
  exact needTag_memOk h fun u hu => vwise_memOk hu fun v g hv => vretire_memOk hv g

@[simp] theorem vlanes_memOk (x m f) : (vlanes s x m f).MemOk := by
  simp +contextual [vlanes, h]

@[simp] theorem execVperm_memOk (d a b m) : (execVperm d a b m s).MemOk := by
  simp [execVperm, h]

@[simp] theorem execVbcast_memOk (d a m) : (execVbcast d a m s).MemOk := by
  simp [execVbcast, h]

@[simp] theorem execVslide_memOk (d a b n m) : (execVslide d a b n m s).MemOk := by
  simp [execVslide, h]

@[simp] theorem execVget_memOk (d a l) : (execVget d a l s).MemOk := by
  simp +contextual [execVget, h]

@[simp] theorem execVput_memOk (d a l) : (execVput d a l s).MemOk := by
  simp +contextual [execVput, h]

@[simp] theorem execVsetl_memOk (d a) : (execVsetl d a s).MemOk := by
  simp +contextual [execVsetl, h]

@[simp] theorem execVsetlImm_memOk (d n1) : (execVsetlImm d n1 s).MemOk := by
  simp +contextual [execVsetlImm, h]

@[simp] theorem execVsetlRd_memOk (d) : (execVsetlRd d s).MemOk := by
  simp +contextual [execVsetlRd, h]

@[simp] theorem execVsetlStart_memOk (a) : (execVsetlStart a s).MemOk := by
  simp +contextual [execVsetlStart, h]

@[simp] theorem vmask_memOk (d f) : (vmask s d f).MemOk := by
  simp +contextual [vmask, h]

@[simp] theorem execMpop_memOk (d a) : (execMpop d a s).MemOk := by
  simp +contextual [execMpop, h]

@[simp] theorem execMfirst_memOk (d a) : (execMfirst d a s).MemOk := by
  simp +contextual [execMfirst, h]

@[simp] theorem vaccess_memOk (v m) : (vaccess s v m).MemOk := by
  unfold vaccess
  refine needTag_memOk h fun t ht => sendStalls_memOk ht fun u hu => ?_
  dsimp only
  (repeat' split) <;> simp [hu]

@[simp] theorem vmem_memOk (w load d a m off) : (vmem w load d a m off s).MemOk := by
  simp [vmem, h]

@[simp] theorem pairRun_memOk {v o fin} (hk : ∀ u g, u.mem.wf = true → (fin u g).MemOk) : (pairRun v o fin s).MemOk := by
  cases v <;> simp +contextual [pairRun, h, hk]

@[simp] theorem execPair_memOk (v x) : (execPair v x s).MemOk :=
  needTag_memOk h fun _ hu => pairRun_memOk hu fun _ _ hv => devStep_memOk hv _

/-! ### Copies (10 R210 to R214) -/

@[simp] theorem copyStalls_memOk {k} (hk : ∀ u, u.mem.wf = true → (k u).MemOk) : (copyStalls s k).MemOk := by
  unfold copyStalls
  exact needTag_memOk h fun u hu => parkUnless_memOk hu fun v hv => parkUnless_memOk hv hk

@[simp] theorem postCopy_memOk (k start among comp ctr f g resumed) : (postCopy s k start among comp ctr f g resumed).MemOk := by
  unfold postCopy
  split <;> simp [h]

@[simp] theorem execCp_memOk (d a len c) : (execCp d a len c s).MemOk := by
  unfold execCp
  refine copyStalls_memOk h fun u hu => ?_
  split <;> simp [hu]

@[simp] theorem tableRead_memOk {p n k} (hk : ∀ x0, (k x0).MemOk) : (tableRead s p n k).MemOk := by
  unfold tableRead
  split <;> simp [h, hk]

@[simp] theorem execCpa_memOk (d a b c) : (execCpa d a b c s).MemOk := by
  unfold execCpa
  refine copyStalls_memOk h fun u hu => tableRead_memOk hu fun ws => ?_
  simp [hu]

@[simp] theorem listRead_memOk {p k} (hk : ∀ x0, (k x0).MemOk) : (listRead s p k).MemOk := by
  simp [listRead, h, hk]

@[simp] theorem execCpm_memOk (d a len c) : (execCpm d a len c s).MemOk := by
  unfold execCpm
  refine copyStalls_memOk h fun u hu => ?_
  split <;> simp [hu]

@[simp] theorem execCpres_memOk (d tag) : (execCpres d tag s).MemOk := by
  unfold execCpres
  refine copyStalls_memOk h fun u hu => ?_
  simp [hu]

omit h in
@[simp] theorem clearLines_mem (s : State) (l n) : (clearLines s l n).mem = s.mem := by
  cases l <;> rfl

@[simp] theorem writeRanges_memOk (l key bs ws) : (writeRanges s l key bs ws).mem.wf = true :=
  foldl_memOk h fun _ _ hu => State.writeLoc_memOk hu _ _ _

@[simp] theorem writeBytes_memOk (l key bs) : (writeBytes s l key bs).mem.wf = true := by
  simp [writeBytes, h]

@[simp] theorem noteSource_memOk (r c e) : (noteSource s r c e).mem.wf = true := by
  unfold noteSource
  (repeat' split) <;> simp [h]

@[simp] theorem writeEnd_memOk (r c t bs j p) : (writeEnd s r c t bs j p).1.mem.wf = true := by
  unfold writeEnd
  split <;> simp [h]

omit h in
theorem foldl_fst_memOk {α β : Type} {f : State × β → α → State × β} {l : List α} {x : State × β} (hx : x.1.mem.wf = true)
    (hf : ∀ u a, u.1.mem.wf = true → (f u a).1.mem.wf = true) : (l.foldl f x).1.mem.wf = true := by
  induction l generalizing x with
  | nil => exact hx
  | cons a l ih => exact ih (hf _ _ hx)

/-- The parts of a piece, one after another; each goes to every end. -/
@[simp] theorem moveParts_memOk (r ps c) : (moveParts r ps s c).1.mem.wf = true := by
  induction ps generalizing s c with
  | nil => exact h
  | cons e rest ih =>
    have hs := noteSource_memOk h r c e
    unfold moveParts
    dsimp only
    split
    · exact noteCode_memOk hs _ _ _
    · generalize hy : List.foldl _ _ _ = y
      have hw : y.1.mem.wf = true := hy ▸ foldl_fst_memOk hs fun x a hx => by
        rw [fst_ite]
        simp [hx]
      rw [fst_ite]
      simp [hw, ih]

@[simp] theorem settleFull_memOk (c lim) : (settleFull s c lim).1.mem.wf = true := by
  simp [settleFull, h]

@[simp] theorem copyLeaves_memOk (r c) : (copyLeaves s r c).mem.wf = true := by
  simp [copyLeaves, h]

@[simp] theorem endStopped_memOk (r c t code) : (endStopped s r c t code).mem.wf = true := by
  simp [endStopped, h]

@[simp] theorem fillBelow_memOk (r c lim) : (fillBelow s r c lim).1.mem.wf = true := by
  simp [fillBelow, h]

@[simp] theorem settleCopy_memOk (r c) : (settleCopy s r c).mem.wf = true := by
  unfold settleCopy
  split <;> simp [h]

@[simp] theorem execCopyPiece_memOk (r i k slip) : (execCopyPiece r i k slip s).MemOk := by
  unfold execCopyPiece
  dsimp only
  have hf (c : Copy) (ps : List (Nat × Nat)) : (ps.foldl (fun u e => noteSource u r c e) s).mem.wf = true :=
    foldl_memOk h fun _ _ hu => noteSource_memOk hu _ _ _
  split
  · exact h
  · split
    · exact h
    · split
      · trivial
      · simp only [Out.memOk_ite]
        (repeat' split) <;> simp [h, hf]

@[simp] theorem afterWord_memOk (r c k) : (afterWord s r c k).mem.wf = true := by
  have hf (ps : List (Nat × Nat)) : (ps.foldl (fun (s : State) e =>
      (c.inPlace.filter (fun x => x.1 == e.1)).foldl (fun s x => clearLines s x.2.2.1 e.2) s) s).mem.wf = true :=
    foldl_memOk h fun _ _ hu => foldl_memOk hu fun _ _ hv => by simpa using hv
  simp [afterWord, h, hf]

@[simp] theorem copyFetch_memOk (r i t) : (copyFetch r i t s).MemOk := by
  unfold copyFetch
  dsimp only
  split
  · exact h
  · split
    · exact h
    · split
      · exact h
      · split
        · trivial
        · split
          · exact h
          · split
            · exact afterWord_memOk (noteCode_memOk (noteSource_memOk h _ _ _) _ _ _) _ _ _
            · simp [h]

@[simp] theorem copyWrite_memOk (r i t j) : (copyWrite r i t j s).MemOk := by
  unfold copyWrite
  (repeat' split)
  any_goals simp [h]
  exact afterWord_memOk (State.writeLoc_memOk (notePartial_memOk h _ _) _ _ _) _ _ _

@[simp] theorem copyFull_memOk (r i n) : (copyFull r i n s).MemOk := by
  unfold copyFull
  (repeat' split) <;> simp [h]

@[simp] theorem copyAnswered_memOk (r c op bs) : (copyAnswered s r c op bs).mem.wf = true := by
  unfold copyAnswered
  split <;> simp [h]

@[simp] theorem copyRefused_memOk (r c op code) : (copyRefused s r c op code).mem.wf = true := by
  unfold copyRefused
  split <;> simp [h]

@[simp] theorem counterAction_memOk (r c) : (counterAction s r c).mem.wf = true := by
  unfold counterAction
  (repeat' split) <;> simp [h]

@[simp] theorem finishCopy_memOk (r c) : (finishCopy s r c).mem.wf = true := by
  simp [finishCopy, h]

@[simp] theorem execCopyComplete_memOk (r i) : (execCopyComplete r i s).MemOk := by
  unfold execCopyComplete
  split <;> simp [h]

/-! ### Streams (10 R204 to R209) -/

@[simp] theorem execSbind_memOk (n a b) : (execSbind n a b s).MemOk := by
  unfold execSbind
  refine needTag_memOk h fun t ht => parkUnless_memOk ht fun u hu => parkUnless_memOk hu fun v hv => tableRead_memOk hv fun ws => ?_
  simp [hv]

@[simp] theorem execSdrop_memOk (d n) : (execSdrop d n s).MemOk := by
  simp +contextual [execSdrop, h]

@[simp] theorem noteElem_memOk (l) : (noteElem s l).mem.wf = true := by
  simp +contextual [noteElem, h]

@[simp] theorem execStreamRunaheadFetch_memOk (r n slip) : (execStreamRunaheadFetch r n slip s).MemOk := by
  unfold execStreamRunaheadFetch
  dsimp only
  (repeat' split) <;> simp [h]

@[simp] theorem elemFetch_memOk (r n o) : (elemFetch r n o s).MemOk := by
  unfold elemFetch
  dsimp only
  (repeat' split) <;> simp [h]

@[simp] theorem settleCover_memOk (r n all) : (settleCover s r n all).mem.wf = true := by
  simp [settleCover, h]

@[simp] theorem coverFill_memOk (r n i) : (coverFill s r n i).mem.wf = true := by
  unfold coverFill
  dsimp only
  split <;> simp [h]

@[simp] theorem afterDrain_memOk (r n) : (afterDrain s r n).mem.wf = true := by
  simp [afterDrain, h]

@[simp] theorem dropHead_memOk (r n) : (dropHead s r n).mem.wf = true := by
  simp [dropHead, h]

@[simp] theorem drainFault_memOk (r n c sub p pc) : (drainFault s r n c sub p pc).mem.wf = true := by
  simp [drainFault, h]

@[simp] theorem writeElem_memOk (r n p ws bs) : (writeElem s r n p ws bs).mem.wf = true :=
  foldl_memOk h fun _ _ hu => State.writeLoc_memOk (notePartial_memOk hu _ _) _ _ _

@[simp] theorem drainSlip_memOk (r n m p) : (drainSlip s r n m p).mem.wf = true := by
  simp [drainSlip, h]

@[simp] theorem execStreamDrain_memOk (r n slip) : (execStreamDrain r n slip s).MemOk := by
  unfold execStreamDrain
  extract_lets x s1
  have h1 : s1.mem.wf = true := h
  clear_value s1
  (repeat' split)
  any_goals simp [h, h1]
  exact afterDrain_memOk (dropHead_memOk (writeElem_memOk h1 _ _ _ _ _) _ _) _ _

@[simp] theorem elemWrite_memOk (r n o) : (elemWrite r n o s).MemOk := by
  unfold elemWrite
  dsimp only
  (repeat' split) <;> simp [h]

@[simp] theorem execEngineStep_memOk (r u) : (execEngineStep r u s).MemOk := by
  unfold execEngineStep
  (repeat' split) <;> simp [h]

@[simp] theorem streamAnswered_memOk (r q bs) : (streamAnswered s r q bs).mem.wf = true := by
  unfold streamAnswered
  dsimp only
  (repeat' split) <;> simp [h]

@[simp] theorem streamRefused_memOk (r q c sub opnd) : (streamRefused s r q c sub opnd).mem.wf = true := by
  unfold streamRefused
  dsimp only
  (repeat' split) <;> simp [h]

/-! ### Network sends (10 R216 to R219) -/

@[simp] theorem sendChecks_memOk {e m a b k} (hk : ∀ u q, u.mem.wf = true → (k u q).MemOk) : (sendChecks s e m a b k).MemOk := by
  unfold sendChecks
  dsimp only
  (repeat' split) <;> simp [h, hk]

@[simp] theorem execNsend_memOk (e m a b) : (execNsend e m a b s).MemOk := by
  unfold execNsend
  exact needTag_memOk h fun u hu => parkUnless_memOk hu fun v hv => sendChecks_memOk hv fun w q hw => devStep_memOk hw _

@[simp] theorem execTsend_memOk (e m c thr a b) : (execTsend e m c thr a b s).MemOk := by
  unfold execTsend
  refine needTag_memOk h fun u hu => parkUnless_memOk hu fun v hv => sendChecks_memOk hv fun w q hw => ?_
  simp [hw]

@[simp] theorem rcset_memOk (d c v f) : (rcset s d c v f).MemOk := by
  simp +contextual [rcset, h]

@[simp] theorem execRcsetRd_memOk (d c) : (execRcsetRd d c s).MemOk := by
  simp [execRcsetRd, h]

@[simp] theorem execRcsetWr_memOk (d c b) : (execRcsetWr d c b s).MemOk := by
  simp [execRcsetWr, h]

@[simp] theorem execRcsetAdd_memOk (d c b) : (execRcsetAdd d c b s).MemOk := by
  simp [execRcsetAdd, h]

@[simp] theorem execMessagePlacement_memOk (i) : (execMessagePlacement i s).MemOk := by
  unfold execMessagePlacement
  (repeat' split) <;> simp [h]

@[simp] theorem execTsendFire_memOk (r c) : (execTsendFire r c s).MemOk := by
  simp [execTsendFire, h]

end

end Sys2Proof.Machine
end

section
/-! SUPPORT. Pre-emption, control space and the fabric keep global memory in its canonical form (log 2). -/

namespace Sys2Proof.Machine

section
variable {s : State} (h : s.mem.wf = true)
include h

/-! ### Frames, handlers and page walks (20, 04 R94) -/

omit h in
@[simp] theorem Mem.zero_wf {m : Mem} (hm : m.wf = true) (a n) : (m.zero a n).wf = true := by
  unfold Mem.zero
  exact foldl_mem_wf hm fun _ _ hu => Mem.write_wf _ _ _ hu

omit h in
@[simp] theorem Mem.put_wf {m : Mem} (hm : m.wf = true) (base l) : (m.put base l).wf = true :=
  foldl_mem_wf hm fun _ _ hu => Mem.setWord_wf _ _ _ hu

omit h in
/-- A frame is written part by part: the words of the context, its queued commands, its streams, barriers, roles, channels, gate
frames, deferred faults and, of a vector context, its lanes (20 R388). -/
@[simp] theorem frameMem_wf {m : Mem} (hm : m.wf = true) (d r k t p pa) : (frameMem m d r k t p pa).wf = true := by
  unfold frameMem
  extract_lets c m0 m1 m2 m3 m4 m5 m6 m7 m8 m9 m10
  have h0 : m0.wf = true := Mem.put_wf (Mem.zero_wf hm _ _) _ _
  have h1 : m1.wf = true := foldl_mem_wf h0 fun _ _ hu => Mem.setWord_wf _ _ _ hu
  have h2 : m2.wf = true := foldl_mem_wf h1 fun _ _ hu => Mem.setBytes_wf _ _ _ hu
  have h3 : m3.wf = true := foldl_mem_wf h2 fun _ _ hu => Mem.setWords_wf _ _ _ hu
  have h4 : m4.wf = true := foldl_mem_wf h3 fun _ e hu => by cases e.2 <;> simp [hu]
  have h5 : m5.wf = true := foldl_mem_wf h4 fun _ _ hu => Mem.setWord_wf _ _ _ hu
  have h6 : m6.wf = true := foldl_mem_wf h5 fun _ _ hu => Mem.setWords_wf _ _ _ (Mem.setWord_wf _ _ _ (Mem.setWord_wf _ _ _ hu))
  have h7 : m7.wf = true := foldl_mem_wf h6 fun _ _ hu => Mem.setBytes_wf _ _ _ hu
  have h8 : m8.wf = true := foldl_mem_wf h7 fun _ _ hu => Mem.setWords_wf _ _ _ hu
  split
  · have h9 : m9.wf = true := foldl_mem_wf h8 fun _ _ hu => Mem.setBytes_wf _ _ _ hu
    exact foldl_mem_wf (Mem.setWord_wf _ _ _ h9) fun _ _ hu => Mem.setBytes_wf _ _ _ hu
  · exact h8

@[simp] theorem saveContext_memOk (r k p) : (saveContext s r k p).mem.wf = true := by
  simp [saveContext, h]

@[simp] theorem finishSave_memOk (r k) : (finishSave s r k).mem.wf = true := by
  unfold finishSave
  split <;> simp [h]

@[simp] theorem restoreContext_memOk (r k pa) : (restoreContext s r k pa).mem.wf = true := by
  simp [restoreContext, h]

@[simp] theorem writeImages_memOk (o) : (writeImages s o).mem.wf = true := by
  unfold writeImages
  rw [State.withDev_mem, State.physMem_mem]
  refine foldl_mem_wf h fun m r hm => ?_
  refine foldl_mem_wf (Mem.setBytes_wf _ _ _ hm) fun u k hu => ?_
  simp [hu]

@[simp] theorem stepDieSave_memOk : (stepDieSave s).mem.wf = true := by
  unfold stepDieSave
  split <;> simp [h]

@[simp] theorem restoreDie_memOk (o) : (restoreDie s o).mem.wf = true := by
  unfold restoreDie
  refine foldl_memOk h fun u r hu => foldl_memOk hu fun v k hv => ?_
  simp [hv]

@[simp] theorem execPreemptHalt_memOk (r k) : (execPreemptHalt r k s).MemOk := by
  unfold execPreemptHalt
  dsimp only
  split <;> simp [h]

@[simp] theorem execPreemptTimeout_memOk (r k) : (execPreemptTimeout r k s).MemOk := by
  unfold execPreemptTimeout
  dsimp only
  split <;> simp [h]

@[simp] theorem execTrapHandlerStart_memOk (r) : (execTrapHandlerStart r s).MemOk := by
  unfold execTrapHandlerStart
  dsimp only
  split <;> simp [h]

@[simp] theorem execAgentFaultTake_memOk (wake) : (execAgentFaultTake wake s).MemOk := by
  unfold execAgentFaultTake
  dsimp only
  split <;> simp [h]

@[simp] theorem execDeferredFault_memOk (r k) : (execDeferredFault r k s).MemOk := by
  unfold execDeferredFault
  dsimp only
  split <;> simp [h]

@[simp] theorem execImpreciseStoreFault_memOk (r k) : (execImpreciseStoreFault r k s).MemOk := by
  unfold execImpreciseStoreFault
  split <;> simp [h]

@[simp] theorem execStoreFaultRecordEnter_memOk (r) : (execStoreFaultRecordEnter r s).MemOk := by
  unfold execStoreFaultRecordEnter
  split <;> simp [h]

@[simp] theorem settlePosted_memOk (r k ans q) : (settlePosted s r k ans q).mem.wf = true := by
  unfold settlePosted
  (repeat' split) <;> simp [h]

@[simp] theorem execPageWalk_memOk (r i evCore evDie) : (execPageWalk r i evCore evDie s).MemOk := by
  unfold execPageWalk
  split
  · exact h
  · split
    · exact h
    · extract_lets bad ans d1 d2 ent d3 s1 ended s2 s3
      have h2 : s2.mem.wf = true := foldl_memOk h fun _ _ hv => foldl_memOk hv fun _ _ hw => settlePosted_memOk hw _ _ _ _
      rw [Out.memOk_next]
      cases bad with
      | some a => exact memRecord_memOk (s := s3) h2 _ _ _ _
      | none => exact h2

@[simp] theorem execDeadlockTrap_memOk (j) : (execDeadlockTrap j s).MemOk := by
  unfold execDeadlockTrap
  dsimp only
  (repeat' split)
  any_goals exact h
  all_goals exact foldl_mem_wf h fun _ _ hu => Mem.setWords_wf _ _ _ hu

/-! ### Control space and its masters (11) -/

@[simp] theorem stageKey_memOk : (stageKey s).mem.wf = true := by
  simp [stageKey, h]

@[simp] theorem dieOpWrite_memOk (v) : (dieOpWrite s v).mem.wf = true := by
  simp [dieOpWrite, h]

omit h in
@[simp] theorem bootState_mem (s : State) : (bootState s).mem = [] := rfl

@[simp] theorem recoveryStart_memOk (v) : (recoveryStart s v).mem.wf = true := by
  simp [recoveryStart, h]

@[simp] theorem bootStep_memOk (failing setup) : (bootStep s failing setup).mem.wf = true := by
  unfold bootStep
  split <;> simp [h]

@[simp] theorem ctlEffect_memOk (w off v) : (ctlEffect s w off v).mem.wf = true := by
  unfold ctlEffect
  cases ctlPlace off with
  | block => simp [h]
  | shared => dsimp only; split <;> [skip; split] <;> simp [h]
  | claim => cases w <;> exact h
  | _ => simp [h]

@[simp] theorem ctlWrite_memOk (w off v) : (ctlWrite s w off v).mem.wf = true := by
  unfold ctlWrite
  (repeat' split) <;> simp [h]

@[simp] theorem execAttestationReportReady_memOk (p) : (execAttestationReportReady p s).MemOk := by
  simp [execAttestationReportReady, h]

@[simp] theorem execLinkRetrain_memOk (w l) : (execLinkRetrain w l s).MemOk := by
  simp [execLinkRetrain, h]

@[simp] theorem execReset_memOk (stage failing setup) : (execReset stage failing setup s).MemOk := by
  unfold execReset
  split <;> simp [h]

@[simp] theorem execBootReady_memOk : (execBootReady s).MemOk := by
  simp [execBootReady, h]

omit h in
@[simp] theorem execPowerLoss_memOk (duringFlash) : (execPowerLoss duringFlash s).MemOk := by
  simp [execPowerLoss]

@[simp] theorem execOwnerLinkDown_memOk (p) : (execOwnerLinkDown p s).MemOk := by
  simp [execOwnerLinkDown, h]

@[simp] theorem execI3cTargetReset_memOk : (execI3cTargetReset s).MemOk := by
  simp [execI3cTargetReset, h]

@[simp] theorem execHostWindowPost_memOk (p q rec) : (execHostWindowPost p q rec s).MemOk := by
  simp [execHostWindowPost, h]

@[simp] theorem hostWake_memOk (p q b) : (hostWake p q b s).MemOk := by
  simp [hostWake, h]

@[simp] theorem apertureByte_memOk (asid va b) : (apertureByte s asid va b).mem.wf = true := by
  unfold apertureByte
  (repeat' split) <;> simp [h]

@[simp] theorem execHostApertureAccess_memOk (va n w) : (execHostApertureAccess va n w s).MemOk := by
  unfold execHostApertureAccess
  (repeat' split) <;> simp +contextual [h]

/-! ### The fabric port (10 R224 to R228, 25) -/

@[simp] theorem execFlitReplay_memOk (l) : (execFlitReplay l s).MemOk := by
  simp [execFlitReplay, h]

@[simp] theorem execReplayThreshold_memOk (l) : (execReplayThreshold l s).MemOk := by
  simp [execReplayThreshold, h]

@[simp] theorem peerGuardDone_memOk (r k q ws) : (peerGuardDone s r k q ws).mem.wf = true := by
  unfold peerGuardDone
  split <;> simp [h]

@[simp] theorem sendBlock_memOk (r i b p j) : (sendBlock s r i b p j).mem.wf = true := by
  simp [sendBlock, h]

@[simp] theorem coreAnswered_memOk (f ws) : (coreAnswered s f ws).mem.wf = true := by
  unfold coreAnswered
  (repeat' split) <;> simp +contextual [h]

@[simp] theorem peerGuardFails_memOk (r k q notice c o) : (peerGuardFails s r k q notice c o).mem.wf = true := by
  unfold peerGuardFails
  (repeat' split) <;> simp [h]

@[simp] theorem failRequest_memOk (f c sub o) : (failRequest s f c sub o).mem.wf = true := by
  unfold failRequest
  dsimp only
  (repeat' split) <;> simp [h]

@[simp] theorem noticeTo_memOk (f n) : (noticeTo s f n).mem.wf = true := by
  simp [noticeTo, h]

omit h in
/-- The answer of a peer to a thread's own request: it is queued for the thread (25 R441). -/
theorem answerTo_plain {f : FReq} (hg : f.req.op.guardOp = false) (hk : f.req.kind ∉ [6, 9, 10, 11, 12, 13]) (s : State) (a) :
    answerTo s f a = { s with dev := s.dev.onThrFlow f.rank f.slot (fun x => x.answer f.req (peerRes f.req a)) } := by
  unfold answerTo
  dsimp only
  rw [if_neg (by simp [hg])]
  generalize f.req.kind = k at hk
  simp only [List.mem_cons, not_or] at hk
  obtain ⟨h6, h9, h10, h11, h12, h13, -⟩ := hk
  match k with
  | 0 | 1 | 2 | 3 | 4 | 5 | 7 | 8 => rfl
  | n + 14 => rfl

/-- The kinds 6 and 9 to 13 are the requests of messages, matrix words, copies, streams and guards (10 R226). -/
@[simp] theorem answerTo_memOk (f a) : (answerTo s f a).mem.wf = true := by
  by_cases hg : f.req.op.guardOp
  · unfold answerTo
    dsimp only
    rw [if_pos hg]
    split <;> simp [h]
  by_cases hk : f.req.kind ∉ [6, 9, 10, 11, 12, 13]
  · rw [answerTo_plain (by simpa using hg) hk]
    exact h
  have hcopy (bs) : (match copyOf s.dev f with
      | some x => copyAnswered s f.rank x f.req.op bs
      | none => s).mem.wf = true := by split <;> simp [h]
  simp only [List.mem_cons, List.not_mem_nil, or_false, not_not] at hk
  unfold answerTo
  dsimp only
  rw [if_neg hg]
  generalize f.req.kind = k at hk
  rcases hk with rfl | rfl | rfl | rfl | rfl | rfl
  · cases a with
    | code => exact failRequest_memOk h _ _ _ _
    | _ => exact h
  · cases a with
    | poison | code => exact failRequest_memOk h _ _ _ _
    | _ => exact h
  · cases a with
    | poison | code => exact failRequest_memOk h _ _ _ _
    | _ => exact hcopy _
  · cases a with
    | poison | code => exact failRequest_memOk h _ _ _ _
    | _ => exact streamAnswered_memOk h _ _ _
  · cases a with
    | poison | code => exact failRequest_memOk h _ _ _ _
    | _ => exact streamAnswered_memOk h _ _ _
  · cases a with
    | poison | code => exact failRequest_memOk h _ _ _ _
    | _ => exact coreAnswered_memOk h _ _

@[simp] theorem execPacketCustody_memOk (i occ) : (execPacketCustody i occ s).MemOk := by
  unfold execPacketCustody
  dsimp only
  (repeat' split) <;> simp [h]

@[simp] theorem execResponseArrival_memOk (i crcOk mark a) : (execResponseArrival i crcOk mark a s).MemOk := by
  unfold execResponseArrival
  split <;> simp [h]

@[simp] theorem execErrorNotice_memOk (i notice) : (execErrorNotice i notice s).MemOk := by
  unfold execErrorNotice
  split <;> simp [h]

@[simp] theorem execDragRecovery_memOk (p) : (execDragRecovery p s).MemOk := by
  simp [execDragRecovery, h]

@[simp] theorem cutRequests_memOk (n) : (cutRequests s n).mem.wf = true := by
  induction n generalizing s with
  | zero => exact h
  | succ n ih =>
    unfold cutRequests
    split
    · exact h
    · refine ih (noticeTo_memOk ?_ _ _)
      exact h

@[simp] theorem linkNotices_memOk (l n) : (linkNotices l s n).mem.wf = true := by
  induction n generalizing s with
  | zero => exact h
  | succ n ih =>
    unfold linkNotices
    split
    · exact h
    · refine ih (noticeTo_memOk ?_ _ _)
      exact h

@[simp] theorem linkFails_memOk (l k) : (linkFails s l k).mem.wf = true := by
  simp [linkFails, h]

@[simp] theorem execLaneLoss_memOk (l lane) : (execLaneLoss l lane s).MemOk := by
  simp [execLaneLoss, h]

@[simp] theorem execLinkTrainingDone_memOk (l bad) : (execLinkTrainingDone l bad s).MemOk := by
  simp [execLinkTrainingDone, h]

@[simp] theorem execLinkTrainingTimeout_memOk (l) : (execLinkTrainingTimeout l s).MemOk := by
  simp [execLinkTrainingTimeout, h]

@[simp] theorem execRouterPowerLoss_memOk (peer col) : (execRouterPowerLoss peer col s).MemOk := by
  unfold execRouterPowerLoss
  split <;> simp [h]

@[simp] theorem execFailureAnnounce_memOk (news) : (execFailureAnnounce news s).MemOk := by
  simp [execFailureAnnounce, h]

@[simp] theorem peerOp_memOk (src l q) : (peerOp s src l q).mem.wf = true := by
  have hop := homeOp_memOk h l q
  unfold peerOp
  split
  · exact h
  · next heq =>
    rw [heq] at hop
    (repeat' split) <;> simp [hop]

@[simp] theorem engineBytes_memOk (src l key bs) : (engineBytes s src l key bs).mem.wf = true := by
  have hw := writeBytes_memOk (notePartial_memOk h l bs.length) l key bs
  refine fillWords_memOk ?_ _
  exact hw

@[simp] theorem peerGuard_memOk (src pa op) : (peerGuard s src pa op).mem.wf = true := by
  unfold peerGuard
  (repeat' split) <;> simp [h]

@[simp] theorem peerWords_memOk (r i x size j rest ws bs) : (peerWords s r i x size j rest ws bs).mem.wf = true := by
  simp [peerWords, h]

@[simp] theorem peerBlock_memOk (src i off bs fail) : (peerBlock s src i off bs fail).mem.wf = true := by
  unfold peerBlock
  dsimp only
  (repeat' split) <;> simp [h]

@[simp] theorem packetEffect_memOk (src va l key op) : (packetEffect s src va l key op).mem.wf = true := by
  unfold packetEffect
  (repeat' split) <;> simp [h]

@[simp] theorem execTargetPacket_memOk (origin va crcOk op) : (execTargetPacket origin va crcOk op s).MemOk := by
  unfold execTargetPacket
  dsimp only
  (repeat' split) <;> simp [h]

end

end Sys2Proof.Machine
end

section
/-! SUPPORT. The other instructions and events, and so every step, keep global memory in its canonical form (log 2). -/

namespace Sys2Proof.Machine

section
variable {s : State} (h : s.mem.wf = true)
include h

/-! ### Integer instructions (13) -/

@[simp] theorem aluX_memOk (d f) : (aluX s d f).MemOk := by
  simp [aluX, h]

@[simp] theorem aluP_memOk (d f) : (aluP s d f).MemOk := by
  simp [aluP, h]

@[simp] theorem aluPtr_memOk (d p r) : (aluPtr s d p r).MemOk := by
  unfold aluPtr
  split <;> simp [h]

@[simp] theorem execNop_memOk : (execNop s).MemOk := by
  simp [execNop, h]

@[simp] theorem withBitSrc_memOk {a k} (hk : ∀ v f, (k v f).MemOk) : (withBitSrc s a k).MemOk := by
  unfold withBitSrc
  split
  · exact hk _ _
  · split
    · exact fault_memOk h _ _ _
    · refine parkUnless_memOk h fun u hu => parkUnless_memOk hu fun v hv => ?_
      split
      · exact hv
      · exact hk _ _

@[simp] theorem execBext_memOk (d a lo w1) : (execBext d a lo w1 s).MemOk :=
  withBitSrc_memOk h fun _ _ => devStep_memOk h _

@[simp] theorem execBextz_memOk (d a lo w1) : (execBextz d a lo w1 s).MemOk :=
  withBitSrc_memOk h fun _ _ => devStep_memOk h _

@[simp] theorem execPtag_memOk (d a space t) : (execPtag d a space t s).MemOk := by
  unfold execPtag
  split <;> simp [h]

/-! ### System instructions (13) -/

@[simp] theorem reservedFault_memOk (pos) : (reservedFault s pos).MemOk := by
  simp [reservedFault, h]

@[simp] theorem answerX_memOk (d v) : (answerX s d v).MemOk := by
  simp [answerX, h]

@[simp] theorem execCtlr_memOk (d num slot other) : (execCtlr d num slot other s).MemOk := by
  simp [execCtlr, h]

@[simp] theorem execCtlw_memOk (num slot other a) : (execCtlw num slot other a s).MemOk := by
  unfold execCtlw
  (repeat' split) <;> simp +contextual [h]

@[simp] theorem execTrap_memOk (imm) : (execTrap imm s).MemOk := by
  simp [execTrap, h]

@[simp] theorem execEret_memOk (a) : (execEret a s).MemOk := by
  unfold execEret
  dsimp only
  (repeat' split) <;> simp [h]

@[simp] theorem tlbinv_memOk (reach k) : (tlbinv s reach k).MemOk := by
  simp [tlbinv, h]

@[simp] theorem execTlbinvAsid_memOk (reach a) : (execTlbinvAsid reach a s).MemOk := by
  simp [execTlbinvAsid, h]

@[simp] theorem execTlbinvPage_memOk (reach a b) : (execTlbinvPage reach a b s).MemOk := by
  simp [execTlbinvPage, h]

@[simp] theorem execTlbinvAll_memOk (reach a) : (execTlbinvAll reach a s).MemOk := by
  simp [execTlbinvAll, h]

@[simp] theorem execRtinv_memOk (_every a) : (execRtinv _every a s).MemOk := by
  simp [execRtinv, h]

@[simp] theorem execSetxb_memOk (d a) : (execSetxb d a s).MemOk := by
  simp +contextual [execSetxb, h]

@[simp] theorem execOvld_memOk (d a b) : (execOvld d a b s).MemOk := by
  unfold execOvld
  dsimp only
  (repeat' split) <;> simp [h]

@[simp] theorem execPmig_memOk (d a b) : (execPmig d a b s).MemOk := by
  unfold execPmig
  dsimp only
  (repeat' split) <;> simp [h]

@[simp] theorem withBlock_memOk {p l k} (hk : ∀ x0, (k x0).MemOk) : (withBlock s p l k).MemOk := by
  unfold withBlock
  (repeat' split) <;> simp [h, hk]

@[simp] theorem queueArg_memOk {a k} (hk : ∀ x0, (k x0).MemOk) : (queueArg s a k).MemOk := by
  simp [queueArg, h, hk]

@[simp] theorem execQctlCreate_memOk (d a b) : (execQctlCreate d a b s).MemOk := by
  unfold execQctlCreate
  refine queueArg_memOk h fun n => withBlock_memOk h fun ws => ?_
  simp [h]

@[simp] theorem onQueue_memOk (d n f) : (onQueue s d n f).MemOk := by
  unfold onQueue
  split <;> simp [h]

@[simp] theorem execQctlWeight_memOk (d a b) : (execQctlWeight d a b s).MemOk := by
  simp [execQctlWeight, h]

@[simp] theorem execQctlMask_memOk (d a b) : (execQctlMask d a b s).MemOk := by
  unfold execQctlMask
  exact queueArg_memOk h fun n => withBlock_memOk h fun ws => onQueue_memOk h _ _ _

@[simp] theorem execQctlDestroy_memOk (d a b) : (execQctlDestroy d a b s).MemOk := by
  unfold execQctlDestroy
  refine queueArg_memOk h fun n => ?_
  (repeat' split) <;> simp [h]

@[simp] theorem dispatchSet_memOk (d a b on) : (dispatchSet d a b on s).MemOk := by
  simp [dispatchSet, h]

omit h in
/-- The memory of another mode is written byte by byte from nothing. -/
@[simp] theorem setMode_memOk (s : State) (m) : (setMode s m).mem.wf = true := by
  unfold setMode
  exact foldl_mem_wf Mem.wf_nil fun _ _ hu => Mem.write_wf _ _ _ hu

@[simp] theorem execQctlMode_memOk (d a b) : (execQctlMode d a b s).MemOk := by
  unfold execQctlMode
  refine queueArg_memOk h fun n => ?_
  simp [h, setMode_memOk]

@[simp] theorem execQctlCounts_memOk (d a b) : (execQctlCounts d a b s).MemOk := by
  unfold execQctlCounts
  refine queueArg_memOk h fun n => withBlock_memOk h fun ws => ?_
  split <;> simp [h]

@[simp] theorem dbgArg_memOk {a halted k} (hk : ∀ u x1 x2, u.mem.wf = true → (k u x1 x2).MemOk) : (dbgArg s a halted k).MemOk := by
  unfold dbgArg
  (repeat' split) <;> simp +contextual [h, hk]

@[simp] theorem execDbgRd_memOk (d a _b) : (execDbgRd d a _b s).MemOk := by
  simp +contextual [execDbgRd, h]

@[simp] theorem execDbgWr_memOk (d a b) : (execDbgWr d a b s).MemOk := by
  simp +contextual [execDbgWr, h]

@[simp] theorem execDbgStep_memOk (d a _b) : (execDbgStep d a _b s).MemOk := by
  simp +contextual [execDbgStep, h]

@[simp] theorem execDbgPost_memOk (d a b) : (execDbgPost d a b s).MemOk := by
  simp +contextual [execDbgPost, h]

@[simp] theorem execSfpop_memOk (d) : (execSfpop d s).MemOk := by
  unfold execSfpop
  dsimp only
  (repeat' split) <;> simp [h]

@[simp] theorem frameArg_memOk {a b wr k} (hk : ∀ x0 x1, (k x0 x1).MemOk) : (frameArg s a b wr k).MemOk := by
  unfold frameArg
  dsimp only
  (repeat' split) <;> simp [h, hk]

@[simp] theorem execCtxsave_memOk (d a b) : (execCtxsave d a b s).MemOk := by
  simp [execCtxsave, h]

@[simp] theorem execCtxrest_memOk (d a b) : (execCtxrest d a b s).MemOk := by
  unfold execCtxrest
  refine frameArg_memOk h fun v pa => ?_
  simp [h]

/-! ### PERFORM (06 R116) -/

omit h in
@[simp] theorem unbag_mem (s : State) (r k i) : (unbag s r k i).mem = s.mem := rfl

omit h in
@[simp] theorem reply_mem (r k q) (x : State × Res) : (reply r k q x).mem = x.1.mem := rfl

@[simp] theorem noteOp_memOk (l op) : (noteOp s l op).mem.wf = true := by
  unfold noteOp
  (repeat' split) <;> simp [h]

@[simp] theorem performAt_memOk (r k i q l) : (performAt s r k i q l).MemOk := by
  unfold performAt
  split <;> simp [h]

@[simp] theorem performChase_memOk (r k i q) : (performChase s r k i q).MemOk := by
  simp [performChase, h]

@[simp] theorem performCtl_memOk (r k i q off) : (performCtl s r k i q off).MemOk := by
  unfold performCtl
  dsimp only
  split <;> simp [h]

@[simp] theorem performPort_memOk (r k i q va) : (performPort s r k i q va).MemOk := by
  unfold performPort
  dsimp only
  (repeat' split) <;> simp [h]

@[simp] theorem performWord_memOk (r k i q) : (performWord s r k i q).MemOk := by
  unfold performWord
  split <;> simp [h]

@[simp] theorem performGuard_memOk {r k i q f} (hf : ∀ u pa, u.mem.wf = true → (f u pa).1.mem.wf = true) :
    (performGuard s r k i q f).MemOk := by
  unfold performGuard
  (repeat' split) <;> simp [h, hf]

@[simp] theorem performStart_memOk (r k i q w) : (performStart s r k i q w).MemOk := by
  unfold performStart
  (repeat' split) <;> simp [h]

@[simp] theorem performOrStay_memOk {r k i q f} (hf : ∀ u, u.mem.wf = true → (f u).1.mem.wf = true) :
    (performOrStay s r k i q f).MemOk := by
  simp [performOrStay, h, hf]

@[simp] theorem performDcall_memOk (r k i q rank pc args) : (performDcall s r k i q rank pc args).MemOk := by
  simp [performDcall, h]

omit h in
@[simp] theorem andSend_memOk {o : Out} (ho : o.MemOk) (r k) : (andSend r k o).MemOk := by
  cases o with
  | next t => exact State.frameSync_memOk (s := { t with dev := t.dev.sendReady r k }) ho _ _ _
  | fault _ => trivial
  | refused _ => trivial

@[simp] theorem execPerform_memOk (r k i) : (execPerform r k i s).MemOk := by
  unfold execPerform
  split
  · exact h
  · split
    · exact h
    · refine andSend_memOk ?_ _ _
      split <;> simp +contextual [h]

/-! ### The scheduler (03) -/

@[simp] theorem execSlotArbitration_memOk (r) : (execSlotArbitration r s).MemOk := by
  unfold execSlotArbitration
  dsimp only
  (repeat' split) <;> simp [h]

@[simp] theorem execDispatchArbitration_memOk (die) : (execDispatchArbitration die s).MemOk := by
  unfold execDispatchArbitration
  dsimp only
  (repeat' split) <;> simp [h]

@[simp] theorem execQueuePromotion_memOk (n) : (execQueuePromotion n s).MemOk := by
  unfold execQueuePromotion
  (repeat' split) <;> simp [h]

/-! ### Fetch and wake (03) -/

@[simp] theorem execInstructionFetchBeyondBound_memOk : (execInstructionFetchBeyondBound s).MemOk := by
  simp [execInstructionFetchBeyondBound, h]

@[simp] theorem execParkedThreadWake_memOk (r k) : (execParkedThreadWake r k s).MemOk := by
  unfold execParkedThreadWake
  split <;> simp [h]

/-! ### Upkeep and migration (04 R88, R91, 22) -/

@[simp] theorem execScrubVisit_memOk (line found) : (execScrubVisit line found s).MemOk := by
  simp [execScrubVisit, h]

@[simp] theorem execScrubPassEnd_memOk : (execScrubPassEnd s).MemOk := by
  simp [execScrubPassEnd, h]

@[simp] theorem execRemapEntryFail_memOk (die bg dramOk) : (execRemapEntryFail die bg dramOk s).MemOk := by
  simp +contextual [execRemapEntryFail, h]

@[simp] theorem execRemapReload_memOk (die bg) : (execRemapReload die bg s).MemOk := by
  simp [execRemapReload, h]

@[simp] theorem markBank_memOk (r bank) : (markBank r bank s).MemOk := by
  simp [markBank, h]

@[simp] theorem execLocalBankMarkFailed_memOk (r found) : (execLocalBankMarkFailed r found s).MemOk := by
  unfold execLocalBankMarkFailed
  split <;> simp [h]

@[simp] theorem execCxlExtentAccept_memOk (p unit n) : (execCxlExtentAccept p unit n s).MemOk := by
  simp [execCxlExtentAccept, h]

@[simp] theorem execCxlExtentRelease_memOk (unit n) : (execCxlExtentRelease unit n s).MemOk := by
  simp [execCxlExtentRelease, h]

@[simp] theorem tap_memOk (n) : (tap n s).MemOk := by
  simp [tap, h]

@[simp] theorem execDebugHaltDie_memOk (n) : (execDebugHaltDie n s).MemOk := by
  simp [execDebugHaltDie, h]

@[simp] theorem execDebugResumeDie_memOk (n) : (execDebugResumeDie n s).MemOk := by
  simp [execDebugResumeDie, h]

@[simp] theorem execDebugPortWork_memOk (r pc) : (execDebugPortWork r pc s).MemOk := by
  unfold execDebugPortWork
  (repeat' split) <;> simp [h]

@[simp] theorem execPowerCapRaise_memOk (above raise) : (execPowerCapRaise above raise s).MemOk := by
  simp [execPowerCapRaise, h]

@[simp] theorem execPowerCapLower_memOk : (execPowerCapLower s).MemOk := by
  simp [execPowerCapLower, h]

@[simp] theorem execPowerFault_memOk : (execPowerFault s).MemOk := by
  simp [execPowerFault, h]

@[simp] theorem execAgeingSample_memOk (u need needNext) : (execAgeingSample u need needNext s).MemOk := by
  simp [execAgeingSample, h]

@[simp] theorem execDieFailure_memOk (n) : (execDieFailure n s).MemOk := by
  simp [execDieFailure, h]

theorem takeFrame_memOk {node level f} {t : State} (ht : takeFrame s node level = some (t, f)) : t.mem.wf = true := by
  unfold takeFrame at ht
  dsimp only at ht
  split at ht
  · simp at ht
  · simp only [Option.some.injEq, Prod.mk.injEq] at ht
    rw [← ht.1]
    simp [h]

@[simp] theorem putFrame_memOk (node level f) : (putFrame s node level f).mem.wf = true := by
  unfold putFrame
  dsimp only
  split
  · exact h
  · rw [State.withDev_mem, State.physMem_mem]
    refine Mem.setWord_wf _ _ _ ?_
    split <;> simp [h]

omit h in
@[simp] theorem movePage_wf {m : Mem} (hm : m.wf = true) (old new n) : (movePage m old new n).wf = true :=
  foldl_mem_wf (foldl_mem_wf hm fun _ _ hu => Mem.write_wf _ _ _ hu) fun _ _ hu => Mem.write_wf _ _ _ hu

omit h in
@[simp] theorem movePageTo_memOk {t : State} (ht : t.mem.wf = true) (s turn m level leaf frame) :
    (movePageTo s turn m level leaf t frame).mem.wf = true := by
  unfold movePageTo
  dsimp only
  split
  · simp [ht]
  · refine putFrame_memOk ?_ _ _ _
    simp [ht]

@[simp] theorem execMigration_memOk (turn) : (execMigration turn s).MemOk := by
  unfold execMigration
  dsimp only
  split
  · exact h
  · simp only [Out.memOk_ite]
    split
    · exact h
    · split
      · simp [h]
      · (repeat' split)
        any_goals exact h
        any_goals trivial
        next htf _ _ => exact movePageTo_memOk (takeFrame_memOk h htf) _ _ _ _ _ _

@[simp] theorem execMigrationSample_memOk (f page count) : (execMigrationSample f page count s).MemOk := by
  unfold execMigrationSample
  dsimp only
  split <;> simp [h]

/-! ### Every instruction, every event, every step -/

/-- Every instruction and every event keeps the canonical form: those that share one operation by that operation's lemma, the rest by
the lemma of their own. -/
theorem exec_memOk (i : Instr) : Out.MemOk (exec i s) := by
  cases i with
  | br | jmp | call | callr | ret | lp => exact jumpTo_memOk h _
  | ldFePeek | ldFeTake => exact feLoad_memOk h _ _ _ _
  | stFeFill | stFePut | stFeClr => exact feStore_memOk h _ _ _ _ _
  | amoAdd | amoAnd | amoOr | amoXor | amoMin | amoMax | amoMinz | amoMaxz | amoSwap | amoCas | amoFadd | amoFmin | amoFmax =>
    exact amo_memOk h _ _ _ _ _ _ _
  | redAdd | redAnd | redOr | redXor | redMin | redMax | redMinz | redMaxz | redFadd | redFmin | redFmax => exact red_memOk h _ _ _ _ _ _
  | mosCas2 | mosCas4 => exact casN_memOk h _ _ _ _ _ _
  | mosDeq => exact access_memOk h _ _ _ _ _
  | gacqX | gacqS => exact gacq_memOk h _ _ _ _
  | mm | sqd => exact mmIssue_memOk h _ _ _ _ _ _ _ _ _
  | topkMax | topkMin => exact topkIssue_memOk h _ _ _ _ _ _
  | vfadd | vfsub | vfmul | vfma | vfms | vfnma | vfmin | vfmax | vfabs | vfneg =>
    exact vone_memOk h fun _ hu => vfp_memOk hu fun _ _ hv => vretire_memOk hv _
  | vadd | vsub | vmul | vand | vor | vxor | vshl | vshr | vsar | vmin | vmax =>
    exact vone_memOk h fun _ hu => vint_memOk hu fun _ _ hv => vretire_memOk hv _
  | vcmpEq | vcmpNe | vcmpLt | vcmpLe => exact vone_memOk h fun _ hu => vcmp_memOk hu fun _ _ hv => vretire_memOk hv _
  | vsel => exact vone_memOk h fun _ hu => vselect_memOk hu fun _ _ hv => vretire_memOk hv _
  | vrcp | vrsqrt | vsqrt | vexp2 | vlog2 => exact vfunc_memOk h _ _ _ _ _ _
  | vredSum | vredMax | vredMin => exact vred_memOk h _ _ _ _ _ _
  | vscanSum | vscanMax | vscanMin => exact vscan_memOk h _ _ _ _ _ _
  | mand | mor | mxor | mnot => exact vmask_memOk h _ _
  | vld | vldStride | vldIndex | vst | vstStride | vstIndex => exact vmem_memOk h _ _ _ _ _ _
  | claim | offer | release | controlSpaceWrite | coreLoadDataWrite | coreLoadBoundWrite | coreStart | coreStop | keyStage |
    scrubStart | bufferReclaim | dieSave | dieRestore | measurementExtend | attestationRequest | debugEnableWrite | recoveryGo =>
    exact ctlWrite_memOk h _ _ _
  | hostWakeArm | hostWakeDisarm => exact hostWake_memOk h _ _ _
  | add | sub | and | or | xor | andn | shl | shr | sar | rol | min | max | minz | maxz | mul | mulh | mulhz | div | divz | rem |
    remz | clz | ctz | popc | bins | li | lih | sel | pfmt | pget | plin => exact aluX_memOk h _ _
  | padd | pidx => exact aluPtr_memOk h _ _ _
  | cmpEq | cmpNe | cmpLt | cmpLe | cmpLtz | cmpLez | pand | por | pxor | pnot | pmov => exact aluP_memOk h _ _
  | qctlStop | qctlRestart => exact dispatchSet_memOk h _ _ _ _
  | illegalInstruction => exact fault_memOk h _ _ _
  | tapBypass | tapSamplePreload | tapExtest | tapIdcode => exact tap_memOk h _
  | _ => simp [exec, h]

theorem runCoded_memOk (c) : (runCoded s c).MemOk := by
  simp [runCoded, h, exec_memOk]

@[simp] theorem issueHere_memOk : (issueHere s).MemOk := by
  unfold issueHere
  dsimp only
  (repeat' split) <;> simp [h, runCoded_memOk, execIllegalInstruction]

theorem issue_memOk (r k) : (issue s r k).MemOk := by
  unfold issue
  split
  · exact issueHere_memOk (s := { s with dev := entered s.dev r k }) h
  · exact h

theorem step_memOk : Out.MemOk (step s) := by
  unfold step takeMove
  split
  · exact issue_memOk (s := { s with dev := taken s }) h _ _
  · exact exec_memOk (s := { s with dev := taken s }) h _

end

/-- Settles O5: a step writes global memory byte by byte, or starts it from nothing, and each write keeps the form. -/
theorem stepsKeepMemoryCanonical : Obligations.StepsKeepMemoryCanonical := by
  unfold Obligations.StepsKeepMemoryCanonical State.memOk
  intro s t h ht
  have hs := step_memOk h
  rwa [ht] at hs

end Sys2Proof.Machine
end

section
/-! SUPPORT. What control space reads at the words that come in rows (11 R233, R239, 25 R447). -/

namespace Sys2Proof.Machine

/-- 25 R447: the link-status registers. -/
theorem ctlRead_link (d : Dev) {l : Nat} (hl : l < 14) : ctlRead d (0x4000 + 8 * l) = linkWord (Tab.get {} d.objs.links l) := by
  have h : (0x4000 + 8 * l - 0x4000) / 8 = l := by omega
  unfold ctlRead
  simp (disch := omega) only [between, Bool.and_eq_true, decide_eq_true_eq, if_neg, if_pos, h]

/-- 11 R239: the domain state words. -/
theorem ctlRead_domain (d : Dev) {u : Nat} (hu : u < 256) : ctlRead d (0x10000 + 8 * u) = domainWord d u := by
  have h : (0x10000 + 8 * u - 0x10000) / 8 = u := by omega
  unfold ctlRead
  simp (disch := omega) only [between, Bool.and_eq_true, decide_eq_true_eq, if_neg, if_pos, h]

theorem ctlPlace_policy {i : Nat} (hi : i < 64) : ctlPlace (0x600 + 8 * i) = .block := by
  unfold ctlPlace
  simp (disch := omega) only [between, Bool.and_eq_true, Bool.or_eq_true, decide_eq_true_eq, if_neg, if_pos]

/-- 11 R244: the stored words from 0x600 on. -/
theorem ctlRead_policy (d : Dev) {i : Nat} (hi : i < 64) : ctlRead d (0x600 + 8 * i) = d.plat.reg (0x600 + 8 * i) := by
  unfold ctlRead
  simp (disch := omega) only [between, Bool.and_eq_true, decide_eq_true_eq, if_neg, ctlPlace_policy hi]

theorem regReset_policy (i : Nat) : regReset (0x600 + 8 * i) = 0 := by
  simp (disch := omega) only [regReset, Bool.or_eq_true, decide_eq_true_eq, if_neg]

/-- Settles O1: each word at reset is its field's default. -/
theorem resetState : Obligations.ResetState := by
  unfold Obligations.ResetState
  refine ⟨rfl, fun _ _ => ⟨rfl, rfl, rfl⟩, fun _ _ => ⟨rfl, rfl⟩, rfl, rfl, rfl, rfl, rfl, rfl, rfl, rfl, rfl, rfl, rfl, ?_, ?_, ?_, ?_⟩
  · intro f hf
    interval_cases f <;> rfl
  · intro i hi
    rw [ctlRead_policy _ hi]
    exact regReset_policy i
  · intro u hu
    rw [ctlRead_domain _ hu]
    simp [domainWord, binOf, Dev.coach, State.reset, Tab.get, fld, b2n, w64]
  · intro l hl
    rw [ctlRead_link _ hl]
    simp [linkWord, State.reset, Tab.get, fld, w64]

end Sys2Proof.Machine
end

section
/-! SUPPORT. Writes of control space (11 R233): who may write which kind of word, and what becomes of the write. -/

namespace Sys2Proof.Machine

/-! ### Where the words stand -/

theorem poisonWord_eq_false {off : Nat} (h : off < 0x10800) : poisonWord off = false := by
  simp [poisonWord, unplaced, Nat.not_le.2 h]

theorem ctlPlace_link {l : Nat} (hl : l < 14) : ctlPlace (0x4000 + 8 * l) = .shared := by
  have hp : poisonWord (0x4000 + 8 * l) = false := poisonWord_eq_false (by omega)
  unfold ctlPlace
  simp (disch := omega) only [between, Bool.and_eq_true, Bool.or_eq_true, decide_eq_true_eq, if_neg, if_pos, hp,
    Bool.false_eq_true, or_false]

theorem ctlPlace_mailbox {off : Nat} (hlo : 0x800 ≤ off) (hhi : off < 0x1000) : ctlPlace off = .mailbox ((off - 0x800) / 0x200) := by
  unfold ctlPlace
  simp (disch := omega) only [between, Bool.and_eq_true, Bool.or_eq_true, decide_eq_true_eq, if_neg, if_pos]

theorem ctlPlace_ne_claim {off : Nat} (h : off ≠ 0x100) : ctlPlace off ≠ .claim := by
  unfold ctlPlace
  rw [if_neg h]
  (repeat' split) <;> simp

theorem ctlPlace_ne_mailbox {off : Nat} (h : ¬(0x800 ≤ off ∧ off < 0x1000)) (q : Nat) : ctlPlace off ≠ .mailbox q := by
  have hm : between off 0x800 0xFFF = false := by
    simp [between]
    omega
  unfold ctlPlace
  rw [hm, if_neg Bool.false_ne_true]
  (repeat' split) <;> simp

theorem ctlDown_of_lt {d : Dev} {off : Nat} (h : off < 0x5010) : ctlDown d off = false := by
  simp (disch := omega) only [ctlDown, ctlDie, Bool.and_eq_true, decide_eq_true_eq, if_neg, Option.any_none]

/-! ### Who may write (R233, R235, R242, R250, 04 R82) -/

section
variable {p : Plat} {off : Nat}

theorem ctlVerdict_super_early (h : p.status.toNat < 5) : ctlVerdict p .super off = .drops := by
  have hs : p.status < 5#4 := h
  simp [ctlVerdict, hs]

variable (h5 : 5 ≤ p.status.toNat) (h15 : p.status ≠ 15#4)
include h5 h15

theorem ctlVerdict_super (hp : ctlPlace off = .block ∨ ctlPlace off = .coreLoad) : ctlVerdict p .super off = .acts := by
  have hs : 5#4 ≤ p.status := h5
  rcases hp with hp | hp <;> simp [ctlVerdict, BitVec.not_lt.2 hs, h15, hp]

theorem ctlVerdict_super_debug : ctlVerdict p .super 0x120 = .counts := by
  have hs : 5#4 ≤ p.status := h5
  have hp : ctlPlace 0x120 = .debug := rfl
  simp [ctlVerdict, BitVec.not_lt.2 hs, h15, hp]

omit h5

/-- Core load and what is the supervisor's alone: no port writes it. -/
theorem ctlVerdict_port (hp : ctlPlace off = .block ∨ ctlPlace off = .coreLoad) (n : Nat) : ctlVerdict p (.port n) off = .counts := by
  rcases hp with hp | hp <;> simp [ctlVerdict, h15, hp]

theorem ctlVerdict_owner {n : Nat} (ho : isOwner p n = true) (hp : ctlPlace off = .debug ∨ ctlPlace off = .shared) :
    ctlVerdict p (.port n) off = .acts := by
  rcases hp with hp | hp <;> simp [ctlVerdict, h15, hp, ho]

theorem ctlVerdict_owner_recovery {n : Nat} (ho : isOwner p n = true) (hp : ctlPlace off = .recovery) :
    ctlVerdict p (.port n) off = .drops := by
  simp [ctlVerdict, h15, hp, ho]

/-- A master that is not the owner writes the claim register and its own mailbox, and nothing else. -/
theorem ctlVerdict_stranger {n : Nat} (ho : isOwner p n = false) (hc : ctlPlace off ≠ .claim) (hm : ∀ q, ctlPlace off ≠ .mailbox q) :
    ctlVerdict p (.port n) off = .counts := by
  cases hp : ctlPlace off with
  | claim => exact absurd hp hc
  | mailbox q => exact absurd hp (hm q)
  | _ => simp [ctlVerdict, h15, hp, ho]

theorem ctlVerdict_mailbox {n : Nat} (hp : ctlPlace off = .mailbox n) :
    ctlVerdict p (.port n) off = if Tab.get 0 p.mailState n = 1 then .drops else .acts := by
  simp [ctlVerdict, h15, hp]

end

/-! ### What becomes of a write -/

section
variable {s : State} {off : Nat} (hd : ctlDown s.dev off = false)
include hd

theorem ctlWrite_super_acts (hv : ctlVerdict s.dev.plat .super off = .acts) (v) : ctlWrite s .super off v = ctlEffect s .super off v := by
  simp [ctlWrite, hd, hv]

theorem ctlWrite_super_counts (hv : ctlVerdict s.dev.plat .super off = .counts) (v) :
    ctlWrite s .super off v = { s with dev := countRefused s.dev } := by
  simp [ctlWrite, hd, hv]

variable {n : Nat} (hm : isMaster s.dev.plat n = true)
include hm

theorem ctlWrite_port_acts (hv : ctlVerdict s.dev.plat (.port n) off = .acts) (v) :
    ctlWrite s (.port n) off v = ctlEffect s (.port n) off v := by
  simp [ctlWrite, hd, hm, hv]

theorem ctlWrite_port_drops (hv : ctlVerdict s.dev.plat (.port n) off = .drops) (v) : ctlWrite s (.port n) off v = s := by
  simp [ctlWrite, hd, hm, hv]

theorem ctlWrite_port_counts (hv : ctlVerdict s.dev.plat (.port n) off = .counts) (v) :
    ctlWrite s (.port n) off v = { s with dev := countRefused s.dev } := by
  simp [ctlWrite, hd, hm, hv]

end

theorem ctlWrite_super_early {s : State} (h : s.dev.plat.status.toNat < 5) (off v) : ctlWrite s .super off v = s := by
  simp [ctlWrite, ctlVerdict_super_early h]

end Sys2Proof.Machine
end

section
/-! SUPPORT. What the written commands of control space do (11 R235, R242, R243, R249, R250, 04 R82, 25 R447). -/

namespace Sys2Proof.Machine

/-! ### Commands with bit 63 -/

theorem getLsbD_command {n : Nat} (h : n < 2 ^ 62) : (w64 (fld 1 63 + n)).getLsbD 63 = true ∧ (w64 (fld 1 63 + n)).getLsbD 62 = false := by
  simp only [w64, fld, BitVec.getLsbD_ofNat, Nat.testBit_eq_decide_div_mod_eq]
  constructor
  · simp
    omega
  · simp
    omega

theorem bits_command {n k : Nat} (hk : k < 63) (h : n < 2 ^ (k + 1)) : bits (w64 (fld 1 63 + n)) k 0 = n := by
  have hd : 2 ^ (k + 1) ∣ 2 ^ 63 := Nat.pow_dvd_pow 2 hk
  have he : 2 ^ (k + 1) ∣ 2 ^ 64 := hd.trans (Nat.pow_dvd_pow 2 (by decide))
  simp only [bits, w64, fld, BitVec.toNat_ofNat, Nat.pow_zero, Nat.div_one, Nat.sub_zero, one_mul]
  rw [Nat.mod_mod_of_dvd _ he, Nat.add_mod, Nat.mod_eq_zero_of_dvd hd, Nat.zero_add, Nat.mod_mod, Nat.mod_eq_of_lt h]

theorem setWidth_command (e : PcIx) : (w64 (fld 1 63 + e.toNat)).setWidth 15 = e := by
  have := e.isLt
  apply BitVec.eq_of_toNat_eq
  simp [w64, fld]
  omega

/-! ### Core load (04 R82) -/

section
variable {d : Dev} (hp : d.plat.pfault = false)
include hp

theorem coreLoadWrite_data_running (hr : (d.core d.plat.loadRank.toNat).running = true) (v) :
    coreLoadWrite d 0x5010 v = countRefused d := by
  simp [coreLoadWrite, hp, hr]

theorem coreLoadWrite_bound_running (hr : (d.core d.plat.loadRank.toNat).running = true) (v) :
    coreLoadWrite d 0x5018 v = countRefused d := by
  simp [coreLoadWrite, hp, hr]

theorem coreLoadWrite_data (hr : (d.core d.plat.loadRank.toNat).running = false) (v : Word) : coreLoadWrite d 0x5010 v =
    (d.onCore d.plat.loadRank.toNat (fun c => { c with
      lmem := c.lmem.setBytes d.plat.loadOff.toNat (bytesOf 4 (v.toNat % 2 ^ 32)) })).onPlat
      (fun p => { p with loadOff := p.loadOff + 4 }) := by
  simp [coreLoadWrite, hp, hr, bits]

theorem coreLoadWrite_bound (hr : (d.core d.plat.loadRank.toNat).running = false) {v : Word} (hv : v.toNat % 2 ^ 15 ≤ 21845) :
    coreLoadWrite d 0x5018 v = d.onRegs d.plat.loadRank.toNat (fun x => { x with xb := BitVec.ofNat 15 v.toNat }) := by
  have hb : ¬21845 < bits v 14 0 := by simpa [bits] using hv
  simp only [coreLoadWrite, hp, hr, if_neg hb]
  rfl

/-- A start is refused at a running core, past the bound, and at a failed die (log 39). -/
theorem coreLoadWrite_start_refused {e : PcIx} (h : (d.core d.plat.loadRank.toNat).running = true ∨
    (d.core d.plat.loadRank.toNat).regs.xb.toNat ≤ e.toNat) : coreLoadWrite d 0x5020 (w64 (fld 1 63 + e.toNat)) = countRefused d := by
  obtain ⟨h63, -⟩ := getLsbD_command (n := e.toNat) (by omega)
  have he := bits_command (k := 14) (by decide) e.isLt
  rcases h with h | h <;> simp [coreLoadWrite, hp, h63, he, h]

theorem coreLoadWrite_start {e : PcIx} (hr : (d.core d.plat.loadRank.toNat).running = false)
    (he : e.toNat < (d.core d.plat.loadRank.toNat).regs.xb.toNat) (hf : (d.die (dieOf d.plat.loadRank.toNat)).failed = false) :
    coreLoadWrite d 0x5020 (w64 (fld 1 63 + e.toNat)) = d.onCore d.plat.loadRank.toNat (fun c => { c with
      running := true, regs := { c.regs with started := d.now }, slots := Tab.set c.slots 0 { life := .live, pc := e } }) := by
  obtain ⟨h63, h62⟩ := getLsbD_command (n := e.toNat) (by omega)
  have hb := bits_command (k := 14) (by decide) e.isLt
  simp only [coreLoadWrite, hp, h63, h62, hb, hr, hf, Nat.not_le.2 he, setWidth_command]
  rfl

theorem coreLoadWrite_stop_refused {k : Nat} (h1 : 1 ≤ k) (h10 : k ≤ 10) (hk : ((d.core d.plat.loadRank.toNat).slot k).life = .live) :
    coreLoadWrite d 0x5020 (w64 (fld 1 62)) = countRefused d := by
  have h : (upto 11).any (fun k => isHelper k && ((d.core d.plat.loadRank.toNat).slot k).life == .live) = true := by
    refine List.any_eq_true.2 ⟨k, List.mem_range.2 (by omega), ?_⟩
    simp [isHelper, h1, h10, hk]
  have h63 : (w64 (fld 1 62)).getLsbD 63 = false := by decide
  have h62 : (w64 (fld 1 62)).getLsbD 62 = true := by decide
  simp only [coreLoadWrite, hp, h63, h62, h]
  rfl

theorem coreLoadWrite_stop (hk : ∀ k, 1 ≤ k → k ≤ 10 → ((d.core d.plat.loadRank.toNat).slot k).life ≠ .live) :
    coreLoadWrite d 0x5020 (w64 (fld 1 62)) = d.onCore d.plat.loadRank.toNat stopCore := by
  have h : (upto 11).any (fun k => isHelper k && ((d.core d.plat.loadRank.toNat).slot k).life == .live) = false := by
    simp only [List.any_eq_false, isHelper, Bool.and_eq_true, decide_eq_true_eq, beq_iff_eq, not_and]
    exact fun k _ hh => hk k hh.1 hh.2
  have h63 : (w64 (fld 1 62)).getLsbD 63 = false := by decide
  have h62 : (w64 (fld 1 62)).getLsbD 62 = true := by decide
  simp only [coreLoadWrite, hp, h63, h62, h]
  rfl

end

end Sys2Proof.Machine
end

section
/-! SUPPORT. Who reaches control space with which command, and what it does (11 R233, R235, R242, R243, R249, R250, 04 R82). -/

namespace Sys2Proof.Machine

/-! ### A record of the memory-error log (22 R414) -/

theorem memRecord_keys (s : State) (ty die detail addr) : (memRecord s ty die detail addr).dev.plat.keys = s.dev.plat.keys := by
  unfold memRecord
  dsimp only
  split <;> rfl

/-- Where the log has no place in memory, only the count of records lost rises. -/
theorem memRecord_of_no_log {s : State} (h : s.dev.plat.reg 0x3000 = 0) (ty die detail addr) :
    memRecord s ty die detail addr = { s with dev := s.dev.setReg 0x3018 (s.dev.plat.reg 0x3018 + 1) } := by
  simp [memRecord, h]

/-! ### The supervisor's words -/

theorem ctlEffect_policy (s : State) {l : Nat} (hl : l < 64) (w v) : ctlEffect s w (0x600 + 8 * l) v =
    { s with dev := s.dev.setReg (0x600 + 8 * l) (w64 (fld (bits v 63 63) 63 + bits v 15 0)) } := by
  have hp : poisonWord (0x600 + 8 * l) = false := poisonWord_eq_false (by omega)
  have hs : storedBits (0x600 + 8 * l) v = w64 (fld (bits v 63 63) 63 + bits v 15 0) := by
    simp (disch := omega) only [storedBits, between, Bool.and_eq_true, Bool.or_eq_true, decide_eq_true_eq, if_neg, if_pos]
  simp (disch := omega) only [ctlEffect, ctlPlace_policy hl, between, Bool.and_eq_true, Bool.or_eq_true, decide_eq_true_eq, if_neg, hp,
    Bool.false_eq_true, if_false, hs]

/-- A stage during a pass leaves its slot's key and marks the refusal (R243). -/
theorem stageKey_refused {s : State} (h : s.dev.plat.scrubBusy = true) :
    (Tab.get {} (stageKey s).dev.plat.keys s.dev.plat.keySlot.toNat : KeySlot) =
      { (Tab.get {} s.dev.plat.keys s.dev.plat.keySlot.toNat : KeySlot) with refused := true } := by
  simp [stageKey, h, memRecord_keys, Tab.get_set]

theorem stageKey_accepted {s : State} (h : s.dev.plat.scrubBusy = false) : stageKey s = { s with dev := s.dev.onPlat (fun x => { x with
    keys := Tab.set x.keys x.keySlot.toNat { (Tab.get {} s.dev.plat.keys s.dev.plat.keySlot.toNat : KeySlot) with
      refused := false, pending := some ((upto 8).map (fun j => Tab.get 0 x.stage j)) } }) } := by
  simp [stageKey, h, Dev.onPlat]

/-- A pass starts: every pending key becomes the write version (R243, 04 R91). -/
theorem scrubWrite_start {p : Plat} (h : p.scrubBusy = false) {per : BitVec 8} (h6 : 6 ≤ per.toNat) (h168 : per.toNat ≤ 168) :
    scrubWrite p (w64 (fld 1 63 + per.toNat)) = { p with
      period := per, passPeriod := per, scrubBusy := true, visited := [], keys := p.keys.map (fun e => (e.1, e.2.commit)) } := by
  obtain ⟨h63, -⟩ := getLsbD_command (n := per.toNat) (by omega)
  have hb := bits_command (k := 7) (by decide) per.isLt
  have hg : ¬(per.toNat < 6 ∨ 168 < per.toNat) := by omega
  simp only [scrubWrite, h63, hb, h]
  simp [Nat.not_lt.2 h6, Nat.not_lt.2 h168]

theorem scrubWrite_refused {p : Plat} {per : BitVec 8} (h : p.scrubBusy = true ∨ per.toNat < 6 ∨ 168 < per.toNat) :
    scrubWrite p (w64 (fld 1 63 + per.toNat)) = p := by
  obtain ⟨h63, -⟩ := getLsbD_command (n := per.toNat) (by omega)
  have hb := bits_command (k := 7) (by decide) per.isLt
  have hg : (per.toNat < 6 || 168 < per.toNat || ((w64 (fld 1 63 + per.toNat)).getLsbD 63 && p.scrubBusy)) = true := by
    simp only [h63, Bool.or_eq_true, decide_eq_true_eq, Bool.true_and]
    tauto
  simp only [scrubWrite, hb]
  rw [if_pos hg]

theorem KeySlot.commit_pending (k : KeySlot) : k.commit.pending = none := by
  unfold KeySlot.commit
  split
  · assumption
  · rfl

theorem KeySlot.commit_of_pending {k : KeySlot} {x} (h : k.pending = some x) :
    k.commit = { ver := k.ver + 1, prev := some k.ver, key := x, prevKey := k.key, pending := none, refused := false } := by
  simp [KeySlot.commit, h]

/-! ### Masters' words -/

theorem isOwner_iff (p : Plat) (q : BitVec 2) : isOwner p q.toNat = true ↔ p.owned = true ∧ p.owner = q := by
  simp [isOwner, BitVec.toNat_inj]

theorem isMaster_of {p : Plat} {q : BitVec 2} (h : q = 0 ∨ q = 3 ∨ (q = 1 ∧ p.cxlHost1 = true) ∨ (q = 2 ∧ p.cxlHost2 = true)) :
    isMaster p q.toNat = true := by
  rcases h with rfl | rfl | ⟨rfl, h⟩ | ⟨rfl, h⟩
  · rfl
  · rfl
  · simp [isMaster, h]
  · simp [isMaster, h]

/-- The word by which a port asks for its report (R250). -/
def mailAsk (p : BitVec 2) : Nat := 0x800 + 0x200 * p.toNat + 0x30

theorem mailAsk_place (p : BitVec 2) : ctlPlace (mailAsk p) = .mailbox p.toNat := by
  have := p.isLt
  unfold mailAsk
  rw [ctlPlace_mailbox (by omega) (by omega)]
  congr 1
  omega

theorem ctlEffect_mailAsk (s : State) (w) (p : BitVec 2) : ctlEffect s w (mailAsk p) 1 =
    { s with dev := s.dev.onPlat (fun x => { x with mailState := Tab.set x.mailState p.toNat 1 }) } := by
  have h : (mailAsk p - 0x800) % 0x200 = 0x30 := by
    unfold mailAsk
    omega
  simp [ctlEffect, mailAsk_place, h]

theorem ctlEffect_link (s : State) (w) {l : Nat} (hl : l < 14) :
    ctlEffect s w (0x4000 + 8 * l) (w64 (fld 1 63)) = { s with dev := retrain s.dev l } := by
  have h : (0x4000 + 8 * l - 0x4000) / 8 = l := by omega
  have hb : between (0x4000 + 8 * l) 0x4000 0x4068 = true := by
    simp [between]
    omega
  have h63 : (w64 (fld 1 63)).getLsbD 63 = true := by decide
  simp only [ctlEffect, ctlPlace_link hl, hb, h63, h]
  rfl

theorem retrain_link (d : Dev) (l : Nat) : (Tab.get {} (retrain d l).objs.links l : Link) =
    { (Tab.get {} d.objs.links l : Link) with
      state := 1, wide := true, since := d.now, retrains := satByte (Tab.get {} d.objs.links l : Link).retrains } := by
  unfold retrain
  dsimp only
  split <;> simp [Tab.get_set]

end Sys2Proof.Machine
end

section
/-! SUPPORT. The clauses on control-space writes, by who writes (11 R233, R235, R242, R243, R249, R250, 04 R82, 25 R447). -/

namespace Sys2Proof.Machine

section
variable {s : State} (h5 : 5 ≤ s.dev.plat.status.toNat) (h15 : s.dev.plat.status ≠ 15#4)
include h5 h15

/-! ### The supervisor -/

/-- The supervisor's own words take its write as their effect says. -/
theorem super_block {off : Nat} (hd : ctlDown s.dev off = false) (hp : ctlPlace off = .block) (v) :
    ctlWrite s .super off v = ctlEffect s .super off v :=
  ctlWrite_super_acts hd (ctlVerdict_super h5 h15 (.inl hp)) v

theorem super_coreLoad {off : Nat} (hd : ctlDown s.dev off = false) (hp : ctlPlace off = .coreLoad) (v) :
    ctlWrite s .super off v = { s with dev := coreLoadWrite s.dev off v } := by
  rw [ctlWrite_super_acts hd (ctlVerdict_super h5 h15 (.inr hp)) v]
  simp only [ctlEffect, hp]

theorem super_scrubStart (per : BitVec 8) : exec (.scrubStart .supervisor per) s =
    .next { s with dev := s.dev.onPlat (fun p => scrubWrite p (w64 (fld 1 63 + per.toNat))) } := by
  change (.next (ctlWrite s .super 0x550 _) : Out) = _
  rw [super_block h5 h15 rfl rfl]
  rfl

theorem super_keyStage : exec (.keyStage .supervisor) s = .next (stageKey s) := by
  change (.next (ctlWrite s .super 0x548 _) : Out) = _
  rw [super_block h5 h15 rfl rfl]
  rfl

theorem super_extend : exec (.measurementExtend .supervisor) s = .next { s with dev := s.dev.onPlat (fun p =>
    p.measure 2 ((upto 6).flatMap (fun i => bytesOf 8 (Tab.get 0 p.ext i).toNat))) } := by
  change (.next (ctlWrite s .super 0x170 1) : Out) = _
  rw [super_block h5 h15 rfl rfl]
  rfl

end

/-! ### Masters -/

section
variable {s : State} (h15 : s.dev.plat.status ≠ 15#4) {p : BitVec 2} (hm : isMaster s.dev.plat p.toNat = true)
include h15 hm

theorem master_counts {off : Nat} (hd : ctlDown s.dev off = false) (hp : ctlPlace off = .block ∨ ctlPlace off = .coreLoad) (v) :
    ctlWrite s (.port p.toNat) off v = { s with dev := countRefused s.dev } :=
  ctlWrite_port_counts hd hm (ctlVerdict_port h15 hp _) v

theorem stranger_counts (ho : isOwner s.dev.plat p.toNat = false) {off : Nat} (hd : ctlDown s.dev off = false) (hc : off ≠ 0x100)
    (hb : ¬(0x800 ≤ off ∧ off < 0x1000)) (v) : ctlWrite s (.port p.toNat) off v = { s with dev := countRefused s.dev } :=
  ctlWrite_port_counts hd hm (ctlVerdict_stranger h15 ho (ctlPlace_ne_claim hc) (ctlPlace_ne_mailbox hb)) v

theorem owner_acts (ho : isOwner s.dev.plat p.toNat = true) {off : Nat} (hd : ctlDown s.dev off = false)
    (hp : ctlPlace off = .debug ∨ ctlPlace off = .shared) (v) :
    ctlWrite s (.port p.toNat) off v = ctlEffect s (.port p.toNat) off v :=
  ctlWrite_port_acts hd hm (ctlVerdict_owner h15 ho hp) v

theorem master_asks (h : Tab.get (0 : BitVec 2) s.dev.plat.mailState p.toNat ≠ 1) : exec (.attestationRequest p) s =
    .next { s with dev := s.dev.onPlat (fun x => { x with mailState := Tab.set x.mailState p.toNat 1 }) } := by
  have hd : ctlDown s.dev (mailAsk p) = false := ctlDown_of_lt (by unfold mailAsk; omega)
  have hv := (ctlVerdict_mailbox h15 (mailAsk_place p)).trans (if_neg h)
  change (.next (ctlWrite s (.port p.toNat) (mailAsk p) 1) : Out) = _
  rw [ctlWrite_port_acts hd hm hv, ctlEffect_mailAsk]

theorem master_asks_again (h : Tab.get (0 : BitVec 2) s.dev.plat.mailState p.toNat = 1) : exec (.attestationRequest p) s = .next s := by
  have hd : ctlDown s.dev (mailAsk p) = false := ctlDown_of_lt (by unfold mailAsk; omega)
  have hv := (ctlVerdict_mailbox h15 (mailAsk_place p)).trans (if_pos h)
  change (.next (ctlWrite s (.port p.toNat) (mailAsk p) 1) : Out) = _
  rw [ctlWrite_port_drops hd hm hv]

end

theorem next_eq {a b : State} (h : a = b) : (.next a : Out) = .next b := congrArg _ h

theorem exec_linkRetrain {s : State} {l : Nat} (hl : l < 14) (w) :
    exec (.linkRetrain w l) s = .next (ctlWrite s (whoOf w) (0x4000 + 8 * l) (w64 (fld 1 63))) :=
  if_pos hl

/-- Settles O54: each writer's verdict at each kind of word, and the effect of each command that acts. -/
theorem controlSpaceWrites : Obligations.ControlSpaceWrites := by
  unfold Obligations.ControlSpaceWrites
  intro s p w off l v entry per
  refine ⟨fun h => next_eq (ctlWrite_super_early h _ _), fun h5 h15 hp hf => ?_⟩
  have down : ∀ {o}, ctlDie s.dev.plat o = some (dieOf s.dev.plat.loadRank.toNat) → ctlDown s.dev o = false := by
    intro o ho
    simp [ctlDown, ho, hf]
  have load := fun (o : Nat) (ho : ctlDie s.dev.plat o = some (dieOf s.dev.plat.loadRank.toNat)) (hc : ctlPlace o = .coreLoad) v =>
    next_eq (super_coreLoad h5 h15 (down ho) hc v)
  have stop : exec (.coreStop .supervisor) s = .next { s with dev := coreLoadWrite s.dev 0x5020 (w64 (fld 1 62)) } := load _ rfl rfl _
  have own := isOwner_iff s.dev.plat p
  refine ⟨fun _ => rfl, next_eq (super_block h5 h15 rfl rfl v), ?policy, ?stranger, ?master, ?running, ?stopped, ?stopRefused,
    ?stop, ?stage, ?stageRefused, ?scrub, ?scrubRefused, super_extend h5 h15, fun hm => master_asks h15 (isMaster_of hm),
    fun hm => master_asks_again h15 (isMaster_of hm), ?debug, ?debugStranger,
    next_eq (ctlWrite_super_counts rfl (ctlVerdict_super_debug h5 h15) v), ?links, ?recovery⟩
  case policy =>
    intro hl
    have hd : ctlDown s.dev (0x600 + 8 * l) = false := ctlDown_of_lt (by omega)
    have he : (0x600 + 8 * l) / 8 * 8 = 0x600 + 8 * l := by omega
    change (.next (ctlWrite s .super ((0x600 + 8 * l) / 8 * 8) v) : Out) = _
    rw [he, super_block h5 h15 hd (ctlPlace_policy hl), ctlEffect_policy s hl]
    rfl
  case stranger =>
    intro hm ho x hd hc hb
    have ho : isOwner s.dev.plat p.toNat = false := Bool.eq_false_iff.2 (mt own.1 ho)
    exact next_eq (stranger_counts h15 (isMaster_of hm) ho hd hc (by omega) x)
  case master =>
    intro hm x
    have hm := isMaster_of hm
    have counts := fun (o : Nat) (hd : ctlDown s.dev o = false) hp v => next_eq (master_counts h15 hm hd hp v)
    exact ⟨counts 0x5010 (down rfl) (.inr rfl) _, counts 0x5018 (down rfl) (.inr rfl) _, counts 0x5020 (down rfl) (.inr rfl) _,
      counts 0x5020 (down rfl) (.inr rfl) _, counts 0x548 rfl (.inl rfl) _, counts 0x550 rfl (.inl rfl) _, counts 0x170 rfl (.inl rfl) _⟩
  case running =>
    intro hr
    refine ⟨(load 0x5010 rfl rfl v).trans ?_, (load 0x5018 rfl rfl v).trans ?_, (load 0x5020 rfl rfl _).trans ?_⟩
    · rw [coreLoadWrite_data_running hp hr]
      rfl
    · rw [coreLoadWrite_bound_running hp hr]
      rfl
    · rw [coreLoadWrite_start_refused hp (.inl hr)]
      rfl
  case stopped =>
    intro hr
    refine ⟨(load 0x5010 rfl rfl v).trans ?_, fun hv => (load 0x5018 rfl rfl v).trans ?_, fun he => (load 0x5020 rfl rfl _).trans ?_,
      fun he => (load 0x5020 rfl rfl _).trans ?_⟩
    · rw [coreLoadWrite_data hp hr]
    · rw [coreLoadWrite_bound hp hr hv]
      rfl
    · rw [coreLoadWrite_start hp hr he hf]
    · rw [coreLoadWrite_start_refused hp (.inr he)]
      rfl
  case stopRefused =>
    rintro ⟨k, h1, h10, hk⟩
    rw [stop, coreLoadWrite_stop_refused hp h1 h10 hk]
    rfl
  case stop =>
    intro hk
    rw [stop, coreLoadWrite_stop hp hk]
    rfl
  case stage =>
    intro hb
    rw [super_keyStage h5 h15, stageKey_accepted hb]
  case stageRefused =>
    exact fun hb => ⟨_, super_keyStage h5 h15, stageKey_refused hb⟩
  case scrub =>
    intro hb h6 h168
    refine ⟨_, super_scrubStart h5 h15 per, rfl, ?_⟩
    dsimp only [Dev.onPlat_plat]
    rw [scrubWrite_start hb h6 h168]
    refine ⟨rfl, rfl, fun i k hk => ⟨k.commit, List.mem_map.2 ⟨(i, k), hk, rfl⟩, k.commit_pending, fun x hx => ?_⟩⟩
    rw [KeySlot.commit_of_pending hx]
    exact ⟨rfl, rfl, rfl, rfl⟩
  case scrubRefused =>
    intro h
    rw [super_scrubStart h5 h15, Dev.onPlat, scrubWrite_refused h]
  case debug =>
    exact fun hm ho => next_eq (owner_acts h15 (isMaster_of hm) (own.2 ho) rfl (.inl rfl) v)
  case debugStranger =>
    intro hm ho
    have ho : isOwner s.dev.plat p.toNat = false := Bool.eq_false_iff.2 (mt own.1 ho)
    exact next_eq (stranger_counts h15 (isMaster_of hm) ho rfl (by decide) (by decide) v)
  case links =>
    intro hl
    have hd : ctlDown s.dev (0x4000 + 8 * l) = false := ctlDown_of_lt (by omega)
    refine ⟨fun ⟨hm, ho⟩ => ?_, fun hm ho => ?_, retrain_link s.dev l⟩
    · rw [exec_linkRetrain hl, whoOf, owner_acts h15 (isMaster_of hm) (own.2 ho) hd (.inr (ctlPlace_link hl)), ctlEffect_link s _ hl]
    · have ho : isOwner s.dev.plat p.toNat = false := Bool.eq_false_iff.2 (mt own.1 ho)
      rw [exec_linkRetrain hl, whoOf, stranger_counts h15 (isMaster_of hm) ho hd (by omega) (by omega)]
      rfl
  case recovery =>
    exact fun hm ho => next_eq (ctlWrite_port_drops rfl (isMaster_of hm) (ctlVerdict_owner_recovery h15 (own.2 ho) rfl) 1)

end Sys2Proof.Machine
end

section
/-! SUPPORT. A scrub visit and a table of lines with a bad tag that is out of order (04 R91). -/

namespace Sys2Proof.Machine

/-- Line 0 of a pass, written under key slot 0, with a bad tag. The table of bad tags is not in its canonical form: it lists line 1
before line 0, so that what clears line 0's entry stops at line 1's. -/
def sTagsOutOfOrder : State :=
  { mem := [], dev := { plat := { scrubBusy := true }, mmeta := { key := [(0, 0)], tagBad := [(1, true), (0, true)] } } }

/-- What the visit leaves: line 0 zero, poisoned and under the write version, and still listed as bad. -/
theorem scrubVisit_tagsOutOfOrder : ∃ t, exec (.scrubVisit 0 2) sTagsOutOfOrder = .next t ∧ Tab.get false t.dev.mmeta.tagBad 0 = true :=
  ⟨_, rfl, rfl⟩

/-- Refutes O57: the statement takes any table of bad tags, and a rewrite clears a line's entry only in a canonical one. In
`sTagsOutOfOrder` the visited line keeps its bad tag, where `fresh` says that it has none. -/
theorem not_memoryUpkeep : ¬ Obligations.MemoryUpkeep := by
  unfold Obligations.MemoryUpkeep
  intro h
  obtain ⟨scrub, -⟩ := h sTagsOutOfOrder 0 0 0 0 0 0 0 2 0
  obtain ⟨-, bad⟩ := scrub rfl rfl rfl rfl rfl (by simp [sTagsOutOfOrder]) rfl
  obtain ⟨t, ht, fresh, -⟩ := bad (.inr (by decide))
  obtain ⟨u, hu, still⟩ := scrubVisit_tagsOutOfOrder
  obtain ⟨-, clear⟩ := fresh (by decide)
  cases ht.symm.trans hu
  exact Bool.noConfusion (clear.symm.trans still)

end Sys2Proof.Machine
end

section
/-! SUPPORT. What a migration does to the state, piece by piece (04 R88, 11 R244, 22 R420). -/

namespace Sys2Proof.Machine

/-! ### Tables whose every entry changes -/

theorem Tab.get_map_snd {α β : Type} (f : α → β) (dflt : α) (t : Tab α) (k : Nat) :
    Tab.get (f dflt) (t.map (fun e => (e.1, f e.2))) k = f (Tab.get dflt t k) := by
  induction t with
  | nil => rfl
  | cons e t ih =>
    simp only [List.map_cons, Tab.get]
    split
    · rfl
    · exact ih

/-! ### Byte by byte -/

theorem Tab.get_of_mem {α : Type} [DecidableEq α] {dflt : α} {t : Tab α} {lo : Nat} (h : Tab.wfFrom dflt lo t = true) {e : Nat × α}
    (he : e ∈ t) : lo ≤ e.1 ∧ Tab.get dflt t e.1 = e.2 := by
  induction t generalizing lo with
  | nil => cases he
  | cons a t ih =>
    simp only [Tab.wfFrom, Bool.and_eq_true, decide_eq_true_eq] at h
    rcases List.mem_cons.1 he with rfl | he
    · exact ⟨h.1.1, by simp [Tab.get]⟩
    · obtain ⟨hlo, hg⟩ := ih h.2 he
      have hne : a.1 ≠ e.1 := by omega
      exact ⟨by omega, by simp [Tab.get, hne, hg]⟩

theorem Tab.get_of_not_mem {α : Type} {dflt : α} {t : Tab α} {k : Nat} (h : ∀ e ∈ t, e.1 ≠ k) : Tab.get dflt t k = dflt := by
  induction t with
  | nil => rfl
  | cons a t ih => simp [Tab.get, h a (.head t), ih fun e he => h e (.tail a he)]

/-- Writes whose values are those of one function of the place: the order does not matter, nor does a place written twice. -/
theorem read_foldl_write {α : Type} {p : α → Nat} {v : α → Byte} {f : Nat → Byte} {l : List α} (hl : ∀ e ∈ l, v e = f (p e))
    {m : Mem} (hm : m.wf = true) (a : Nat) :
    (l.foldl (fun u e => u.write (p e) (v e)) m).read a = if ∃ e ∈ l, p e = a then f a else m.read a := by
  induction l generalizing m with
  | nil => simp
  | cons e l ih =>
    rw [List.foldl_cons, ih (fun x hx => hl x (.tail e hx)) (Mem.write_wf _ _ _ hm), Mem.read_write _ _ _ _ hm, hl e (.head l)]
    by_cases hr : ∃ x ∈ l, p x = a
    · simp [hr]
    · by_cases he : p e = a
      · simp [he]
      · simp [hr, he]

/-- R88 step 4: the new frame holds the page's bytes. -/
theorem read_movePage {m : Mem} (hm : m.wf = true) (old new : Nat) {n b : Nat} (hb : b < n) :
    (movePage m old new n).read (new + b) = m.read (old + b) := by
  have hz := foldl_mem_wf (f := fun u (e : Nat × Byte) => u.write e.1 0) (l := m.filter (fun e => new ≤ e.1 && e.1 < new + n)) hm
    fun _ _ hu => Mem.write_wf _ _ _ hu
  have hcopy : ∀ e ∈ m.filter (fun e => old ≤ e.1 && e.1 < old + n), e.2 = m.read (e.1 - old + new - new + old) := by
    intro e he
    simp only [List.mem_filter, Bool.and_eq_true, decide_eq_true_eq] at he
    have ha : e.1 - old + new - new + old = e.1 := by omega
    rw [ha]
    exact (Tab.get_of_mem hm he.1).2.symm
  unfold movePage
  rw [read_foldl_write (p := fun e : Nat × Byte => e.1 - old + new) (v := (·.2)) (f := fun a => m.read (a - new + old)) hcopy hz,
    read_foldl_write (p := fun e : Nat × Byte => e.1) (v := fun _ => 0) (f := fun _ => 0) (fun _ _ => rfl) hm]
  have ha : new + b - new + old = old + b := by omega
  split
  · rw [ha]
  · rename_i hno
    have h0 : m.read (old + b) = 0 := by
      refine Tab.get_of_not_mem fun e he hk => hno ⟨e, ?_, by omega⟩
      simp only [List.mem_filter, Bool.and_eq_true, decide_eq_true_eq]
      exact ⟨he, by omega⟩
    rw [h0]
    split
    · rfl
    · rename_i hnew
      refine Tab.get_of_not_mem fun e he hk => hnew ⟨e, ?_, hk⟩
      simp only [List.mem_filter, Bool.and_eq_true, decide_eq_true_eq]
      exact ⟨he, by omega⟩

/-! ### The leaf entry of the new frame (04 R93) -/

theorem leafBase_of_frame {frame : Nat} (ha : frame % 2 ^ 14 = 0) (hf : frame < 2 ^ 44) (leaf : Word) :
    leafBase (w64 (fld (bits leaf 63 44) 44 + frame / 2 ^ 14 * 2 ^ 14 + bits leaf 13 0)) = frame := by
  have hl := leaf.isLt
  simp only [leafBase, bits, w64, fld, BitVec.toNat_ofNat]
  omega

/-! ### What devices keep -/

/-- What an operation on a list of free frames leaves: everything but the bytes and key versions of lines. -/
structure Dev.SameButLines (d d' : Dev) : Prop where
  cores : d'.cores = d.cores
  plat : d'.plat = d.plat
  objs : d'.objs = d.objs
  poison : d'.mmeta.poison = d.mmeta.poison
  empty : d'.mmeta.empty = d.mmeta.empty

theorem Dev.SameButLines.core {d d' : Dev} (h : d.SameButLines d') (r) : d'.core r = d.core r :=
  congrArg (fun t => Tab.get ({} : Core) t r) h.cores

theorem Dev.SameButLines.slot {d d' : Dev} (h : d.SameButLines d') (r k) : d'.slot r k = d.slot r k :=
  congrArg (Core.slot · k) (h.core r)

theorem takeFrame_dev {s s1 : State} {node level f : Nat} (h : takeFrame s node level = some (s1, f)) : s.dev.SameButLines s1.dev := by
  simp only [takeFrame, Option.ite_none_left_eq_some, Option.some.injEq, Prod.mk.injEq] at h
  obtain ⟨-, h, -⟩ := h
  rw [← h]
  exact ⟨rfl, rfl, rfl, rfl, rfl⟩

theorem putFrame_dev (s : State) (node level f : Nat) : s.dev.SameButLines (putFrame s node level f).dev := by
  unfold putFrame
  dsimp only
  split <;> exact ⟨rfl, rfl, rfl, rfl, rfl⟩

/-- A node without a list of free frames takes none back. -/
theorem putFrame_of_no_list {s : State} {node level : Nat} (h : s.dev.plat.reg (frameList node level) = 0) (f : Nat) :
    putFrame s node level f = s := by
  simp [putFrame, h]

/-! ### Requests follow their page, translations go -/

theorem followPage_core (d : Dev) (old new n r : Nat) : (followPage d old new n).core r = (d.core r).follow old new n :=
  Tab.get_map_snd (Core.follow old new n) {} d.cores r

theorem followPage_slot (d : Dev) (old new n r k : Nat) : (followPage d old new n).slot r k = (d.slot r k).follow old new n := by
  rw [Dev.slot, followPage_core]
  exact Tab.get_map_snd (Slot.follow old new n) {} (d.core r).slots k

/-- What an invalidation of the whole package leaves of a core. -/
def Core.drop (s : State) (k : InvKind) (c : Core) : Core :=
  { c with eng := { c.eng with tlb := dropTlb k c.eng.tlb, xfers := c.eng.xfers.map (unstick s k) }
           slots := c.slots.map (fun (e : Nat × Slot) =>
             (e.1, { e.2 with flow := { e.2.flow with walked := dropWalked k e.2.flow.walked } })) }

theorem invalidate_core (s : State) (k : InvKind) (r : Nat) : (invalidate s 3 k).core r = (s.dev.core r).drop s k :=
  Tab.get_map_snd (Core.drop s k) {} s.dev.cores r

theorem invalidate_slot (s : State) (k : InvKind) (r j : Nat) : (invalidate s 3 k).slot r j =
    { s.dev.slot r j with flow := { (s.dev.slot r j).flow with walked := dropWalked k (s.dev.slot r j).flow.walked } } := by
  rw [Dev.slot, invalidate_core]
  exact Tab.get_map_snd (fun t : Slot => { t with flow := { t.flow with walked := dropWalked k t.flow.walked } }) {} (s.dev.core r).slots j

theorem not_named_of_mem_dropTlb {a va : Nat} {l : List TlbE} {e : TlbE} (h : e ∈ dropTlb (.page a va) l) :
    ¬(e.asid = a ∧ e.page = va / 2 ^ pageShift e.level) := by
  simp only [dropTlb, List.mem_filter, InvKind.hits] at h
  rintro ⟨rfl, hp⟩
  simp [hp] at h

end Sys2Proof.Machine
end

section
/-! SUPPORT. The answers of a migration engine (04 R88, 13 R295, 11 R244, 22 R420). -/

namespace Sys2Proof.Machine

/-! ### The answer -/

/-- In `t` the oldest migration of `s` has its answer: it has left the queue, and a `pmig` that waits for it has the status. -/
def MigTold (s t : State) (m : Mig) (rest : List Mig) (st : Nat) : Prop :=
  t.dev.objs.migs = rest ∧
    (m.byPolicy = false → (s.dev.slot m.rank m.slot).parked = some .service → m.rank < 2048 → m.slot < 16 →
      (t.dev.slot m.rank m.slot).xr m.dst = (if m.dst = 0 then 0 else BitVec.ofNat 64 st) ∧
      (t.dev.slot m.rank m.slot).pc = (s.dev.slot m.rank m.slot).pc + 1 ∧ (t.dev.slot m.rank m.slot).parked = none)

@[simp] theorem migAnswer_plat (d : Dev) (m st) : (migAnswer d m st).plat = d.plat := by
  unfold migAnswer
  dsimp only
  split <;> rfl

@[simp] theorem migAnswer_mmeta (d : Dev) (m st) : (migAnswer d m st).mmeta = d.mmeta := by
  unfold migAnswer
  dsimp only
  split <;> rfl

theorem migAnswer_eng (d : Dev) (m : Mig) (st r) : ((migAnswer d m st).core r).eng = (d.core r).eng := by
  unfold migAnswer
  dsimp only
  split
  · rfl
  · rw [Dev.onSlot_core]
    split
    · next h =>
      subst h
      rfl
    · rfl

theorem migAnswer_flow (d : Dev) (m : Mig) (st r k) : ((migAnswer d m st).slot r k).flow = (d.slot r k).flow := by
  unfold migAnswer
  dsimp only
  split
  · rfl
  · rw [Dev.onSlot_slot]
    split
    · next h =>
      obtain ⟨rfl, rfl⟩ := h
      split
      · simp [Slot.advance, Slot.setX]
        split <;> rfl
      · rfl
    · rfl

theorem xr_setX_same (t : Slot) (r : XReg) (v : Word) : (t.setX r v).xr r = if r = 0 then 0 else v := by
  unfold Slot.setX Slot.xr
  split
  · rfl
  · simp [Tab.get_set]

theorem migAnswer_told {s : State} {d : Dev} {m : Mig} {rest : List Mig} (hq : d.objs.migs = m :: rest)
    (hp : (d.slot m.rank m.slot).parked = (s.dev.slot m.rank m.slot).parked)
    (hc : (d.slot m.rank m.slot).pc = (s.dev.slot m.rank m.slot).pc)
    (mem : Mem) (st : Nat) : MigTold s { mem := mem, dev := migAnswer d m st } m rest st := by
  refine ⟨?_, fun hb hs _ _ => ?_⟩
  · show (migAnswer d m st).objs.migs = rest
    unfold migAnswer
    dsimp only
    split <;> simp [hq]
  · have ht : (migAnswer d m st).slot m.rank m.slot =
        { ((d.slot m.rank m.slot).setX m.dst (w64 st)).advance with parked := none } := by
      have hd : ((d.onObjs (fun o => { o with migs := o.migs.erase m })).slot m.rank m.slot).parked = some .service := hp.trans hs
      simp only [migAnswer, hb, Bool.false_eq_true, if_false, Dev.onSlot_slot_self, if_pos hd]
      rfl
    show ((migAnswer d m st).slot m.rank m.slot).xr m.dst = _ ∧ ((migAnswer d m st).slot m.rank m.slot).pc = _ ∧
      ((migAnswer d m st).slot m.rank m.slot).parked = none
    rw [ht]
    refine ⟨xr_setX_same _ _ _, ?_, rfl⟩
    show ((d.slot m.rank m.slot).setX m.dst (w64 st)).pc + 1 = _
    rw [← hc]
    unfold Slot.setX
    split <;> rfl

/-! ### The move and its abort -/

section
variable {s s1 : State} {tn : MigTurn} {m : Mig} {rest : List Mig} {level frame : Nat} (hf : takeFrame s m.node level = some (s1, frame))
  (hq : s.dev.objs.migs = m :: rest) (leaf : Word)
include hf hq

/-- 22 R420: a move whose new frame cannot be written ends with status 4, the frame back in its list. -/
theorem movePageTo_aborts {a : Nat} (hb : badWrite s1 tn frame (2 ^ pageShift level) = some a) (hl : s.dev.plat.reg 0x3000 = 0) :
    MigTold s (movePageTo s tn m level leaf s1 frame) m rest 4 ∧
      (movePageTo s tn m level leaf s1 frame).dev.plat.reg 0x3018 = s.dev.plat.reg 0x3018 + 1 ∧
      (movePageTo s tn m level leaf s1 frame).dev.mmeta.poison = s.dev.mmeta.poison ∧
      (movePageTo s tn m level leaf s1 frame).dev.mmeta.empty = s.dev.mmeta.empty := by
  have h1 := takeFrame_dev hf
  have h2 := putFrame_dev s1 m.node level frame
  have hp : (putFrame s1 m.node level frame).dev.plat = s.dev.plat := h2.plat.trans h1.plat
  have hc : ∀ r k, ((putFrame s1 m.node level frame).dev.setReg 0x3018 (s.dev.plat.reg 0x3018 + 1)).slot r k = s.dev.slot r k :=
    fun r k => (h2.slot r k).trans (h1.slot r k)
  unfold movePageTo
  simp only [hb]
  rw [memRecord_of_no_log (by rw [hp, hl]), hp]
  refine ⟨migAnswer_told ?_ (by rw [hc]) (by rw [hc]) _ _, ?_, ?_, ?_⟩
  · simp [h2.objs, h1.objs, hq]
  · simp [Dev.setReg, Plat.setReg, Plat.reg, Tab.get_set]
  · simp [h2.poison, h1.poison]
  · simp [h2.empty, h1.empty]

end

/-- The state of a move once the bytes stand in the new frame and the leaf entry names it, before translations are dropped (R88). -/
def movedState (s s1 : State) (m : Mig) (level : Nat) (leaf : Word) (frame : Nat) : State :=
  let old := leafBase leaf
  let n := 2 ^ pageShift level
  let e := leafAt s m.asid m.va
  State.physMem { s1 with dev := moveMeta s s1.dev old frame n }
    ((movePage s1.mem old frame n).setWord e (w64 (fld (bits leaf 63 44) 44 + frame / 2 ^ 14 * 2 ^ 14 + bits leaf 13 0))) e 8

/-- The state of a move once its requests follow the page, before the old frame is given back. -/
def redirectedState (s s1 : State) (m : Mig) (level : Nat) (leaf : Word) (frame : Nat) : State :=
  let s2 := movedState s s1 m level leaf frame
  { s2 with dev := followPage (invalidate s2 3 (.page m.asid m.va)) (leafBase leaf) frame (2 ^ pageShift level) }

theorem movePageTo_of_good {s s1 : State} {tn : MigTurn} {level frame : Nat} (hb : badWrite s1 tn frame (2 ^ pageShift level) = none)
    (m : Mig) (leaf : Word) : movePageTo s tn m level leaf s1 frame =
      let s4 := putFrame (redirectedState s s1 m level leaf frame) (nodeOf (leafBase leaf)) level (leafBase leaf)
      { s4 with dev := migAnswer s4.dev m 0 } := by
  simp only [movePageTo, hb]
  rfl

section
variable {s s1 : State} {tn : MigTurn} {m : Mig} {rest : List Mig} {level frame : Nat} (hf : takeFrame s m.node level = some (s1, frame))
  (leaf : Word)
include hf

theorem redirectedState_core (r) : (redirectedState s s1 m level leaf frame).dev.core r =
    ((s.dev.core r).drop (movedState s s1 m level leaf frame) (.page m.asid m.va)).follow (leafBase leaf) frame (2 ^ pageShift level) := by
  have hc : (movedState s s1 m level leaf frame).dev.core r = s.dev.core r := (takeFrame_dev hf).core r
  simp only [redirectedState]
  rw [followPage_core, invalidate_core, hc]

theorem redirectedState_slot (r k) : (redirectedState s s1 m level leaf frame).dev.slot r k = Slot.follow (leafBase leaf) frame
    (2 ^ pageShift level) { s.dev.slot r k with
      flow := { (s.dev.slot r k).flow with walked := dropWalked (.page m.asid m.va) (s.dev.slot r k).flow.walked } } := by
  have hc : (movedState s s1 m level leaf frame).dev.slot r k = s.dev.slot r k := (takeFrame_dev hf).slot r k
  simp only [redirectedState]
  rw [followPage_slot, invalidate_slot, hc]

/-- R88: a move that ends with status 0; its requests follow the page, and no buffer keeps the old translation. -/
theorem movePageTo_moves (hq : s.dev.objs.migs = m :: rest) (hb : badWrite s1 tn frame (2 ^ pageShift level) = none) :
    MigTold s (movePageTo s tn m level leaf s1 frame) m rest 0 ∧
      (∀ r k, ((movePageTo s tn m level leaf s1 frame).dev.slot r k).flow.bag =
          (s.dev.slot r k).flow.bag.map (Req.follow (leafBase leaf) frame (2 ^ pageShift level)) ∧
        ((movePageTo s tn m level leaf s1 frame).dev.slot r k).flow.posted =
          (s.dev.slot r k).flow.posted.map (Req.follow (leafBase leaf) frame (2 ^ pageShift level))) ∧
      (∀ r, ∀ x ∈ ((movePageTo s tn m level leaf s1 frame).dev.core r).eng.tlb,
        ¬(x.asid = m.asid ∧ x.level = level ∧ x.page = m.va / 2 ^ pageShift level)) := by
  have h1 := takeFrame_dev hf
  have h4 := putFrame_dev (redirectedState s s1 m level leaf frame) (nodeOf (leafBase leaf)) level (leafBase leaf)
  rw [movePageTo_of_good hb]
  dsimp only
  refine ⟨migAnswer_told ?_ ?_ ?_ _ _, fun r k => ?_, fun r x hx => ?_⟩
  · rw [h4.objs]
    exact (congrArg Objs.migs h1.objs).trans hq
  · rw [h4.slot, redirectedState_slot hf]
    rfl
  · rw [h4.slot, redirectedState_slot hf]
    rfl
  · rw [migAnswer_flow, h4.slot, redirectedState_slot hf]
    exact ⟨rfl, rfl⟩
  · rw [migAnswer_eng, h4.core, redirectedState_core hf] at hx
    rintro ⟨ha, hl, hp⟩
    exact not_named_of_mem_dropTlb hx ⟨ha, by rw [hl, hp]⟩

/-- R88: where the old frame's node keeps no list, the new frame holds the page's bytes and the leaf entry names it. -/
theorem movePageTo_mem (hb : badWrite s1 tn frame (2 ^ pageShift level) = none)
    (hfree : s.dev.plat.reg (frameList (nodeOf (leafBase leaf)) level) = 0) (hm : s1.mem.wf = true)
    (he : leafAt s m.asid m.va + 8 ≤ frame ∨ frame + 2 ^ pageShift level ≤ leafAt s m.asid m.va) :
    (∀ b < 2 ^ pageShift level, (movePageTo s tn m level leaf s1 frame).mem.read (frame + b) = s1.mem.read (leafBase leaf + b)) ∧
      (frame % 2 ^ 14 = 0 → frame < 2 ^ 44 →
        leafBase ((movePageTo s tn m level leaf s1 frame).mem.word (leafAt s m.asid m.va)) = frame) := by
  have hplat : (redirectedState s s1 m level leaf frame).dev.plat = s.dev.plat := (takeFrame_dev hf).plat
  have hmem : (movePageTo s tn m level leaf s1 frame).mem = (movePage s1.mem (leafBase leaf) frame (2 ^ pageShift level)).setWord
      (leafAt s m.asid m.va) (w64 (fld (bits leaf 63 44) 44 + frame / 2 ^ 14 * 2 ^ 14 + bits leaf 13 0)) := by
    rw [movePageTo_of_good hb, putFrame_of_no_list (by rw [hplat, hfree])]
    rfl
  have hw := movePage_wf hm (leafBase leaf) frame (2 ^ pageShift level)
  rw [hmem]
  refine ⟨fun b hlt => ?_, fun ha hlt => ?_⟩
  · rw [Mem.setWord, Mem.read_writeN_outside _ _ _ _ _ hw (by omega), read_movePage hm _ _ hlt]
  · rw [Mem.word_setWord_same _ _ _ hw, leafBase_of_frame ha hlt]

end

/-! ### The engine's turn -/

/-- A request that ends with a status and no move. -/
theorem told_of_status {s : State} {i : Instr} {m : Mig} {rest : List Mig} (hq : s.dev.objs.migs = m :: rest) {st : Nat}
    (h : exec i s = devStep s (fun d => migAnswer d m st)) :
    ∃ t, (exec i s = .next t ∧ MigTold s t m rest st) ∧ t.mem = s.mem ∧ t.dev.mmeta = s.dev.mmeta :=
  ⟨_, ⟨h, migAnswer_told hq rfl rfl _ _⟩, rfl, migAnswer_mmeta _ _ _⟩

section
variable {s : State} {tn : MigTurn} {m : Mig} {rest : List Mig} {level : Nat} {leaf : Word} (hq : s.dev.objs.migs = m :: rest)
  (hw : walk s m.asid m.va = some (level, leaf)) (hs : migServes s tn.engine m = true) (hh : walkHeld s m.asid m.va = false)
include hq hw hs hh

theorem exec_migration_bad_page (h : level = 0 ∨ m.va % 2 ^ pageShift level ≠ 0) :
    exec (.migration tn) s = devStep s (fun d => migAnswer d m 2) := by
  simp [exec, execMigration, hq, hs, hh, hw, h]

variable (h0 : level ≠ 0) (ha : m.va % 2 ^ pageShift level = 0)
include h0 ha

theorem exec_migration_no_node (hn : nodeConfigured s.dev.objs m.node = false) :
    exec (.migration tn) s = devStep s (fun d => migAnswer d m 3) := by
  simp [exec, execMigration, hq, hs, hh, hw, h0, ha, hn]

variable (hn : nodeConfigured s.dev.objs m.node = true)
include hn

theorem exec_migration_there (ho : nodeOf (leafBase leaf) = m.node) : exec (.migration tn) s = devStep s (fun d => migAnswer d m 0) := by
  simp [exec, execMigration, hq, hs, hh, hw, h0, ha, hn, ho]

variable (ho : nodeOf (leafBase leaf) ≠ m.node)
include ho

theorem exec_migration_guarded (hg : guardIn s.dev.objs (leafBase leaf) (2 ^ pageShift level) = true) :
    exec (.migration tn) s = devStep s (fun d => migAnswer d m 1) := by
  simp [exec, execMigration, hq, hs, hh, hw, h0, ha, hn, ho, hg]

variable (hg : guardIn s.dev.objs (leafBase leaf) (2 ^ pageShift level) = false)
  (hp : pageHeld s (leafBase leaf) (2 ^ pageShift level) = false)
include hg hp

theorem exec_migration_no_frame (hf : takeFrame s m.node level = none) :
    exec (.migration tn) s = devStep s (fun d => migAnswer d m 3) := by
  simp [exec, execMigration, hq, hs, hh, hw, h0, ha, hn, ho, hg, hp, hf]

theorem exec_migration_moves {s1 : State} {frame : Nat} (hf : takeFrame s m.node level = some (s1, frame))
    (hx : s.dev.objs.exists frame = true) (hy : pageHeld s frame (2 ^ pageShift level) = false) :
    exec (.migration tn) s = .next (movePageTo s tn m level leaf s1 frame) := by
  simp [exec, execMigration, hq, hs, hh, hw, h0, ha, hn, ho, hg, hp, hf, hx, hy]

end

/-! ### The engine's own policy (11 R244) -/

section
variable {s : State} {f page count level : Nat} {leaf : Word} (hw : walk s (page / 2 ^ 33) (page % 2 ^ 33 * 2 ^ 16) = some (level, leaf))
include hw

theorem exec_migrationSample_quiet
    (h : (s.dev.plat.reg (0x560 + 8 * f)).getLsbD 63 = false ∨ count ≤ bits (s.dev.plat.reg (0x560 + 8 * f)) 31 0) :
    exec (.migrationSample f page count) s = .next s := by
  have hc : ((s.dev.plat.reg (0x560 + 8 * f)).getLsbD 63 && bits (s.dev.plat.reg (0x560 + 8 * f)) 31 0 < count) = false := by
    rcases h with h | h
    · rw [h, Bool.false_and]
    · rw [decide_eq_false (Nat.not_lt.2 h), Bool.and_false]
  simp only [exec, execMigrationSample, hw, Bool.and_assoc (decide (f < 2)), hc]
  simp

theorem exec_migrationSample_asks (hf : f < 2) (hb : (s.dev.plat.reg (0x560 + 8 * f)).getLsbD 63 = true)
    (hc : bits (s.dev.plat.reg (0x560 + 8 * f)) 31 0 < count) (h0 : level ≠ 0) (hn : nodeOf (leafBase leaf) ≠ 0)
    (he : engineFrame s.dev.objs f (leafBase leaf) = true) (hd : s.dev.dieDown (8 + f) = false)
    (hg : guardIn s.dev.objs (leafBase leaf) (2 ^ pageShift level) = false) (ht : (takeFrame s 0 level).isSome = true)
    (hx : ∀ x ∈ s.dev.objs.migs,
      ¬(x.asid = page / 2 ^ 33 ∧ x.va = page % 2 ^ 33 * 2 ^ 16 / 2 ^ pageShift level * 2 ^ pageShift level)) :
    exec (.migrationSample f page count) s = devStep s (fun d => d.onObjs (fun o => { o with migs := o.migs ++
      [⟨page / 2 ^ 33, page % 2 ^ 33 * 2 ^ 16 / 2 ^ pageShift level * 2 ^ pageShift level, 0, 0, 0, 0, true⟩] })) := by
  have hnone : s.dev.objs.migs.any (fun x => x.asid == page / 2 ^ 33 &&
      x.va == page % 2 ^ 33 * 2 ^ 16 / 2 ^ pageShift level * 2 ^ pageShift level) = false := by
    simpa only [List.any_eq_false, Bool.and_eq_true, beq_iff_eq] using hx
  simp only [exec, execMigrationSample, hw]
  rw [if_pos]
  simp only [Bool.and_eq_true, decide_eq_true_eq, Bool.not_eq_true', hnone]
  exact ⟨⟨⟨⟨⟨⟨⟨⟨⟨hf, hb⟩, hc⟩, h0⟩, hn⟩, he⟩, hd⟩, hg⟩, ht⟩, trivial⟩

end

/-- Settles O58: the turn of an engine, status by status, and its policy's request. -/
theorem migrationsMovePages : Obligations.MigrationsMovePages := by
  unfold Obligations.MigrationsMovePages
  intro s s1 tn f frame a count page m rest level leaf
  refine ⟨fun hq hw hs hh => ⟨fun h => told_of_status hq (exec_migration_bad_page hq hw hs hh h), fun h0 ha => ?_⟩, fun hq => ?_,
    fun hw => ⟨exec_migrationSample_asks hw, exec_migrationSample_quiet hw⟩⟩
  · refine ⟨fun hn => told_of_status hq (exec_migration_no_node hq hw hs hh h0 ha hn), fun hn =>
      ⟨fun ho => told_of_status hq (exec_migration_there hq hw hs hh h0 ha hn ho), fun ho =>
      ⟨fun hg => told_of_status hq (exec_migration_guarded hq hw hs hh h0 ha hn ho hg), fun hg hp =>
      ⟨fun hf => told_of_status hq (exec_migration_no_frame hq hw hs hh h0 ha hn ho hg hp hf), fun hf hx hy => ?_⟩⟩⟩⟩
    have hmove := exec_migration_moves hq hw hs hh h0 ha hn ho hg hp hf hx hy
    refine ⟨fun hb => ?_, fun hb hl => ?_⟩
    · obtain ⟨told, follow, tlb⟩ := movePageTo_moves hf leaf hq hb
      exact ⟨_, ⟨hmove, told⟩, follow, tlb, fun hfree hm he => movePageTo_mem hf leaf hb hfree hm he⟩
    · obtain ⟨told, rest⟩ := movePageTo_aborts hf hq leaf hb hl
      exact ⟨_, ⟨hmove, told⟩, rest⟩
  · simp [exec, execMigration, hq]

end Sys2Proof.Machine
end

section
/-! SUPPORT. The source port's choice of a route, and lists by place (10 R225). -/

namespace Sys2Proof.Machine

/-! ### Lists by place -/

theorem nth?_modAt {α : Type} (f : α → α) {l : List α} {i : Nat} {x : α} (h : nth? l i = some x) : nth? (modAt f l i) i = some (f x) := by
  induction l generalizing i with
  | nil => cases h
  | cons a l ih =>
    cases i with
    | zero =>
      cases h
      rfl
    | succ i => exact ih h

/-! ### The best route -/

theorem rankLt_asymm {a b : Nat × Nat × Nat} (h : rankLt a b = true) : rankLt b a = false := by
  simp only [rankLt, Bool.or_eq_true, Bool.and_eq_true, decide_eq_true_eq, beq_iff_eq, Bool.eq_false_iff, ne_eq] at *
  omega

theorem rankLt_neg_trans {a b c : Nat × Nat × Nat} (hab : rankLt a b = false) (hbc : rankLt b c = false) : rankLt a c = false := by
  simp only [rankLt, Bool.or_eq_true, Bool.and_eq_true, decide_eq_true_eq, beq_iff_eq, Bool.eq_false_iff, ne_eq] at *
  omega

theorem leastRoute_eq_none {f : List Nat → Nat × Nat × Nat} {l : List (List Nat)} : leastRoute f l = none ↔ l = [] := by
  cases l with
  | nil => simp [leastRoute]
  | cons r l =>
    simp only [leastRoute]
    split
    · simp
    · split <;> simp

/-- The route chosen is one of the list, and none of the list ranks before it. -/
theorem leastRoute_spec {f : List Nat → Nat × Nat × Nat} {l : List (List Nat)} {b : List Nat} (h : leastRoute f l = some b) :
    b ∈ l ∧ ∀ x ∈ l, rankLt (f x) (f b) = false := by
  induction l generalizing b with
  | nil => cases h
  | cons r l ih =>
    have hself : ∀ a : Nat × Nat × Nat, rankLt a a = false := fun a => by simp [rankLt]
    simp only [leastRoute] at h
    split at h
    · next hn =>
      cases h
      have hl := leastRoute_eq_none.1 hn
      subst hl
      exact ⟨.head _, by simp [hself]⟩
    · next c hc =>
      obtain ⟨hm, hmin⟩ := ih hc
      split at h
      · next hlt =>
        cases h
        refine ⟨.tail _ hm, fun x hx => ?_⟩
        rcases List.mem_cons.1 hx with rfl | hx
        · exact rankLt_asymm hlt
        · exact hmin x hx
      · next hlt =>
        cases h
        refine ⟨.head _, fun x hx => ?_⟩
        rcases List.mem_cons.1 hx with rfl | hx
        · exact hself _
        · exact rankLt_neg_trans (hmin x hx) (by simpa using hlt)

section
variable {d : Dev} {occ : Nat → Nat} {b : Nat} {route : List Nat}

/-- The usable minimal routes. -/
def bestRoutes (d : Dev) (b : Nat) : List (List Nat) := (minimal d.objs.peerSelf.toNat b).filter (routeOk d d.objs.peerSelf.toNat)

theorem routesTo_eq (d : Dev) (b : Nat) :
    routesTo d b = bestRoutes d b ++ (detours d.objs.peerSelf.toNat b).filter (routeOk d d.objs.peerSelf.toNat) :=
  List.filter_append ..

theorem chooseRoute_none (h : routesTo d b = []) : chooseRoute d occ b = none := by
  rw [routesTo_eq, List.append_eq_nil_iff] at h
  obtain ⟨hbest, hdet⟩ := h
  have h1 : leastRoute (routeRank d occ) (bestRoutes d b) = none := leastRoute_eq_none.2 hbest
  have h2 := leastRoute_eq_none (f := routeRank d occ).2 hdet
  unfold bestRoutes at h1
  simp [chooseRoute, h1, h2]

/-- R225: a minimal route while one is usable, the best-ranked of them; else the best-ranked detour. -/
theorem chooseRoute_spec (h : chooseRoute d occ b = some route) : route ∈ routesTo d b ∧
    (bestRoutes d b ≠ [] → route ∈ bestRoutes d b ∧ ∀ x ∈ bestRoutes d b, rankLt (routeRank d occ x) (routeRank d occ route) = false) ∧
    (bestRoutes d b = [] → ∀ x ∈ routesTo d b, rankLt (routeRank d occ x) (routeRank d occ route) = false) := by
  have hc : (leastRoute (routeRank d occ) (bestRoutes d b)).or
      (leastRoute (routeRank d occ) ((detours d.objs.peerSelf.toNat b).filter (routeOk d d.objs.peerSelf.toNat))) = some route := h
  rw [routesTo_eq]
  by_cases hb : bestRoutes d b = []
  · rw [leastRoute_eq_none.2 hb, Option.none_or] at hc
    obtain ⟨hm, hmin⟩ := leastRoute_spec hc
    exact ⟨List.mem_append_right _ hm, fun hn => absurd hb hn, fun _ x hx => hmin x (by simpa [hb] using hx)⟩
  · obtain ⟨c, hcs⟩ := Option.ne_none_iff_exists'.1 (mt leastRoute_eq_none.1 hb)
    rw [hcs, Option.some_or] at hc
    cases hc
    obtain ⟨hm, hmin⟩ := leastRoute_spec hcs
    exact ⟨List.mem_append_left _ hm, fun _ => ⟨hm, hmin⟩, fun hn => absurd hn hb⟩

/-- R225, R227: a packet is marked as on a detour when no minimal route was usable. -/
theorem chooseRoute_detour (h : chooseRoute d occ b = some route) :
    (!(minimal d.objs.peerSelf.toNat b).contains route) = decide (bestRoutes d b = []) := by
  obtain ⟨hr, hbest, -⟩ := chooseRoute_spec h
  by_cases hb : bestRoutes d b = []
  · have hn : route ∉ minimal d.objs.peerSelf.toNat b := by
      intro hm
      have : route ∈ bestRoutes d b := List.mem_filter.2 ⟨hm, (List.mem_filter.1 hr).2⟩
      simp [hb] at this
    simp [hb, hn]
  · have hm := (List.mem_filter.1 (hbest hb).1).1
    simp [hb, hm]

end

end Sys2Proof.Machine
end

section
/-! SUPPORT. Answers to a load in the fabric: responses, notices, and failures on its route (25 R440, R441, R444, R452). -/

namespace Sys2Proof.Machine

/-! ### What a thread's request becomes -/

theorem Dev.onThrFlow_eq_onSlot (d : Dev) {r k : Nat} (hr : r < 2048) (hk : k < 16) (f : Flow → Flow) :
    d.onThrFlow r k f = d.onSlot r k (fun t => { t with flow := f t.flow }) := by
  simp [Dev.onThrFlow, Dev.onThr, Nat.not_le.2 hr, hk]

/-- The requester of `f` has a value or a fault: `s` but for the flow of its context. -/
def State.answered (s : State) (f : FReq) (res : Res) : State :=
  { s with dev := s.dev.onThrFlow f.rank f.slot (fun x => x.answer f.req res) }

/-- The result of a load that was lost on its way: 0x48 with the notice and the element as operand (25 R441). -/
def lostRes (q : Req) (b : Byte) : Res := .defer 0x48 (BitVec.ofNat 32 (b.toNat * 2 ^ 16 + q.elem))

/-- In `t` request `i` of `s`'s fabric, which is `f`, has left it, and its thread has the value `v`. -/
def Answered (s t : State) (i : Nat) (f : FReq) (v : RetVal) : Prop :=
  t.mem = s.mem ∧ t.dev.objs.fabric = dropAt s.dev.objs.fabric i ∧
    (t.dev.slot f.rank f.slot).flow.rets = (s.dev.slot f.rank f.slot).flow.rets ++ [⟨f.req, v⟩] ∧
    (∀ r k, ¬(r = f.rank ∧ k = f.slot) → t.dev.slot r k = s.dev.slot r k) ∧ t.dev.plat = s.dev.plat

/-- The value or fault that a result gives. -/
def Res.value (q : Req) : Res → Option RetVal
  | .ret ws ok => some (.words ws ok)
  | .defer c o => some (.defer c q.ptr o)
  | _ => none

theorem Flow.answer_rets {res : Res} {q : Req} {v : RetVal} (h : res.value q = some v) (x : Flow) :
    (x.answer q res).rets = x.rets ++ [⟨q, v⟩] := by
  cases res <;> simp only [Res.value, reduceCtorEq, Option.some.injEq] at h <;> rw [← h] <;> rfl

section
variable {f : FReq} (hr : f.rank < 2048) (hk : f.slot < 16)
include hr hk

theorem State.answered_rets {s u : State} (hc : u.dev.cores = s.dev.cores) {res : Res} {v : RetVal} (hv : res.value f.req = some v) :
    ((u.answered f res).dev.slot f.rank f.slot).flow.rets = (s.dev.slot f.rank f.slot).flow.rets ++ [⟨f.req, v⟩] := by
  have hs : u.dev.slot f.rank f.slot = s.dev.slot f.rank f.slot := by rw [Dev.slot, Dev.core, hc]; rfl
  simp [State.answered, Dev.onThrFlow_eq_onSlot _ hr hk, Flow.answer_rets hv, hs]

theorem State.answered_objs (u : State) (res : Res) : (u.answered f res).dev.objs = u.dev.objs := by
  simp [State.answered, Dev.onThrFlow_eq_onSlot _ hr hk]

theorem State.answered_of_left {s u : State} {i : Nat} (hm : u.mem = s.mem) (hc : u.dev.cores = s.dev.cores)
    (hf : u.dev.objs.fabric = dropAt s.dev.objs.fabric i) (hp : u.dev.plat = s.dev.plat) {res : Res} {v : RetVal}
    (hv : res.value f.req = some v) : Answered s (u.answered f res) i f v := by
  refine ⟨hm, ?_, State.answered_rets hr hk hc hv, fun r k hne => ?_, ?_⟩
  · rw [State.answered_objs hr hk, hf]
  · have hs : u.dev.slot r k = s.dev.slot r k := by rw [Dev.slot, Dev.core, hc]; rfl
    have hne' : ¬(f.rank = r ∧ f.slot = k) := fun h => hne ⟨h.1.symm, h.2.symm⟩
    simp [State.answered, Dev.onThrFlow_eq_onSlot _ hr hk, Dev.onSlot_slot, hne', hs]
  · simp [State.answered, Dev.onThrFlow_eq_onSlot _ hr hk, hp]

end

/-! ### A load -/

theorem ofBytes_lt (bs : List Byte) : ofBytes bs < 256 ^ bs.length := by
  induction bs with
  | nil => decide
  | cons b bs ih =>
    have := b.isLt
    simp only [ofBytes, List.length_cons]
    omega

section
variable {f : FReq} {n : Nat} (hkind : f.req.kind < 5) (hop : f.req.op = .load n false)
include hkind hop

theorem noticeTo_load (s : State) (b : Byte) : noticeTo s f b = s.answered f (lostRes f.req b) := by
  have hg : f.req.op.guardOp = false := by rw [hop]; rfl
  have hret : f.req.op.returns = true := by rw [hop]; rfl
  have ho : BitVec.ofNat 32 (fld b.toNat 16) + BitVec.ofNat 32 f.req.elem = BitVec.ofNat 32 (b.toNat * 2 ^ 16 + f.req.elem) :=
    (BitVec.ofNat_add ..).symm
  simp only [noticeTo, hg, Bool.false_eq_true, if_false, failRequest, hret, if_true, ho]
  generalize f.req.kind = k at hkind
  match k with
  | 0 | 1 | 2 | 3 | 4 => rfl

theorem answerTo_load (s : State) (a : Answer) : answerTo s f a = s.answered f (peerRes f.req a) := by
  refine answerTo_plain (by rw [hop]; rfl) ?_ s a
  simp only [List.mem_cons, List.not_mem_nil, or_false]
  omega

omit hkind in
theorem peerRes_load_data {bs : List Byte} (hn : n ≤ 8) (hb : bs.length = n) :
    peerRes f.req (.data bs) = .ret [extendN n false (ofBytes bs)] true := by
  have hlt : ofBytes bs < 2 ^ 64 := (ofBytes_lt bs).trans_le ((Nat.pow_le_pow_right (by decide) (hb.trans_le hn)).trans (by decide))
  have hw : (w64 (ofBytes bs)).toNat = ofBytes bs := by rw [w64, BitVec.toNat_ofNat, Nat.mod_eq_of_lt hlt]
  simp [peerRes, hop, ReqOp.returns, peerValue, nth, hw]

theorem peerRes_load_poison : peerRes f.req .poison = .defer 0x68 (poisonOpnd f.req.elem 1) := by
  have h5 : f.req.kind ≠ 5 := by omega
  simp [peerRes, hop, ReqOp.returns, poisonSource, h5]

end

end Sys2Proof.Machine
end

section
/-! SUPPORT. Custody, responses and notices, failures that are announced, drags (10 R225 to R227, 25 R440 to R446, R451). -/

namespace Sys2Proof.Machine

/-! ### Custody -/

section
variable {s : State} {i occ : Nat} {f : FReq} (hi : nth? s.dev.objs.fabric i = some f)
include hi

section
variable (h0 : f.stage = 0) (hq : ∀ g ∈ s.dev.objs.fabric.take i, sameOrder f g = false)
include h0 hq

theorem exec_packetCustody_full {route : List Nat} (hc : chooseRoute s.dev (occupancy occ) f.req.target = some route)
    (hl : linkRoom (Tab.get {} s.dev.objs.links ((linkTo s.dev (route.head?.getD f.req.target)).getD 0)) (flits f.req.op) = false) :
    exec (.packetCustody i occ) s = .next s := by
  have ha : (s.dev.objs.fabric.take i).any (sameOrder f) = false := List.any_eq_false.2 fun g hg => by simp [hq g hg]
  simp only [exec, execPacketCustody, hi, h0, ha, hc, hl]
  rfl

theorem exec_packetCustody_sends {route : List Nat} (hc : chooseRoute s.dev (occupancy occ) f.req.target = some route)
    (hl : linkRoom (Tab.get {} s.dev.objs.links ((linkTo s.dev (route.head?.getD f.req.target)).getD 0)) (flits f.req.op) = true) :
    exec (.packetCustody i occ) s = devStep s (fun d => d.onObjs (fun o => { o with
      fabric := modAt (fun x => { x with
        route := route, stage := 1, marked := !(minimal s.dev.objs.peerSelf.toNat f.req.target).contains route }) o.fabric i
      links := Tab.set o.links ((linkTo s.dev (route.head?.getD f.req.target)).getD 0)
        (let k : Link := Tab.get {} s.dev.objs.links ((linkTo s.dev (route.head?.getD f.req.target)).getD 0)
         { k with txseq := k.txseq + BitVec.ofNat 12 (flits f.req.op) }) })) := by
  have ha : (s.dev.objs.fabric.take i).any (sameOrder f) = false := List.any_eq_false.2 fun g hg => by simp [hq g hg]
  simp only [exec, execPacketCustody, hi, h0, ha, hc, hl]
  rfl

theorem exec_packetCustody_no_route (hc : chooseRoute s.dev (occupancy occ) f.req.target = none) : exec (.packetCustody i occ) s =
    .next (noticeTo { s with dev := s.dev.onObjs (fun o => { o with fabric := dropAt o.fabric i }) } f
      (if s.dev.objs.knownDown.contains f.req.target then 0x31 else 0x21)) := by
  have ha : (s.dev.objs.fabric.take i).any (sameOrder f) = false := List.any_eq_false.2 fun g hg => by simp [hq g hg]
  simp only [exec, execPacketCustody, hi, h0, ha, hc]
  rfl

end

theorem exec_packetCustody_acknowledged (h1 : f.stage = 1) (hu : linkUp s.dev (f.link s.dev) = true) : exec (.packetCustody i occ) s =
    devStep s (fun d => acknowledged (d.onObjs (fun o => { o with fabric := modAt (fun x => { x with stage := 2 }) o.fabric i }))
      (f.link d) (flits f.req.op)) := by
  simp [exec, execPacketCustody, hi, h1, hu]

theorem exec_packetCustody_waits (h1 : f.stage = 1) (hu : linkUp s.dev (f.link s.dev) = false) :
    exec (.packetCustody i occ) s = .next s := by
  simp [exec, execPacketCustody, hi, h1, hu]

theorem exec_packetCustody_accepted (h2 : f.stage = 2) : exec (.packetCustody i occ) s =
    devStep s (fun d => d.onObjs (fun o => { o with fabric := modAt (fun x => { x with stage := 3 }) o.fabric i })) := by
  simp [exec, execPacketCustody, hi, h2]

/-! ### Responses and notices -/

theorem exec_responseArrival (h3 : f.stage = 3) (ok mark : Bool) (a : Answer) : exec (.responseArrival i ok mark a) s =
    .next (let d := (s.dev.onObjs (fun o => { o with fabric := dropAt o.fabric i })).received (f.link s.dev) (answerFlits a)
      let s1 : State := { s with dev := if mark then markDrag d f.req.target else d }
      if ok then answerTo s1 f a else noticeTo s1 f 0x42) := by
  simp [exec, execResponseArrival, hi, h3, fabricDone]

theorem exec_errorNotice (h1 : 1 ≤ f.stage) {n : Byte} (hr : 1 ≤ n.toNat / 16) (hr4 : n.toNat / 16 ≤ 4) (ho : 1 ≤ n.toNat % 16)
    (ho3 : n.toNat % 16 ≤ 3) :
    exec (.errorNotice i n) s = .next (noticeTo { s with dev := (fabricDone s.dev i f).received (f.link s.dev) 2 } f n) := by
  have hn : (n.toNat / 16 = 0 || 4 < n.toNat / 16 || n.toNat % 16 = 0 || 3 < n.toNat % 16) = false := by
    simp only [Bool.or_eq_false_iff, decide_eq_false_iff_not]
    omega
  have h0 : f.stage ≠ 0 := by omega
  simp only [exec, execErrorNotice, hn, hi, h0]
  rfl

end

/-! ### Failures that become known -/

theorem FReq.link_of_peerSelf {d d' : Dev} (h : d'.objs.peerSelf = d.objs.peerSelf) (f : FReq) : f.link d' = f.link d := by
  simp [FReq.link, linkTo, linkFar, h]

/-- Where no request is in custody, a failure cuts none. -/
theorem cutRequests_of_unsent {s : State} (h : ∀ g ∈ s.dev.objs.fabric, g.stage = 0) (n : Nat) : cutRequests s n = s := by
  cases n with
  | zero => rfl
  | succ n =>
    have hn : s.dev.objs.fabric.find? (fun f => 1 ≤ f.stage && (!cutRequests.routeKnown s.dev f.route ||
        (!cutRequests.waits s.dev f && (routesTo s.dev f.req.target).isEmpty))) = none := by
      simp only [List.find?_eq_none]
      intro g hg
      simp [h g hg]
    simp only [cutRequests, hn]

@[simp] theorem setLink_cores (d : Dev) (i l) : (setLink d i l).cores = d.cores := by
  unfold setLink
  dsimp only
  split <;> rfl

@[simp] theorem setLink_fabric (d : Dev) (i l) : (setLink d i l).objs.fabric = d.objs.fabric := by
  unfold setLink
  dsimp only
  split <;> rfl

@[simp] theorem setLink_peerSelf (d : Dev) (i l) : (setLink d i l).objs.peerSelf = d.objs.peerSelf := by
  unfold setLink
  dsimp only
  split <;> rfl

/-- Link `l` has failed; nothing of it stays to be acknowledged (log 44). -/
def State.linkFailed (s : State) (l : Nat) (k : Link) : State :=
  { s with dev := setLink s.dev l { k with state := 4, wide := false, acked := k.txseq } }

theorem linkFails_eq (s : State) (l : Nat) (k : Link) :
    linkFails s l k = cutRequests (linkNotices l (s.linkFailed l k) s.dev.objs.fabric.length) s.dev.objs.fabric.length := rfl

/-- `f` leaves the fabric. -/
def State.dropRequest (s : State) (f : FReq) : State := { s with dev := s.dev.onObjs (fun o => { o with fabric := o.fabric.erase f }) }

theorem State.dropRequest_fabric {s : State} {f : FReq} (hf : s.dev.objs.fabric = [f]) : (s.dropRequest f).dev.objs.fabric = [] := by
  simp [State.dropRequest, hf]

section
variable {s : State} {f : FReq} {n : Nat} (hkind : f.req.kind < 5) (hop : f.req.op = .load n false) (hf : s.dev.objs.fabric = [f])
include hkind hop hf

/-- 25 R440: the one packet in the fabric, which waits on a link, becomes a notice of reason 1. -/
theorem linkNotices_only (h1 : f.stage = 1) {l : Nat} (hl : f.link s.dev = l) :
    linkNotices l s 1 = (s.dropRequest f).answered f (lostRes f.req 0x11) := by
  have hfind : s.dev.objs.fabric.find? (fun g => g.stage == 1 && g.link s.dev == l) = some f := by simp [hf, h1, hl]
  simp only [linkNotices, hfind]
  exact noticeTo_load hkind hop _ _

/-- 25 R444: the one request in custody, on a route through a device that failed, and for it. -/
theorem cutRequests_only (h1 : 1 ≤ f.stage) (hroute : cutRequests.routeKnown s.dev f.route = false)
    (hdown : s.dev.objs.knownDown.contains f.req.target = true) : cutRequests s 1 = (s.dropRequest f).answered f (lostRes f.req 0x33) := by
  have hfind : s.dev.objs.fabric.find? (fun f => 1 ≤ f.stage && (!cutRequests.routeKnown s.dev f.route ||
      (!cutRequests.waits s.dev f && (routesTo s.dev f.req.target).isEmpty))) = some f := by
    simp [hf, h1, hroute]
  simp only [cutRequests, hfind, hdown]
  exact noticeTo_load hkind hop _ _

variable (hr : f.rank < 2048) (hk : f.slot < 16)
include hr hk

theorem linkFails_waiting (h1 : f.stage = 1) (k : Link) :
    (linkFails s (f.link s.dev) k).dev.objs.fabric = [] ∧
      ((linkFails s (f.link s.dev) k).dev.slot f.rank f.slot).flow.rets =
        (s.dev.slot f.rank f.slot).flow.rets ++ [⟨f.req, .defer 0x48 f.req.ptr (BitVec.ofNat 32 (0x11 * 2 ^ 16 + f.req.elem))⟩] := by
  have hf0 : (s.linkFailed (f.link s.dev) k).dev.objs.fabric = [f] := (setLink_fabric ..).trans hf
  have hl : f.link (s.linkFailed (f.link s.dev) k).dev = f.link s.dev := FReq.link_of_peerSelf (setLink_peerSelf ..) f
  have hnil : (((s.linkFailed (f.link s.dev) k).dropRequest f).answered f (lostRes f.req 0x11)).dev.objs.fabric = [] := by
    rw [State.answered_objs hr hk, State.dropRequest_fabric hf0]
  rw [linkFails_eq, hf, List.length_singleton, linkNotices_only hkind hop hf0 h1 hl,
    cutRequests_of_unsent fun g hg => absurd (hnil ▸ hg) List.not_mem_nil]
  exact ⟨hnil, State.answered_rets hr hk (setLink_cores ..) rfl⟩

/-- 25 R444: the one request in custody, whose target fails, gets a notice of outcome 3. -/
theorem announce_target (h1 : 1 ≤ f.stage) (hroute : f.route = [f.req.target]) :
    ∃ t, exec (.failureAnnounce (.device f.req.target)) s = .next t ∧ t.dev.objs.fabric = [] ∧ f.req.target ∈ t.dev.objs.knownDown ∧
      (t.dev.slot f.rank f.slot).flow.rets = (s.dev.slot f.rank f.slot).flow.rets ++
        [⟨f.req, .defer 0x48 f.req.ptr (BitVec.ofNat 32 (0x33 * 2 ^ 16 + f.req.elem))⟩] := by
  refine ⟨_, rfl, ?_⟩
  rw [hf, List.length_singleton, cutRequests_only hkind hop (by exact hf) h1 (by simp [cutRequests.routeKnown, hroute]) (by simp),
    State.answered_objs hr hk]
  exact ⟨State.dropRequest_fabric hf, by simp [State.dropRequest], State.answered_rets hr hk rfl rfl⟩

end

theorem farLink_comm (a b : Nat) : farLink a b = farLink b a := by
  simp [farLink, Nat.min_comm, Nat.max_comm]

theorem hopOk_of_farLinks {d : Dev} {a b : Nat} (h : d.objs.farLinks.contains (farLink a b) = true) : hopOk d a b = false := by
  simp only [hopOk, h]
  simp

theorem farLinkNews_down (o : Objs) (a b : Nat) : (farLinkNews o a b false).farLinks.contains (farLink a b) = true := by
  simp only [farLinkNews, Bool.false_eq_true, if_false]
  split
  · assumption
  · simp

/-! ### Drags (R227) -/

/-- A drag is the pair of a numerator and a power of two; a mark takes an eighth off, down to 1/64. -/
theorem markDrag_drag (d : Dev) (p : Nat) : let x : Nat × Nat := Tab.get (1, 0) (markDrag d p).objs.drags p
    64 * 2 ^ ((Tab.get (1, 0) d.objs.drags p : Nat × Nat).2 + 3) * x.1 =
      2 ^ x.2 * max (64 * (7 * (Tab.get (1, 0) d.objs.drags p : Nat × Nat).1))
        (2 ^ ((Tab.get (1, 0) d.objs.drags p : Nat × Nat).2 + 3)) := by
  generalize hx : (Tab.get (1, 0) d.objs.drags p : Nat × Nat) = x
  simp only [markDrag, Dev.onObjs_objs, Tab.get_set, if_true, hx]
  split
  · next h =>
    rw [Nat.max_eq_right (Nat.le_of_lt h)]
    ring
  · next h =>
    rw [Nat.max_eq_left (Nat.not_lt.1 h)]
    ring

end Sys2Proof.Machine
end

section
/-! SUPPORT. A peer's packet at this device's port (04 R96, 11 R245, 25 R451, R454). -/

namespace Sys2Proof.Machine

/-! ### What an encrypted write keeps -/

theorem Dev.encrypt_keeps (d : Dev) (pa n key : Nat) : (d.encrypt pa n key).cores = d.cores ∧ (d.encrypt pa n key).plat = d.plat ∧
    (d.encrypt pa n key).objs = d.objs ∧ (d.encrypt pa n key).mmeta.empty = d.mmeta.empty := by
  unfold Dev.encrypt
  induction linesOf pa n generalizing d with
  | nil => exact ⟨rfl, rfl, rfl, rfl⟩
  | cons l ls ih => exact ih (d.encryptLine key l)

/-! ### Words of a peer's engine -/

theorem foldl_noteLine_of_good {s : State} {ls : List Nat} (h : ∀ l ∈ ls, s.dev.badTag l = false) : ls.foldl noteLine s = s := by
  induction ls with
  | nil => rfl
  | cons l ls ih =>
    have hl : noteLine s l = s := by simp [noteLine, h l (.head ls)]
    rw [List.foldl_cons, hl, ih fun x hx => h x (.tail l hx)]

theorem wordMask_whole (w : Nat) : wordMask (8 * w) 8 w = 0xFF := by
  have h : ∀ i ∈ List.range 8, (decide (8 * w ≤ 8 * w + i) && decide (8 * w + i < 8 * w + 8)) = true := by
    intro i hi
    have := List.mem_range.1 hi
    simp only [Bool.and_eq_true, decide_eq_true_eq]
    omega
  unfold wordMask upto
  rw [List.foldl_ext _ (fun (m : BitVec 8) i => m ||| (1 <<< i)) _ fun m i hi => if_pos (h i hi)]
  decide

/-- An aligned word that an engine writes whole is covered. -/
theorem masks_whole {pa : Nat} (h : pa % 8 = 0) : (Loc.glob pa).masks 8 = [(.glob pa, 0xFF)] := by
  obtain ⟨w, rfl⟩ : ∃ w, pa = 8 * w := ⟨pa / 8, by omega⟩
  have ht : touched (8 * w) 8 = [w] := by
    have h1 : (8 * w + 8 - 1) / 8 - w + 1 = 1 := by omega
    have h2 : 8 * w / 8 = w := by omega
    simp only [touched, h2, h1, if_neg (show ¬8 = 0 by decide)]
    simp [upto]
  simp [Loc.masks, ht, wordMask_whole]

/-- 06 R132: a word set full for which nobody waits. -/
theorem fillWords_glob {s : State} (h : s.dev.objs.feWait = []) (pa : Nat) :
    fillWords s [.glob pa] = markEligible (s.setFe (.glob pa) false) pa := by
  have hw : (markEligible (s.setFe (.glob pa) false) pa).dev.objs.feWait = [] := h
  have hs : serveWaiters 1 (markEligible (s.setFe (.glob pa) false) pa) (.glob pa) = markEligible (s.setFe (.glob pa) false) pa := by
    simp [serveWaiters, hw, firstWaiter]
  simp only [fillWords, serveAll, List.foldl_cons, List.foldl_nil, hw, List.length_nil]
  exact hs

theorem writeBytes_word {s : State} {bs : List Byte} (hb : bs.length = 8) (pa key : Nat) :
    writeBytes s (.glob pa) key bs = clearLines (s.writeLoc (.glob pa) key bs) (.glob pa) 8 := by
  have hr : wordRanges 0 8 = [(0, 8)] := by decide
  have ht : bs.take 8 = bs := List.take_of_length_le (by omega)
  simp [writeBytes, hb, hr, writeRanges, Loc.plus, ht]

/-- 25 R454: a word that a peer's engine writes whole. -/
theorem engineBytes_word {s : State} {src pa key : Nat} {bs : List Byte} (hb : bs.length = 8) (ha : pa % 8 = 0)
    (ht : ∀ l ∈ linesOf pa 8, s.dev.badTag l = false) (hc : s.dev.objs.peerCover = []) (hf : s.dev.objs.feWait = [])
    (he : Tab.wfFrom false 0 s.dev.mmeta.empty = true) :
    (engineBytes s src (.glob pa) key bs).mem = (s.memAs pa 8 key).setBytes pa bs ∧
      ∀ w, Tab.get false (engineBytes s src (.glob pa) key bs).dev.mmeta.empty w =
        if w = pa / 8 then false else Tab.get false s.dev.mmeta.empty w := by
  have hn : notePartial s (.glob pa) 8 = s := foldl_noteLine_of_good fun l hl => ht l (List.mem_filter.1 hl).1
  obtain ⟨-, -, ho, hm⟩ := Dev.encrypt_keeps s.dev pa 8 key
  have hx : ((Loc.glob pa).masks 8).foldl (coverPeer src) ([], []) = ([], [.glob pa]) := by
    rw [masks_whole ha]
    simp [coverPeer]
  have hw : writeBytes s (.glob pa) key bs = clearLines (s.writeLoc (.glob pa) key bs) (.glob pa) 8 := writeBytes_word hb pa key
  have hcover : (writeBytes s (.glob pa) key bs).dev.objs = s.dev.objs := by
    rw [hw, ← ho, ← hb]
    rfl
  have hempty : (writeBytes s (.glob pa) key bs).dev.mmeta.empty = s.dev.mmeta.empty := by
    rw [hw, ← hm, ← hb]
    rfl
  have hmem : (writeBytes s (.glob pa) key bs).mem = (s.memAs pa 8 key).setBytes pa bs := by
    rw [hw, ← hb]
    rfl
  have heng : engineBytes s src (.glob pa) key bs = markEligible (State.setFe { writeBytes s (.glob pa) key bs with
      dev := (writeBytes s (.glob pa) key bs).dev.onObjs (fun o => { o with peerCover := [] }) } (.glob pa) false) pa := by
    simp only [engineBytes, hb, hn, hcover, hc, hx]
    exact fillWords_glob (by simp [hcover, hf]) pa
  rw [heng]
  refine ⟨hmem, fun w => ?_⟩
  show Tab.get false (Tab.put false (writeBytes s (.glob pa) key bs).dev.mmeta.empty (pa / 8) false) w = _
  rw [hempty, Tab.get_put false _ 0 _ _ _ he]
  simp only [eq_comm]

/-! ### A packet -/

/-- `s` with other links. -/
def State.withLinks (s : State) (ls : Tab Link) : State := { s with dev := s.dev.onObjs (fun o => { o with links := ls }) }

section
variable (s : State) (ls : Tab Link)

@[simp] theorem State.withLinks_homeDie (pa : Nat) : (s.withLinks ls).dev.objs.homeDie pa = s.dev.objs.homeDie pa := by
  simp only [State.withLinks, Dev.onObjs_objs, Objs.homeDie]

@[simp] theorem State.withLinks_dies : (s.withLinks ls).dev.dies = s.dev.dies := rfl
@[simp] theorem State.withLinks_plat : (s.withLinks ls).dev.plat = s.dev.plat := rfl
@[simp] theorem State.withLinks_mmeta : (s.withLinks ls).dev.mmeta = s.dev.mmeta := rfl
@[simp] theorem State.withLinks_mem : (s.withLinks ls).mem = s.mem := rfl
@[simp] theorem State.withLinks_roots : (s.withLinks ls).dev.objs.roots = s.dev.objs.roots := rfl
@[simp] theorem State.withLinks_badTag (l : Nat) : (s.withLinks ls).dev.badTag l = s.dev.badTag l := rfl

@[simp] theorem State.withLinks_lost (pa : Nat) : (s.withLinks ls).lost (.glob pa) = s.lost (.glob pa) := by
  simp only [State.lost, State.withLinks_homeDie, Dev.dieDown, Dev.die, State.withLinks_dies, State.withLinks_plat]

@[simp] theorem State.withLinks_poisoned (pa : Nat) : (s.withLinks ls).poisoned (.glob pa) = s.poisoned (.glob pa) := by
  simp only [State.poisoned, State.withLinks_homeDie, Dev.die, State.withLinks_dies, State.withLinks_plat, State.withLinks_mmeta,
    State.withLinks_badTag]

@[simp] theorem State.withLinks_walkPoison (asid va : Nat) : walkPoison (s.withLinks ls) asid va = walkPoison s asid va := by
  simp only [walkPoison, State.withLinks_roots, State.withLinks_mem, State.withLinks_poisoned]

@[simp] theorem State.withLinks_memAs (pa n key : Nat) : (s.withLinks ls).memAs pa n key = s.memAs pa n key := rfl

end

/-- A packet's flits have come over its link, and its response has left over it (log 57). -/
def State.packetGot (s : State) (link : Nat) (op : PacketOp) : State :=
  { s with dev := (s.dev.received link (packetFlits op)).responded link (responseFlits op) }

theorem State.packetGot_memAs (s : State) (link : Nat) (op : PacketOp) (pa n key : Nat) :
    (s.packetGot link op).memAs pa n key = s.memAs pa n key := rfl

theorem State.packetGot_eq (s : State) (link : Nat) (op : PacketOp) : ∃ ls, s.packetGot link op = s.withLinks ls := ⟨_, rfl⟩

/-- 25 R454: the word of a peer's engine, once its packet has come. -/
theorem engineBytes_packetGot {s : State} {src pa key : Nat} {bs : List Byte} (hb : bs.length = 8) (ha : pa % 8 = 0)
    (ht : ∀ l ∈ linesOf pa 8, s.dev.badTag l = false) (hc : s.dev.objs.peerCover = []) (hf : s.dev.objs.feWait = [])
    (he : Tab.wfFrom false 0 s.dev.mmeta.empty = true) (link : Nat) (op : PacketOp) :
    (engineBytes (s.packetGot link op) src (.glob pa) key bs).mem = (s.memAs pa 8 key).setBytes pa bs ∧
      ∀ w, Tab.get false (engineBytes (s.packetGot link op) src (.glob pa) key bs).dev.mmeta.empty w =
        if w = pa / 8 then false else Tab.get false s.dev.mmeta.empty w := by
  obtain ⟨ls, h⟩ := s.packetGot_eq link op
  have ht' : ∀ l ∈ linesOf pa 8, (s.withLinks ls).dev.badTag l = false := fun l hl => by rw [State.withLinks_badTag, ht l hl]
  obtain ⟨hmem, hempty⟩ := engineBytes_word (src := src) (key := key) hb ha ht' hc hf he
  rw [State.withLinks_memAs] at hmem
  rw [h]
  exact ⟨hmem, hempty⟩

section
variable {s : State} {link : Nat} (hl : link < 14) (hu : linkUp s.dev link = true)
include hl hu

/-- 25 R451: a packet whose CRC fails performs nothing. -/
theorem exec_targetPacket_bad_crc (src va : Nat) (op : PacketOp) :
    exec (.targetPacket ⟨link, src⟩ va false op) s = .next (s.packetGot link op) := by
  simp only [exec, execTargetPacket, hu, decide_eq_false (Nat.not_le.2 hl)]
  rfl

variable {src : Nat} (hs : src < 256)
include hs

theorem exec_targetPacket_barrier (va queue : Nat) : exec (.targetPacket ⟨link, src⟩ va true (.barrier queue)) s =
    devStep (s.packetGot link (.barrier queue)) (fun d => d.onObjs (fun o => { o with arrivals := o.arrivals ++ [(5, queue, 0)] })) := by
  simp only [exec, execTargetPacket, hu, decide_eq_false (Nat.not_le.2 hl), decide_eq_false (Nat.not_le.2 hs)]
  rfl

section
variable {va pa key : Nat} {bs : List Byte} (hx : s.dev.objs.exists pa = true) (hh : s.heldBank (.glob pa) = false)
  (hlost : s.lost (.glob pa) = false)
include hx hh hlost

theorem exec_targetPacket_write (hw : portWalk s src va bs.length false true = .ok (.glob pa) key) :
    exec (.targetPacket ⟨link, src⟩ va true (.write bs)) s = .next ((s.packetGot link (.write bs)).writeLoc (.glob pa) key bs) := by
  have hlost' : (s.packetGot link (.write bs)).lost (.glob pa) = false := by
    obtain ⟨ls, h⟩ := s.packetGot_eq link (.write bs)
    rw [h, State.withLinks_lost, hlost]
  have hm : noMemory s (.glob pa) = none := if_pos hx
  simp only [exec, execTargetPacket, hu, decide_eq_false (Nat.not_le.2 hl), decide_eq_false (Nat.not_le.2 hs), packetShape, hw, hm, hh]
  show Host.Outcome.next (packetEffect (s.packetGot link (.write bs)) src va (.glob pa) key (.write bs)) = _
  simp only [packetEffect, hlost']
  rfl

theorem exec_targetPacket_engineWrite (hw : portWalk s src va bs.length false true = .ok (.glob pa) key) :
    exec (.targetPacket ⟨link, src⟩ va true (.engineWrite bs)) s =
      .next (engineBytes (s.packetGot link (.engineWrite bs)) src (.glob pa) key bs) := by
  have hlost' : (s.packetGot link (.engineWrite bs)).lost (.glob pa) = false := by
    obtain ⟨ls, h⟩ := s.packetGot_eq link (.engineWrite bs)
    rw [h, State.withLinks_lost, hlost]
  have hm : noMemory s (.glob pa) = none := if_pos hx
  simp only [exec, execTargetPacket, hu, decide_eq_false (Nat.not_le.2 hl), decide_eq_false (Nat.not_le.2 hs), packetShape, hw, hm, hh]
  show Host.Outcome.next (packetEffect (s.packetGot link (.engineWrite bs)) src va (.glob pa) key (.engineWrite bs)) = _
  simp only [packetEffect, hlost']
  rfl

/-- 04 R96: a peer's write whose checks pass. -/
theorem targetPacket_writes (hw : portWalk s src va bs.length false true = .ok (.glob pa) key) :
    ∃ t, exec (.targetPacket ⟨link, src⟩ va true (.write bs)) s = .next t ∧ t.mem = (s.memAs pa bs.length key).setBytes pa bs ∧
      t.dev.cores = s.dev.cores ∧ t.dev.plat = s.dev.plat := by
  obtain ⟨hcores, hplat, -, -⟩ := Dev.encrypt_keeps (s.packetGot link (.write bs)).dev pa bs.length key
  exact ⟨_, exec_targetPacket_write hl hu hs hx hh hlost hw, congrArg (Mem.setBytes · pa bs) (State.packetGot_memAs ..), hcores, hplat⟩

/-- 25 R454: a word that a peer's engine writes whole is set full. -/
theorem targetPacket_fills (hw : portWalk s src va 8 false true = .ok (.glob pa) key) (hb : bs.length = 8) (ha : pa % 8 = 0)
    (ht : ∀ l ∈ linesOf pa 8, s.dev.badTag l = false) (hc : s.dev.objs.peerCover = []) (hf : s.dev.objs.feWait = [])
    (he : Tab.wfFrom false 0 s.dev.mmeta.empty = true) :
    ∃ t, exec (.targetPacket ⟨link, src⟩ va true (.engineWrite bs)) s = .next t ∧ t.mem = (s.memAs pa 8 key).setBytes pa bs ∧
      ∀ w, Tab.get false t.dev.mmeta.empty w = if w = pa / 8 then false else Tab.get false s.dev.mmeta.empty w := by
  have hw8 : portWalk s src va bs.length false true = .ok (.glob pa) key := hb.symm ▸ hw
  obtain ⟨hmem, hempty⟩ := engineBytes_packetGot (src := src) (key := key) hb ha ht hc hf he link (.engineWrite bs)
  exact ⟨_, exec_targetPacket_engineWrite hl hu hs hx hh hlost hw8, hmem, hempty⟩

end

/-- 04 R96: a packet whose translation fails performs nothing. -/
theorem exec_targetPacket_refused {va : Nat} {bs : List Byte} (hw : ∀ l x, portWalk s src va bs.length false true ≠ .ok l x)
    (hp : walkPoison s (bits (s.dev.plat.reg (0x600 + 8 * peerIx src)) 15 0) va = none) :
    exec (.targetPacket ⟨link, src⟩ va true (.write bs)) s = .next (s.packetGot link (.write bs)) := by
  have hnote : notePort (s.packetGot link (.write bs)) src va = s.packetGot link (.write bs) := by
    obtain ⟨ls, h⟩ := s.packetGot_eq link (.write bs)
    simp only [h, notePort, noteWalk, State.withLinks_plat, State.withLinks_walkPoison, hp]
  simp only [exec, execTargetPacket, hu, decide_eq_false (Nat.not_le.2 hl), decide_eq_false (Nat.not_le.2 hs), packetShape]
  cases hc : portWalk s src va bs.length false true with
  | ok l x => exact absurd hc (hw l x)
  | miss a p => rfl
  | bad c =>
    show Host.Outcome.next (if c = 0x10 then notePort (s.packetGot link (.write bs)) src va else s.packetGot link (.write bs)) = _
    rw [hnote, ite_self]

end

end Sys2Proof.Machine
end

section
/-! SUPPORT. The clauses on packets, by the stage of the request (10 R225 to R228, 25 R440 to R452). -/

namespace Sys2Proof.Machine

section
variable {s : State} {i : Nat} {f : FReq} {n : Nat} (hi : nth? s.dev.objs.fabric i = some f) (hr : f.rank < 2048) (hk : f.slot < 16)
  (hkind : f.req.kind < 5) (hop : f.req.op = .load n false)
include hi hr hk hkind hop

omit hi in
/-- A request that leaves the fabric of a device whose cores and platform stay is answered with a notice. -/
theorem notice_answered {x : Instr} {u : State} {b : Byte} (h : exec x s = .next (noticeTo u f b)) (hm : u.mem = s.mem)
    (hc : u.dev.cores = s.dev.cores) (hf : u.dev.objs.fabric = dropAt s.dev.objs.fabric i) (hp : u.dev.plat = s.dev.plat) :
    ∃ t, exec x s = .next t ∧ Answered s t i f (.defer 0x48 f.req.ptr (BitVec.ofNat 32 (b.toNat * 2 ^ 16 + f.req.elem))) :=
  ⟨_, h, noticeTo_load hkind hop u b ▸ State.answered_of_left hr hk hm hc hf hp rfl⟩

theorem custody_no_route {occ : Nat} (h0 : f.stage = 0) (hq : ∀ g ∈ s.dev.objs.fabric.take i, sameOrder f g = false)
    (hn : routesTo s.dev f.req.target = []) : ∃ t, exec (.packetCustody i occ) s = .next t ∧ Answered s t i f (.defer 0x48 f.req.ptr
      (BitVec.ofNat 32 ((if s.dev.objs.knownDown.contains f.req.target then 0x31 else 0x21 : Byte).toNat * 2 ^ 16 + f.req.elem))) :=
  notice_answered hr hk hkind hop (exec_packetCustody_no_route hi h0 hq (chooseRoute_none hn)) rfl rfl rfl rfl

theorem errorNotice_answered (h1 : 1 ≤ f.stage) {b : Byte} (hlo : 1 ≤ b.toNat / 16) (hhi : b.toNat / 16 ≤ 4) (ho : 1 ≤ b.toNat % 16)
    (ho3 : b.toNat % 16 ≤ 3) : ∃ t, exec (.errorNotice i b) s = .next t ∧
      Answered s t i f (.defer 0x48 f.req.ptr (BitVec.ofNat 32 (b.toNat * 2 ^ 16 + f.req.elem))) := by
  refine notice_answered hr hk hkind hop (exec_errorNotice hi h1 hlo hhi ho ho3) rfl ?_ ?_ ?_ <;> unfold fabricDone <;> dsimp only <;>
    split <;> rfl

section
variable (h3 : f.stage = 3)
include h3

theorem response_lost (mark : Bool) (a : Answer) : ∃ t, exec (.responseArrival i false mark a) s = .next t ∧
    Answered s t i f (.defer 0x48 f.req.ptr (BitVec.ofNat 32 ((0x42 : Byte).toNat * 2 ^ 16 + f.req.elem))) := by
  refine notice_answered hr hk hkind hop (exec_responseArrival hi h3 false mark a) rfl ?_ ?_ ?_ <;> cases mark <;> rfl

theorem response_answered (mark : Bool) {a : Answer} {v : RetVal} (hv : (peerRes f.req a).value f.req = some v) :
    ∃ t, exec (.responseArrival i true mark a) s = .next t ∧ Answered s t i f v := by
  refine ⟨_, exec_responseArrival hi h3 true mark a, ?_⟩
  dsimp only
  rw [if_pos rfl, answerTo_load hkind hop]
  refine State.answered_of_left hr hk ?_ ?_ ?_ ?_ hv <;> cases mark <;> rfl

/-- R227: a marked response takes an eighth off the drag toward its peer. -/
theorem response_drag (bs : List Byte) : ∃ t, exec (.responseArrival i true true (.data bs)) s = .next t ∧
    let x : Nat × Nat := Tab.get (1, 0) t.dev.objs.drags f.req.target
    let slow : Nat × Nat := Tab.get (1, 0) s.dev.objs.drags f.req.target
    64 * 2 ^ (slow.2 + 3) * x.1 = 2 ^ x.2 * max (64 * (7 * slow.1)) (2 ^ (slow.2 + 3)) := by
  refine ⟨_, exec_responseArrival hi h3 true true (.data bs), ?_⟩
  dsimp only
  rw [if_pos rfl, if_pos rfl, answerTo_load hkind hop, State.answered_objs hr hk]
  exact markDrag_drag _ _

end

end

/-! ### Drags fall and recover (R227) -/

theorem dragRecovery_waits {s : State} {p : Nat} (h : s.dev.now < Tab.get 0 s.dev.objs.dragMark p + 3600) :
    exec (.dragRecovery p) s = .next s :=
  if_pos h

theorem dragRecovery_recovers {s : State} {p : Nat} (h : Tab.get 0 s.dev.objs.dragMark p + 3600 ≤ s.dev.now) :
    ∃ t, exec (.dragRecovery p) s = .next t ∧ t.mem = s.mem ∧ t.dev.cores = s.dev.cores ∧
      let drag : Nat × Nat := Tab.get (1, 0) s.dev.objs.drags p
      let x : Nat × Nat := Tab.get (1, 0) t.dev.objs.drags p
      64 * 2 ^ drag.2 * x.1 = 2 ^ x.2 * min (64 * 2 ^ drag.2) (64 * drag.1 + 2 ^ drag.2) ∧ Tab.get 0 t.dev.objs.dragMark p = s.dev.now := by
  refine ⟨_, if_neg (Nat.not_lt.2 h), rfl, rfl, ?_⟩
  generalize hx : (Tab.get (1, 0) s.dev.objs.drags p : Nat × Nat) = x
  have hpow : 2 ^ (x.2 + 6) = 64 * 2 ^ x.2 := by ring
  simp only [Dev.onObjs_objs, Tab.get_set, if_true, hx, hpow, and_true]
  split
  · next hle =>
    rw [Nat.min_eq_left hle]
    ring
  · next hlt =>
    rw [Nat.min_eq_right (Nat.le_of_not_le hlt), hpow]

/-! ### Far links (log 57) -/

section
variable {s : State} (h0 : ∀ g ∈ s.dev.objs.fabric, g.stage = 0) (a b : Nat)
include h0

theorem announce_far_link (up : Bool) : exec (.failureAnnounce (.link a b up)) s =
    devStep s (fun d => d.onObjs (fun o => farLinkNews o a b up)) :=
  next_eq (cutRequests_of_unsent (s := { s with dev := s.dev.onObjs (fun o => farLinkNews o a b up) }) h0 _)

theorem announce_far_down : ∃ t, exec (.failureAnnounce (.link a b false)) s = .next t ∧ t.mem = s.mem ∧ t.dev.cores = s.dev.cores ∧
    t.dev.objs.fabric = s.dev.objs.fabric ∧ hopOk t.dev a b = false ∧ hopOk t.dev b a = false :=
  ⟨_, announce_far_link h0 a b false, rfl, rfl, rfl, hopOk_of_farLinks (farLinkNews_down ..),
    hopOk_of_farLinks (farLink_comm a b ▸ farLinkNews_down ..)⟩

theorem announce_far_up : ∃ t, exec (.failureAnnounce (.link a b true)) s = .next t ∧ t.mem = s.mem ∧ t.dev.cores = s.dev.cores ∧
    t.dev.objs.fabric = s.dev.objs.fabric ∧ ∀ x, x ∈ t.dev.objs.farLinks ↔ x ∈ s.dev.objs.farLinks ∧ x ≠ (min a b, max a b) := by
  refine ⟨_, announce_far_link h0 a b true, rfl, rfl, rfl, fun x => ?_⟩
  simp only [Dev.onObjs_objs, farLinkNews, if_true, List.mem_filter, bne_iff_ne]
  rfl

end

/-- 25 R446: 100 µs of training without success. -/
theorem exec_linkTrainingTimeout {s : State} {l : Nat} (hl : l < 14) (hst : (Tab.get {} s.dev.objs.links l : Link).state = 1)
    (hnow : (Tab.get {} s.dev.objs.links l : Link).since + 180000 ≤ s.dev.now) :
    exec (.linkTrainingTimeout l) s = .next (linkFails s l (Tab.get {} s.dev.objs.links l)) := by
  refine if_pos ?_
  simp only [Bool.and_eq_true, decide_eq_true_eq]
  exact ⟨⟨hl, hst⟩, hnow⟩

/-- Settles O60: the request's stages, its answers, a peer's packets and drags, each by its own rule. -/
theorem packetsCarryAndAnswer : Obligations.PacketsCarryAndAnswer := by
  unfold Obligations.PacketsCarryAndAnswer
  intro s i occ link src va pa key n p queue f route mark bs notice op a
  dsimp only
  intro hi hr hk hkind hop _ _ hn
  refine ⟨fun h0 hq => ⟨exec_packetCustody_full hi h0 hq, fun hc hl => ⟨chooseRoute_spec hc, ?sends⟩,
      custody_no_route hi hr hk hkind hop h0 hq⟩,
    fun h1 hu => ⟨_, _, exec_packetCustody_acknowledged hi h1 hu, rfl, rfl, nth?_modAt _ hi, rfl, ?acked⟩,
    exec_packetCustody_waits hi,
    fun h2 => ⟨_, _, exec_packetCustody_accepted hi h2, rfl, rfl, nth?_modAt _ hi, rfl⟩,
    ?timeout,
    fun h3 => ⟨fun hb => response_answered hi hr hk hkind hop h3 mark (by rw [peerRes_load_data hop hn hb]; rfl),
      response_answered hi hr hk hkind hop h3 mark (by rw [peerRes_load_poison hkind hop]; rfl),
      response_lost hi hr hk hkind hop h3 mark a, response_drag hi hr hk hkind hop h3 bs⟩,
    fun h0 => ⟨announce_far_down h0 src va, announce_far_up h0 src va⟩,
    fun h1 => ⟨errorNotice_answered hi hr hk hkind hop h1, fun hf => announce_target hkind hop hf hr hk h1⟩,
    fun hl hu => ⟨exec_targetPacket_bad_crc hl hu src va op, fun hs => ⟨fun hw hx hh hlost => targetPacket_writes hl hu hs hx hh hlost hw,
      exec_targetPacket_refused hl hu hs, fun hw hx hh hb ha hlost => targetPacket_fills hl hu hs hx hh hlost hw hb ha,
      exec_targetPacket_barrier hl hu hs va queue⟩⟩,
    dragRecovery_recovers, dragRecovery_waits⟩
  case sends =>
    refine ⟨_, exec_packetCustody_sends hi h0 hq hc hl, rfl, rfl, ⟨_, nth?_modAt _ hi, rfl, rfl, rfl, chooseRoute_detour hc⟩, ?_⟩
    simp [Tab.get_set]
  case acked =>
    simp [acknowledged, Tab.get_set]
  case timeout =>
    intro h1 hf hl hst hnow
    obtain ⟨hnil, hret⟩ := linkFails_waiting hkind hop hf hr hk h1 (Tab.get {} s.dev.objs.links (f.link s.dev))
    exact ⟨_, exec_linkTrainingTimeout hl hst hnow, hnil, hret⟩

end Sys2Proof.Machine
end

section
/-! SUPPORT. The bytes of a number in memory (06 R119) and the extension of a loaded value (14 R302). -/

namespace Sys2Proof.Machine

/-! ### Bytes of a number in memory -/

theorem length_bytesOf (n v : Nat) : (bytesOf n v).length = n := by
  induction n generalizing v with
  | zero => rfl
  | succ n ih => rw [bytesOf, List.length_cons, ih]

/-- The low `n` bytes of a number, written from an address, lowest first; every other byte stays. -/
theorem Mem.read_setBytes_bytesOf (n : Nat) (m : Mem) (a v b : Nat) (h : m.wf = true) :
    (m.setBytes a (bytesOf n v)).read b =
      if a ≤ b ∧ b < a + n then BitVec.ofNat 8 (v / 256 ^ (b - a)) else m.read b := by
  induction n generalizing m a v with
  | zero => rw [if_neg (by omega)]; rfl
  | succ n ih =>
    rw [bytesOf, Mem.setBytes, ih _ _ _ (Mem.write_wf m a _ h), Mem.read_write _ _ _ _ h]
    rcases Nat.lt_trichotomy b a with hb | rfl | hb
    · rw [if_neg (by omega), if_neg (by omega), if_neg (by omega)]
    · rw [if_neg (by omega), if_pos rfl, if_pos (by omega), Nat.sub_self, Nat.pow_zero, Nat.div_one]
    · have hd : v / 256 / 256 ^ (b - (a + 1)) = v / 256 ^ (b - a) := by
        rw [Nat.div_div_eq_div_mul, ← Nat.pow_succ', show (b - (a + 1)).succ = b - a by omega]
      rw [if_neg (show ¬a = b by omega), hd]
      exact if_congr (by omega) rfl rfl

theorem Mem.readN_lt (m : Mem) (a n : Nat) : m.readN a n < 256 ^ n := by
  induction n generalizing a with
  | zero => exact Nat.one_pos
  | succ n ih =>
    have hb := (m.read a).isLt
    have := ih (a + 1)
    rw [Mem.readN, Nat.pow_succ]
    omega

/-! ### The extension of a loaded value (14 R302) -/

/-- The extension of `n` bytes, as one of bit vectors. -/
theorem extendN_eq {n v : Nat} (h0 : 0 < n) (h8 : n ≤ 8) (hv : v < 2 ^ (8 * n)) (sx : Bool) :
    extendN n sx v = if sx then (BitVec.ofNat (8 * n) v).signExtend 64 else (BitVec.ofNat (8 * n) v).setWidth 64 := by
  have hmsb : (BitVec.ofNat (8 * n) v).msb = (v / 2 ^ (8 * n - 1) % 2 == 1) := by
    have hp : 2 ^ (8 * n) = 2 ^ (8 * n - 1) * 2 := by rw [← Nat.pow_succ]; congr 1; omega
    have hq : v / 2 ^ (8 * n - 1) < 2 := Nat.div_lt_of_lt_mul (hp ▸ hv)
    rw [BitVec.msb_eq_decide, BitVec.toNat_ofNat, Nat.mod_eq_of_lt hv, Nat.mod_eq_of_lt hq, Bool.eq_iff_iff, decide_eq_true_iff,
      beq_iff_eq, ← Nat.one_le_div_iff (Nat.two_pow_pos _)]
    omega
  have hk : 2 ^ (8 * n) ≤ 2 ^ 64 := Nat.pow_le_pow_right (by decide) (by omega)
  refine BitVec.eq_of_toNat_eq ?_
  cases sx with
  | false => simp [extendN]
  | true =>
    rw [if_pos rfl, BitVec.toNat_signExtend, hmsb, extendN, Bool.true_and]
    split <;> simp only [BitVec.toNat_setWidth, BitVec.toNat_ofNat, Nat.mod_eq_of_lt hv] <;> omega

theorem getLsbD_extendN {n v j : Nat} (h0 : 0 < n) (h8 : n ≤ 8) (hv : v < 2 ^ (8 * n)) (sx : Bool) (hj : j < 64) :
    (extendN n sx v).getLsbD j = if j < 8 * n then v.testBit j else sx && v.testBit (8 * n - 1) := by
  have hlast : 8 * n - 1 < 8 * n := by omega
  rw [extendN_eq h0 h8 hv]
  by_cases hn : j < 8 * n <;> cases sx <;>
    simp [-BitVec.getLsbD_eq_getElem, BitVec.getLsbD_setWidth, BitVec.getLsbD_signExtend, BitVec.msb_eq_getLsbD_last,
      BitVec.getLsbD_ofNat, hj, hn, hlast]

/-- The extension keeps the bytes loaded; every bit above them is the sign bit, or 0. -/
theorem extendN_spec {n v : Nat} (h0 : 0 < n) (h8 : n ≤ 8) (hv : v < 256 ^ n) (sx : Bool) :
    (extendN n sx v).toNat % 256 ^ n = v ∧
      ∀ j < 64, 8 * n ≤ j → (extendN n sx v).getLsbD j = (sx && (extendN n sx v).getLsbD (8 * n - 1)) := by
  rw [show 256 ^ n = 2 ^ (8 * n) from (Nat.pow_mul 2 8 n).symm] at hv ⊢
  have hbit {j : Nat} := getLsbD_extendN (j := j) h0 h8 hv sx
  refine ⟨Nat.eq_of_testBit_eq fun j => ?_, fun j hj hn => ?_⟩
  · rw [Nat.testBit_mod_two_pow]
    by_cases hj : j < 8 * n
    · rw [← BitVec.getLsbD, hbit (by omega), if_pos hj, decide_eq_true hj, Bool.true_and]
    · rw [decide_eq_false hj, Bool.false_and, Nat.testBit_lt_two_pow (hv.trans_le (Nat.pow_le_pow_right (by decide) (by omega)))]
  · rw [hbit hj, hbit (by omega), if_neg (by omega), if_pos (by omega)]

end Sys2Proof.Machine
end

section
/-! SUPPORT. What a home's answer leaves of the device, and a request performed at its word (06 R116, R117, R131). -/

namespace Sys2Proof.Machine

/-! ### A change of one context -/

theorem Tab.set_set {α : Type} (t : Tab α) (k : Nat) (v w : α) : Tab.set (Tab.set t k v) k w = Tab.set t k w := by
  induction t with
  | nil => simp [Tab.set]
  | cons e t ih =>
    obtain ⟨i, u⟩ := e
    rcases Nat.lt_trichotomy k i with h | rfl | h
    · simp [Tab.set, h]
    · simp [Tab.set]
    · simp [Tab.set, Nat.lt_asymm h, Nat.ne_of_gt h, ih]

theorem Dev.onSlot_onSlot (d : Dev) (r k : Nat) (f g : Slot → Slot) :
    (d.onSlot r k f).onSlot r k g = d.onSlot r k (fun t => g (f t)) := by
  simp [Dev.onSlot, Dev.onCore, Core.onSlot, Dev.core, Core.slot, Tab.get_set, Tab.set_set]

/-- From `s` to `t` at most global memory and its metadata change. -/
def OnlyMemory (s t : State) : Prop := ∃ m, t.dev = { s.dev with mmeta := m }

theorem OnlyMemory.refl (s : State) : OnlyMemory s s := ⟨s.dev.mmeta, rfl⟩

theorem OnlyMemory.objs {s t : State} (h : OnlyMemory s t) : t.dev.objs = s.dev.objs := by
  obtain ⟨m, hm⟩ := h
  rw [hm]

/-- An encrypted write changes the metadata of lines alone. -/
theorem OnlyMemory.encrypt (s : State) (m : Mem) (pa n key : Nat) : OnlyMemory s { mem := m, dev := s.dev.encrypt pa n key } := by
  have h (d : Dev) : ∃ u, (linesOf pa n).foldl (fun d l => d.encryptLine key l) d = { d with mmeta := u } := by
    induction linesOf pa n generalizing d with
    | nil => exact ⟨d.mmeta, rfl⟩
    | cons l ls ih => exact ih (d.encryptLine key l)
  exact h s.dev

theorem OnlyMemory.setFe {s t : State} (h : OnlyMemory s t) (pa : Nat) (b : Bool) : OnlyMemory s (t.setFe (.glob pa) b) := by
  obtain ⟨m, hm⟩ := h
  exact ⟨_, by rw [State.setFe, hm]; rfl⟩

theorem OnlySlot.of_onSlot {s t : State} {r k : Nat} {f : Slot → Slot} {m : Meta}
    (h : t.dev = { s.dev.onSlot r k f with mmeta := m }) : OnlySlot s t r k f := by
  have hc (q : Nat) : t.dev.core q = if r = q then (s.dev.core r).onSlot k f else s.dev.core q := by
    rw [← Dev.onSlot_core, h]; rfl
  refine ⟨fun q j => ?_, fun q => ?_, by rw [h]; rfl, by rw [h]; rfl, by rw [h]; rfl, by rw [h]; rfl⟩
  · rw [show t.dev.slot q j = (s.dev.onSlot r k f).slot q j by rw [h]; rfl, Dev.onSlot_slot]
    simp only [eq_comm]
  · rw [hc]
    split
    next e => rw [← e]; exact ⟨rfl, rfl, rfl, rfl, rfl⟩
    next => exact ⟨rfl, rfl, rfl, rfl, rfl⟩

/-! ### Room that is left sends nothing where nothing waits for it (06 R115) -/

theorem Dev.thr_of_lt {k : Nat} (hk : k < 16) (d : Dev) (r : Nat) : d.thr r k = d.slot r k := if_pos hk

theorem Dev.sendReady_of_noneReady {d : Dev} {r k : Nat} (hk : k < 16) (h : NoneReady (d.slot r k).flow) : d.sendReady r k = d := by
  have hf : (d.slot r k).flow.posted.filter Req.ready = [] := List.filter_eq_nil_iff.2 fun q hq => by simp [h q hq]
  rw [Dev.sendReady, Dev.thr_of_lt hk, hf]
  rfl

theorem State.frameSync_of_lt {k : Nat} (hk : k < 16) (s : State) (r : Nat) (xs : List XReg) : s.frameSync r k xs = s := if_pos hk

theorem andSend_of_noneReady {t : State} {r k : Nat} (hk : k < 16) (h : NoneReady (t.dev.slot r k).flow) :
    andSend r k (.next t) = .next t := by
  rw [andSend, Dev.sendReady_of_noneReady hk h, State.frameSync_of_lt hk]

/-! ### A request performed at its word -/

/-- Loads, stores, full/empty operations, atomics, reductions and wide compares: the requests performed at one place of memory. -/
def ReqOp.atWord : ReqOp → Bool
  | .load _ _ | .store _ _ | .fe _ _ | .amo _ _ _ _ | .red _ _ _ | .cas _ _ => true
  | _ => false

theorem unitDown_of_atWord {op : ReqOp} (h : op.atWord = true) (d : Dev) : unitDown d op = false := by
  revert h
  cases op <;> simp [ReqOp.atWord, unitDown]

theorem routineHeld_of_atWord {q : Req} (h : q.op.atWord = true) (s : State) (l : Loc) : routineHeld s l q = false := by
  revert h
  unfold routineHeld
  cases q.op <;> simp [ReqOp.atWord]

/-- Where every tag is right an operation finds nothing to note (22 R411). -/
theorem noteOp_of_served {s : State} {pa : Nat} {op : ReqOp} (h : Served s pa op.span) : noteOp s (.glob pa) op = s := by
  obtain ⟨-, -, -, -, ht⟩ := h
  have hread : noteRead s (.glob pa) op.span = s := foldl_noteLine_of_good ht
  have hpart : notePartial s (.glob pa) op.span = s := foldl_noteLine_of_good fun l hl => ht l (List.mem_filter.1 hl).1
  unfold noteOp
  rw [hpart]
  cases op with
  | fe f v =>
    have h8 : noteRead s (.glob pa) 8 = s := hread
    simp [h8]
  | _ => simp [hread]

/-- A request of the bag that no rule holds back, at a place of global memory that its home serves, is performed there. -/
theorem exec_perform_atWord {s : State} {r k i pa : Nat} {q : Req} (hb : InBag s r k i q) (hq : q.op.atWord = true)
    (hl : q.loc = .glob pa) (hs : Served s pa q.op.span) :
    exec (.perform r k i) s = andSend r k (.next (performMem s r k i q (.glob pa))) := by
  obtain ⟨-, hk, hbag, hearly, hbound, -⟩ := hb
  have hnote := noteOp_of_served hs
  obtain ⟨hex, hheld, -⟩ := hs
  have hat : performAt s r k i q (.glob pa) = .next (performMem s r k i q (.glob pa)) := by
    simp [performAt, noMemory, hex, placeHeld, hheld, stepHolds, routineHeld_of_atWord hq, hl ▸ hbound, hnote]
  have hword : performWord s r k i q = performAt s r k i q (.glob pa) := by
    unfold performWord
    rw [hl]
  show execPerform r k i s = _
  unfold execPerform
  simp only [Dev.thr_of_lt hk, hbag, hearly, unitDown_of_atWord hq, Bool.or_false, Bool.false_eq_true, if_false]
  congr 1
  rw [← hat, ← hword]
  revert hq
  cases q.op <;> simp [ReqOp.atWord]

/-! ### The home's answer reaches the thread -/

/-- The thread of request `i` once the request has left its bag and its home's outcome has come: `acked` for an acknowledgement,
`returned` for values. -/
def Slot.performed (i : Nat) (q : Req) (x : Res) (t : Slot) : Slot :=
  { t with flow := ({ t.flow with bag := dropAt t.flow.bag i } : Flow).answer q x }

theorem Slot.performed_noneReady {t : Slot} (h : NoneReady t.flow) (i : Nat) (q : Req) (x : Res) :
    NoneReady (t.performed i q x).flow := by
  cases x <;> exact h

section
variable {r k : Nat} (hr : r < 2048) (hk : k < 16)
include hr hk

theorem unbag_eq (s : State) (i : Nat) : unbag s r k i =
    { s with dev := s.dev.onSlot r k (fun t => { t with flow := { t.flow with bag := dropAt t.flow.bag i } }) } := by
  rw [unbag, Dev.onThrFlow_eq_onSlot _ hr hk]

theorem unbag_objs (s : State) (i : Nat) : (unbag s r k i).dev.objs = s.dev.objs := by rw [unbag_eq hr hk]; rfl

theorem unbag_mmeta (s : State) (i : Nat) : (unbag s r k i).dev.mmeta = s.dev.mmeta := by rw [unbag_eq hr hk]; rfl

theorem unbag_memAs (s : State) (i pa n key : Nat) : (unbag s r k i).memAs pa n key = s.memAs pa n key := by
  rw [unbag_eq hr hk]; rfl

theorem unbag_served {s : State} {pa n : Nat} (h : Served s pa n) (i : Nat) : Served (unbag s r k i) pa n := by
  rw [unbag_eq hr hk]; exact h

/-- A home's outcome changes its request's thread, and memory with its metadata as the home did. -/
theorem reply_onlySlot {s u : State} {i : Nat} (hu : OnlyMemory (unbag s r k i) u) (q : Req) (x : Res) :
    OnlySlot s (reply r k q (u, x)) r k (Slot.performed i q x) := by
  obtain ⟨m, hm⟩ := hu
  refine OnlySlot.of_onSlot (m := m) ?_
  rw [reply, Dev.onThrFlow_eq_onSlot _ hr hk, hm, unbag_eq hr hk]
  exact congrArg (fun d : Dev => { d with mmeta := m }) (Dev.onSlot_onSlot ..)

end

theorem OnlySlot.slot_self {s t : State} {r k : Nat} {f : Slot → Slot} (h : OnlySlot s t r k f) : t.dev.slot r k = f (s.dev.slot r k) := by
  rw [h.1, if_pos ⟨rfl, rfl⟩]

/-- A word without waiters serves none (06 R131). -/
theorem serveWaiters_of_none {s : State} {l : Loc} (h : firstWaiter s.dev.objs.feWait l = none) (n : Nat) : serveWaiters n s l = s := by
  cases n with
  | zero => rfl
  | succ n => rw [serveWaiters, h]

theorem reply_objs {r k : Nat} (hr : r < 2048) (hk : k < 16) (q : Req) (x : State × Res) : (reply r k q x).dev.objs = x.1.dev.objs := by
  rw [reply, Dev.onThrFlow_eq_onSlot _ hr hk]; rfl

theorem reply_mmeta {r k : Nat} (hr : r < 2048) (hk : k < 16) (q : Req) (x : State × Res) : (reply r k q x).dev.mmeta = x.1.dev.mmeta := by
  rw [reply, Dev.onThrFlow_eq_onSlot _ hr hk]; rfl

/-! ### The outcomes of a request at its home -/

section
variable {s u : State} {r k i pa : Nat} {q : Req} {x : Res}

/-- The request that must wait stands last in the wait list of its word. -/
def State.queued (s : State) (r k : Nat) (q : Req) : State :=
  { s with dev := s.dev.onObjs (fun o => { o with feWait := o.feWait ++ [(r, k, q)] }) }

theorem performMem_waits {l : Loc} (hh : homeOp (unbag s r k i) l q = (u, .wait)) :
    performMem s r k i q l = (unbag s r k i).queued r k { q with loc := l } := by
  simp only [unbag] at hh
  simp only [performMem, hh]
  rfl

theorem performMem_answers {l : Loc} (hh : homeOp (unbag s r k i) l q = (u, x)) (hx : x ≠ .wait) (hfe : ∀ f v, q.op ≠ .fe f v) :
    performMem s r k i q l = reply r k q (u, x) := by
  simp only [unbag] at hh
  simp only [performMem, hh]
  split
  next e => exact absurd e (hfe _ _)
  next e _ => exact absurd e (hfe _ _)
  next => rfl

theorem performMem_answers_fe {f : FeOp} {v : Word} (hq : q.op = .fe f v) (hh : homeOp (unbag s r k i) (.glob pa) q = (u, x))
    (hx : x ≠ .wait) (hw : firstWaiter (reply r k q (u, x)).dev.objs.feWait (.glob pa) = none) :
    performMem s r k i q (.glob pa) =
      if (f = .fill || f = .put) && x = .ack then markEligible (reply r k q (u, x)) pa else reply r k q (u, x) := by
  have hserve (n : Nat) := serveWaiters_of_none hw n
  simp only [unbag] at hh
  simp only [reply] at hserve
  simp only [performMem, hh, hq]
  rw [hserve]
  rfl

variable (hb : InBag s r k i q) (hl : q.loc = .glob pa) (hs : Served s pa q.op.span)
include hb hl hs

/-- A request that must wait, once its home has looked at it. -/
theorem exec_perform_waits (hq : q.op.atWord = true) (hh : homeOp (unbag s r k i) (.glob pa) q = (u, .wait)) :
    exec (.perform r k i) s = .next ((unbag s r k i).queued r k { q with loc := .glob pa }) := by
  obtain ⟨hr, hk, -, -, -, hn⟩ := id hb
  rw [exec_perform_atWord hb hq hl hs, performMem_waits hh]
  refine andSend_of_noneReady hk ?_
  rw [unbag_eq hr hk]
  show NoneReady ((s.dev.onSlot r k _).slot r k).flow
  rw [Dev.onSlot_slot_self]
  exact hn

variable (hu : OnlyMemory (unbag s r k i) u) (hh : homeOp (unbag s r k i) (.glob pa) q = (u, x)) (hx : x ≠ .wait)
include hu hh hx

/-- A request that is no full/empty operation, once its home has answered. -/
theorem exec_perform_answers (hq : q.op.atWord = true) (hfe : ∀ f v, q.op ≠ .fe f v) :
    exec (.perform r k i) s = .next (reply r k q (u, x)) := by
  obtain ⟨hr, hk, -, -, -, hn⟩ := id hb
  rw [exec_perform_atWord hb hq hl hs, performMem_answers hh hx hfe]
  exact andSend_of_noneReady hk ((reply_onlySlot hr hk hu q x).slot_self ▸ Slot.performed_noneReady hn i q x)

/-- A full/empty operation that its home has answered, at a word for which nobody waits. -/
theorem exec_perform_answers_fe {f : FeOp} {v : Word} (hq : q.op = .fe f v) (hw : firstWaiter s.dev.objs.feWait (.glob pa) = none) :
    exec (.perform r k i) s = .next
      (if (f = .fill || f = .put) && x = .ack then markEligible (reply r k q (u, x)) pa else reply r k q (u, x)) := by
  obtain ⟨hr, hk, -, -, -, hn⟩ := id hb
  have hnone : firstWaiter (reply r k q (u, x)).dev.objs.feWait (.glob pa) = none := by
    rw [reply_objs hr hk, hu.objs, unbag_objs hr hk, hw]
  have hslot := (reply_onlySlot hr hk hu q x).slot_self ▸ Slot.performed_noneReady hn i q x
  rw [exec_perform_atWord hb (by rw [hq]; rfl) hl hs, performMem_answers_fe hq hh hx hnone]
  refine andSend_of_noneReady hk ?_
  split <;> exact hslot

end

end Sys2Proof.Machine
end

section
/-! OBLIGATION. Loads, stores and full/empty operations performed at their word in global memory (06 R116, R119, R130, R131). -/

namespace Sys2Proof.Machine

/-! ### What a home does at a word that it serves -/

section
variable {s : State} {pa n : Nat} {q : Req} (hs : Served s pa n)
include hs

theorem homeOp_load {sx : Bool} (hq : q.op = .load n sx) :
    homeOp s (.glob pa) q = (s, .ret [extendN n sx ((s.memAs pa n q.key).readN pa n)] true) := by
  obtain ⟨-, -, hp, -, -⟩ := hs
  unfold homeOp
  simp [hq, hp, State.readAs]

theorem homeWrite_served (bs : List Byte) : homeWrite s (.glob pa) q bs = (s.writeLoc (.glob pa) q.key bs, .ack) := by
  obtain ⟨-, -, -, hlost, -⟩ := hs
  unfold homeWrite
  simp [hlost]

theorem homeOp_store {v : Word} (hq : q.op = .store n v) :
    homeOp s (.glob pa) q = (s.writeLoc (.glob pa) q.key (bytesOf n v.toNat), .ack) := by
  unfold homeOp
  simp [hq, homeWrite_served hs]

/-- R130: `peek` and `take` of a full word give its value; `take` leaves it empty. -/
theorem homeOp_reads_full {f : FeOp} {v : Word} (hq : q.op = .fe f v) (hf : f = .peek ∨ f = .take) (he : s.isEmpty (.glob pa) = false) :
    homeOp s (.glob pa) q =
      (if f = .take then s.setFe (.glob pa) true else s, .ret [BitVec.ofNat 64 ((s.memAs pa 8 q.key).readN pa 8)] true) := by
  obtain ⟨-, -, hp, -, -⟩ := hs
  unfold homeOp
  rcases hf with rfl | rfl <;> simp [hq, he, hp, State.readAs, w64]

/-- R130: `clr` leaves the word empty. -/
theorem homeOp_clr {v : Word} (hq : q.op = .fe .clr v) : homeOp s (.glob pa) q = (s.setFe (.glob pa) true, .ack) := by
  obtain ⟨-, -, -, hlost, -⟩ := hs
  unfold homeOp
  simp [hq, hlost]

/-- R130: `put`, and `fill` of an empty word, write it and leave it full. -/
theorem homeOp_fills {f : FeOp} {v : Word} (hq : q.op = .fe f v) (hf : f = .put ∨ f = .fill ∧ s.isEmpty (.glob pa) = true) :
    homeOp s (.glob pa) q = ((s.writeLoc (.glob pa) q.key (bytesOf 8 v.toNat)).setFe (.glob pa) false, .ack) := by
  unfold homeOp
  rcases hf with rfl | ⟨rfl, he⟩
  · simp [ hq, homeWrite_served hs]
  · simp [hq, he, homeWrite_served hs]

end

/-- R130: `peek` and `take` wait for a full word, `fill` for an empty one. -/
theorem homeOp_waits {s : State} {pa : Nat} {q : Req} {f : FeOp} {v : Word} (hq : q.op = .fe f v)
    (hf : (f = .peek ∨ f = .take) ∧ s.isEmpty (.glob pa) = true ∨ f = .fill ∧ s.isEmpty (.glob pa) = false) :
    homeOp s (.glob pa) q = (s, .wait) := by
  unfold homeOp
  rcases hf with ⟨rfl | rfl, he⟩ | ⟨rfl, he⟩ <;> simp [hq, he]

/-! ### Memory under a key slot (04 R90) -/

theorem writeLoc_onlyMemory (s : State) (pa key : Nat) (bs : List Byte) : OnlyMemory s (s.writeLoc (.glob pa) key bs) :=
  OnlyMemory.encrypt s _ pa bs.length key

theorem writeLoc_mem (s : State) (pa key : Nat) (bs : List Byte) :
    (s.writeLoc (.glob pa) key bs).mem = (s.memAs pa bs.length key).setBytes pa bs := rfl

theorem writeLoc_empty (s : State) (pa key : Nat) (bs : List Byte) :
    (s.writeLoc (.glob pa) key bs).dev.mmeta.empty = s.dev.mmeta.empty := by
  obtain ⟨-, -, -, he⟩ := Dev.encrypt_keeps s.dev pa bs.length key
  exact he

/-- Where the lines stand under the access's own key slot, it sees memory itself. -/
theorem memAs_of_ownKey {s : State} {pa n key : Nat} (h : OwnKey s pa n key) : s.memAs pa n key = s.mem := by
  unfold State.memAs
  refine List.foldlRecOn (motive := fun m => m = s.mem) _ _ rfl fun m hm l hl => ?_
  split
  next => exact hm
  next k e => rw [if_pos (h l hl k e), hm]

/-! ### Loads and stores -/

section
variable {s : State} {r k i pa n : Nat} {q : Req} (hb : InBag s r k i q) (hl : q.loc = .glob pa) (hs : Served s pa n)
include hb hl hs

theorem perform_store {v : Word} (hq : q.op = .store n v) : ∃ t, exec (.perform r k i) s = .next t ∧
    OnlySlot s t r k (acked i q) ∧ t.mem = (s.memAs pa n q.key).setBytes pa (bytesOf n v.toNat) := by
  obtain ⟨hr, hk, -⟩ := id hb
  have hu := writeLoc_onlyMemory (unbag s r k i) pa q.key (bytesOf n v.toNat)
  refine ⟨_, exec_perform_answers hb hl (by rw [hq]; exact hs) hu (homeOp_store (unbag_served hr hk hs i) hq) (by decide)
    (by rw [hq]; rfl) (by simp [hq]), reply_onlySlot hr hk hu q .ack, ?_⟩
  rw [reply_mem, writeLoc_mem, length_bytesOf, unbag_memAs hr hk]

theorem perform_load {sx : Bool} (hq : q.op = .load n sx) : ∃ t, exec (.perform r k i) s = .next t ∧
    OnlySlot s t r k (returned i q [extendN n sx ((s.memAs pa n q.key).readN pa n)] true) ∧ t.mem = s.mem := by
  obtain ⟨hr, hk, -⟩ := id hb
  have hu := OnlyMemory.refl (unbag s r k i)
  have hh := homeOp_load (unbag_served hr hk hs i) hq
  rw [unbag_memAs hr hk] at hh
  exact ⟨_, exec_perform_answers hb hl (by rw [hq]; exact hs) hu hh (by simp) (by rw [hq]; rfl) (by simp [hq]),
    reply_onlySlot hr hk hu q _, rfl⟩

end

/-- Settles O15: the home writes the bytes of the number, or reads and extends them, and answers the thread alone. -/
theorem performedStoresAndLoads : Obligations.PerformedStoresAndLoads := by
  unfold Obligations.PerformedStoresAndLoads
  intro s r k i n pa q v sx hb hl hs
  refine ⟨fun hq => ?_, fun hq => ?_, memAs_of_ownKey⟩
  · obtain ⟨t, ht, hslot, hmem⟩ := perform_store hb hl hs hq
    refine ⟨t, ht, hslot, fun hw a => ?_⟩
    rw [hmem, Mem.read_setBytes_bytesOf _ _ _ _ _ (State.memAs_wf hw ..)]
  · obtain ⟨t, ht, hslot, hmem⟩ := perform_load hb hl hs hq
    exact ⟨t, _, ht, hslot, hmem, fun h0 h8 => extendN_spec h0 h8 (Mem.readN_lt ..) sx⟩

/-! ### Full/empty operations -/

theorem unbag_isEmpty {r k : Nat} (hr : r < 2048) (hk : k < 16) (s : State) (i pa : Nat) :
    (unbag s r k i).isEmpty (.glob pa) = Tab.get false s.dev.mmeta.empty (pa / 8) := by
  rw [State.isEmpty, unbag_mmeta hr hk]

/-- The full/empty bit of a word once it is set, and of every other word. -/
theorem setFe_empty {s : State} (h : Tab.wfFrom false 0 s.dev.mmeta.empty = true) (pa : Nat) (b : Bool) (w : Nat) :
    Tab.get false (s.setFe (.glob pa) b).dev.mmeta.empty w = if w = pa / 8 then b else Tab.get false s.dev.mmeta.empty w := by
  show Tab.get false (Tab.put false s.dev.mmeta.empty (pa / 8) b) w = _
  rw [Tab.get_put false _ 0 _ _ _ h]
  simp only [eq_comm]

section
variable {s : State} {r k i pa : Nat} {q : Req} {f : FeOp} {v : Word} (hb : InBag s r k i q) (hq : q.op = .fe f v) (hl : q.loc = .glob pa)
  (hs : Served s pa 8)
include hb hq hl hs

/-- R130, R131: the request that finds the wrong bit joins the wait list last. -/
theorem perform_fe_waits (hf : (f = .peek ∨ f = .take) ∧ Tab.get false s.dev.mmeta.empty (pa / 8) = true ∨
      f = .fill ∧ Tab.get false s.dev.mmeta.empty (pa / 8) = false) :
    ∃ t, exec (.perform r k i) s = .next t ∧ t.mem = s.mem ∧ t.dev.mmeta = s.dev.mmeta ∧
      t.dev.objs.feWait = s.dev.objs.feWait ++ [(r, k, { q with loc := .glob pa })] ∧
      t.dev.slot r k = { s.dev.slot r k with flow := { (s.dev.slot r k).flow with bag := dropAt (s.dev.slot r k).flow.bag i } } := by
  obtain ⟨hr, hk, -⟩ := id hb
  rw [← unbag_isEmpty hr hk s i] at hf
  refine ⟨_, exec_perform_waits hb hl (by rw [hq]; exact hs) (by rw [hq]; rfl) (homeOp_waits hq hf), rfl, unbag_mmeta hr hk s i, ?_, ?_⟩
  · exact congrArg (fun o => o.feWait ++ [(r, k, { q with loc := .glob pa })]) (unbag_objs hr hk s i)
  · rw [unbag_eq hr hk]
    exact Dev.onSlot_slot_self ..

variable (hwf : Tab.wfFrom false 0 s.dev.mmeta.empty = true) (hw : firstWaiter s.dev.objs.feWait (.glob pa) = none)
include hwf hw

/-- R130: `peek` and `take` of a full word. -/
theorem perform_fe_reads (hf : f = .peek ∨ f = .take) (he : Tab.get false s.dev.mmeta.empty (pa / 8) = false) :
    ∃ t, exec (.perform r k i) s = .next t ∧
      OnlySlot s t r k (returned i q [BitVec.ofNat 64 ((s.memAs pa 8 q.key).readN pa 8)] true) ∧ t.mem = s.mem ∧
      ∀ w, Tab.get false t.dev.mmeta.empty w = if w = pa / 8 ∧ f = .take then true else Tab.get false s.dev.mmeta.empty w := by
  obtain ⟨hr, hk, -⟩ := id hb
  have hh := homeOp_reads_full (unbag_served hr hk hs i) hq hf ((unbag_isEmpty hr hk s i pa).trans he)
  have hu : OnlyMemory (unbag s r k i) (if f = .take then (unbag s r k i).setFe (.glob pa) true else unbag s r k i) := by
    split
    · exact (OnlyMemory.refl _).setFe pa true
    · exact OnlyMemory.refl _
  rw [unbag_memAs hr hk] at hh
  have hexec := exec_perform_answers_fe hb hl (by rw [hq]; exact hs) hu hh (by simp) hq hw
  refine ⟨_, by rw [hexec, if_neg (by simp)], reply_onlySlot hr hk hu q _, ?_, fun w => ?_⟩
  · rw [reply_mem]; split <;> rfl
  · rw [reply_mmeta hr hk]
    rcases hf with rfl | rfl
    · simp [unbag_mmeta hr hk]
    · rw [if_pos rfl, setFe_empty (by rwa [unbag_mmeta hr hk]), unbag_mmeta hr hk]
      simp

/-- R130: `clr`. -/
theorem perform_fe_clears (hf : f = .clr) :
    ∃ t, exec (.perform r k i) s = .next t ∧ OnlySlot s t r k (acked i q) ∧ t.mem = s.mem ∧
      ∀ w, Tab.get false t.dev.mmeta.empty w = if w = pa / 8 then true else Tab.get false s.dev.mmeta.empty w := by
  obtain ⟨hr, hk, -⟩ := id hb
  subst hf
  have hu := (OnlyMemory.refl (unbag s r k i)).setFe pa true
  have hexec := exec_perform_answers_fe hb hl (by rw [hq]; exact hs) hu (homeOp_clr (unbag_served hr hk hs i) hq) (by decide) hq hw
  refine ⟨reply r k q (_, .ack), by rw [hexec, if_neg (by simp)], reply_onlySlot hr hk hu q .ack, rfl, fun w => ?_⟩
  rw [reply_mmeta hr hk, setFe_empty (by rwa [unbag_mmeta hr hk]), unbag_mmeta hr hk]

/-- R130: `put`, and `fill` of an empty word; the tasks that wait for the word become eligible (03 R56). -/
theorem perform_fe_fills (hf : f = .put ∨ f = .fill ∧ Tab.get false s.dev.mmeta.empty (pa / 8) = true) :
    ∃ t, exec (.perform r k i) s = .next t ∧ t.mem = (s.memAs pa 8 q.key).setBytes pa (bytesOf 8 v.toNat) ∧
      t.dev.slot r k = acked i q (s.dev.slot r k) ∧
      ∀ w, Tab.get false t.dev.mmeta.empty w = if w = pa / 8 then false else Tab.get false s.dev.mmeta.empty w := by
  obtain ⟨hr, hk, -⟩ := id hb
  rw [← unbag_isEmpty hr hk s i] at hf
  have hu := (writeLoc_onlyMemory (unbag s r k i) pa q.key (bytesOf 8 v.toNat)).setFe pa false
  have hexec := exec_perform_answers_fe hb hl (by rw [hq]; exact hs) hu (homeOp_fills (unbag_served hr hk hs i) hq hf) (by decide) hq hw
  have hempty := (writeLoc_empty (unbag s r k i) pa q.key (bytesOf 8 v.toNat)).trans (congrArg Meta.empty (unbag_mmeta hr hk s i))
  rw [if_pos (by rcases hf with rfl | ⟨rfl, -⟩ <;> rfl)] at hexec
  refine ⟨_, hexec, ?_, (reply_onlySlot hr hk hu q .ack).slot_self, fun w => ?_⟩
  · rw [markEligible_mem, reply_mem, State.setFe_mem, writeLoc_mem, length_bytesOf, unbag_memAs hr hk]
  · show Tab.get false (reply r k q _).dev.mmeta.empty w = _
    rw [reply_mmeta hr hk, setFe_empty (by rwa [hempty]), hempty]

end

/-- Settles O17, by what each operation finds: the wrong bit, a full word to read, a word to clear, a word to fill. -/
theorem performedFullEmptyOps : Obligations.PerformedFullEmptyOps := by
  unfold Obligations.PerformedFullEmptyOps
  intro s r k i pa q f v word empty seen hb hq hl hs hwf
  exact ⟨perform_fe_waits hb hq hl hs, fun hw => ⟨fun ⟨hf, he⟩ => perform_fe_reads hb hq hl hs hwf hw hf he,
    perform_fe_clears hb hq hl hs hwf hw, perform_fe_fills hb hq hl hs hwf hw⟩⟩

end Sys2Proof.Machine
end

section
/-! OBLIGATION. Acknowledgements and values on the return path (06 R114, R116, 02 R35). -/

namespace Sys2Proof.Machine

/-! ### A class of a thread's operations -/

section
variable (f : Flow) (c : Cls) (l : List (Nat × Nat))

theorem Flow.setCls_cls (k : Cls) : (f.setCls c l).cls k = if k = c ∧ k ≠ .none then l else f.cls k := by
  cases c <;> cases k <;> rfl

theorem Flow.setCls_die : (f.setCls c l).die = f.die := by cases c <;> rfl
theorem Flow.setCls_pkg : (f.setCls c l).pkg = f.pkg := by cases c <;> rfl
theorem Flow.setCls_sys : (f.setCls c l).sys = f.sys := by cases c <;> rfl
theorem Flow.setCls_bag : (f.setCls c l).bag = f.bag := by cases c <;> rfl
theorem Flow.setCls_rets : (f.setCls c l).rets = f.rets := by cases c <;> rfl
theorem Flow.setCls_acks : (f.setCls c l).acks = f.acks := by cases c <;> rfl
theorem Flow.setCls_acq : (f.setCls c l).acq = f.acq := by cases c <;> rfl
theorem Flow.setCls_posted : (f.setCls c l).posted = f.posted := by cases c <;> rfl

end

/-- A part of an operation done counts in its class alone. -/
theorem Flow.finish_cls (f : Flow) (c : Cls) (id : Nat) (k : Cls) :
    (f.finish c id).cls k = if k = c ∧ k ≠ .none then popDone (dec1 id (f.cls k)) else f.cls k := by
  rw [Flow.finish, Flow.setCls_cls]
  split
  next e => rw [e.1]
  next => rfl

/-- What is over with a request's answer: its acquire's hold under the number `a`, its counters, its part in its class. -/
def Flow.over (f : Flow) (q : Req) (a : Nat) : Flow := ((f.acqDone a).lowerCnt q).finish q.cls q.id

section
variable (f : Flow) (q : Req) (a : Nat)

theorem Flow.over_die : (f.over q a).die = if q.die then f.die - 1 else f.die := Flow.setCls_die ..
theorem Flow.over_pkg : (f.over q a).pkg = if q.pkg then f.pkg - 1 else f.pkg := Flow.setCls_pkg ..
theorem Flow.over_sys : (f.over q a).sys = if q.sys then f.sys - 1 else f.sys := Flow.setCls_sys ..
theorem Flow.over_bag : (f.over q a).bag = f.bag := Flow.setCls_bag ..
theorem Flow.over_rets : (f.over q a).rets = f.rets := Flow.setCls_rets ..
theorem Flow.over_acks : (f.over q a).acks = f.acks := Flow.setCls_acks ..
theorem Flow.over_posted : (f.over q a).posted = f.posted := Flow.setCls_posted ..
theorem Flow.over_acq : (f.over q a).acq = f.acq.filter (· != a) := Flow.setCls_acq ..

theorem Flow.over_cls (k : Cls) :
    (f.over q a).cls k = if k = q.cls ∧ k ≠ .none then popDone (dec1 q.id (f.cls k)) else f.cls k := by
  have h : ((f.acqDone a).lowerCnt q).cls k = f.cls k := by cases k <;> rfl
  rw [Flow.over, Flow.finish_cls, h]

end

/-- A thread's flow once it has taken acknowledgement `i`, for the request `q`. -/
def Flow.ackTaken (i : Nat) (q : Req) (f : Flow) : Flow := ({ f with acks := dropAt f.acks i } : Flow).over q q.id

/-- A thread's flow once value `i` of its return path, for the request `q`, has reached it; only a request of a class can be an
acquire. -/
def Flow.valueTaken (i : Nat) (q : Req) (f : Flow) : Flow :=
  ({ f with rets := dropAt f.rets i } : Flow).over q (if q.cls = .none then f.nextId else q.id)

theorem Flow.ackTaken_cls (i : Nat) (q : Req) (f : Flow) (c : Cls) :
    (f.ackTaken i q).cls c = if c = q.cls ∧ c ≠ .none then popDone (dec1 q.id (f.cls c)) else f.cls c := by
  rw [Flow.ackTaken, Flow.over_cls]
  cases c <;> rfl

theorem Flow.valueTaken_cls (i : Nat) (q : Req) (f : Flow) (c : Cls) :
    (f.valueTaken i q).cls c = if c = q.cls ∧ c ≠ .none then popDone (dec1 q.id (f.cls c)) else f.cls c := by
  rw [Flow.valueTaken, Flow.over_cls]
  cases c <;> rfl

/-! ### The two steps -/

section
variable {r k : Nat} (hr : r < 2048) (hk : k < 16)
include hr hk

theorem Dev.onThrFlow_onThrFlow (d : Dev) (f g : Flow → Flow) :
    (d.onThrFlow r k f).onThrFlow r k g = d.onThrFlow r k (fun x => g (f x)) := by
  simp only [Dev.onThrFlow_eq_onSlot _ hr hk, Dev.onSlot_onSlot]

/-- A change that posts no operation leaves nothing to send where nothing was ready. -/
theorem Dev.sendReady_onThrFlow {d : Dev} (hn : NoneReady (d.slot r k).flow) {f : Flow → Flow}
    (hf : (f (d.slot r k).flow).posted = (d.slot r k).flow.posted) : (d.onThrFlow r k f).sendReady r k = d.onThrFlow r k f := by
  refine Dev.sendReady_of_noneReady hk ?_
  rw [Dev.onThrFlow_eq_onSlot _ hr hk, Dev.onSlot_slot_self, NoneReady, hf]
  exact hn

variable {s : State} (hn : NoneReady (s.dev.slot r k).flow) {i : Nat} {q : Req}
include hn

theorem exec_acknowledge (h : nth? (s.dev.slot r k).flow.acks i = some ⟨q, none⟩) :
    exec (.acknowledge r k i) s = .next { s with dev := s.dev.onThrFlow r k (Flow.ackTaken i q) } := by
  show execAcknowledge r k i s = _
  rw [execAcknowledge, Dev.thr_of_lt hk, h]
  dsimp only
  rw [Dev.onThrFlow_onThrFlow hr hk, State.frameSync_of_lt hk]
  exact congrArg (fun d => Host.Outcome.next { s with dev := d })
    (Dev.sendReady_onThrFlow hr hk hn (f := Flow.ackTaken i q) (Flow.over_posted ..))

theorem exec_returnValue {d : XReg} {v : Word} (h : nth? (s.dev.slot r k).flow.rets i = some ⟨q, .words [v] true⟩)
    (hd : q.dst = .x d) :
    exec (.returnValue r k i) s =
      .next { s with dev := s.dev.onSlot r k (fun t => { t.setX d v with flow := t.flow.valueTaken i q }) } := by
  have hsend := Dev.sendReady_onThrFlow hr hk hn (f := Flow.valueTaken i q) (Flow.over_posted ..)
  have hdev : (s.dev.onThrFlow r k (Flow.valueTaken i q)).onThr r k (fun t => t.setX d v) =
      s.dev.onSlot r k (fun t => { t.setX d v with flow := t.flow.valueTaken i q }) := by
    rw [Dev.onThrFlow_eq_onSlot _ hr hk, Dev.onThr, if_neg (Nat.not_le.2 hr), if_pos hk, Dev.onSlot_onSlot]
    congr 1
    funext t
    unfold Slot.setX
    split <;> rfl
  show execReturnValue r k i s = _
  rw [← hdev, ← hsend, execReturnValue, Dev.thr_of_lt hk, h]
  simp only [hd, State.frameSync_of_lt hk]
  rfl

end

/-- Settles O18: both steps end what hangs on the request, and the second writes its register. -/
theorem acknowledgeAndReturn : Obligations.AcknowledgeAndReturn := by
  unfold Obligations.AcknowledgeAndReturn
  intro s r k i q d v f hr hk hn
  refine ⟨fun h => ?_, fun h hd => ?_⟩
  · have hslot := OnlySlot.of_onSlot (s := s) (m := s.dev.mmeta) (t := { s with dev := s.dev.onThrFlow r k (Flow.ackTaken i q) })
      (Dev.onThrFlow_eq_onSlot s.dev hr hk (Flow.ackTaken i q))
    exact ⟨_, f.ackTaken i q, exec_acknowledge hr hk hn h, rfl, hslot, Flow.over_die .., Flow.over_pkg .., Flow.over_sys ..,
      Flow.over_acks .., Flow.over_bag .., Flow.over_rets .., f.ackTaken_cls i q⟩
  · have hslot := OnlySlot.of_onSlot (s := s) (m := s.dev.mmeta) (t := { s with dev := s.dev.onSlot r k (fun t =>
      { t.setX d v with flow := t.flow.valueTaken i q }) }) rfl
    refine ⟨_, f.valueTaken i q, exec_returnValue hr hk hn h hd, rfl, hslot, Flow.over_rets .., Flow.over_bag .., Flow.over_acks ..,
      fun hc => ?_, f.valueTaken_cls i q⟩
    rw [Flow.valueTaken, Flow.over_acq, if_neg hc]

end Sys2Proof.Machine
end

section
/-! OBLIGATION. Guard instructions send one request each to the guard's manager (07 R139, R146, R151, R154, R156, 14 R317, R318). -/

namespace Sys2Proof.Machine

/-! ### Where the request goes -/

theorem GuardWord.space {s : State} {p : Word} {loc : Loc} (h : GuardWord s p loc) : pspace p = 6 ∨ pspace p = 0 :=
  h.2.imp (·.1) (·.1)

/-- R142: a guard word that is found is where its request goes. -/
theorem guardWordAt_found {s : State} {p : Word} {loc : Loc} (h : GuardWord s p loc) (k : Loc → Out) : guardWordAt s p k = k loc := by
  obtain ⟨hc, ⟨h6, key, hp⟩ | ⟨h0, e, he, rfl⟩⟩ := h
  · simp only [guardWordAt, hc, h6, hp, if_true]
  · have h6 : ¬pspace p = 6 := by omega
    simp only [guardWordAt, hc, if_neg h6, he]

section
variable {s : State} {loc : Loc}

/-- R142: the request goes to the guard word that is found. -/
theorem guardSends {p : Word} (hg : GuardWord s p loc) (cls : Cls) (op : ReqOp) (dst : Dst) (acq judged : Bool) :
    ∃ u, guardWordAt s p (fun l => sendNow s (guardAsk cls op dst acq judged) p l 0) = .next u ∧ Sends s u cls op dst loc acq judged := by
  rw [guardWordAt_found hg]
  exact sendNow_sends s (guardAsk cls op dst acq judged) p loc 0

/-- A guard word's pointer names one of the two spaces that `gacq`, `grel` and `gflush` take. -/
theorem GuardWord.space_admitted {p : Word} (hg : GuardWord s p loc) : (pspace p ≠ 0 && pspace p ≠ 6) = false := by
  rcases hg.space with h | h <;> simp [h]

end

/-! ### `bind`, `unbind`, `gflush`, `grel` -/

section
variable {s : State} {loc : Loc} {sc : Scope} {d a b : XReg} {n1 : BitVec 8} {code : BitVec 4}

theorem execBind_sends (hk : s.dev.who ≤ 10) (hm : MaySend s false false none) (hr : releaseOk s.dev s.dev.rank s.dev.who sc = true)
    (hc : code.toNat ≤ 8) (hs : pspace (s.dev.x a) = 0) (ha : paddr (s.dev.x a) % (256 * 2 ^ code.toNat) = 0)
    (ht : tagsKnown (s.dev.x a) = true) (hl : locBitsOk (s.dev.x a) = true) (hw : pspace (s.dev.x b) = 0) (hb : paddr (s.dev.x b) % 8 = 0)
    (hg : GuardWord s (s.dev.x b) loc) :
    ∃ u, execBind sc d a b n1 code s = .next u ∧ Sends s u .ld (.bind (s.dev.x a) sc n1.toNat code.toNat) (.x d) loc false false := by
  have hargs : (decide (code.toNat > 8) || decide (pspace (s.dev.x a) ≠ 0) || decide (pspace (s.dev.x b) ≠ 0) ||
      decide (paddr (s.dev.x a) % blockSize code.toNat ≠ 0) || decide (paddr (s.dev.x b) % 8 ≠ 0)) = false := by
    simp [blockSize, hc, hs, hw, ha, hb]
  have htags : (!tagsKnown (s.dev.x a) || !locBitsOk (s.dev.x a)) = false := by simp [ht, hl]
  unfold execBind
  dsimp only
  rw [if_neg (Nat.not_lt.2 hk), sendStalls_go _ _ _ _ hm, parkUnless_pos _ (.release sc) _ hr, hargs, htags]
  exact guardSends hg ..

theorem execUnbind_sends (hk : s.dev.who ≤ 10) (hm : MaySend s true false none) (hs : pspace (s.dev.x a) = 0)
    (hg : GuardWord s (s.dev.x a) loc) : ∃ u, execUnbind d a s = .next u ∧ Sends s u .ld .unbind (.x d) loc true false := by
  unfold execUnbind
  dsimp only
  rw [if_neg (Nat.not_lt.2 hk), sendStalls_go _ _ _ _ hm, if_neg (not_not.2 hs)]
  exact guardSends hg ..

theorem execGflush_sends (hk : s.dev.who ≤ 10) (hm : MaySend s false false none) (hg : GuardWord s (s.dev.x a) loc) :
    ∃ u, execGflush a s = .next u ∧ Sends s u .cp .gflush .none loc false true := by
  unfold execGflush
  dsimp only
  rw [if_neg (Nat.not_lt.2 hk), sendStalls_go _ _ _ _ hm, hg.space_admitted]
  exact guardSends hg ..

theorem execGrel_sends {i : Nat} {x : BindEnt} (hk : isHelper s.dev.who = true) (hm : MaySend s false false none)
    (hg : GuardWord s (s.dev.x a) loc) (hb : bindFor s.dev.my.eng loc = some (i, x)) (hx : x.mode = 1 ∨ x.mode = 2)
    (hi : x.ginst = s.dev.me.ginst) (hd : (Tab.get {} s.dev.my.eng.bind i).due = 0)
    (hr : releaseOk s.dev s.dev.rank s.dev.who (scopeOfCode x.scope.toNat) = true) :
    ∃ u, execGrel a s = .next u ∧ Sends s u .st (.grel i) .none loc false true := by
  have hdue : (WaitCond.dueZero i).holds s s.dev.rank s.dev.who = true := beq_iff_eq.2 hd
  have hheld : (x.mode = 0 || x.mode = 3 || decide (x.ginst ≠ s.dev.me.ginst)) = false := by
    rcases hx with h | h <;> simp [h, hi]
  unfold execGrel
  dsimp only
  rw [hk, sendStalls_go _ _ _ _ hm, hg.space_admitted, guardWordAt_found hg, hb]
  dsimp only [Bool.not_true]
  rw [parkUnless_pos _ _ _ hdue, parkUnless_pos _ (.release _) _ hr, hheld]
  exact sendNow_sends s (guardAsk .st (.grel i) .none false true) (s.dev.x a) loc 0

end

/-! ### `gacq` -/

/-- The state with entry `i` of the issuing core's bind table set to `b`, the issuing slot awaiting none. -/
def State.entered (s : State) (i : Nat) (b : BindEnt) : State :=
  { s with dev := (setEntry s.dev s.dev.rank i b).onEng s.dev.rank (endAwait s.dev.who) }

theorem gacqSend_sends (s : State) (excl : Bool) (d : XReg) (p : Word) (loc : Loc) (i : Nat) (b : BindEnt) :
    ∃ u, gacqSend s excl d p loc i b = .next u ∧ Sends (s.entered i b) u .ld (.gacq excl i) (.x d) loc true true :=
  sendNow_sends (s.entered i b) (guardAsk .ld (.gacq excl i) (.x d) true true) p loc 0

section
variable {s : State} {loc : Loc} {a b : XReg} (hk : isHelper s.dev.who = true) (hm : MaySend s true false none)
  (hg : GuardWord s (s.dev.x a) loc) (ht : tagsKnown (s.dev.x b) = true) (hl : locBitsOk (s.dev.x b) = true)
  (hs : pspace (s.dev.x b) = 1) (hb : paddr (s.dev.x b) % 8 = 0)
  (hw : windowOk s.dev.my s.dev.who s.dev.me (paddr (s.dev.x b)) 8 = true) (excl : Bool) (d : XReg)
include hk hm hg ht hl hs hb hw

/-- R146, R148: a first `gacq` takes a free entry. -/
theorem gacq_sends_of_free {i : Nat} (hn : bindFor s.dev.my.eng loc = none) (hf : freeEntry s.dev.my.eng = some i) :
    ∃ u, gacq excl d a b s = .next u ∧
      Sends (s.entered i (newEntry loc s.dev.me (s.dev.x b))) u .ld (.gacq excl i) (.x d) loc true true := by
  have hgo : gacq excl d a b s = gacqSend s excl d (s.dev.x a) loc i (newEntry loc s.dev.me (s.dev.x b)) := by
    unfold gacq
    dsimp only
    rw [hk, sendStalls_go _ _ _ _ hm, hg.space_admitted, guardWordAt_found hg]
    simp [ht, hl, hs, hb, hw, hn, hf]
  rw [hgo]
  exact gacqSend_sends ..

/-- R146, 21 R400: what a `gacq` does where its core has an entry for the guard that no other group holds or awaits. -/
theorem gacq_of_entry {i : Nat} {x : BindEnt} (hx : bindFor s.dev.my.eng loc = some (i, x)) (hi : x.mode ≠ 0 → x.ginst = s.dev.me.ginst) :
    gacq excl d a b s =
      if x.mode ≠ 0 then fault s 0x20 (s.dev.x a) (if x.buffer.toNat ≠ paddr (s.dev.x b) then 3 else 4)
      else if x.buffer.toNat ≠ paddr (s.dev.x b) then fault s 0x20 (s.dev.x a) 3
      else gacqSend s excl d (s.dev.x a) loc i
        { x with mode := 3, asid := s.dev.me.asid, group := BitVec.ofNat 4 s.dev.me.start, ginst := s.dev.me.ginst } := by
  unfold gacq
  dsimp only
  rw [hk, sendStalls_go _ _ _ _ hm, hg.space_admitted, guardWordAt_found hg]
  by_cases h0 : x.mode = 0
  · simp [ht, hl, hs, hb, hw, hx, h0]
  · simp [ht, hl, hs, hb, hw, hx, hi h0]

/-- R146: an idle entry that holds the guard in the same buffer is taken again. -/
theorem gacq_sends_of_idle {i : Nat} {x : BindEnt} (hx : bindFor s.dev.my.eng loc = some (i, x)) (h0 : x.mode = 0)
    (ho : x.buffer.toNat = paddr (s.dev.x b)) :
    ∃ u, gacq excl d a b s = .next u ∧
      Sends (s.entered i { x with mode := 3, asid := s.dev.me.asid, group := BitVec.ofNat 4 s.dev.me.start, ginst := s.dev.me.ginst })
        u .ld (.gacq excl i) (.x d) loc true true := by
  rw [gacq_of_entry hk hm hg ht hl hs hb hw excl d hx (absurd h0), if_neg (not_not.2 h0), if_neg (not_not.2 ho)]
  exact gacqSend_sends ..

/-- R148: an idle entry holds the guard in another buffer. -/
theorem gacq_faults_of_idle {i : Nat} {x : BindEnt} (hx : bindFor s.dev.my.eng loc = some (i, x)) (h0 : x.mode = 0)
    (ho : x.buffer.toNat ≠ paddr (s.dev.x b)) : gacq excl d a b s = fault s 0x20 (s.dev.x a) 3 := by
  rw [gacq_of_entry hk hm hg ht hl hs hb hw excl d hx (absurd h0), if_neg (not_not.2 h0), if_pos ho]

/-- 21 R400: the own group holds or awaits the entry (log 58). -/
theorem gacq_faults_of_own {i : Nat} {x : BindEnt} (hx : bindFor s.dev.my.eng loc = some (i, x)) (h0 : x.mode ≠ 0)
    (hi : x.ginst = s.dev.me.ginst) :
    gacq excl d a b s = fault s 0x20 (s.dev.x a) (if x.buffer.toNat = paddr (s.dev.x b) then 4 else 3) := by
  rw [gacq_of_entry hk hm hg ht hl hs hb hw excl d hx fun _ => hi, if_pos h0, ite_not]

end

/-! ### The obligation -/

/-- Settles O37: each instruction passes its stalls and its checks, finds the guard word and sends to it. -/
theorem guardInstructionsSend : Obligations.GuardInstructionsSend := by
  unfold Obligations.GuardInstructionsSend
  intro s sc d a b n1 code loc i x
  refine ⟨execBind_sends, execUnbind_sends, execGflush_sends, execGrel_sends, ?_, ?_, ?_⟩
  · intro hk hm hg ht hl hs hb hw
    refine ⟨fun hn hf => ?_, fun hx => ⟨fun h0 ho => ?_, fun h0 ho => ?_, fun h0 hi => ?_⟩⟩
    · have hgo := fun excl => gacq_sends_of_free hk hm hg ht hl hs hb hw excl d hn hf
      exact ⟨hgo true, hgo false⟩
    · have hgo := fun excl => gacq_sends_of_idle hk hm hg ht hl hs hb hw excl d hx h0 ho
      exact ⟨hgo true, hgo false⟩
    · have hgo := fun excl => gacq_faults_of_idle hk hm hg ht hl hs hb hw excl d hx h0 ho
      exact ⟨hgo true, hgo false⟩
    · have hgo := fun excl => gacq_faults_of_own hk hm hg ht hl hs hb hw excl d hx h0 hi
      exact ⟨hgo true, hgo false⟩
  · intro hk
    exact ⟨if_pos hk, if_pos hk, if_pos hk⟩
  · intro hk
    have hn : (!isHelper s.dev.who) = true := by rw [hk]; rfl
    exact ⟨if_pos hn, if_pos hn, if_pos hn⟩

end Sys2Proof.Machine
end

section
/-! SUPPORT. What guards' steps do to the buffers of cores and to the manager's descriptors (07 R144, R147, R149, R154). -/

namespace Sys2Proof.Machine

/-! ### A run of bytes copied (07 R149) -/

theorem Mem.length_bytes (m : Mem) (a n : Nat) : (m.bytes a n).length = n := by
  induction n generalizing a with
  | zero => rfl
  | succ n ih => rw [Mem.bytes, List.length_cons, ih]

/-- Bytes read from one memory and written to another stand there, and every other byte stays. -/
theorem Mem.read_setBytes_bytes (n : Nat) {m : Mem} (u : Mem) (a b z : Nat) (h : m.wf = true) :
    (m.setBytes a (u.bytes b n)).read z = if a ≤ z ∧ z < a + n then u.read (b + (z - a)) else m.read z := by
  induction n generalizing m a b with
  | zero => rw [if_neg (by omega)]; rfl
  | succ n ih =>
    rw [Mem.bytes, Mem.setBytes, ih _ _ (Mem.write_wf m a _ h), Mem.read_write _ _ _ _ h]
    rcases Nat.lt_trichotomy z a with hz | rfl | hz
    · rw [if_neg (by omega), if_neg (by omega), if_neg (by omega)]
    · rw [if_neg (by omega), if_pos rfl, if_pos (by omega), Nat.sub_self, Nat.add_zero]
    · rw [if_neg (show ¬a = z by omega), show b + 1 + (z - (a + 1)) = b + (z - a) by omega]
      exact if_congr (by omega) rfl rfl

/-! ### Entries of a bind table -/

theorem Dev.onEng_core (d : Dev) (r : Nat) (f : CoreEng → CoreEng) (q : Nat) :
    (d.onEng r f).core q = if r = q then { d.core r with eng := f (d.core r).eng } else d.core q :=
  Dev.onCore_core d r _ q

@[simp] theorem Dev.onEng_eng_self (d : Dev) (r : Nat) (f : CoreEng → CoreEng) : ((d.onEng r f).core r).eng = f (d.core r).eng := by
  rw [Dev.onEng_core, if_pos rfl]

theorem setEntry_lmem (d : Dev) (r i : Nat) (b : BindEnt) (q : Nat) : ((setEntry d r i b).core q).lmem = (d.core q).lmem := by
  rw [setEntry, Dev.onEng_core]
  split
  next e => rw [e]
  next => rfl

/-- Entry `i` of core `r`'s bind table. -/
def Dev.bindEnt (d : Dev) (r i : Nat) : BindEnt := Tab.get {} (d.core r).eng.bind i

theorem setEntry_bindEnt_self (d : Dev) (r i : Nat) (b : BindEnt) : (setEntry d r i b).bindEnt r i = b := by
  rw [Dev.bindEnt, setEntry, Dev.onEng_eng_self, Tab.get_set, if_pos rfl]

/-- From one device to another every core keeps its local memory and its bind table. -/
structure Dev.SameBuffers (d d' : Dev) : Prop where
  lmem : ∀ q, (d'.core q).lmem = (d.core q).lmem
  bind : ∀ q, (d'.core q).eng.bind = (d.core q).eng.bind

theorem Dev.SameBuffers.bindEnt {d d' : Dev} (h : d.SameBuffers d') (r i : Nat) : d'.bindEnt r i = d.bindEnt r i :=
  congrArg (fun b => Tab.get ({} : BindEnt) b i) (h.bind r)

theorem Dev.SameBuffers.refl (d : Dev) : d.SameBuffers d := ⟨fun _ => rfl, fun _ => rfl⟩

theorem Dev.SameBuffers.trans {d d' d'' : Dev} (h : d.SameBuffers d') (h' : d'.SameBuffers d'') : d.SameBuffers d'' :=
  ⟨fun q => (h'.lmem q).trans (h.lmem q), fun q => (h'.bind q).trans (h.bind q)⟩

theorem Dev.onCore_sameBuffers (d : Dev) (r : Nat) {f : Core → Core} (hl : (f (d.core r)).lmem = (d.core r).lmem)
    (hb : (f (d.core r)).eng.bind = (d.core r).eng.bind) : d.SameBuffers (d.onCore r f) := by
  refine ⟨fun q => ?_, fun q => ?_⟩ <;> rw [Dev.onCore_core] <;> split
  case refine_1.isTrue e => rw [← e, hl]
  case refine_2.isTrue e => rw [← e, hb]
  all_goals rfl

theorem Dev.onEng_sameBuffers (d : Dev) (r : Nat) {f : CoreEng → CoreEng} (hb : (f (d.core r).eng).bind = (d.core r).eng.bind) :
    d.SameBuffers (d.onEng r f) := d.onCore_sameBuffers r rfl hb

theorem Dev.onThr_sameBuffers (d : Dev) (r k : Nat) (f : Slot → Slot) : d.SameBuffers (d.onThr r k f) := by
  unfold Dev.onThr
  split_ifs
  · exact .refl d
  · exact d.onCore_sameBuffers r rfl rfl
  · exact d.onEng_sameBuffers r rfl

/-! ### What a change of one context leaves -/

@[simp] theorem Dev.onThr_objs (d : Dev) (r k : Nat) (f : Slot → Slot) : (d.onThr r k f).objs = d.objs := by
  unfold Dev.onThr
  split_ifs <;> rfl

@[simp] theorem Dev.onThrFlow_objs (d : Dev) (r k : Nat) (f : Flow → Flow) : (d.onThrFlow r k f).objs = d.objs := Dev.onThr_objs ..

theorem Dev.onThr_eq_onSlot (d : Dev) {r k : Nat} (hr : r < 2048) (hk : k < 16) (f : Slot → Slot) : d.onThr r k f = d.onSlot r k f := by
  rw [Dev.onThr, if_neg (Nat.not_le.2 hr), if_pos hk]

/-! ### Descriptors by their word (R142) -/

theorem guardOf_word {o : Objs} {w : Nat} {g : Guard} (h : guardOf o w = some g) : g.word = w :=
  beq_iff_eq.1 (List.find?_some h :)

theorem guardOf_mem {o : Objs} {w : Nat} {g : Guard} (h : guardOf o w = some g) : g ∈ o.guards := List.mem_of_find?_eq_some h

/-- A descriptor written back is the one found under its word. -/
theorem guardOf_putGuard {o : Objs} {g : Guard} (h : ∃ x ∈ o.guards, x.word = g.word) : guardOf (putGuard o g) g.word = some g := by
  show (o.guards.map fun x => if x.word = g.word then g else x).find? (fun x => x.word == g.word) = some g
  obtain ⟨x, hx, hw⟩ := h
  revert hx
  induction o.guards with
  | nil => exact fun hx => nomatch hx
  | cons y l ih =>
    intro hx
    rw [List.map_cons]
    by_cases hy : y.word = g.word
    · simp [hy]
    · have hne : x ≠ y := fun e => hy (e ▸ hw)
      rw [if_neg hy, List.find?_cons_of_neg (by simpa using hy)]
      exact ih ((List.mem_cons.1 hx).resolve_left hne)

theorem guardOf_putGuard_of_word {o : Objs} {w : Nat} {g g' : Guard} (h : guardOf o w = some g) (hw : g'.word = g.word) :
    guardOf (putGuard o g') g.word = some g' :=
  hw ▸ guardOf_putGuard ⟨g, guardOf_mem h, hw.symm⟩

theorem mem_of_nth? {α : Type} {l : List α} {i : Nat} {x : α} (h : nth? l i = some x) : x ∈ l := by
  induction l generalizing i with
  | nil => cases h
  | cons a l ih =>
    cases i with
    | zero => cases h; exact .head l
    | succ i => exact .tail a (ih h)

/-- R153, R154: a refresh that has ended raises hmark, unless the region was at home, renumbered or as new before. -/
theorem refreshed_eq (g : Guard) (x : Xfer) :
    refreshed g x = { g with hmark := if g.home = true ∨ g.epoch ≠ x.epoch ∨ x.high ≤ g.hmark then g.hmark else x.high } := by
  unfold refreshed
  by_cases h : g.home = true ∨ g.epoch ≠ x.epoch ∨ x.high ≤ g.hmark
  · rw [if_pos h, if_pos (by simpa [or_assoc] using h)]
  · rw [if_neg h, if_neg (by simpa [or_assoc] using h)]

theorem refreshed_word (g : Guard) (x : Xfer) : (refreshed g x).word = g.word := by rw [refreshed_eq]

end Sys2Proof.Machine
end

section
/-! SUPPORT. The manager grants the head of a guard's wait list, and the grant arrives at its core (07 R147, R148, R156). -/

namespace Sys2Proof.Machine

/-! ### GUARD_GRANT -/

/-- The descriptor once the head of its wait list has been granted (R147). -/
def Guard.granted (g : Guard) (x : Bool) (holder : Nat × Nat) (rest : List GReq) : Guard :=
  if x then { g with mode := 2, valid := true, holder := holder, wait := rest } else { g with mode := 1, shared := g.shared + 1, wait := rest }

theorem Guard.granted_word (g : Guard) (x : Bool) (holder : Nat × Nat) (rest : List GReq) : (g.granted x holder rest).word = g.word := by
  cases x <;> rfl

section
variable {s : State} {gi e : Nat} {x : Bool} {g : Guard} {w : GReq} {rest : List GReq} (hg : nth? s.dev.objs.guards gi = some g)
  (hw : g.wait = w :: rest)
include hg hw

/-- R156, 01 R22: a manager that is down, or whose guard is being unbound, grants nothing. -/
theorem exec_guardGrant_busy (hb : managerBusy s g.word = true) : exec (.guardGrant gi) s = .next s := by
  show execGuardGrant gi s = _
  simp only [execGuardGrant, hg, hw, hb, Bool.true_or, if_true]

variable (hx : w.req.op = .gacq x e)
include hx

/-- R147: the mode keeps the head of the list waiting. -/
theorem exec_guardGrant_refused (hm : x = true ∧ g.mode ≠ 0 ∨ x = false ∧ g.mode = 2) : exec (.guardGrant gi) s = .next s := by
  have hexcl : w.excl = x := by rw [GReq.excl, hx]
  have hno : (managerBusy s g.word || (x && decide (g.mode ≠ 0)) || (!x && (decide (g.mode = 2) || decide (g.shared = 0xFFF)))) = true := by
    rcases hm with ⟨rfl, hm⟩ | ⟨rfl, hm⟩
    · rw [decide_eq_true hm, Bool.true_and, Bool.or_true, Bool.true_or]
    · rw [decide_eq_true hm, Bool.not_false, Bool.true_or, Bool.true_and, Bool.or_true]
  show execGuardGrant gi s = _
  simp only [execGuardGrant, hg, hw, hexcl]
  exact if_pos hno

theorem exec_guardGrant_granted (hb : managerBusy s g.word = false) (hx1 : x = true → g.mode = 0)
    (hx0 : x = false → g.mode ≠ 2 ∧ g.shared ≠ 0xFFF) (hr : w.rank < 2048) :
    exec (.guardGrant gi) s = .next { s with dev := (s.dev.onObjs (fun o => putGuard o (g.granted x (w.rank, e) rest))).onObjs (fun o =>
      { o with grants := o.grants ++ [⟨w.rank, w.slot, w.req, g.word, x, e, deliveryList g (s.dev.bindEnt w.rank e),
                                       g.next - 1, g.epoch, if g.home then none else some g.last⟩] }) } := by
  have hexcl : w.excl = x := by rw [GReq.excl, hx]
  have hgo : (managerBusy s g.word || (x && decide (g.mode ≠ 0)) || (!x && (decide (g.mode = 2) || decide (g.shared = 0xFFF)))) = false := by
    rw [hb, Bool.false_or]
    cases x with
    | true => rw [decide_eq_false (not_not.2 (hx1 rfl))]; rfl
    | false => rw [decide_eq_false (hx0 rfl).1, decide_eq_false (hx0 rfl).2]; rfl
  show execGuardGrant gi s = _
  simp only [execGuardGrant, hg, hw, hexcl, hx, if_neg (Nat.not_le.2 hr)]
  exact if_neg (Bool.eq_false_iff.1 hgo)

/-- R147: the grant leaves with the sub-blocks that the entry has not seen. -/
theorem guardGrant_grants (hb : managerBusy s g.word = false) (hx1 : x = true → g.mode = 0)
    (hx0 : x = false → g.mode ≠ 2 ∧ g.shared ≠ 0xFFF) (hr : w.rank < 2048) :
    ∃ t n, exec (.guardGrant gi) s = .next t ∧ t.mem = s.mem ∧ t.dev.cores = s.dev.cores ∧
      guardOf t.dev.objs g.word = some (g.granted x (w.rank, e) rest) ∧
      t.dev.objs.grants = s.dev.objs.grants ++ [n] ∧ n.rank = w.rank ∧ n.slot = w.slot ∧ n.word = g.word ∧ n.excl = x ∧
      n.entry = e ∧ n.high = g.next - 1 ∧ n.epoch = g.epoch ∧ n.src = (if g.home then none else some g.last) ∧
      ∀ m, m ∈ n.list ↔ m ≤ g.count.toNat ∧
        (if (s.dev.bindEnt w.rank e).epoch = g.epoch
          then (s.dev.bindEnt w.rank e).mark else 0) < Tab.get 0 g.stamps m := by
  have hput := guardOf_putGuard (o := s.dev.objs) (g := g.granted x (w.rank, e) rest) ⟨g, mem_of_nth? hg, (g.granted_word ..).symm⟩
  rw [Guard.granted_word] at hput
  refine ⟨_, _, exec_guardGrant_granted hg hw hx hb hx1 hx0 hr, rfl, rfl, hput, rfl, rfl, rfl, rfl, rfl, rfl, rfl, rfl, rfl, fun m => ?_⟩
  simp only [deliveryList, upto, List.mem_filter, List.mem_range, Nat.lt_succ_iff, gt_iff_lt, decide_eq_true_eq]

end

/-! ### GRANT_ARRIVAL -/

theorem Flow.setCls_deferred (f : Flow) (c : Cls) (l : List (Nat × Nat)) : (f.setCls c l).deferred = f.deferred := by cases c <;> rfl

theorem foldl_setEmpty_eng_slots (f : Nat → Nat) (ws : List Nat) (c : Core) :
    (ws.foldl (fun c w => c.setEmpty (f w) true) c).eng = c.eng ∧ (ws.foldl (fun c w => c.setEmpty (f w) true) c).slots = c.slots := by
  induction ws generalizing c with
  | nil => exact ⟨rfl, rfl⟩
  | cons w ws ih => exact ih (c.setEmpty (f w) true)

theorem emptyBlocks_eng_slots (base size : Nat) (l : List Nat) (c : Core) :
    (emptyBlocks c base size l).eng = c.eng ∧ (emptyBlocks c base size l).slots = c.slots := by
  unfold emptyBlocks
  induction l generalizing c with
  | nil => exact ⟨rfl, rfl⟩
  | cons i l ih =>
    obtain ⟨he, hs⟩ := foldl_setEmpty_eng_slots (fun w => (base + i * size) / 8 + w) (upto (size / 8)) c
    obtain ⟨he', hs'⟩ := ih ((upto (size / 8)).foldl (fun c w => c.setEmpty ((base + i * size) / 8 + w) true) c)
    exact ⟨he'.trans he, hs'.trans hs⟩

/-- The bind entry once a grant has filled it (R147). -/
def BindEnt.filled (b : BindEnt) (x : Given) : BindEnt :=
  { b with code := x.code, count := x.count, scope := x.scope, mode := if x.excl then 2 else 1
           epoch := x.epoch, mark := x.high, due := BitVec.ofNat 9 x.list.length, dirty := 0 }

/-- The device once a grant has filled its entry and emptied the listed sub-blocks (R147). -/
def Dev.grantFilled (d : Dev) (r : Nat) (x : Given) : Dev :=
  let b := d.bindEnt r x.entry
  d.onCore r (fun c => emptyBlocks { c with eng := { c.eng with bind := Tab.set c.eng.bind x.entry (b.filled x) } }
    b.buffer.toNat (blockSize x.code.toNat) x.list)

theorem Dev.grantFilled_bindEnt (d : Dev) (r : Nat) (x : Given) :
    (d.grantFilled r x).bindEnt r x.entry = (d.bindEnt r x.entry).filled x := by
  rw [Dev.bindEnt, Dev.grantFilled, Dev.onCore_core_self, (emptyBlocks_eng_slots ..).1, Tab.get_set, if_pos rfl]

theorem Dev.grantFilled_slot (d : Dev) (r : Nat) (x : Given) (q j : Nat) : (d.grantFilled r x).slot q j = d.slot q j :=
  Dev.onCore_slot_of_slots d r _ (emptyBlocks_eng_slots ..).2 q j

/-- The thread's context once the grant's value has reached it (R147, R149). -/
def Slot.grantTold (q : Req) (x : Given) (t : Slot) : Slot :=
  let t1 := t.deliver q.dst [w64 (fld x.high.toNat 32 + x.list.length)] true
  let f1 := (t1.flow.acqDone q.id).finish q.cls q.id
  { t1 with flow := (if x.list.length = 0 then f1 else f1.enter .cp q.id 1) }

/-- The delivery of a grant's sub-blocks (R149). -/
def Given.delivery (x : Given) (r k : Nat) (q : Req) (b : BindEnt) : Xfer :=
  { blankXfer with refresh := false, guard := x.word, rank := r, entry := x.entry, slot := k, id := q.id, src := x.src, list := x.list,
                   ptr := q.ptr, high := if b.epoch = x.epoch then b.mark else 0 }

section
variable {s : State} {r k : Nat} (hk : k < 16)
include hk

/-- R148: a grant that its core does not take defers its thread's fault, and no byte and no descriptor changes. -/
theorem grantFails_keeps (hr : r < 2048) (q : Req) (i : Nat) :
    (grantFails s r k q i).mem = s.mem ∧ (grantFails s r k q i).dev.objs = s.dev.objs ∧
      ((grantFails s r k q i).dev.slot r k).flow.deferred = (s.dev.slot r k).flow.deferred ++ [⟨0x20, q.ptr, 3⟩] := by
  rw [grantFails, State.frameSync_of_lt hk]
  refine ⟨rfl, Dev.onThrFlow_objs .., ?_⟩
  rw [Dev.onThrFlow_eq_onSlot _ hr hk, Dev.onSlot_slot_self, Dev.unpend, setEntry, Dev.onEng_slot]
  exact congrArg (· ++ [⟨0x20, q.ptr, 3⟩]) (Flow.setCls_deferred ..)

/-- R147, R149: a grant fills its entry and tells its thread; a delivery stands at its source's engine. -/
theorem grantLands_eq (q : Req) (x : Given) : grantLands s r k q x =
    { s with dev :=
        let d := (s.dev.grantFilled r x).onThr r k (Slot.grantTold q x)
        if x.list.length = 0 then d
        else d.onEng (x.src.elim r (·.1)) (fun e =>
          { e with xfers := e.xfers ++ [x.delivery r k q (s.dev.bindEnt r x.entry)] }) } := by
  rw [grantLands, State.frameSync_of_lt hk]
  rfl

/-- R147: a grant fills its bind entry and gives its thread the high stamp and the count of listed sub-blocks. -/
theorem grantLands_fills (hr : r < 2048) {q : Req} {d : XReg} (hd : q.dst = .x d) (x : Given) :
    (grantLands s r k q x).mem = s.mem ∧ (grantLands s r k q x).dev.objs = s.dev.objs ∧
      (grantLands s r k q x).dev.bindEnt r x.entry = (s.dev.bindEnt r x.entry).filled x ∧
      ∀ z, ((grantLands s r k q x).dev.slot r k).xr z =
        if z = d ∧ d ≠ 0 then BitVec.ofNat 64 (x.high.toNat * 2 ^ 32 + x.list.length) else (s.dev.slot r k).xr z := by
  have hbind : ((s.dev.grantFilled r x).onThr r k (Slot.grantTold q x)).bindEnt r x.entry = (s.dev.bindEnt r x.entry).filled x := by
    rw [(Dev.onThr_sameBuffers ..).bindEnt, Dev.grantFilled_bindEnt]
  have hobjs : ((s.dev.grantFilled r x).onThr r k (Slot.grantTold q x)).objs = s.dev.objs := Dev.onThr_objs ..
  have hslot : ((s.dev.grantFilled r x).onThr r k (Slot.grantTold q x)).slot r k = (s.dev.slot r k).grantTold q x := by
    rw [Dev.onThr_eq_onSlot _ hr hk, Dev.onSlot_slot_self, Dev.grantFilled_slot]
  have hxr (z : XReg) : ((s.dev.slot r k).grantTold q x).xr z =
      if z = d ∧ d ≠ 0 then BitVec.ofNat 64 (x.high.toNat * 2 ^ 32 + x.list.length) else (s.dev.slot r k).xr z := by
    have hset : ((s.dev.slot r k).grantTold q x).xr z =
        ((s.dev.slot r k).setX d (BitVec.ofNat 64 (x.high.toNat * 2 ^ 32 + x.list.length))).xr z := by
      rw [Slot.grantTold, hd]
      rfl
    rw [hset, Slot.setX_xr]
    by_cases hz : z = 0
    · subst hz
      have h0 : ¬(0 = d ∧ d ≠ 0) := fun h => h.2 h.1.symm
      rw [if_pos rfl, if_neg h0]
      rfl
    · rw [if_neg hz]
      exact if_congr ⟨fun e => ⟨e, e ▸ hz⟩, And.left⟩ rfl rfl
  rw [grantLands_eq hk]
  dsimp only
  split
  · exact ⟨rfl, hobjs, hbind, fun z => by rw [hslot, hxr]⟩
  · exact ⟨rfl, hobjs, by rw [(Dev.onEng_sameBuffers _ _ rfl).bindEnt, hbind], fun z => by rw [Dev.onEng_slot, hslot, hxr]⟩

end

/-- What a grant tells its core of the descriptor (R147). -/
def Grant.told (gr : Grant) (g : Guard) : Given :=
  ⟨gr.excl, gr.entry, gr.word, g.code, g.count, BitVec.ofNat 3 (scopeCode g.scope), gr.epoch, gr.high, gr.list, gr.src⟩

/-- The device once a grant is on its way no more. -/
def Dev.ungrant (d : Dev) (gr : Grant) : Dev := d.onObjs (fun o => { o with grants := o.grants.erase gr })

/-- The descriptor once a hold that its core could not take has come back (R148, R153). -/
def Guard.givenBack (g : Guard) (x : Bool) : Guard :=
  if x then { g with mode := 0, valid := false } else { g with shared := g.shared - 1, mode := if g.shared - 1 = 0 then 0 else g.mode }

theorem Guard.givenBack_word (g : Guard) (x : Bool) : (g.givenBack x).word = g.word := by cases x <;> rfl

theorem releaseHold_clean (g : Guard) (r i : Nat) (x : Bool) (mark : BitVec 32) (epoch : BitVec 16) :
    (releaseHold g r i x 0 mark epoch).1 = g.givenBack x := by
  cases x <;> rfl

section
variable {s : State} {r k : Nat} {gr : Grant} {g : Guard} (hk : k < 16)
  (hf : s.dev.objs.grants.find? (fun g => g.rank == r && g.slot == k) = some gr) (hg : guardOf s.dev.objs gr.word = some g)
include hk hf hg

theorem exec_grantArrival : exec (.grantArrival r k) s =
    if !bufferOk (s.dev.core r) k (s.dev.slot r k) (gr.told g) (s.dev.bindEnt r gr.entry) then
      .next (grantFails { s with dev := (s.dev.ungrant gr).onObjs (fun o => putGuard o (g.givenBack gr.excl)) } r k gr.req gr.entry)
    else .next (grantLands { s with dev := s.dev.ungrant gr } r k gr.req (gr.told g)) := by
  show execGrantArrival r k s = _
  simp only [execGrantArrival, hf, hg, Dev.thr_of_lt hk, if_pos hk, releaseHold_clean]
  rfl

/-- R148: a grant whose buffer fails its checks is given back, and its thread takes 0x20, subcause 3. -/
theorem grantArrival_refuses (hr : r < 2048)
    (hb : bufferOk (s.dev.core r) k (s.dev.slot r k) (gr.told g) (s.dev.bindEnt r gr.entry) = false) :
    ∃ t, exec (.grantArrival r k) s = .next t ∧ t.mem = s.mem ∧ t.dev.objs.grants = s.dev.objs.grants.erase gr ∧
      guardOf t.dev.objs g.word = some (g.givenBack gr.excl) ∧
      (t.dev.slot r k).flow.deferred = (s.dev.slot r k).flow.deferred ++ [⟨0x20, gr.req.ptr, 3⟩] := by
  obtain ⟨hm, ho, hd⟩ := grantFails_keeps hk
    (s := { s with dev := (s.dev.ungrant gr).onObjs (fun o => putGuard o (g.givenBack gr.excl)) }) hr gr.req gr.entry
  have hput : guardOf (putGuard (s.dev.ungrant gr).objs (g.givenBack gr.excl)) g.word = some (g.givenBack gr.excl) :=
    guardOf_putGuard_of_word (o := (s.dev.ungrant gr).objs) hg (g.givenBack_word gr.excl)
  rw [exec_grantArrival hk hf hg, hb]
  exact ⟨_, rfl, hm, by rw [ho]; rfl, by rw [ho]; exact hput, hd⟩

/-- R147: a grant whose buffer passes its checks fills the entry and returns the count of listed sub-blocks. -/
theorem grantArrival_fills (hr : r < 2048) {d : XReg} (hd : gr.req.dst = .x d)
    (hb : bufferOk (s.dev.core r) k (s.dev.slot r k) (gr.told g) (s.dev.bindEnt r gr.entry) = true) :
    ∃ t, exec (.grantArrival r k) s = .next t ∧ t.mem = s.mem ∧ t.dev.objs.grants = s.dev.objs.grants.erase gr ∧
      t.dev.bindEnt r gr.entry = (s.dev.bindEnt r gr.entry).filled (gr.told g) ∧
      ∀ z, (t.dev.slot r k).xr z = if z = d ∧ d ≠ 0 then BitVec.ofNat 64 (gr.high.toNat * 2 ^ 32 + gr.list.length)
        else (s.dev.slot r k).xr z := by
  obtain ⟨hm, ho, he, hx⟩ := grantLands_fills (s := { s with dev := s.dev.ungrant gr }) hk hr hd (gr.told g)
  rw [exec_grantArrival hk hf hg, hb]
  exact ⟨_, rfl, hm, by rw [ho]; rfl, he, hx⟩

end

end Sys2Proof.Machine
end

section
/-! SUPPORT. Sub-blocks of a guarded region come to a buffer and leave one (07 R147, R149, R154, 22 R411, R417). -/

namespace Sys2Proof.Machine

/-! ### What stands in the way of a sub-block -/

theorem anyHeld_loc (s : State) (r o n : Nat) : anyHeld s (.loc r o) n = false := rfl

/-- A read of words without poison finds nothing to note (22 R419). -/
theorem noteRead_of_not_poisoned {s : State} {r o n : Nat} (h : anyPoison s (.loc r o) n = false) : noteRead s (.loc r o) n = s := by
  have hw : ∀ w ∈ touched o n, noteWord r s w = s := by
    intro w hw
    have hp : s.poisoned (.loc r (8 * w)) = false := by simpa using List.any_eq_false.1 h w hw
    have hl : Tab.get false (s.dev.core r).lpoison w = false := by
      rw [State.poisoned, Bool.or_eq_false_iff, Nat.mul_div_cancel_left w (by decide)] at hp
      exact hp.1
    rw [noteWord, hl]
    rfl
  show (touched o n).foldl (noteWord r) s = s
  exact List.foldlRecOn (motive := fun u => u = s) _ _ rfl fun u hu w hm => hu ▸ hw w hm

/-! ### A delivered sub-block -/

theorem setFe_loc_foldl {ws : List Loc} (hw : ∀ l ∈ ws, ∃ r o, l = .loc r o) (s : State) :
    let t := ws.foldl (fun s w => s.setFe w false) s
    t.mem = s.mem ∧ t.dev.objs = s.dev.objs ∧ s.dev.SameBuffers t.dev := by
  induction ws generalizing s with
  | nil => exact ⟨rfl, rfl, .refl _⟩
  | cons w ws ih =>
    obtain ⟨r, o, rfl⟩ := hw w (.head ws)
    have hset : s.dev.SameBuffers (s.setFe (.loc r o) false).dev :=
      Dev.onCore_sameBuffers s.dev r (f := fun c => c.setEmpty (o / 8) false) rfl rfl
    obtain ⟨hm, ho, hs⟩ := ih (fun l hl => hw l (.tail _ hl)) (s.setFe (.loc r o) false)
    exact ⟨hm, ho, hset.trans hs⟩

theorem markEligible_loc_foldl {ws : List Loc} (hw : ∀ l ∈ ws, ∃ r o, l = .loc r o) (s : State) :
    ws.foldl (fun (s : State) w => match w with
      | .glob pa => markEligible s pa
      | _ => s) s = s := by
  refine List.foldlRecOn (motive := fun u => u = s) _ _ rfl fun u hu l hl => ?_
  obtain ⟨r, o, rfl⟩ := hw l hl
  exact hu

/-- R131: nobody waits for a word, and none is served. -/
theorem serveAll_of_none {s : State} (h : s.dev.objs.feWait = []) (ws : List Loc) : serveAll s ws = s := by
  refine List.foldlRecOn (motive := fun u => u = s) _ _ rfl fun u hu l _ => ?_
  rw [hu]
  exact serveWaiters_of_none (by rw [h]; rfl) _

/-- R132: local words set full for which nobody waits. -/
theorem fillWords_loc {s : State} (h : s.dev.objs.feWait = []) {ws : List Loc} (hw : ∀ l ∈ ws, ∃ r o, l = .loc r o) :
    (fillWords s ws).mem = s.mem ∧ s.dev.SameBuffers (fillWords s ws).dev := by
  obtain ⟨hm, ho, hs⟩ := setFe_loc_foldl hw s
  have hfill : fillWords s ws = ws.foldl (fun s w => s.setFe w false) s := by
    rw [fillWords]
    refine (congrArg (serveAll · ws) (markEligible_loc_foldl hw _)).trans (serveAll_of_none ?_ ws)
    rw [ho, h]
  rw [hfill]
  exact ⟨hm, hs⟩

theorem localWords_loc {r o n : Nat} {l : Loc} (h : l ∈ localWords r o n) : ∃ r o, l = .loc r o := by
  obtain ⟨w, -, rfl⟩ := List.mem_map.1 h
  exact ⟨r, 8 * w, rfl⟩

theorem intoBuffer_lmem (c : Core) (e o : Nat) (bs : List Byte) : (intoBuffer c e o bs).lmem = c.lmem.setBytes o bs := rfl

theorem intoBuffer_bind_self (c : Core) (e o : Nat) (bs : List Byte) :
    Tab.get {} (intoBuffer c e o bs).eng.bind e = Tab.get {} c.eng.bind e := by
  rw [intoBuffer, Tab.get_set, if_pos rfl]

/-- The sub-block at the head of a transfer is done: no buffer changes. -/
theorem nextBlock_sameBuffers (s : State) (r i : Nat) (rest : List Nat) : s.dev.SameBuffers (nextBlock s r i rest).dev := by
  unfold nextBlock
  dsimp only
  exact Dev.onEng_sameBuffers s.dev r rfl

section
variable {x : Xfer} (hk : x.slot < 16)
include hk

theorem xferDone_keeps (s : State) : (xferDone s x).mem = s.mem ∧ s.dev.SameBuffers (xferDone s x).dev := by
  rw [xferDone, State.frameSync_of_lt hk]
  exact ⟨rfl, Dev.onThr_sameBuffers ..⟩

/-- R147, R149: a sub-block that has arrived lowers `due` and moves no byte. -/
theorem blockArrived_keeps (s : State) (r i : Nat) (rest : List Nat) : (blockArrived s r i x rest).mem = s.mem ∧
    ((blockArrived s r i x rest).dev.core x.rank).lmem = (s.dev.core x.rank).lmem ∧
    (blockArrived s r i x rest).dev.bindEnt x.rank x.entry =
      let b := s.dev.bindEnt x.rank x.entry
      { b with due := if b.due = 0 then 0 else b.due - 1 } := by
  let b := s.dev.bindEnt x.rank x.entry
  let d := setEntry s.dev x.rank x.entry { b with due := if b.due = 0 then 0 else b.due - 1 }
  have hdone : (blockArrived s r i x rest).mem = s.mem ∧ d.SameBuffers (blockArrived s r i x rest).dev := by
    have hnext := nextBlock_sameBuffers { s with dev := d } r i rest
    obtain ⟨hm, hs⟩ := xferDone_keeps hk (nextBlock { s with dev := d } r i rest)
    unfold blockArrived
    dsimp only
    split
    · exact ⟨hm, hnext.trans hs⟩
    · exact ⟨rfl, hnext⟩
  exact ⟨hdone.1, (hdone.2.lmem _).trans (setEntry_lmem ..), by rw [hdone.2.bindEnt, setEntry_bindEnt_self]⟩

/-- R147, R149: a sub-block's bytes come to the buffer. -/
theorem landBlock_lands {s : State} (hr : x.rank < 2048) (hp : x.placed = []) (hf : s.dev.objs.feWait = [])
    (hd : (s.dev.bindEnt x.rank x.entry).due ≠ 0) (r i size j : Nat) (rest : List Nat) (bs : List Byte) :
    let b := s.dev.bindEnt x.rank x.entry
    let t := landBlock s r i x size j rest (.ok bs)
    t.mem = s.mem ∧ t.dev.bindEnt x.rank x.entry = { b with due := b.due - 1 } ∧
      (t.dev.core x.rank).lmem = (s.dev.core x.rank).lmem.setBytes (b.buffer.toNat + j * size) bs := by
  intro b t
  let o := b.buffer.toNat + j * size
  let s1 : State := { s with dev := s.dev.onCore x.rank (fun c => intoBuffer c x.entry o bs) }
  let ws := (localWords x.rank o size).filter (fun l => !x.filled.any (fun w => l == .loc x.rank (o + 8 * w)))
  have ht : t = blockArrived (fillWords s1 ws) r i x rest := by
    simp only [t, landBlock, if_neg (Nat.not_le.2 hr), hp]
    rfl
  have hws : ∀ l ∈ ws, ∃ r o, l = .loc r o := fun l hl => localWords_loc (List.mem_filter.1 hl).1
  obtain ⟨hfm, hfs⟩ := fillWords_loc (s := s1) hf hws
  obtain ⟨hm, hl, hb⟩ := blockArrived_keeps hk (fillWords s1 ws) r i rest
  have hbuf : (fillWords s1 ws).dev.bindEnt x.rank x.entry = b := by
    rw [hfs.bindEnt, Dev.bindEnt, Dev.onCore_core_self, intoBuffer_bind_self]
    rfl
  rw [ht]
  refine ⟨hm.trans hfm, ?_, ?_⟩
  · rw [hb, hbuf]
    dsimp only
    rw [if_neg hd]
  · rw [hl, hfs.lmem, Dev.onCore_core_self, intoBuffer_lmem]

end

/-! ### GUARD_DELIVERY -/

theorem xferSize_of_guard {s : State} {y : Xfer} {g : Guard} (hg : guardOf s.dev.objs y.guard = some g) :
    xferSize s y = blockSize g.code.toNat := by
  simp only [xferSize, hg]

section
variable {s : State} {r i j : Nat} {y : Xfer} {g : Guard} {more : List Nat}
  (hx : nth? (s.dev.core r).eng.xfers i = some y) (href : y.refresh = false) (hlist : y.list = j :: more)
  (hpf : s.dev.plat.pfault = false)
include hx href hlist hpf

/-- Log 7: a peer's copy engine sends its sub-blocks by packet. -/
theorem exec_guardDelivery_of_peer {sr se : Nat} (hsrc : y.src = some (sr, se)) (hsr : 2048 ≤ sr) :
    exec (.guardDelivery r i) s = .next s := by
  have hsource : blockSource s y j = none := by
    simp only [blockSource, hsrc, if_pos hsr]
  show execGuardDelivery r i s = _
  simp only [execGuardDelivery, hx, href, hpf, hlist, hsource, hsrc]
  rfl

/-- R147, R149: a sub-block whose source can be read lands. -/
theorem exec_guardDelivery_of_source {l : Loc} {key : Nat} (hsource : blockSource s y j = some (l, key))
    (hheld : (y.src.isNone && regionHeld s y.guard j) = false) (hany : anyHeld s l (xferSize s y) = false)
    (hpoison : anyPoison s l (xferSize s y) = false) (hnote : noteRead s l (xferSize s y) = s) :
    exec (.guardDelivery r i) s =
      .next (landBlock s r i y (xferSize s y) j more (.ok (s.readBytes l key (xferSize s y)))) := by
  show execGuardDelivery r i s = _
  simp only [execGuardDelivery, hx, href, hpf, hlist, hheld, hsource, hany, hpoison, hnote]
  rfl

variable {size : Nat} (hsize : xferSize s y = size) (hp : y.placed = []) (hf : s.dev.objs.feWait = [])
  (hd : (s.dev.bindEnt y.rank y.entry).due ≠ 0) (hr : y.rank < 2048) (hk : y.slot < 16) (hwf : (s.dev.core y.rank).lmem.wf = true)
include hsize hp hf hd hr hk hwf

/-- R147, R149: a delivery whose bytes stand in a memory moves one sub-block of it into the buffer and lowers `due`. -/
theorem guardDelivery_moves {l : Loc} {key a : Nat} {m : Mem} (hsource : blockSource s y j = some (l, key))
    (hheld : (y.src.isNone && regionHeld s y.guard j) = false) (hany : anyHeld s l size = false) (hpoison : anyPoison s l size = false)
    (hnote : noteRead s l size = s) (hbytes : s.readBytes l key size = m.bytes a size) :
    let c := s.dev.bindEnt y.rank y.entry
    let o := c.buffer.toNat + j * size
    ∃ t, exec (.guardDelivery r i) s = .next t ∧ t.mem = s.mem ∧ t.dev.bindEnt y.rank y.entry = { c with due := c.due - 1 } ∧
      ∀ z, (t.dev.core y.rank).lmem.read z = if o ≤ z ∧ z < o + size then m.read (a + (z - o)) else (s.dev.core y.rank).lmem.read z := by
  subst hsize
  obtain ⟨hm, hb, hl⟩ := landBlock_lands hk hr hp hf hd r i (xferSize s y) j more (m.bytes a (xferSize s y))
  rw [exec_guardDelivery_of_source hx href hlist hpf hsource hheld hany hpoison hnote, hbytes]
  exact ⟨_, rfl, hm, hb, fun z => by rw [hl, Mem.read_setBytes_bytes _ _ _ _ _ hwf]⟩

/-- R149: a sub-block of the last holder's buffer. -/
theorem guardDelivery_of_buffer {sr se so : Nat} (hsrc : y.src = some (sr, se)) (hso : so = (s.dev.bindEnt sr se).buffer.toNat + j * size)
    (hsr : sr < 2048) (hpoison : anyPoison s (.loc sr so) size = false) :
    let c := s.dev.bindEnt y.rank y.entry
    let o := c.buffer.toNat + j * size
    ∃ t, exec (.guardDelivery r i) s = .next t ∧ t.mem = s.mem ∧ t.dev.bindEnt y.rank y.entry = { c with due := c.due - 1 } ∧
      ∀ z, (t.dev.core y.rank).lmem.read z = if o ≤ z ∧ z < o + size then (s.dev.core sr).lmem.read (so + (z - o))
        else (s.dev.core y.rank).lmem.read z := by
  have hsource : blockSource s y j = some (.loc sr so, 0) := by
    simp only [blockSource, hsrc, if_neg (Nat.not_le.2 hsr), hsize, hso]
    rfl
  exact guardDelivery_moves hx href hlist hpf hsize hp hf hd hr hk hwf hsource (by rw [hsrc]; rfl) (anyHeld_loc ..) hpoison
    (noteRead_of_not_poisoned hpoison) rfl

/-- R149, R158: a sub-block of the region's home copy. -/
theorem guardDelivery_of_home {pa key : Nat} (hsrc : y.src = none) (hg : guardOf s.dev.objs y.guard = some g)
    (hat : regionAt s g j = some (pa, key)) (hheld : regionHeld s y.guard j = false) (hany : anyHeld s (.glob pa) size = false)
    (hpoison : anyPoison s (.glob pa) size = false) (htag : ∀ l ∈ linesOf pa size, s.dev.badTag l = false) :
    let c := s.dev.bindEnt y.rank y.entry
    let o := c.buffer.toNat + j * size
    ∃ t, exec (.guardDelivery r i) s = .next t ∧ t.mem = s.mem ∧ t.dev.bindEnt y.rank y.entry = { c with due := c.due - 1 } ∧
      ∀ z, (t.dev.core y.rank).lmem.read z = if o ≤ z ∧ z < o + size then (s.memAs pa size key).read (pa + (z - o))
        else (s.dev.core y.rank).lmem.read z := by
  have hsource : blockSource s y j = some (.glob pa, key) := by
    simp only [blockSource, hsrc, hg, hat]
    rfl
  exact guardDelivery_moves hx href hlist hpf hsize hp hf hd hr hk hwf hsource (by rw [hheld, Bool.and_false]) hany hpoison
    (foldl_noteLine_of_good htag) rfl

end

/-! ### GUARD_REFRESH: a stale sub-block goes home -/

/-- 22 R411, R418: bytes come whole to lines that are not lost and whose tags are right. -/
theorem writeKept_whole {s : State} {pa : Nat} {bs : List Byte}
    (h : ∀ l ∈ linesOf pa bs.length, s.dev.badTag l = false ∧ s.lost (.glob (64 * l)) = false) (key : Nat) :
    writeKept s pa key bs = s.writeLoc (.glob pa) key bs := by
  have hpart : notePartial s (.glob pa) bs.length = s := foldl_noteLine_of_good fun l hl => (h l (List.mem_filter.1 hl).1).1
  have hlost : ((linesOf pa bs.length).any fun i => s.lost (.glob (64 * i))) = false :=
    List.any_eq_false.2 fun l hl => by rw [(h l hl).2]; decide
  simp only [writeKept, hpart, hlost]
  rfl

/-- Core `r`'s copy engine once transfer `i` has become `f` of it. -/
def Dev.onXfer (d : Dev) (r i : Nat) (f : Xfer → Xfer) : Dev := d.onEng r (fun e => { e with xfers := modAt f e.xfers i })

section
variable {s : State} {r i : Nat} {y : Xfer} {g : Guard} (hx : nth? (s.dev.core r).eng.xfers i = some y) (href : y.refresh = true)
  (hstuck : y.stuck = false) (hg : guardOf s.dev.objs y.guard = some g)
include hx href hstuck hg

/-- Log 7: a peer's copy engine sends its stale sub-blocks by packet. -/
theorem exec_guardRefresh_of_peer {j sr se : Nat} {more : List Nat} (hlist : y.list = j :: more) (hsrc : y.src = some (sr, se))
    (hsr : 2048 ≤ sr) : exec (.guardRefresh r i) s = .next s := by
  have hdown : (decide (2048 ≤ sr) || !s.dev.engineUp sr) = true := by rw [decide_eq_true hsr, Bool.true_or]
  show execGuardRefresh r i s = _
  simp only [execGuardRefresh, hx, href, hstuck, hg, hlist, hsrc, Option.getD_some]
  exact if_pos hdown

end

section
variable {s : State} {g : Guard} {j va pa level : Nat} {leaf : Word} (hva : va = g.base.toNat + j * blockSize g.code.toNat)
  (hwalk : walk s g.asid.toNat va = some (level, leaf)) (hpa : pa = leafPa level leaf va) (hwrite : leafWrite leaf = true)
  (hheld : walkHeld s g.asid.toNat va = false)
include hva hwalk hpa hwrite hheld

/-- R154: bytes that may come to their region do. -/
theorem refreshBytes_writes {bs : List Byte} (hany : anyHeld s (.glob pa) bs.length = false)
    (hline : ∀ l ∈ linesOf pa bs.length, s.dev.badTag l = false ∧ s.lost (.glob (64 * l)) = false) (r i : Nat) (x : Xfer) (f : Xfer → Xfer) :
    refreshBytes s r i x g j 0 bs f = (s.writeLoc (.glob pa) (leafKey leaf) bs).withDev (·.onXfer r i f) := by
  subst hpa
  simp only [refreshBytes, Nat.mul_zero, Nat.add_zero, ← hva, hheld, hwalk, hwrite, hany, writeKept_whole hline]
  rfl

variable {r i : Nat} {y : Xfer} (hx : nth? (s.dev.core r).eng.xfers i = some y) (href : y.refresh = true)
  (hstuck : y.stuck = false) (hg : guardOf s.dev.objs y.guard = some g)
include hx href hstuck hg

/-- R154: one stale sub-block moves from the last holder's buffer to the region. -/
theorem guardRefresh_moves {sr se so : Nat} {more : List Nat} (hlist : y.list = j :: more) (hsrc : y.src = some (sr, se))
    (hso : so = (s.dev.bindEnt sr se).buffer.toNat + j * blockSize g.code.toNat) (hsr : sr < 2048) (hup : s.dev.engineUp sr = true)
    (hkey : OwnKey s pa (blockSize g.code.toNat) (leafKey leaf)) (hok : s.memOk) (hany : anyHeld s (.glob pa) (blockSize g.code.toNat) = false)
    (hpoison : anyPoison s (.loc sr so) (blockSize g.code.toNat) = false)
    (hline : ∀ l ∈ linesOf pa (blockSize g.code.toNat), s.dev.badTag l = false ∧ s.lost (.glob (64 * l)) = false) :
    ∃ t, exec (.guardRefresh r i) s = .next t ∧
      (t.dev.core r).eng.xfers = modAt (fun y => { y with list := more, placed := [] }) (s.dev.core r).eng.xfers i ∧
      ∀ z, t.mem.read z = if pa ≤ z ∧ z < pa + blockSize g.code.toNat then (s.dev.core sr).lmem.read (so + (z - pa)) else s.mem.read z := by
  let bs := (s.dev.core sr).lmem.bytes so (blockSize g.code.toNat)
  have hlen : bs.length = blockSize g.code.toNat := Mem.length_bytes ..
  have hrun : (decide (2048 ≤ sr) || !s.dev.engineUp sr) = false := by
    rw [decide_eq_false (Nat.not_le.2 hsr), hup]
    rfl
  have hexec : exec (.guardRefresh r i) s = .next (refreshBlock (noteRead s (.loc sr so) (blockSize g.code.toNat)) r i y g j more bs) := by
    show execGuardRefresh r i s = _
    simp only [execGuardRefresh, hx, href, hstuck, hg, hlist, hsrc, Option.getD_some]
    subst hso
    exact if_neg (Bool.eq_false_iff.1 hrun)
  have hcores : (s.writeLoc (.glob pa) (leafKey leaf) bs).dev.core r = s.dev.core r :=
    congrArg (fun t => Tab.get ({} : Core) t r) (Dev.encrypt_keeps s.dev pa bs.length (leafKey leaf)).1
  rw [hexec, noteRead_of_not_poisoned hpoison, refreshBlock,
    refreshBytes_writes hva hwalk hpa hwrite hheld (hlen.symm ▸ hany) (hlen.symm ▸ hline)]
  refine ⟨_, rfl, ?_, fun z => ?_⟩
  · show ((Dev.onXfer _ r i _).core r).eng.xfers = _
    rw [Dev.onXfer, Dev.onEng_eng_self, hcores]
  · show (s.writeLoc (.glob pa) (leafKey leaf) bs).mem.read z = _
    rw [writeLoc_mem, hlen, memAs_of_ownKey hkey, Mem.read_setBytes_bytes _ _ _ _ _ hok]

end

end Sys2Proof.Machine
end

section
/-! SUPPORT. What follows a refresh that has ended (07 R154 to R156). -/

namespace Sys2Proof.Machine

/-- The device once transfer `i` has left core `r`'s copy engine. -/
def Dev.xferGone (d : Dev) (r i : Nat) : Dev := d.onEng r (fun e => { e with xfers := dropAt e.xfers i })

theorem Dev.xferGone_sameBuffers (d : Dev) (r i : Nat) : d.SameBuffers (d.xferGone r i) := d.onEng_sameBuffers r rfl

/-- R156: nothing of a freed guard is left at the manager. -/
theorem freeGuard_objs (d : Dev) (g : Guard) : guardOf (freeGuard d g).objs g.word = none ∧
    ∀ x ∈ (freeGuard d g).objs.ranges, ¬(x.1 = g.asid.toNat ∧ x.2.1 = g.base.toNat) := by
  refine ⟨List.find?_eq_none.2 fun x hx => ?_, fun x hx => ?_⟩
  · have hne := (List.mem_filter.1 hx).2
    simpa using hne
  · have hne := (List.mem_filter.1 hx).2
    rintro ⟨ha, hb⟩
    simp [ha, hb] at hne

/-- The idle entry that transfer `x` refreshed is its guard's last dirty holder, and no dirty release has come since (R155). -/
structure Dev.HoldsNewest (d : Dev) (g : Guard) (x : Xfer) : Prop where
  home : g.home = false
  last : g.last = (x.rank, x.entry)
  epoch : g.epoch = x.epoch
  high : g.next - 1 = x.high
  valid : (d.bindEnt x.rank x.entry).valid = true
  mode : (d.bindEnt x.rank x.entry).mode = 0
  gpeer : (d.bindEnt x.rank x.entry).gpeer = none
  word : (d.bindEnt x.rank x.entry).guard.toNat = g.word

/-- The end of the refresh itself takes nothing from that. -/
theorem Dev.HoldsNewest.refreshed {d d' : Dev} {g : Guard} {x : Xfer} (h : d.HoldsNewest g x) (hd : d.SameBuffers d') :
    d'.HoldsNewest (refreshed g x) x := by
  obtain ⟨hhome, hlast, hepoch, hhigh, hvalid, hmode, hpeer, hword⟩ := h
  rw [← hd.bindEnt] at hvalid hmode hpeer hword
  rw [refreshed_eq]
  exact ⟨hhome, hlast, hepoch, hhigh, hvalid, hmode, hpeer, hword⟩

/-- R155: that entry is emptied, and the region is at home. -/
theorem emptyEntry_newest {d : Dev} {g : Guard} {x : Xfer} (h : d.HoldsNewest g x) :
    (emptyEntry d g x).1 =
      setEntry (toHome (d.onObjs (fun o => putGuard o { g with home := true })) g.word x.rank x.entry) x.rank x.entry {} := by
  have hmine : (g.last == (x.rank, x.entry) && !g.home) = true := by rw [h.last, h.home, beq_self_eq_true]; rfl
  have hnewest : (g.epoch == x.epoch && g.next - 1 == x.high) = true := by
    rw [h.epoch, h.high, beq_self_eq_true, beq_self_eq_true]
    rfl
  have hidle : (decide ((d.bindEnt x.rank x.entry).mode ≠ 0) || (d.bindEnt x.rank x.entry).gpeer.isSome ||
      decide ((d.bindEnt x.rank x.entry).guard.toNat ≠ g.word)) = false := by
    rw [h.mode, h.gpeer, h.word]
    simp
  have hb : Tab.get {} (d.core x.rank).eng.bind x.entry = d.bindEnt x.rank x.entry := rfl
  simp only [emptyEntry, hb, h.valid, hidle, hmine, hnewest, Bool.true_and, if_true]
  rfl

section
variable {s : State} {r i : Nat} {y : Xfer} {g : Guard} (hx : nth? (s.dev.core r).eng.xfers i = some y) (href : y.refresh = true)
  (hstuck : y.stuck = false) (hg : guardOf s.dev.objs y.guard = some g) (hlist : y.list = [])
include hx href hstuck hg hlist

/-- 01 R22: a manager whose die has failed ends no refresh. -/
theorem exec_guardRefresh_down (hd : managerDown s.dev g.word = true) : exec (.guardRefresh r i) s = .next s := by
  show execGuardRefresh r i s = _
  simp only [execGuardRefresh, hx, href, hstuck, hg, hlist, hd]
  rfl

variable (hd : managerDown s.dev g.word = false)
include hd

theorem exec_guardRefresh_ends :
    exec (.guardRefresh r i) s = .next (refreshEnds s y (afterRefresh (s.dev.xferGone r i) g y)) := by
  show execGuardRefresh r i s = _
  simp only [execGuardRefresh, hx, href, hstuck, hg, hlist, hd]
  rfl

/-- Outside a `gflush` the end of a refresh moves no byte. -/
theorem exec_guardRefresh_ends_of_ne (h : y.after ≠ 1) :
    exec (.guardRefresh r i) s = .next { s with dev := afterRefresh (s.dev.xferGone r i) g y } := by
  rw [exec_guardRefresh_ends hx href hstuck hg hlist hd, refreshEnds, if_neg h]

/-- R154: hmark rises to the stamp that the refresh brought. -/
theorem guardRefresh_marks (ha : y.after = 0) : ∃ t, exec (.guardRefresh r i) s = .next t ∧ t.mem = s.mem ∧
    guardOf t.dev.objs g.word = some (refreshed g y) := by
  refine ⟨_, exec_guardRefresh_ends_of_ne hx href hstuck hg hlist hd (by rw [ha]; decide), rfl, ?_⟩
  simp only [afterRefresh, ha]
  exact guardOf_putGuard_of_word (o := s.dev.objs) hg (refreshed_word g y)

/-- R156: the guard that `unbind` waits for is freed. -/
theorem guardRefresh_frees (ha : y.after = 2) : ∃ t, exec (.guardRefresh r i) s = .next t ∧ t.mem = s.mem ∧
    guardOf t.dev.objs g.word = none ∧ ∀ x ∈ t.dev.objs.ranges, ¬(x.1 = g.asid.toNat ∧ x.2.1 = g.base.toNat) := by
  refine ⟨_, exec_guardRefresh_ends_of_ne hx href hstuck hg hlist hd (by rw [ha]; decide), rfl, ?_⟩
  have hfree := freeGuard_objs (s.dev.xferGone r i) (refreshed g y)
  simp only [afterRefresh, ha, Dev.onThrFlow_objs]
  rw [refreshed_eq] at hfree ⊢
  exact hfree

/-- R155: the entry that is to be replaced was the last dirty holder's: it is emptied, and the region is at home. -/
theorem guardRefresh_empties (ha : y.after = 4) (h : s.dev.HoldsNewest g y) :
    ∃ t, exec (.guardRefresh r i) s = .next t ∧ t.mem = s.mem ∧ guardOf t.dev.objs g.word = some { refreshed g y with home := true } ∧
      t.dev.bindEnt y.rank y.entry = {} := by
  refine ⟨_, exec_guardRefresh_ends_of_ne hx href hstuck hg hlist hd (by rw [ha]; decide), rfl, ?_⟩
  simp only [afterRefresh, ha, emptyEntry_newest (h.refreshed (s.dev.xferGone_sameBuffers r i))]
  exact ⟨guardOf_putGuard_of_word (o := s.dev.objs) hg (refreshed_word g y), setEntry_bindEnt_self ..⟩

end

end Sys2Proof.Machine
end

section
/-! OBLIGATION. Grants, deliveries and refreshes of guarded regions (07 R147 to R149, R154 to R156, 01 R22). -/

namespace Sys2Proof.Machine

/-- Settles O38: the grant, its arrival, the delivery and the refresh, each by what it does at its own place. -/
theorem guardsAreGrantedAndMoved : Obligations.GuardsAreGrantedAndMoved := by
  unfold Obligations.GuardsAreGrantedAndMoved
  intro s gi r k i j e x g w rest gr d y more sr se pa key level leaf q
  refine ⟨fun hg hw hx => ?_, fun hf hg hr hk hd => ?_, fun hx href hg hlist hp _ hpf hfe hdue hr hk hwf => ?_, fun hx href hstuck hg => ?_⟩
  · exact ⟨exec_guardGrant_busy hg hw, fun hb hm hr => guardGrant_grants hg hw hx hb hm.1 hm.2 hr, exec_guardGrant_refused hg hw hx⟩
  · exact ⟨guardOf_word hg ▸ grantArrival_refuses hk hf hg hr, grantArrival_fills hk hf hg hr hd⟩
  · have hsize := xferSize_of_guard hg
    refine ⟨exec_guardDelivery_of_peer hx href hlist hpf, fun hsrc => ?_, fun hsrc hat hheld hany hpoison htag hw => ?_⟩
    · exact guardDelivery_of_buffer hx href hlist hpf hsize hp hfe hdue hr hk hwf hsrc rfl
    · exact guardDelivery_of_home hx href hlist hpf hsize hp hfe hdue hr hk hwf hsrc hg hat (hw ▸ hheld) hany hpoison htag
  · refine ⟨exec_guardRefresh_of_peer hx href hstuck hg, ?_, exec_guardRefresh_down hx href hstuck hg, fun hlist _ hd => ⟨?_, ?_, ?_⟩⟩
    · intro hlist hsrc hsr hup hwalk va hwrite hkey hok hheld hany hpoison hline
      exact guardRefresh_moves rfl hwalk rfl hwrite hheld hx href hstuck hg hlist hsrc rfl hsr hup hkey hok hany hpoison hline
    · intro ha
      rw [← refreshed_eq]
      exact guardRefresh_marks hx href hstuck hg hlist hd ha
    · exact fun ha _ => guardRefresh_frees hx href hstuck hg hlist hd ha
    · intro ha hhome hlast hepoch hhigh hvalid hmode hpeer hword
      have hends := guardRefresh_empties hx href hstuck hg hlist hd ha ⟨hhome, hlast, hepoch, hhigh, hvalid, hmode, hpeer, hword⟩
      rwa [refreshed_eq] at hends

end Sys2Proof.Machine
end

section
/-! SUPPORT. Lists by place and registers by number, and what an update of the issuing thread or of its core leaves of the other. -/

namespace Sys2Proof.Machine

/-! ### Lists by place, tables of computed registers -/

theorem nth_append_left {α : Type} (d : α) {l : List α} (r : List α) {i : Nat} (h : i < l.length) : nth d (l ++ r) i = nth d l i := by
  induction l generalizing i with
  | nil => exact absurd h (Nat.not_lt_zero i)
  | cons x l ih =>
    cases i with
    | zero => rfl
    | succ i => exact ih (Nat.lt_of_succ_lt_succ h)

theorem nth_append_right {α : Type} (d : α) {l : List α} (r : List α) {n : Nat} (h : l.length = n) (i : Nat) :
    nth d (l ++ r) (n + i) = nth d r i := by
  subst h
  induction l with
  | nil => rw [List.length_nil, Nat.zero_add, List.nil_append]
  | cons x l ih => rw [List.length_cons, Nat.add_right_comm]; exact ih

theorem nth_eq_getD {α : Type} (d : α) (l : List α) (i : Nat) : nth d l i = l.getD i d := by
  induction l generalizing i with
  | nil => rfl
  | cons x l ih =>
    cases i with
    | zero => rfl
    | succ i => exact ih i

theorem nth_map_upto {α : Type} (d : α) (f : Nat → α) {n i : Nat} (h : i < n) : nth d ((upto n).map f) i = f i := by
  rw [nth_eq_getD]
  simp [upto, h]

/-- The registers from `x1` on that a list of numbers names. -/
theorem Tab.get_map_succ {α : Type} (dflt : α) (f : Nat → α) (l : List Nat) (j : Nat) :
    Tab.get dflt (l.map (fun i => (i + 1, f i))) (j + 1) = if j ∈ l then f j else dflt := by
  induction l with
  | nil => rfl
  | cons i l ih =>
    rw [List.map_cons, Tab.get, ih]
    by_cases h : i = j
    · simp [h]
    · have hj : ¬j = i := fun e => h e.symm
      simp [h, hj]

/-! ### Registers above `x0`, each by its number less one -/

theorem XReg.toNat_succ {j : Nat} (hj : j < 63) : (BitVec.ofNat 6 (j + 1)).toNat = j + 1 := by
  rw [BitVec.toNat_ofNat]
  omega

theorem XReg.succ_inj {j k : Nat} (hj : j < 63) (hk : k < 63) : BitVec.ofNat 6 (j + 1) = BitVec.ofNat 6 (k + 1) ↔ j = k := by
  rw [← BitVec.toNat_inj, toNat_succ hj, toNat_succ hk]
  omega

theorem XReg.succ_ne_zero {j : Nat} (hj : j < 63) : BitVec.ofNat 6 (j + 1) ≠ 0 := fun h => by
  have hn := toNat_succ hj
  simp [h] at hn

theorem Slot.xr_succ (t : Slot) {j : Nat} (hj : j < 63) : t.xr (BitVec.ofNat 6 (j + 1)) = Tab.get 0 t.x (j + 1) := by
  rw [Slot.xr, if_neg (XReg.succ_ne_zero hj), XReg.toNat_succ hj]

theorem XReg.eq_zero_or_succ (r : XReg) : r = 0 ∨ ∃ j < 63, r = BitVec.ofNat 6 (j + 1) := by
  by_cases h : r.toNat = 0
  · exact .inl (BitVec.eq_of_toNat_eq h)
  · refine .inr ⟨r.toNat - 1, by omega, BitVec.eq_of_toNat_eq ?_⟩
    rw [BitVec.toNat_ofNat]
    omega

/-! ### The issuing thread and its core -/

@[simp] theorem Dev.onMy_my (d : Dev) (f : Core → Core) : (d.onMy f).my = f d.my := Dev.onCore_core_self ..

@[simp] theorem Dev.onMe_my (d : Dev) (f : Slot → Slot) : (d.onMe f).my = d.my.onSlot d.who f := Dev.onCore_core_self ..

theorem Dev.onMy_me {d : Dev} {f : Core → Core} (h : (f d.my).slots = d.my.slots) : (d.onMy f).me = d.me :=
  Dev.onCore_slot_of_slots d d.rank f h d.rank d.who

end Sys2Proof.Machine
end

section
/-! OBLIGATION. Gate calls and returns (08 R164 to R166, 24 R430). -/

namespace Sys2Proof.Machine

/-- Everything the issuing thread posted has drained (R164, R166). -/
structure Flow.Still (f : Flow) : Prop where
  ld : f.ld = []
  st : f.st = []
  cp : f.cp = []
  tl : f.tl = []
  posted : f.posted = []

theorem Flow.Still.quiet {s : State} (h : s.dev.me.flow.Still) : quiet.holds s s.dev.rank s.dev.who = true := by
  obtain ⟨hld, hst, hcp, htl, hposted⟩ := h
  rw [Dev.me] at hld hst hcp htl hposted
  simp [Machine.quiet, WaitCond.holds, hld, hst, hcp, htl, hposted]

/-! ### The frame (R165) -/

theorem gateWords_reg (t : Slot) (table entry : Nat) {j : Nat} (hj : j < 63) :
    nth 0 (gateWords t table entry) j = t.xr (BitVec.ofNat 6 (j + 1)) := by
  have hl : j < ((upto 63).map (fun i => t.xr (BitVec.ofNat 6 (i + 1)))).length := hj
  rw [gateWords, List.append_assoc, nth_append_left 0 _ hl, nth_map_upto _ _ hj]

/-- What a frame holds of the caller beside its registers. -/
def gateContext (t : Slot) (table entry : Nat) : List Word :=
  [w64 (t.p.toNat / 2), w64 (fld t.tag.toNat 16 + (t.pc + 1).toNat), w64 (fld t.domain.toNat 16 + t.asid.toNat),
    w64 t.lmbase.toNat, w64 t.lmlim.toNat, w64 t.smask.toNat, w64 (fld table 10 + entry)]

theorem gateWords_context (t : Slot) (table entry : Nat) {i : Nat} (hi : i < 7) :
    nth 0 (gateWords t table entry) (63 + i) = nth 0 (gateContext t table entry) i := by
  have hl : ((upto 63).map (fun i => t.xr (BitVec.ofNat 6 (i + 1)))).length = 63 := by rw [List.length_map, upto, List.length_range]
  rw [gateWords, List.append_assoc, nth_append_right 0 _ hl]
  exact nth_append_left 0 _ (l := gateContext t table entry) hi

/-- What stands in local memory once the frame of a call through entry `entry` of table `table` is written. -/
theorem gateFrame_written {m : Mem} (h : m.wf = true) (f : Nat) (t : Slot) (table entry : Nat) :
    let u := m.setWords f (gateWords t table entry)
    (∀ j < 63, u.word (f + 8 * j) = t.xr (BitVec.ofNat 6 (j + 1))) ∧
      u.word (f + 504) = BitVec.ofNat 64 (t.p.toNat / 2) ∧ u.word (f + 512) = BitVec.ofNat 64 (t.tag.toNat * 2 ^ 16 + (t.pc + 1).toNat) ∧
      u.word (f + 520) = BitVec.ofNat 64 (t.domain.toNat * 2 ^ 16 + t.asid.toNat) ∧ u.word (f + 528) = t.lmbase.setWidth 64 ∧
      u.word (f + 536) = t.lmlim.setWidth 64 ∧ u.word (f + 544) = t.smask.setWidth 64 ∧
      u.word (f + 552) = BitVec.ofNat 64 (table * 2 ^ 10 + entry) ∧ ∀ a, a < f ∨ f + 640 ≤ a → u.read a = m.read a := by
  have hw := fun j (hj : j < 80) => Mem.word_setWords (gateWords t table entry) m f j h hj
  have hctx := fun i (hi : i < 7) => (hw (63 + i) (by omega)).trans (gateWords_context t table entry hi)
  have hwide := fun {n : Nat} (x : BitVec n) => BitVec.ofNat_toNat 64 x
  exact ⟨fun j hj => (hw j (by omega)).trans (gateWords_reg t table entry hj), hctx 0 (by decide), hctx 1 (by decide), hctx 2 (by decide),
    (hctx 3 (by decide)).trans (hwide t.lmbase), (hctx 4 (by decide)).trans (hwide t.lmlim), (hctx 5 (by decide)).trans (hwide t.smask),
    hctx 6 (by decide), fun a ha => Mem.read_setWords_outside _ m f a h ha⟩

/-! ### The call (R164) -/

/-- The device once the issuing thread has called through entry `e`, which is entry `i` of table `t`. -/
def Dev.gateEntered (d : Dev) (t : BitVec 6) (i : BitVec 10) (e : Turnpike) : Dev :=
  (d.onMy (fun c => { c with lmem := c.lmem.setWords (gateFrame d.my d.who d.me.gdepth.toNat) (gateWords d.me t.toNat i.toNat) })).onMe
    (fun u => enterGate u e (Tab.get 0 d.objs.parts e.domain.toNat))

section
variable (d : Dev) (t : BitVec 6) (i : BitVec 10) (e : Turnpike)

theorem Dev.gateEntered_me : (d.gateEntered t i e).me = enterGate d.me e (Tab.get 0 d.objs.parts e.domain.toNat) := by
  rw [Dev.gateEntered, Dev.onMe_me, Dev.onMy_me rfl]

theorem Dev.gateEntered_lmem : (d.gateEntered t i e).my.lmem =
    d.my.lmem.setWords (gateFrame d.my d.who d.me.gdepth.toNat) (gateWords d.me t.toNat i.toNat) := by
  rw [Dev.gateEntered, Dev.onMe_my, Core.onSlot_lmem, Dev.onMy_my]

theorem Dev.gateEntered_regs : (d.gateEntered t i e).my.regs = d.my.regs := by
  rw [Dev.gateEntered, Dev.onMe_my, Core.onSlot_regs, Dev.onMy_my]

theorem Dev.gateEntered_eng : (d.gateEntered t i e).my.eng = d.my.eng := by
  rw [Dev.gateEntered, Dev.onMe_my, Core.onSlot_eng, Dev.onMy_my]

end

/-- R164: the callee sees the registers that `pass` names, and zero in the others. -/
theorem enterGate_xr (t : Slot) (e : Turnpike) (part : Word) (r : XReg) :
    (enterGate t e part).xr r = if e.pass.getLsbD r.toNat then t.xr r else 0 := by
  obtain rfl | ⟨j, hj, rfl⟩ := XReg.eq_zero_or_succ r
  · simp [Slot.xr]
  · have hmem : j ∈ (upto 63).filter (fun i => e.pass.getLsbD (i + 1)) ↔ e.pass.getLsbD (j + 1) = true := by simp [upto, hj]
    rw [Slot.xr_succ _ hj, XReg.toNat_succ hj, enterGate, Tab.get_map_succ 0 (fun i => t.xr (BitVec.ofNat 6 (i + 1))), if_congr hmem rfl rfl]

theorem Turnpike.wbase_lt (e : Turnpike) : e.wbase < 2 ^ 18 := by
  unfold Turnpike.wbase bits
  omega

theorem Turnpike.wlim_lt (e : Turnpike) : e.wlim < 2 ^ 19 := by
  unfold Turnpike.wlim bits
  omega

section
variable {s : State} {t : BitVec 6} {i : BitVec 10} {e : Turnpike} (hk : isHelper s.dev.who = true)
include hk

theorem exec_gcall_no_entry (he : turnpike s t.toNat i.toNat = none) : exec (.gcall t i) s = fault s 0x28 0 (i.setWidth 32) := by
  show execGcall t i s = _
  simp only [execGcall, hk, he]
  rfl

/-- R164: what an entry that is found is asked, in order, and what the call waits for. -/
theorem exec_gcall_entry (he : turnpike s t.toNat i.toNat = some e) : exec (.gcall t i) s =
    if ¬(e.valid = true ∧ e.reservedOk = true ∧ overlapsFrames s.dev.my e.wbase e.wlim = false) then fault s 0x28 0 (i.setWidth 32)
    else if e.callers.getLsbD s.dev.me.domain.toNat = false then fault s 0x29 0 (i.setWidth 32)
    else if e.maxd < s.dev.me.gdepth.toNat then fault s 0x2A 0 (i.setWidth 32)
    else if quiet.holds s s.dev.rank s.dev.who = true then .next { s with dev := s.dev.gateEntered t i e }
    else parksOn s quiet := by
  have hbad : (!e.valid || !e.reservedOk || overlapsFrames s.dev.my e.wbase e.wlim) = true ↔
      ¬(e.valid = true ∧ e.reservedOk = true ∧ overlapsFrames s.dev.my e.wbase e.wlim = false) := by
    cases e.valid <;> cases e.reservedOk <;> simp
  have hstranger : (!e.callers.getLsbD s.dev.me.domain.toNat) = true ↔ e.callers.getLsbD s.dev.me.domain.toNat = false := by simp
  have hmay : ¬((!isHelper s.dev.who) = true) := by simp [hk]
  show execGcall t i s = _
  unfold execGcall
  dsimp only
  rw [if_neg hmay, he]
  exact if_congr hbad rfl (if_congr hstranger rfl (if_congr Nat.succ_le_iff rfl rfl))

end

/-! ### The return (R166, R430) -/

/-- The place of the frame to which the issuing thread returns. -/
def Dev.callerFrame (d : Dev) : Nat := gateFrame d.my d.who (d.me.gdepth.toNat - 1)

section
variable (t : Slot) (c : Core) (f : Nat) (ret : Word) (part : BitVec 6 → Word)

theorem leaveGate_xr {j : Nat} (hj : j < 63) : (leaveGate t c f ret part).xr (BitVec.ofNat 6 (j + 1)) =
    if ret.getLsbD (j + 1) then t.xr (BitVec.ofNat 6 (j + 1)) else c.lmem.word (f + 8 * j) := by
  rw [Slot.xr_succ _ hj]
  exact (Tab.get_map_succ 0 (fun i => if ret.getLsbD (i + 1) then t.xr (BitVec.ofNat 6 (i + 1)) else c.lmem.word (f + 8 * i)) _ j).trans
    (if_pos (by simp [upto, hj]))

theorem leaveGate_xr_none {j : Nat} (hj : j < 63) : (leaveGate t c f 0 part).xr (BitVec.ofNat 6 (j + 1)) = c.lmem.word (f + 8 * j) :=
  (leaveGate_xr t c f 0 part hj).trans (if_neg (by simp))

/-- What a frame gives back beside the registers. -/
theorem leaveGate_context : let u := leaveGate t c f ret part
    u.p.toNat = 2 * bits (c.lmem.word (f + 504)) 6 0 ∧ u.pc.toNat = bits (c.lmem.word (f + 512)) 14 0 ∧
      u.asid.toNat = bits (c.lmem.word (f + 520)) 15 0 ∧ u.domain.toNat = bits (c.lmem.word (f + 520)) 21 16 ∧
      u.gdepth = t.gdepth - 1 ∧ u.smask.toNat = bits (c.lmem.word (f + 544)) 7 0 ∧ u.flow = t.flow := by
  refine ⟨?_, ?_, ?_, ?_, rfl, ?_, rfl⟩
  all_goals
    simp only [leaveGate, BitVec.toNat_ofNat, Nat.reduceMul]
    exact Nat.mod_eq_of_lt (by unfold bits; omega)

end

section
variable (d : Dev) (ret : Word)

theorem gateBack_my (code : Option Byte) : (gateBack d ret code).my.lmem = d.my.lmem := by
  rw [gateBack, Dev.onMe_my]
  rfl

theorem gateBack_me : (gateBack d ret none).me =
    leaveGate d.me d.my d.callerFrame ret (fun m => Tab.get 0 d.objs.parts m.toNat) := by
  rw [gateBack, Dev.onMe_me]
  rfl

theorem gateBack_abort_me (code : Byte) : (gateBack d ret (some code)).me =
    (leaveGate d.me d.my d.callerFrame ret (fun m => Tab.get 0 d.objs.parts m.toNat)).setX 1 (w64 (0x2B + 256 * code.toNat)) := by
  rw [gateBack, Dev.onMe_me]
  rfl

end

/-- R166: the entry through which the frame was made, and what it says now. -/
theorem exec_gret_entry {s : State} {e : Turnpike} (hd : s.dev.me.gdepth ≠ 0) (hs : s.dev.me.flow.Still)
    (he : turnpike s (bits (s.dev.my.lmem.word (s.dev.callerFrame + 552)) 15 10) (bits (s.dev.my.lmem.word (s.dev.callerFrame + 552)) 9 0) = some e) :
    exec .gret s = .next { s with dev := if e.valid then gateBack s.dev e.ret none else gateBack s.dev 0 (some 0x28) } := by
  show execGret s = _
  rw [execGret, if_neg hd, parkUnless_pos _ _ _ hs.quiet]
  simp only [Dev.callerFrame] at he
  simp only [Nat.reduceMul, he]
  rfl

/-- Settles O39: the checks of a call in their order, the frame that it writes, and the frame that a return gives back. -/
theorem gateCallsSwitchContexts : Obligations.GateCallsSwitchContexts := by
  unfold Obligations.GateCallsSwitchContexts
  intro s t i e me k m f g good still
  have hstill (h : still) : s.dev.me.flow.Still := by
    obtain ⟨hld, hst, hcp, htl, hposted⟩ := h
    exact ⟨hld, hst, hcp, htl, hposted⟩
  refine ⟨fun hk => ?helper, exec_gcall_no_entry, fun hk he => ?entry, fun hd => if_pos hd, fun hd hs he hv => ?returns,
    fun hd hs he hv => ?aborts⟩
  case helper =>
    show execGcall t i s = _
    simp only [execGcall, show isHelper s.dev.who = false from hk]
    rfl
  case entry =>
    have hcall := exec_gcall_entry hk he
    refine ⟨fun hg => hcall.trans (if_pos hg), fun hg hc => ?_, fun hg hc hd => ?_, fun hg hc hd hs => ?_⟩
    all_goals rw [if_neg (not_not.2 hg)] at hcall
    · exact hcall.trans (if_pos hc)
    · rw [if_neg (Bool.not_eq_false _ ▸ hc)] at hcall
      exact hcall.trans (if_pos hd)
    rw [if_neg (Bool.not_eq_false _ ▸ hc), if_neg (Nat.not_lt.2 hd), if_pos (hstill hs).quiet] at hcall
    refine ⟨_, hcall, rfl, rfl, rfl, ?_⟩
    rw [Dev.gateEntered_me, Dev.gateEntered_lmem]
    refine ⟨Dev.gateEntered_regs .., Dev.gateEntered_eng .., enterGate_xr _ e _, rfl, rfl, rfl, rfl, ?_, ?_, rfl, rfl, rfl, fun hwf => ?_⟩
    · exact (BitVec.toNat_ofNat ..).trans (Nat.mod_eq_of_lt e.wbase_lt)
    · exact (BitVec.toNat_ofNat ..).trans (Nat.mod_eq_of_lt e.wlim_lt)
    · exact gateFrame_written hwf f s.dev.me t.toNat i.toNat
  case returns =>
    refine ⟨_, exec_gret_entry hd (hstill hs) he, rfl, ?_⟩
    rw [if_pos hv, gateBack_my, gateBack_me]
    exact ⟨rfl, fun j => leaveGate_xr _ _ _ _ _, leaveGate_context ..⟩
  case aborts =>
    refine ⟨_, exec_gret_entry hd (hstill hs) he, rfl, ?_⟩
    rw [hv, if_neg Bool.false_ne_true, gateBack_my, gateBack_abort_me, Slot.setX_gdepth, Slot.setX_pc]
    obtain ⟨-, hpc, -, -, hdepth, -⟩ := leaveGate_context s.dev.me s.dev.my s.dev.callerFrame 0 (fun m => Tab.get 0 s.dev.objs.parts m.toNat)
    refine ⟨rfl, hdepth, hpc, fun j hj => ?_⟩
    have h1 : BitVec.ofNat 6 (j + 1) = 1 ↔ j = 0 := XReg.succ_inj hj (by decide)
    rw [Slot.setX_xr, if_neg (XReg.succ_ne_zero hj), leaveGate_xr_none _ _ _ _ hj]
    exact if_congr h1 rfl rfl

end Sys2Proof.Machine
end

section
/-! OBLIGATION. Elision sections begin, commit and abort (08 R181, R182). -/

namespace Sys2Proof.Machine

/-! ### A section's bytes, word by word (R182) -/

/-- Byte `a` of local memory under the bytes that a section has buffered; `b` is the byte that stands there. -/
def byteOver (ws : List (Nat × Byte)) (a : Nat) (b : Byte) : Byte := ((ws.find? (fun e => e.1 == a)).map (·.2)).getD b

theorem byteOver_of_find {ws : List (Nat × Byte)} {a : Nat} {e : Nat × Byte} (h : ws.find? (fun e => e.1 == a) = some e) (b : Byte) :
    byteOver ws a b = e.2 := by rw [byteOver, h]; rfl

theorem byteOver_of_none {ws : List (Nat × Byte)} {a : Nat} (h : ws.find? (fun e => e.1 == a) = none) (b : Byte) : byteOver ws a b = b := by
  rw [byteOver, h]; rfl

theorem byteOver_byteOver (ws : List (Nat × Byte)) (a : Nat) (b : Byte) : byteOver ws a (byteOver ws a b) = byteOver ws a b := by
  cases h : ws.find? (fun e => e.1 == a) with
  | none => rw [byteOver_of_none h]
  | some e => rw [byteOver_of_find h, byteOver_of_find h]

theorem mem_wordBytes {ws : List (Nat × Byte)} {w : Nat} {e : Nat × Byte} :
    e ∈ wordBytes ws w ↔ ws.find? (fun x => x.1 == e.1) = some e ∧ e.1 / 8 = w := by
  rw [wordBytes, List.mem_filterMap]
  constructor
  · rintro ⟨i, hi, he⟩
    have h1 : e.1 = 8 * w + i := by simpa using List.find?_some he
    rw [upto, List.mem_range] at hi
    exact ⟨h1 ▸ he, by omega⟩
  · rintro ⟨he, hw⟩
    refine ⟨e.1 % 8, by rw [upto, List.mem_range]; omega, ?_⟩
    rwa [show 8 * w + e.1 % 8 = e.1 by omega]

/-- A run of bytes written at once is written byte by byte. -/
theorem Mem.setBytes_run {l : List (Nat × Byte)} {o : Nat} (h : l.map (·.1) = List.range' o l.length) (m : Mem) :
    m.setBytes o (l.map (·.2)) = l.foldl (fun u e => u.write e.1 e.2) m := by
  induction l generalizing o m with
  | nil => rfl
  | cons e l ih =>
    rw [List.map_cons, List.length_cons, List.range'_succ, List.cons.injEq] at h
    obtain ⟨rfl, h⟩ := h
    exact ih h _

/-- A word whose eight bytes are buffered. -/
theorem wordBytes_full {ws : List (Nat × Byte)} {w : Nat} (h : (wordBytes ws w).length = 8) :
    (wordBytes ws w).map (·.1) = List.range' (8 * w) (wordBytes ws w).length := by
  have hall : ∀ i ∈ upto 8, (ws.find? (fun e => e.1 == 8 * w + i)).isSome := List.filterMap_length_eq_length.1 h
  have hmap (l : List Nat) (hl : ∀ i ∈ l, (ws.find? (fun e => e.1 == 8 * w + i)).isSome) :
      (l.filterMap (fun i => ws.find? (fun e => e.1 == 8 * w + i))).map (·.1) = l.map (8 * w + ·) := by
    induction l with
    | nil => rfl
    | cons i l ih =>
      obtain ⟨e, he⟩ := Option.isSome_iff_exists.1 (hl i (.head l))
      have h1 : e.1 = 8 * w + i := by simpa using List.find?_some he
      rw [List.filterMap_cons_some (f := fun i => ws.find? (fun e => e.1 == 8 * w + i)) he, List.map_cons, List.map_cons, h1, ih fun j hj => hl j (.tail i hj)]
  rw [h, List.range'_eq_map_range]
  exact hmap (upto 8) hall

/-- The writes of a section in word `w`, as `commitWrites` makes them. -/
def commitWord (ws : List (Nat × Byte)) (c : Core) (w : Nat) : Core :=
  let bs := wordBytes ws w
  if bs.length = 8 then c.writeBytes (8 * w) (bs.map (·.2)) else bs.foldl (fun c e => c.writeBytes e.1 [e.2]) c

theorem commitWrites_eq (c : Core) (ws : List (Nat × Byte)) :
    commitWrites c ws = ((ws.map (fun e => e.1 / 8)).eraseDups).foldl (commitWord ws) c := rfl

theorem Core.writeBytes_lmem (c : Core) (o : Nat) (bs : List Byte) : (c.writeBytes o bs).lmem = c.lmem.setBytes o bs := rfl

theorem commitWord_lmem (ws : List (Nat × Byte)) (c : Core) (w : Nat) :
    (commitWord ws c w).lmem = (wordBytes ws w).foldl (fun m e => m.write e.1 e.2) c.lmem := by
  unfold commitWord
  dsimp only
  split
  next h => rw [Core.writeBytes_lmem, Mem.setBytes_run (wordBytes_full h)]
  next =>
    generalize wordBytes ws w = l
    induction l generalizing c with
    | nil => rfl
    | cons e l ih => exact ih _

theorem commitWord_wf (ws : List (Nat × Byte)) {c : Core} (h : c.lmem.wf = true) (w : Nat) : (commitWord ws c w).lmem.wf = true := by
  rw [commitWord_lmem]
  exact List.foldlRecOn (motive := fun m : Mem => m.wf = true) _ _ h fun m hm e _ => Mem.write_wf m e.1 e.2 hm

theorem commitWord_read (ws : List (Nat × Byte)) {c : Core} (h : c.lmem.wf = true) (w a : Nat) :
    (commitWord ws c w).lmem.read a = if a / 8 = w then byteOver ws a (c.lmem.read a) else c.lmem.read a := by
  have hone : ∀ e ∈ wordBytes ws w, e.2 = byteOver ws e.1 0 := fun e he => (byteOver_of_find (mem_wordBytes.1 he).1 0).symm
  rw [commitWord_lmem, read_foldl_write (f := fun x => byteOver ws x 0) hone h]
  by_cases hw : a / 8 = w
  · rw [if_pos hw]
    cases hf : ws.find? (fun e => e.1 == a) with
    | none =>
      rw [byteOver_of_none hf, byteOver_of_none hf, if_neg]
      rintro ⟨e, he, rfl⟩
      exact Option.some_ne_none e ((mem_wordBytes.1 he).1.symm.trans hf)
    | some e =>
      have h1 : e.1 = a := by simpa using List.find?_some hf
      rw [byteOver_of_find hf, byteOver_of_find hf, if_pos ⟨e, mem_wordBytes.2 ⟨h1 ▸ hf, h1 ▸ hw⟩, h1⟩]
  · rw [if_neg hw, if_neg]
    rintro ⟨e, he, rfl⟩
    exact hw (mem_wordBytes.1 he).2

theorem foldl_commitWord_read (ws : List (Nat × Byte)) (l : List Nat) {c : Core} (h : c.lmem.wf = true) (a : Nat) :
    (l.foldl (commitWord ws) c).lmem.read a = if a / 8 ∈ l then byteOver ws a (c.lmem.read a) else c.lmem.read a := by
  induction l generalizing c with
  | nil => rfl
  | cons w l ih =>
    rw [List.foldl_cons, ih (commitWord_wf ws h w), commitWord_read ws h]
    by_cases hw : a / 8 = w <;> by_cases hl : a / 8 ∈ l <;> simp [hw, hl, byteOver_byteOver]

/-- R182: every buffered byte is written, and no other. -/
theorem commitWrites_read {c : Core} (h : c.lmem.wf = true) (ws : List (Nat × Byte)) (a : Nat) :
    (commitWrites c ws).lmem.read a = byteOver ws a (c.lmem.read a) := by
  rw [commitWrites_eq, foldl_commitWord_read ws _ h]
  split
  next => rfl
  next hn =>
    refine (byteOver_of_none (List.find?_eq_none.2 fun e he => ?_) _).symm
    intro hb
    rw [beq_iff_eq] at hb
    exact hn (List.mem_eraseDups.2 (List.mem_map.2 ⟨e, he, by rw [hb]⟩))

/-! ### Threads outside a section (08 R183) -/

theorem Slot.conflict_of_none {t : Slot} (h : t.elide = none) (ws : List Nat) : t.conflict ws = t := by rw [Slot.conflict, h]

theorem Core.writeBytes_slot (c : Core) (o : Nat) (bs : List Byte) (k : Nat) :
    (c.writeBytes o bs).slot k = (c.slot k).conflict (touched o bs.length) :=
  Tab.get_map_snd (Slot.conflict (touched o bs.length)) {} c.slots k

/-- A write leaves a thread that has no section. -/
theorem Core.writeBytes_slot_of_none {c : Core} {k : Nat} (h : (c.slot k).elide = none) (o : Nat) (bs : List Byte) :
    (c.writeBytes o bs).slot k = c.slot k := (c.writeBytes_slot o bs k).trans (Slot.conflict_of_none h _)

theorem commitWrites_slot_of_none {c : Core} {k : Nat} (h : (c.slot k).elide = none) (ws : List (Nat × Byte)) :
    (commitWrites c ws).slot k = c.slot k := by
  have hstep {x : Core} (hx : x.slot k = c.slot k) (o : Nat) (bs : List Byte) : (x.writeBytes o bs).slot k = c.slot k :=
    (Core.writeBytes_slot_of_none (hx ▸ h) o bs).trans hx
  rw [commitWrites_eq]
  refine List.foldlRecOn (motive := fun x : Core => x.slot k = c.slot k) _ _ rfl fun x hx w _ => ?_
  unfold commitWord
  dsimp only
  split
  · exact hstep hx _ _
  · exact List.foldlRecOn (motive := fun x : Core => x.slot k = c.slot k) _ _ hx fun y hy e _ => hstep hy _ _

/-! ### The three instructions -/

/-- The issuing thread of `d.onMy f`, which `f` may change. -/
theorem Dev.onMy_me_eq (d : Dev) (f : Core → Core) : (d.onMy f).me = (f d.my).slot d.who := by
  rw [Dev.me, Dev.slot, Dev.onMy_rank, Dev.onMy_who]
  exact congrArg (fun c : Core => c.slot d.who) (d.onMy_my f)

/-- The device once the issuing thread's section has committed the bytes `ws`. -/
def Dev.committed (d : Dev) (ws : List (Nat × Byte)) : Dev :=
  ((d.onMe (fun t => { t with elide := none })).onMy (fun c => commitWrites c ws)).retire (fun t => t)

theorem Dev.committed_me (d : Dev) (ws : List (Nat × Byte)) :
    (d.committed ws).me = { d.me with elide := none, pc := d.me.pc + 1 } := by
  have hslot : (d.onMe (fun t => { t with elide := none })).my.slot d.who = { d.me with elide := none } := by
    rw [Dev.onMe_my, Core.onSlot_slot_self]
    rfl
  rw [Dev.committed, Dev.retire_me, Dev.onMy_me_eq, commitWrites_slot_of_none (by rw [Dev.onMe_who, hslot]), Dev.onMe_who, hslot]
  rfl

theorem Dev.committed_read {d : Dev} (h : d.my.lmem.wf = true) (ws : List (Nat × Byte)) (a : Nat) :
    (d.committed ws).my.lmem.read a = byteOver ws a (d.my.lmem.read a) := by
  have hl : (d.onMe (fun t => { t with elide := none })).my.lmem = d.my.lmem := by rw [Dev.onMe_my, Core.onSlot_lmem]
  rw [Dev.committed, Dev.retire, Dev.onMe_my, Core.onSlot_lmem, Dev.onMy_my, commitWrites_read (hl ▸ h), hl]

section
variable {s : State}

theorem exec_elb (t : PcIx) (hk : isHelper s.dev.who = true) (hld : s.dev.me.flow.ld = []) (hst : s.dev.me.flow.st = []) :
    exec (.elb t) s = onlyMine s (fun u => { u with pc := u.pc + 1, elide := some ⟨t, u.x, u.p, [], []⟩ }) := by
  have hw : WaitCond.holds s s.dev.rank s.dev.who (.own true true false false false) = true := by
    rw [Dev.me] at hld hst
    simp [WaitCond.holds, hld, hst]
  have hmay : ¬((!isHelper s.dev.who) = true) := by simp [hk]
  show execElb t s = _
  rw [execElb, if_neg hmay, parkUnless_pos _ _ _ hw]
  rfl

theorem exec_outside_section (h : s.dev.me.elide = none) (code : BitVec 8) :
    exec .ele s = illegal s 8 ∧ exec (.ela code) s = illegal s 8 := by
  have hn : s.dev.me.elide.isNone = true := by rw [h]; rfl
  exact ⟨if_pos hn, if_pos hn⟩

variable {e : Elide} (he : s.dev.me.elide = some e)
include he

theorem exec_ela (code : BitVec 8) : exec (.ela code) s = onlyMine s (fun t => t.abort 3 code.toNat) :=
  if_neg (by simp [he])

theorem exec_ele (hld : s.dev.me.flow.ld = []) (hb : ∀ w ∈ e.writes, bindAllows s.dev.my w.1 1 = true) :
    exec .ele s = .next { s with dev := s.dev.committed e.writes } := by
  have hw : WaitCond.holds s s.dev.rank s.dev.who (.own true false false false false) = true := by
    rw [Dev.me] at hld
    simp [WaitCond.holds, hld]
  have hall : e.writes.all (fun w => bindAllows s.dev.my w.1 1) = true := List.all_eq_true.2 hb
  show execEle s = _
  rw [execEle, if_neg (by simp [he]), parkUnless_pos _ _ _ hw, he]
  exact if_pos hall

end

/-- R182: an abort gives back the registers of the section's beginning, with the cause in `x1`. -/
theorem Slot.abort_of_section {t : Slot} {e : Elide} (h : t.elide = some e) (cause detail : Nat) :
    (t.abort cause detail).elide = none ∧ (t.abort cause detail).pc = e.fallback ∧ (t.abort cause detail).p = e.p ∧
      (t.abort cause detail).parked = none ∧ ∀ r : XReg, (t.abort cause detail).xr r =
        if r = 0 then 0 else if r = 1 then w64 (cause + 256 * detail) else Tab.get 0 e.x r.toNat := by
  rw [Slot.abort, h]
  refine ⟨rfl, rfl, rfl, rfl, fun r => ?_⟩
  have h1 : 1 = r.toNat ↔ r = 1 := by rw [← BitVec.toNat_inj]; exact eq_comm
  rw [Slot.xr, Tab.get_set]
  exact if_congr Iff.rfl rfl (if_congr h1 rfl rfl)

/-- Settles O40: a section's beginning, its abort, and its commit byte by byte. -/
theorem elisionSections : Obligations.ElisionSections := by
  unfold Obligations.ElisionSections
  intro s t code e me ill
  refine ⟨fun hk => ?helper, exec_elb t, fun h => exec_outside_section h code, fun he => ⟨?abort, fun hld hb hwf => ?commit⟩⟩
  case helper =>
    have hn : (!isHelper s.dev.who) = true := by rw [hk]; rfl
    exact if_pos hn
  case abort =>
    refine ⟨_, exec_ela he code, rfl, ?_, ?_⟩
    · rw [Dev.onMe_my, Core.onSlot_lmem]
    · rw [Dev.onMe_me]
      exact Slot.abort_of_section he 3 code.toNat
  case commit =>
    refine ⟨_, exec_ele he hld hb, rfl, ?_⟩
    rw [Dev.committed_me]
    refine ⟨rfl, rfl, rfl, rfl, fun a => (Dev.committed_read hwf e.writes a).trans ?_⟩
    cases hf : e.writes.find? (fun w => w.1 == a) with
    | none => exact byteOver_of_none hf _
    | some w => exact byteOver_of_find hf _

end Sys2Proof.Machine
end

section
/-! OBLIGATION. Delegated calls are sent, queued, served and answered (08 R178 to R180, 14 R320). -/

namespace Sys2Proof.Machine

/-! ### What a change of one context leaves of every core -/

@[simp] theorem Dev.onSlot_eng (d : Dev) (r k : Nat) (f : Slot → Slot) (q : Nat) : ((d.onSlot r k f).core q).eng = (d.core q).eng := by
  rw [Dev.onSlot_core]
  split
  next e => rw [Core.onSlot_eng, e]
  next => rfl

@[simp] theorem Dev.onSlot_regs (d : Dev) (r k : Nat) (f : Slot → Slot) (q : Nat) : ((d.onSlot r k f).core q).regs = (d.core q).regs := by
  rw [Dev.onSlot_core]
  split
  next e => rw [Core.onSlot_regs, e]
  next => rfl

/-! ### Sending (R178) -/

theorem length_regsFrom (t : Slot) (d : XReg) (n : Nat) : (regsFrom t d n).length = n := by
  induction n generalizing d with
  | zero => rfl
  | succ n ih => rw [regsFrom, List.length_cons, ih]

theorem nth_regsFrom (t : Slot) (d : XReg) {n j : Nat} (hj : j < n) : nth 0 (regsFrom t d n) j = t.xr (d + BitVec.ofNat 6 j) := by
  induction n generalizing d j with
  | zero => exact absurd hj (Nat.not_lt_zero j)
  | succ n ih =>
    cases j with
    | zero => exact congrArg t.xr (BitVec.add_zero d).symm
    | succ j =>
      rw [regsFrom, nth, ih _ (Nat.lt_of_succ_lt_succ hj), BitVec.add_assoc, BitVec.ofNat_add, BitVec.add_comm 1]
      rfl

theorem exec_dcall_sends {s : State} {d a : XReg} (pc : PcIx) (n : BitVec 3) (hk : isHelper s.dev.who = true)
    (hl : ldevOf s.dev.objs.mode (dieOf (bits (s.dev.x a) 10 0)) = ldevOf s.dev.objs.mode (dieOf s.dev.rank)) (hm : MaySend s true false none)
    (hr : releaseOk s.dev s.dev.rank s.dev.who (commonScope s.dev.objs.mode s.dev.rank (bits (s.dev.x a) 10 0)) = true)
    (hq : (s.dev.core (bits (s.dev.x a) 10 0)).eng.dq.length < 32) :
    ∃ u, exec (.dcall d a pc n) s = .next u ∧ Sends s u .ld (.dcall (bits (s.dev.x a) 10 0) pc.toNat (regsFrom s.dev.me 1 n.toNat)) (.x d)
      (.loc (bits (s.dev.x a) 10 0) 0) true true := by
  have hmay : ¬((!isHelper s.dev.who) = true) := by simp [hk]
  have hroom : (WaitCond.delegRoom (bits (s.dev.x a) 10 0)).holds s s.dev.rank s.dev.who = true := decide_eq_true hq
  show ∃ u, execDcall d a pc n s = .next u ∧ _
  unfold execDcall
  dsimp only
  rw [if_neg hmay, sendStalls_go _ _ _ _ hm, parkUnless_pos _ (.release _) _ hr, parkUnless_pos _ _ _ hroom, if_neg (not_not.2 hl)]
  exact sendNow_sends ..

/-! ### Queueing at the target (R178, 24 R432) -/

section
variable {s : State} {r k i rank target : Nat} {q : Req} {args : List Word} (hb : InBag s r k i q) (hq : q.op = .dcall rank target args)
include hb hq

theorem exec_perform_dcall : exec (.perform r k i) s = andSend r k (performDcall s r k i q rank target args) := by
  obtain ⟨-, hk, hbag, hearly, -⟩ := hb
  show execPerform r k i s = _
  simp only [execPerform, Dev.thr_of_lt hk, hbag, hearly, hq]
  rfl

/-- The call as it stands in its target's queue. -/
def queuedCall (r k target : Nat) (q : Req) (args : List Word) : DReq :=
  ⟨BitVec.ofNat 15 target, args, BitVec.ofNat 16 q.asid, BitVec.ofNat 6 q.domain, r, k, q.id, false, false, q⟩

theorem perform_dcall_queues (hh : (s.dev.die (dieOf rank)).halted = false) (hf : (s.dev.die (dieOf rank)).failed = false)
    (ht : target < (s.dev.core rank).regs.xb.toNat) (hd : (s.dev.core rank).regs.dmask.getLsbD q.domain = true)
    (hl : (s.dev.core rank).eng.dq.length < 32) :
    ∃ u, exec (.perform r k i) s = .next u ∧ u.mem = s.mem ∧
      (u.dev.core rank).eng.dq = (s.dev.core rank).eng.dq ++ [queuedCall r k target q args] ∧
      (u.dev.slot r k).flow = { (s.dev.slot r k).flow with bag := dropAt (s.dev.slot r k).flow.bag i } := by
  obtain ⟨hr, hk, -, -, -, hn⟩ := id hb
  have hbad : dcallBad ((unbag s r k i).dev.core rank) target q.domain = false := by
    rw [unbag_eq hr hk]
    simp [dcallBad, ht, hd]
  have heng : ((unbag s r k i).dev.core rank).eng = (s.dev.core rank).eng := by
    rw [unbag_eq hr hk]
    exact Dev.onSlot_eng ..
  have hdie : (unbag s r k i).dev.die (dieOf rank) = s.dev.die (dieOf rank) := by
    rw [unbag_eq hr hk]
    rfl
  have hhome : homeDcall (unbag s r k i) r k q rank target args =
      ({ unbag s r k i with dev := (unbag s r k i).dev.onEng rank (fun e => { e with dq := e.dq ++ [queuedCall r k target q args] }) }, .wait) := by
    simp only [homeDcall, hdie, hh, hbad, heng, Nat.not_le.2 hl]
    rfl
  have hflow : ((reply r k q (homeDcall (unbag s r k i) r k q rank target args)).dev.slot r k).flow =
      { (s.dev.slot r k).flow with bag := dropAt (s.dev.slot r k).flow.bag i } := by
    rw [hhome, reply, Dev.onThrFlow_eq_onSlot _ hr hk, Dev.onSlot_slot_self]
    simp only [Dev.onEng_slot]
    rw [unbag_eq hr hk, Dev.onSlot_slot_self]
    rfl
  refine ⟨reply r k q (homeDcall (unbag s r k i) r k q rank target args), ?_, ?_, ?_, hflow⟩
  · rw [exec_perform_dcall hb hq, performDcall, hf, if_neg Bool.false_ne_true]
    refine andSend_of_noneReady hk ?_
    rw [hflow]
    exact hn
  · rw [hhome]
    rfl
  · rw [hhome, reply, Dev.onThrFlow_eq_onSlot _ hr hk, Dev.onSlot_eng, Dev.onEng_eng_self, heng]

end

/-! ### Service by slot 11 (R179) -/

/-- Registers filled in order from `x1` plus `k` on, before a table of others. -/
theorem Tab.get_zipIdx {α : Type} (dflt : α) (l : List α) (k : Nat) (rest : Tab α) (j : Nat) :
    Tab.get dflt ((l.zipIdx k).map (fun e => (e.2 + 1, e.1)) ++ rest) (j + 1) =
      if k ≤ j ∧ j < k + l.length then nth dflt l (j - k) else Tab.get dflt rest (j + 1) := by
  induction l generalizing k with
  | nil => rw [if_neg (by simp)]; rfl
  | cons x l ih =>
    rw [List.zipIdx_cons, List.map_cons, List.cons_append, Tab.get, ih, List.length_cons]
    rcases Nat.lt_trichotomy j k with h | rfl | h
    · rw [if_neg (by omega), if_neg (by omega), if_neg (by omega)]
    · rw [if_pos rfl, if_pos (by omega), Nat.sub_self]
      rfl
    · rw [if_neg (by omega), show j - k = j - (k + 1) + 1 by omega]
      exact if_congr (by omega) rfl rfl

/-- R179, R180: the arguments stand in `x1` upward and the caller in `x7`. -/
theorem serveSlot_xr (old : Slot) {c : DReq} (part : Word) (hl : c.args.length ≤ 6) (x : XReg) : (serveSlot old c part).xr x =
    if x = 0 then 0 else if x = 7 then BitVec.ofNat 64 (c.slot * 2 ^ 11 + c.rank)
      else if x.toNat ≤ c.args.length then nth 0 c.args (x.toNat - 1) else 0 := by
  obtain rfl | ⟨j, hj, rfl⟩ := XReg.eq_zero_or_succ x
  · rfl
  · have h7 : BitVec.ofNat 6 (j + 1) = 7 ↔ j = 6 := XReg.succ_inj hj (by decide)
    rw [if_neg (XReg.succ_ne_zero hj), Slot.xr_succ _ hj, XReg.toNat_succ hj, serveSlot, Tab.get_zipIdx, if_congr h7 rfl rfl]
    by_cases h6 : j = 6
    · rw [if_pos h6, if_neg (by omega), h6]
      rfl
    · have h8 : ¬7 = j + 1 := by omega
      rw [if_neg h6, Tab.get, if_neg h8]
      exact if_congr (by omega) rfl rfl

theorem exec_delegatedCallServe {s : State} {r : Nat} {c : DReq} {rest : List DReq} (hdq : (s.dev.core r).eng.dq = c :: rest)
    (hi : serviceIdle (s.dev.slot r 11) = true) (hs : (s.dev.core r).eng.dserve = none) (hr : (s.dev.core r).running = true)
    (hh : (s.dev.die (dieOf r)).halted = false) (hc : c.slot < 16) :
    exec (.delegatedCallServe r) s = .next { s with dev :=
      (s.dev.onEng r (fun e => { e with dq := rest, dserve := some c })).onSlot r 11 (fun t =>
        serveSlot t c (Tab.get 0 s.dev.objs.parts c.domain.toNat)) } := by
  have hidle : serviceIdle ((s.dev.core r).slot 11) = true := hi
  show execDelegatedCallServe r s = _
  simp only [execDelegatedCallServe, hdq, hidle, hs, hr, hh, devStep, hc, if_true]
  rfl

/-! ### The answer (R180) -/

/-- A context once what its wait names has followed context `k` of core `r` to the number `key`. -/
def Slot.relabeled (r k key : Nat) (t : Slot) : Slot := { t with parked := t.parked.map (WaitCond.relabel r k key) }

/-- A core once what names context `k` of core `r` has followed it to the number `key`, its own engines apart. -/
def Core.relabeled (r k key : Nat) (c : Core) : Core :=
  { c with
    slots := c.slots.map (fun e => (e.1, e.2.relabeled r k key))
    eng := { c.eng with
      dq := c.eng.dq.map (fun x => if x.rank = r && x.slot = k then { x with slot := key } else x)
      dserve := c.eng.dserve.map (fun x => if x.rank = r && x.slot = k then { x with slot := key } else x)
      xfers := c.eng.xfers.map (fun x => if x.rank = r && x.slot = k then { x with slot := key } else x) } }

theorem Core.relabeled_slot (r k key : Nat) (c : Core) (j : Nat) : (c.relabeled r k key).slot j = (c.slot j).relabeled r k key :=
  Tab.get_map_snd (Slot.relabeled r k key) {} c.slots j

theorem Dev.relabel_eq (d : Dev) (r k key : Nat) : ∃ (u : Dev) (f : CoreEng → CoreEng), d.relabel r k key = u.onEng r f ∧
    (∀ e, (f e).dserve = e.dserve) ∧ ∀ q, u.core q = (d.core q).relabeled r k key := by
  unfold Dev.relabel
  dsimp only
  exact ⟨_, _, rfl, fun _ => rfl, Tab.get_map_snd (Core.relabeled r k key) {} d.cores⟩

/-- What follows a context to another number leaves every context's own flow. -/
theorem Dev.relabel_flow (d : Dev) (r k key q j : Nat) : ((d.relabel r k key).slot q j).flow = (d.slot q j).flow := by
  obtain ⟨u, f, heq, -, hcore⟩ := d.relabel_eq r k key
  rw [heq, Dev.onEng_slot, Dev.slot, hcore, Core.relabeled_slot]
  rfl

theorem Dev.relabel_dserve {d : Dev} {q : Nat} (h : (d.core q).eng.dserve = none) (r k key : Nat) :
    ((d.relabel r k key).core q).eng.dserve = none := by
  obtain ⟨u, f, heq, hf, hcore⟩ := d.relabel_eq r k key
  have hserve : (u.core q).eng.dserve = none := by simp [hcore, Core.relabeled, h]
  rw [heq, Dev.onEng_core]
  split
  next e => subst e; exact (hf _).trans hserve
  next => exact hserve

theorem Dev.keepSent_core (d : Dev) (r k : Nat) (t : Slot) (reason : Nat) : ∃ keep : Saved, ∀ q,
    (d.keepSent r k t reason).core q = ((d.relabel r k d.freshKey).onEng r (fun e => { e with saved := e.saved ++ [keep] })).core q :=
  ⟨_, fun _ => rfl⟩

theorem Dev.keepSent_flow (d : Dev) (r k : Nat) (t : Slot) (reason q j : Nat) :
    ((d.keepSent r k t reason).slot q j).flow = (d.slot q j).flow := by
  obtain ⟨keep, hcore⟩ := d.keepSent_core r k t reason
  rw [Dev.slot, hcore]
  exact (congrArg Slot.flow (Dev.onEng_slot _ r _ q j)).trans (d.relabel_flow r k d.freshKey q j)

theorem Dev.keepSent_dserve {d : Dev} {r : Nat} (h : (d.core r).eng.dserve = none) (k : Nat) (t : Slot) (reason : Nat) :
    ((d.keepSent r k t reason).core r).eng.dserve = none := by
  obtain ⟨keep, hcore⟩ := d.keepSent_core r k t reason
  rw [hcore, Dev.onEng_eng_self]
  exact Dev.relabel_dserve h r k d.freshKey

/-- What is left of the device once what the routine of slot 11 has sent goes on apart. -/
theorem Dev.partRoutine_leaves (d : Dev) (r : Nat) :
    ((d.core r).eng.dserve = none → ((d.partRoutine r).core r).eng.dserve = none) ∧ ((d.partRoutine r).slot r 11).life = .free ∧
      ∀ q j, ¬(q = r ∧ j = 11) → ((d.partRoutine r).slot q j).flow = (d.slot q j).flow := by
  unfold Dev.partRoutine
  dsimp only
  refine ⟨fun h => ?_, ?_, fun q j hqj => ?_⟩
  · rw [Dev.onSlot_eng]
    split
    · exact h
    · exact Dev.keepSent_dserve h ..
  · rw [Dev.onSlot_slot_self]
  · rw [Dev.onSlot_slot, if_neg (fun e => hqj ⟨e.1.symm, e.2.symm⟩)]
    split
    · rfl
    · exact Dev.keepSent_flow ..

/-- The device once core `r` serves call `c` no more and its caller has the answer `v` on its return path. -/
def Dev.callAnswered (d : Dev) (r : Nat) (c : DReq) (v : RetVal) : Dev :=
  (d.onSlot c.rank c.slot (fun t => { t with flow := { t.flow with rets := t.flow.rets ++ [⟨c.req, v⟩] } })).onEng r
    (fun e => { e with dserve := none })

theorem endRoutine_answers {d : Dev} {r : Nat} {c : DReq} (hs : (d.core r).eng.dserve = some c) (hc : c.cancelled = false)
    (hr : c.rank < 2048) (hk : c.slot < 16) (hne : ¬(c.rank = r ∧ c.slot = 11)) (v : RetVal) :
    ((endRoutine d r v).core r).eng.dserve = none ∧ ((endRoutine d r v).slot r 11).life = .free ∧
      ((endRoutine d r v).slot c.rank c.slot).flow.rets = (d.slot c.rank c.slot).flow.rets ++ [⟨c.req, v⟩] := by
  have heq : endRoutine d r v = (d.callAnswered r c v).partRoutine r := by
    rw [endRoutine, hs, Dev.callAnswered, ← Dev.onThrFlow_eq_onSlot _ hr hk (fun f => { f with rets := f.rets ++ [⟨c.req, v⟩] })]
    simp only [hc]
    rfl
  obtain ⟨hserve, hlife, hflow⟩ := (d.callAnswered r c v).partRoutine_leaves r
  rw [heq]
  refine ⟨hserve (by rw [Dev.callAnswered, Dev.onEng_eng_self]), hlife, ?_⟩
  rw [hflow _ _ hne, Dev.callAnswered, Dev.onEng_slot, Dev.onSlot_slot_self]

theorem exec_dret {s : State} {c : DReq} (hk : s.dev.who = 11) (hs : s.dev.my.eng.dserve = some c)
    (hr : releaseOk s.dev s.dev.rank 11 (commonScope s.dev.objs.mode s.dev.rank c.rank) = true) (a : XReg) :
    exec (.dret a) s = .next { s with dev := endRoutine s.dev s.dev.rank (.words [s.dev.x a] true) } := by
  have hrel : (WaitCond.release (commonScope s.dev.objs.mode s.dev.rank c.rank)).holds s s.dev.rank s.dev.who = true := by
    rw [hk]
    exact hr
  show execDret a s = _
  unfold execDret
  dsimp only
  rw [if_neg (not_not.2 hk), hs]
  exact parkUnless_pos _ _ _ hrel

/-- Settles O41: a delegated call along its way, from its sender to its target's queue, slot 11 and back. -/
theorem delegatedCalls : Obligations.DelegatedCalls := by
  unfold Obligations.DelegatedCalls
  intro s d a pc n r k i q rank target args c rest q0 tc
  refine ⟨fun hk hl hm hr hq => ?sends, fun hb hq hh hf ht hd hl => ?queues, fun hdq hi hs hr hh hl hc => ?serves,
    fun hk hs hc hr hk16 hne hrel => ?answers, fun hk => if_pos hk⟩
  case sends =>
    obtain ⟨u, hu, hsends⟩ := exec_dcall_sends (d := d) pc n hk hl hm hr hq
    refine ⟨u, _, hu, hsends, length_regsFrom .., fun j hj => (nth_regsFrom _ _ hj).trans ?_⟩
    rw [BitVec.ofNat_add, BitVec.add_comm]
    rfl
  case queues =>
    obtain ⟨u, hu, hmem, hdq, hflow⟩ := perform_dcall_queues hb hq hh hf ht hd hl
    exact ⟨u, queuedCall r k target q args, hu, hmem, hdq, rfl, rfl, rfl, rfl, rfl, rfl, congrArg Flow.bag hflow⟩
  case serves =>
    refine ⟨_, exec_delegatedCallServe hdq hi hs hr hh hc, rfl, ?_⟩
    dsimp only
    rw [Dev.onSlot_eng, Dev.onEng_eng_self, Dev.onSlot_slot_self]
    refine ⟨rfl, rfl, rfl, rfl, rfl, rfl, rfl, serveSlot_xr _ _ hl, fun p j hpj => ?_⟩
    rw [Dev.onSlot_slot, if_neg (fun e => hpj ⟨e.1.symm, e.2.symm⟩), Dev.onEng_slot]
  case answers =>
    exact ⟨_, exec_dret hk hs hrel a, rfl, endRoutine_answers hs hc hr hk16 hne _⟩

end Sys2Proof.Machine
end

section
/-! SUPPORT. The conversation instructions send to the conversation's home (08 R171 to R176, 14 R321, R322). -/

namespace Sys2Proof.Machine

section
variable {s : State} (hm : MaySend s false false none)
include hm

theorem exec_copen_sends {d a b : XReg} (hp : pspace (s.dev.x a) = 0)
    (hc : checks5 s.dev s.dev.rank s.dev.who s.dev.me .scalar (s.dev.x a) 8 8 = none) :
    ∃ u, exec (.copen d a b) s = .next u ∧ Sends s u .ld (.copen (s.dev.x b)) (.x d) (.glob 0) false true := by
  have h5 : ¬((decide (pspace (s.dev.x a) = 5) && !privSlot s.dev.who) = true) := by simp [hp]
  show ∃ u, execCopen d a b s = .next u ∧ _
  unfold execCopen
  dsimp only
  rw [sendStalls_go _ _ _ _ hm, if_neg h5, if_neg (not_not.2 hp), hc]
  exact sendNow_sends ..

theorem exec_cjoin_sends (n : RoleReg) (h : XReg) (role : BitVec 3) : ∃ u, exec (.cjoin n h role) s = .next u ∧
    Sends s u .ld (.cjoin n.toNat role.toNat (s.dev.x h)) (.role n.toNat) (.glob 0) false true := by
  show ∃ u, execCjoin n h role s = .next u ∧ _
  unfold execCjoin
  dsimp only
  rw [sendStalls_go _ _ _ _ hm]
  exact sendNow_sends ..

theorem exec_cclose_sends (d h : XReg) :
    ∃ u, exec (.cclose d h) s = .next u ∧ Sends s u .ld (.cclose (s.dev.x h)) (.x d) (.glob 0) false false := by
  show ∃ u, execCclose d h s = .next u ∧ _
  unfold execCclose
  dsimp only
  rw [sendStalls_go _ _ _ _ hm]
  exact sendNow_sends ..

theorem exec_cstat_sends (d h : XReg) :
    ∃ u, exec (.cstat d h) s = .next u ∧ Sends s u .ld (.cstat (s.dev.x h)) (.x d) (.glob 0) false false := by
  show ∃ u, execCstat d h s = .next u ∧ _
  unfold execCstat
  dsimp only
  rw [sendStalls_go _ _ _ _ hm]
  exact sendNow_sends ..

variable {n : RoleReg} {b : XReg} {cap : Word} (hf : (WaitCond.role n.toNat).holds s s.dev.rank s.dev.who = true)
  (hr : releaseOk s.dev s.dev.rank s.dev.who .sys = true) (hcap : roleReg s.dev.me n = some cap)
include hf hr hcap

theorem exec_csend_sends {m : BitVec 6} (hp : payloadFault s.dev (s.dev.x b) m.toNat = none) (kind : BitVec 5) :
    ∃ u, exec (.csend n b kind m) s = .next u ∧
      Sends s u .st (.csend n.toNat kind.toNat cap (s.dev.my.lmem.words (paddr (s.dev.x b)) m.toNat)) .none (.glob 0) false true := by
  show ∃ u, execCsend n b kind m s = .next u ∧ _
  unfold execCsend
  dsimp only
  rw [sendStalls_go _ _ _ _ hm, parkUnless_pos _ _ _ hf, parkUnless_pos _ (.release .sys) _ hr, hcap]
  dsimp only
  rw [hp]
  exact sendNow_sends ..

theorem exec_cdeleg_sends (hb : bits (s.dev.x b) 63 17 = 0) : ∃ u, exec (.cdeleg n b) s = .next u ∧
    Sends s u .st (.cdeleg n.toNat cap (s.dev.x b)) .none (.glob 0) false true := by
  have hz : ¬((!zeroBits (s.dev.x b) 63 17) = true) := by simp [zeroBits, hb]
  show ∃ u, execCdeleg n b s = .next u ∧ _
  unfold execCdeleg
  dsimp only
  rw [sendStalls_go _ _ _ _ hm, parkUnless_pos _ _ _ hf, parkUnless_pos _ (.release .sys) _ hr, if_neg hz, hcap]
  exact sendNow_sends ..

end

end Sys2Proof.Machine
end

section
/-! SUPPORT. Roles are taken and conversations closed at their home (08 R172, R176). -/

namespace Sys2Proof.Machine

/-- The state in which conversation `n` stands as `c`. -/
def State.withConv (s : State) (n : Nat) (c : Conv) : State := { s with dev := putConv s.dev n c }

@[simp] theorem putConv_conv (d : Dev) (n : Nat) (c : Conv) : Tab.get {} (putConv d n c).objs.convs n = c := by
  simp [putConv, Tab.get_set]

section
variable {s : State} {r k i : Nat} {q : Req} {v : Word} {c : Conv} (hb : InBag s r k i q)
include hb

/-- The home has changed its conversation, and its answer reaches the thread. -/
theorem andSend_withConv (n : Nat) (c' : Conv) (x : Res) :
    ∃ t, andSend r k (.next (reply r k q ((unbag s r k i).withConv n c', x))) = .next t ∧ t.mem = s.mem ∧
      Tab.get {} t.dev.objs.convs n = c' ∧ t.dev.slot r k = (s.dev.slot r k).performed i q x := by
  obtain ⟨hr, hk, -, -, -, hn⟩ := hb
  have hslot : (reply r k q ((unbag s r k i).withConv n c', x)).dev.slot r k = (s.dev.slot r k).performed i q x := by
    have hunbag : ((unbag s r k i).withConv n c').dev.slot r k =
        { s.dev.slot r k with flow := { (s.dev.slot r k).flow with bag := dropAt (s.dev.slot r k).flow.bag i } } := by
      show (unbag s r k i).dev.slot r k = _
      rw [unbag_eq hr hk]
      exact Dev.onSlot_slot_self ..
    rw [reply, Dev.onThrFlow_eq_onSlot _ hr hk, Dev.onSlot_slot_self]
    dsimp only
    rw [hunbag]
    rfl
  refine ⟨_, andSend_of_noneReady hk (by rw [hslot]; exact Slot.performed_noneReady hn i q x), rfl, ?_, hslot⟩
  rw [reply_objs hr hk]
  exact putConv_conv ..

variable (hc : convCurrent s.dev.objs v = some c) (hd : s.dev.dieDown c.home = false)
include hc hd

omit hb in
theorem convDown_eq_false : convDown s.dev v = false := by
  rw [convDown, hc]
  exact hd

theorem perform_cjoin {n role : Nat} (hq : q.op = .cjoin n role v) (hrole : role ≤ hdrRoles c.header) (hmask : c.mask.getLsbD q.domain = true)
    (hfree : Tab.get none c.holders role = none) :
    ∃ t, exec (.perform r k i) s = .next t ∧ t.mem = s.mem ∧
      Tab.get {} t.dev.objs.convs (bits v 43 32) = { c with holders := Tab.set c.holders role (some (r, k, n)), deleg := Tab.set c.deleg role false } ∧
      t.dev.slot r k = returned i q [BitVec.ofNat 64 (role * 2 ^ 56 + bits v 43 0)] true (s.dev.slot r k) := by
  obtain ⟨hr, hk, hbag, hearly, -⟩ := id hb
  have hup := convDown_eq_false hc hd
  have hhome : homeCjoin (unbag s r k i) r k q n role v = ((unbag s r k i).withConv (bits v 43 32)
      { c with holders := Tab.set c.holders role (some (r, k, n)), deleg := Tab.set c.deleg role false },
      .ret [w64 (fld role 56 + bits v 43 0)] true) := by
    simp only [homeCjoin, unbag_objs hr hk, hc, hfree, hmask, Nat.not_lt.2 hrole]
    rfl
  have hexec : exec (.perform r k i) s = andSend r k (.next (reply r k q (homeCjoin (unbag s r k i) r k q n role v))) := by
    show execPerform r k i s = _
    simp only [execPerform, Dev.thr_of_lt hk, hbag, hearly, hq, unitDown, hup]
    rfl
  rw [hexec, hhome]
  exact andSend_withConv hb ..

theorem perform_cclose (hq : q.op = .cclose v) (hheld : c.held = []) (ho : c.opener.toNat = q.domain) :
    ∃ t, exec (.perform r k i) s = .next t ∧ t.mem = s.mem ∧ Tab.get {} t.dev.objs.convs (bits v 43 32) = { gen := c.gen + 1 } ∧
      t.dev.slot r k = returned i q [0] true (s.dev.slot r k) := by
  obtain ⟨hr, hk, hbag, hearly, -⟩ := id hb
  have hup := convDown_eq_false hc hd
  have hhome : homeCclose (unbag s r k i) q v = ((unbag s r k i).withConv (bits v 43 32) { gen := c.gen + 1 }, .ret [0] true) := by
    simp only [homeCclose, unbag_objs hr hk, hc, hheld, ho]
    exact (if_neg (by decide)).trans (if_neg (not_not.2 rfl))
  have hexec : exec (.perform r k i) s = andSend r k (.next (reply r k q (homeCclose (unbag s r k i) q v))) := by
    show execPerform r k i s = _
    simp only [execPerform, Dev.thr_of_lt hk, hbag, hearly, hq, unitDown, hup]
    rfl
  rw [hexec, hhome]
  exact andSend_withConv hb ..

end

end Sys2Proof.Machine
end

section
/-! OBLIGATION. Conversations: sends in their stages, held sends, and the instructions (08 R171 to R177, 14 R321, R322, 19 R373). -/

namespace Sys2Proof.Machine

/-! ### Messages (R174) -/

/-- The message of a send of `ws` under `kind` by role `role` along edge `e`, as it enters the receiver's channel. -/
def convMessage (num role kind : Nat) (e : BitVec 32) (ws : List Word) : List (Word × Bool) :=
  ctlWord 0 (edgeField e 17 12) role kind ws.length (edgeField e 11 9) num :: ws.map (fun w => (w, false)) ++
    if edgeField e 8 8 = 1 then [(BitVec.ofNat 64 (2 * 2 ^ 62), true)] else []

theorem edgeField_lt (e : BitVec 32) (hi lo : Nat) : edgeField e hi lo < 2 ^ (hi + 1 - lo) := Nat.mod_lt _ (Nat.two_pow_pos _)

theorem length_convMessage (num role kind : Nat) (e : BitVec 32) (ws : List Word) :
    (convMessage num role kind e ws).length = 1 + ws.length + edgeField e 8 8 := by
  have hend : edgeField e 8 8 < 2 := edgeField_lt e 8 8
  rw [convMessage, List.cons_append, List.length_cons, List.length_append, List.length_map]
  split <;> simp only [List.length_cons, List.length_nil] <;> omega

/-- The fields of a message's control word. -/
theorem ctlWord_fields {stage role kind len recv conv : Nat} (hs : stage < 64) (hr : role < 8) (hk : kind < 32) (hl : len < 64)
    (hv : recv < 8) (hc : conv < 4096) :
    bits (ctlWord 0 stage role kind len recv conv).1 63 62 = 0 ∧ bits (ctlWord 0 stage role kind len recv conv).1 61 56 = stage ∧
      bits (ctlWord 0 stage role kind len recv conv).1 55 53 = role := by
  simp only [ctlWord, bits, w64, fld, BitVec.toNat_ofNat]
  omega

/-! ### A verdict carried out (R173, R175) -/

/-- The words that wait in a receive channel: rank, slot and channel. -/
def Dev.chan (d : Dev) (tgt : Nat × Nat × Nat) : List (Word × Bool) := Tab.get [] (d.slot tgt.1 tgt.2.1).chans tgt.2.2

theorem clearRole_chans (t : Slot) (q : Req) : (clearRole t q).chans = t.chans := by
  unfold clearRole
  split <;> rfl

theorem clearRole_flow (t : Slot) (q : Req) : (clearRole t q).flow = t.flow := by
  unfold clearRole
  split <;> rfl

section
variable (d : Dev) (num : Nat) {r k : Nat} (hr : r < 2048) (hk : k < 16) (q : Req) (c : Conv) (tgt : Nat × Nat × Nat) (ws : List (Word × Bool))

theorem toChannel_chan : (d.toChannel tgt ws).chan tgt = d.chan tgt ++ ws := by
  rw [Dev.chan, Dev.toChannel, Dev.onSlot_slot_self, Tab.get_set, if_pos rfl]
  rfl

theorem toChannel_flow (p j : Nat) : ((d.toChannel tgt ws).slot p j).flow = (d.slot p j).flow := by
  rw [Dev.toChannel, Dev.onSlot_slot]
  split
  next e => rw [e.1, e.2]
  next => rfl

include hr hk

theorem settleConv_go : settleConv d num r k q (.go c tgt ws) = ((putConv d num c).toChannel tgt ws).onSlot r k (fun t =>
    { clearRole t q with flow := { (clearRole t q).flow.answer q .ack with rets := (clearRole t q).flow.rets ++ [acceptRet q] } }) :=
  Dev.onThr_eq_onSlot _ hr hk _

/-- R173: the conversation moves and the message stands last in the receiver's channel. -/
theorem settleConv_go_moves : Tab.get {} (settleConv d num r k q (.go c tgt ws)).objs.convs num = c ∧
    (settleConv d num r k q (.go c tgt ws)).chan tgt = d.chan tgt ++ ws := by
  rw [settleConv_go d num hr hk]
  refine ⟨putConv_conv .., ?_⟩
  have hchan := toChannel_chan (putConv d num c) tgt ws
  rw [Dev.chan, Dev.onSlot_slot]
  split
  next e =>
    rw [clearRole_chans, e.1, e.2]
    exact hchan
  next => exact hchan

theorem settleConv_go_posted : ((settleConv d num r k q (.go c tgt ws)).slot r k).flow.posted = (d.slot r k).flow.posted := by
  rw [settleConv_go d num hr hk, Dev.onSlot_slot_self]
  show (clearRole _ q).flow.posted = _
  rw [clearRole_flow, toChannel_flow]
  rfl

end

/-! ### A send in its stage (R173) -/

/-- R173: a send by the holder of its role, under a kind of the conversation, along an edge of the stage, whose receiver has room. -/
theorem judgeSend_go {d : Dev} {c : Conv} {num r k cv kind : Nat} {cap : Word} {ws : List Word} {e : BitVec 32} {tgt : Nat × Nat × Nat}
    (hhold : Tab.get none c.holders (bits cap 58 56) = some (r, k, cv)) (hdel : Tab.get false c.deleg (bits cap 58 56) = false)
    (hkind : kind ≤ hdrKinds c.header) (hfinal : c.stage.toNat ≠ hdrFinal c.header)
    (hedge : c.edges.find? (fun e => edgeKey e == c.stage.toNat * 2 ^ 8 + bits cap 58 56 * 2 ^ 5 + kind) = some e)
    (hrecv : Tab.get none c.holders (edgeField e 11 9) = some tgt) (hslot : tgt.2.1 < 16)
    (hroom : (d.chan tgt).length + (1 + ws.length + edgeField e 8 8) ≤ 64) :
    judgeSend d num c r k kind cap ws =
      .go { c with stage := BitVec.ofNat 6 (edgeField e 17 12) } tgt (convMessage num (bits cap 58 56) kind e ws) := by
  have hholds : holdsRole c cap r k = true := by simp [holdsRole, capRole, hhold, hdel]
  have hroom : chanRoom d tgt (convMessage num (bits cap 58 56) kind e ws).length = true := by
    rw [length_convMessage]
    simpa [chanRoom, hslot, Dev.chan] using hroom
  have hfind : c.edges.find? (fun e => edgeKey e == fld c.stage.toNat 8 + fld (capRole cap) 5 + kind) = some e := hedge
  unfold judgeSend
  dsimp only
  rw [hholds, if_neg (by decide), if_neg (Nat.not_lt.2 hkind), if_neg hfinal, hfind]
  dsimp only
  rw [hrecv]
  exact if_pos hroom

theorem unbag_chan {s : State} {r k : Nat} (hr : r < 2048) (hk : k < 16) (i : Nat) (tgt : Nat × Nat × Nat) :
    (unbag s r k i).dev.chan tgt = s.dev.chan tgt := by
  rw [unbag_eq hr hk, Dev.chan, Dev.onSlot_slot]
  split
  next e =>
    rw [e.1, e.2]
    rfl
  next => rfl

theorem perform_csend {s : State} {r k i n kind : Nat} {q : Req} {cap : Word} {ws : List Word} {c c' : Conv} {tgt : Nat × Nat × Nat}
    {msg : List (Word × Bool)} (hb : InBag s r k i q) (hc : convCurrent s.dev.objs cap = some c) (hd : s.dev.dieDown c.home = false)
    (hq : q.op = .csend n kind cap ws) (hheld : c.held = [])
    (hj : judgeSend (unbag s r k i).dev (bits cap 43 32) c r k kind cap ws = .go c' tgt msg) :
    ∃ t, exec (.perform r k i) s = .next t ∧ t.mem = s.mem ∧ Tab.get {} t.dev.objs.convs (bits cap 43 32) = c' ∧
      t.dev.chan tgt = s.dev.chan tgt ++ msg := by
  obtain ⟨hr, hk, hbag, hearly, -, hn⟩ := id hb
  have hup := convDown_eq_false hc hd
  have hjudge : judge (unbag s r k i).dev (bits cap 43 32) c r k q = .go c' tgt msg := by
    rw [judge, hq]
    exact hj
  have hhome : homeConv (unbag s r k i) r k q cap =
      { unbag s r k i with dev := settleConv (unbag s r k i).dev (bits cap 43 32) r k q (.go c' tgt msg) } := by
    simp only [homeConv, unbag_objs hr hk, hc, hheld, hjudge]
    rfl
  have hexec : exec (.perform r k i) s = andSend r k (.next (homeConv (unbag s r k i) r k q cap)) := by
    show execPerform r k i s = _
    simp only [execPerform, Dev.thr_of_lt hk, hbag, hearly, hq, unitDown, hup]
    rfl
  have hready : NoneReady ((homeConv (unbag s r k i) r k q cap).dev.slot r k).flow := by
    rw [hhome, NoneReady, settleConv_go_posted _ _ hr hk, unbag_eq hr hk]
    show ∀ p ∈ ((s.dev.onSlot r k _).slot r k).flow.posted, _
    rw [Dev.onSlot_slot_self]
    exact hn
  obtain ⟨hconv, hchan⟩ := settleConv_go_moves (unbag s r k i).dev (bits cap 43 32) hr hk q c' tgt msg
  rw [hexec, andSend_of_noneReady hk hready, hhome]
  exact ⟨_, rfl, rfl, hconv, hchan.trans (by rw [unbag_chan hr hk])⟩

/-! ### A held send (R177, R373) -/

section
variable {s : State} {n r k : Nat} {q : Req} {rest : List (Nat × Nat × Req)}
  (hh : (Tab.get {} s.dev.objs.convs n : Conv).held = (r, k, q) :: rest)
include hh

theorem exec_heldSendAccept_holds (hj : judge s.dev n { (Tab.get {} s.dev.objs.convs n : Conv) with held := rest } r k q = .hold) :
    exec (.heldSendAccept n) s = .next s := by
  show execHeldSendAccept n s = _
  simp only [execHeldSendAccept, convOf, hh, hj, ite_self]

theorem exec_heldSendAccept_down (hd : s.dev.dieDown (Tab.get {} s.dev.objs.convs n : Conv).home = true) :
    exec (.heldSendAccept n) s = .next s := by
  show execHeldSendAccept n s = _
  simp only [execHeldSendAccept, convOf, hh, hd, if_true]

theorem exec_heldSendAccept_takes {c : Conv} {tgt : Nat × Nat × Nat} {msg : List (Word × Bool)} (hr : r < 2048) (hk : k < 16)
    (hj : judge s.dev n { (Tab.get {} s.dev.objs.convs n : Conv) with held := rest } r k q = .go c tgt msg)
    (hd : s.dev.dieDown (Tab.get {} s.dev.objs.convs n : Conv).home = false) :
    ∃ t, exec (.heldSendAccept n) s = .next t ∧ t.mem = s.mem ∧ Tab.get {} t.dev.objs.convs n = c ∧
      t.dev.chan tgt = s.dev.chan tgt ++ msg := by
  have hexec : exec (.heldSendAccept n) s = .next { s with
      dev := settleConv (putConv s.dev n { (Tab.get {} s.dev.objs.convs n : Conv) with held := rest }) n r k q (.go c tgt msg) } := by
    show execHeldSendAccept n s = _
    simp only [execHeldSendAccept, convOf, hh, hj, hd, devStep, Bool.false_eq_true, if_false]
  exact ⟨_, hexec, rfl, settleConv_go_moves (putConv s.dev n _) n hr hk q c tgt msg⟩

end

/-- Settles O42: the instructions send, the home gives roles, closes and judges sends, and a held send is judged again. -/
theorem conversations : Obligations.Conversations := by
  unfold Obligations.Conversations
  intro s d a b h n role kind m cap r k i q c c2 nn kk ro ws v e tgt rest msg cv p num rel free chan
  refine ⟨fun hm hp hc => exec_copen_sends hm hp hc, fun hm => ⟨exec_cjoin_sends hm n h role, exec_cclose_sends hm d h, exec_cstat_sends hm d h⟩,
    fun hm hf hr hcap => ⟨fun hp => exec_csend_sends hm hf hr hcap hp kind, exec_cdeleg_sends hm hf hr hcap⟩, fun hb hc hd => ⟨?join, ?close, ?send⟩,
    fun hh hr hk => ⟨exec_heldSendAccept_holds hh, exec_heldSendAccept_down hh, exec_heldSendAccept_takes hh hr hk⟩⟩
  case join =>
    exact perform_cjoin hb hc hd
  case close =>
    intro hq hheld ho
    obtain ⟨t, ht, hmem, hconv, hslot⟩ := perform_cclose hb hc hd hq hheld ho
    exact ⟨t, ht, hmem, by rw [hconv], by rw [hconv], hslot⟩
  case send =>
    intro hq hheld hhold hdel hkind hfinal hedge hrecv hslot hroom
    obtain ⟨hr, hk, -⟩ := id hb
    have hj := judgeSend_go (d := (unbag s r k i).dev) (num := num) hhold hdel hkind hfinal hedge hrecv hslot (by rw [unbag_chan hr hk]; exact hroom)
    obtain ⟨t, ht, hmem, hconv, hchan⟩ := perform_csend hb hc hd hq hheld hj
    have hkinds : hdrKinds c.header < 32 := Nat.mod_lt _ (by decide)
    have hrole : bits v 58 56 < 8 := Nat.mod_lt _ (by decide)
    have hnum : num < 4096 := Nat.mod_lt _ (by decide)
    have hfields := ctlWord_fields (edgeField_lt e 17 12) hrole (Nat.lt_of_le_of_lt hkind hkinds) (len := ws.length) (by omega)
      (edgeField_lt e 11 9) hnum
    exact ⟨t, _, ht, hmem, hconv, hchan.trans (List.append_assoc ..).symm, hfields⟩

end Sys2Proof.Machine
end

section
/-! SUPPORT. Tables that change by key, bytes written in a row, and cores that a step stops or judges (08 R178, 11 R241, 24 R432, R434). -/

namespace Sys2Proof.Machine

/-! ### Tables and bytes -/

/-- A table whose entries change where their key meets `P`; the default is no exception. -/
theorem Tab.get_map_where {α : Type} {dflt : α} {f : α → α} (hf : f dflt = dflt) (P : Nat → Prop) [DecidablePred P] (t : Tab α) (k : Nat) :
    Tab.get dflt (t.map (fun e => if P e.1 then (e.1, f e.2) else e)) k = if P k then f (Tab.get dflt t k) else Tab.get dflt t k := by
  induction t with
  | nil => exact (ite_eq_right_iff.2 fun _ => hf).symm
  | cons e t ih =>
    have hkey : (if P e.1 then (e.1, f e.2) else e).1 = e.1 := by split <;> rfl
    rw [List.map_cons, Tab.get, Tab.get, hkey]
    split
    next h =>
      subst h
      split <;> rfl
    next => exact ih

/-- Bytes written in a row read as they were written. -/
theorem Mem.read_setBytes (bs : List Byte) {m : Mem} (a : Nat) {i : Nat} (h : m.wf = true) (hi : i < bs.length) :
    (m.setBytes a bs).read (a + i) = bs.getD i 0 := by
  induction bs generalizing m a i with
  | nil => exact absurd hi (Nat.not_lt_zero i)
  | cons b bs ih =>
    rw [Mem.setBytes]
    cases i with
    | zero =>
      have hrest := Mem.read_setBytes_outside bs (m.write a b) (a + 1) a (Mem.write_wf m a b h) (.inl (Nat.lt_succ_self a))
      exact hrest.trans ((Mem.read_write m a a b h).trans (if_pos rfl))
    | succ i =>
      rw [show a + (i + 1) = a + 1 + i by omega, ih (a + 1) (Mem.write_wf m a b h) (Nat.lt_of_succ_lt_succ hi)]
      rfl

/-! ### Measurement registers (R236) -/

theorem measOf_measure (p : Plat) (i : Nat) (digest : List Byte) (j : Nat) :
    measOf (p.measure i digest) j = if i = j then sha384 (measOf p i ++ digest) else measOf p j := Tab.get_set ..

/-! ### The die-status register (24 R434) -/

theorem b2n_le_one (b : Bool) : b2n b ≤ 1 := by cases b <;> decide

theorem dieStatus_bit {d : Dev} {n : Nat} (hn : n < 10)
    (hf : (if n = 8 then d.plat.farFailed0 else if n = 9 then d.plat.farFailed1 else (d.die n).failed) = true) :
    (dieStatus d).getLsbD n = true := by
  have hb (f : Nat → Bool) : (upto 8).foldl (fun a k => a + fld (b2n (f k)) k) 0 = b2n (f 0) + 2 * b2n (f 1) + 4 * b2n (f 2) +
      8 * b2n (f 3) + 16 * b2n (f 4) + 32 * b2n (f 5) + 64 * b2n (f 6) + 128 * b2n (f 7) := by
    simp only [upto, fld, List.range_succ, List.range_zero, List.nil_append, List.foldl_append, List.foldl_cons, List.foldl_nil]
    omega
  have hle (k : Nat) := b2n_le_one (d.die k).failed
  have h8 := b2n_le_one d.plat.farFailed0
  have h9 := b2n_le_one d.plat.farFailed1
  have hone : b2n (if n = 8 then d.plat.farFailed0 else if n = 9 then d.plat.farFailed1 else (d.die n).failed) = 1 := by rw [hf]; rfl
  unfold dieStatus
  dsimp only
  rw [hb fun k => (d.die k).failed]
  generalize (upto 8).foldl _ 0 = halts
  simp only [w64, fld, BitVec.getLsbD_ofNat, Nat.testBit_eq_decide_div_mod_eq, Bool.and_eq_true, decide_eq_true_eq]
  refine ⟨by omega, ?_⟩
  have := hle 0; have := hle 1; have := hle 2; have := hle 3; have := hle 4; have := hle 5; have := hle 6; have := hle 7
  interval_cases n <;> simp only [Nat.reduceEqDiff, if_true, if_false] at hone <;> omega

/-! ### Calls judged as a die resumes (24 R432) -/

theorem Dev.onThr_plat (d : Dev) (r k : Nat) (f : Slot → Slot) : (d.onThr r k f).plat = d.plat := by
  unfold Dev.onThr
  split_ifs <;> rfl

theorem Dev.onThr_dies (d : Dev) (r k : Nat) (f : Slot → Slot) : (d.onThr r k f).dies = d.dies := by
  unfold Dev.onThr
  split_ifs <;> rfl

/-- What judging reads of a core: its queue of delegated calls and its registers. -/
def Core.calls (c : Core) : List DReq × CoreRegs := (c.eng.dq, c.regs)

theorem Dev.onThr_calls (d : Dev) (r k : Nat) (f : Slot → Slot) (q : Nat) : ((d.onThr r k f).core q).calls = (d.core q).calls := by
  unfold Dev.onThr
  split_ifs
  · rfl
  · rw [Core.calls, Dev.onSlot_eng, Dev.onSlot_regs, Core.calls]
  · rw [Dev.onEng_core]
    split
    next e => rw [← e]; rfl
    next => rfl

/-- A call that its core refuses once it judges it. -/
def DReq.refusedBy (c : Core) (x : DReq) : Bool := x.unjudged && dcallBad c x.pc.toNat x.domain.toNat

/-- What a queue keeps once core `c` has judged it. -/
def judgedBy (c : Core) (l : List DReq) : List DReq := (l.filter (fun x => !x.refusedBy c)).map (fun x => { x with unjudged := false })

/-- The calls that a core keeps once its die resumes. -/
def Core.judged (c : Core) : List DReq := judgedBy c c.eng.dq

theorem Core.judged_congr {c c' : Core} (h : c'.calls = c.calls) : c'.judged = c.judged := by
  obtain ⟨hdq, hregs⟩ := Prod.mk.inj h
  simp only [Core.judged, judgedBy, DReq.refusedBy, dcallBad, hdq, hregs]

theorem Core.judged_unjudged {c : Core} : ∀ x ∈ c.judged, x.unjudged = false := by
  intro x hx
  obtain ⟨y, -, rfl⟩ := List.mem_map.1 hx
  rfl

/-- The refusals that a core sends as its die resumes. -/
def Dev.refuseCalls (d : Dev) (r : Nat) (l : List DReq) : Dev :=
  l.foldl (fun d x => d.onThrFlow x.rank x.slot (fun f => f.answer x.req (.refuse 0x38 (w64 r) 3))) d

theorem Dev.refuseCalls_leaves (d : Dev) (r : Nat) (l : List DReq) : (d.refuseCalls r l).plat = d.plat ∧ (d.refuseCalls r l).dies = d.dies ∧
    ∀ q, ((d.refuseCalls r l).core q).calls = (d.core q).calls := by
  induction l generalizing d with
  | nil => exact ⟨rfl, rfl, fun _ => rfl⟩
  | cons x l ih =>
    obtain ⟨hplat, hdies, hcalls⟩ := ih (d.onThrFlow x.rank x.slot (fun f => f.answer x.req (.refuse 0x38 (w64 r) 3)))
    exact ⟨hplat.trans (Dev.onThr_plat ..), hdies.trans (Dev.onThr_dies ..), fun q => (hcalls q).trans (Dev.onThr_calls ..)⟩

theorem judgeQueued_eq (d : Dev) (r : Nat) : judgeQueued d r =
    (d.refuseCalls r ((d.core r).eng.dq.filter (·.refusedBy (d.core r)))).onEng r
      (fun e => { e with dq := judgedBy (d.core r) e.dq }) := rfl

theorem judgeQueued_calls (d : Dev) (r q : Nat) : ((judgeQueued d r).core q).calls =
    if r = q then ((d.core r).judged, (d.core r).regs) else (d.core q).calls := by
  obtain ⟨-, -, hcalls⟩ := d.refuseCalls_leaves r ((d.core r).eng.dq.filter (·.refusedBy (d.core r)))
  obtain ⟨hdq, hregs⟩ := Prod.mk.inj (hcalls r)
  rw [judgeQueued_eq, Dev.onEng_core]
  split
  next => rw [Core.calls]; dsimp only; rw [hdq, hregs]; rfl
  next => exact hcalls q

/-- A core with no call left to judge: its die's resumption changes no context. -/
theorem judgeQueued_slot {d : Dev} {r : Nat} (h : ∀ x ∈ (d.core r).eng.dq, x.unjudged = false) (q k : Nat) :
    (judgeQueued d r).slot q k = d.slot q k := by
  have hnone : (d.core r).eng.dq.filter (·.refusedBy (d.core r)) = [] :=
    List.filter_eq_nil_iff.2 fun x hx => by simp [DReq.refusedBy, h x hx]
  rw [judgeQueued_eq, Dev.onEng_slot, hnone]
  rfl

section
variable (l : List Nat) (d : Dev)

theorem foldl_judgeQueued_leaves : (l.foldl judgeQueued d).plat = d.plat ∧ (l.foldl judgeQueued d).dies = d.dies := by
  induction l generalizing d with
  | nil => exact ⟨rfl, rfl⟩
  | cons r l ih =>
    obtain ⟨hplat, hdies, -⟩ := d.refuseCalls_leaves r ((d.core r).eng.dq.filter (·.refusedBy (d.core r)))
    exact ⟨(ih _).1.trans hplat, (ih _).2.trans hdies⟩

theorem foldl_judgeQueued_calls_of_not_mem {q : Nat} (hq : q ∉ l) : ((l.foldl judgeQueued d).core q).calls = (d.core q).calls := by
  induction l generalizing d with
  | nil => rfl
  | cons r l ih =>
    obtain ⟨hne, hq⟩ := not_or.1 (mt List.mem_cons.2 hq)
    rw [List.foldl_cons, ih _ hq, judgeQueued_calls, if_neg (Ne.symm hne)]

/-- Each core of a list judges its own queue, whatever the others answer. -/
theorem foldl_judgeQueued_dq (hl : l.Nodup) {q : Nat} (hq : q ∈ l) : ((l.foldl judgeQueued d).core q).eng.dq = (d.core q).judged := by
  induction l generalizing d with
  | nil => exact absurd hq List.not_mem_nil
  | cons r l ih =>
    obtain ⟨hr, hl⟩ := List.nodup_cons.1 hl
    rw [List.foldl_cons]
    by_cases h : r = q
    · subst h
      have hcalls := (foldl_judgeQueued_calls_of_not_mem l (judgeQueued d r) hr).trans ((judgeQueued_calls d r r).trans (if_pos rfl))
      exact (Prod.mk.inj hcalls).1
    · rw [ih _ hl ((List.mem_cons.1 hq).resolve_left (Ne.symm h))]
      exact Core.judged_congr ((judgeQueued_calls d r q).trans (if_neg h))

theorem foldl_judgeQueued_slot (h : ∀ r ∈ l, ∀ x ∈ (d.core r).eng.dq, x.unjudged = false) (q k : Nat) :
    (l.foldl judgeQueued d).slot q k = d.slot q k := by
  induction l generalizing d with
  | nil => rfl
  | cons r l ih =>
    rw [List.foldl_cons, ih, judgeQueued_slot (h r (.head l))]
    intro p hp x hx
    have hdq := congrArg Prod.fst (judgeQueued_calls d r p)
    change ((judgeQueued d r).core p).eng.dq = _ at hdq
    rw [hdq] at hx
    split at hx
    · exact Core.judged_unjudged x hx
    · exact h p (.tail r hp) x hx

end

/-- The cores of a die. -/
def dieRanks (n : Nat) : List Nat := (upto 256).map (256 * n + ·)

theorem mem_dieRanks {n r : Nat} : r ∈ dieRanks n ↔ dieOf r = n := by
  simp only [dieRanks, upto, List.mem_map, List.mem_range, dieOf]
  exact ⟨fun ⟨i, hi, h⟩ => by omega, fun h => ⟨r % 256, by omega, by omega⟩⟩

theorem nodup_dieRanks (n : Nat) : (dieRanks n).Nodup :=
  List.nodup_range.map fun _ _ h => Nat.add_left_cancel h

end Sys2Proof.Machine
end

section
/-! OBLIGATION. Boot, reports, power capping, ageing, TAP, debug port and die failure (11 R230, R234 to R241, R248, R250, 24 R432 to R438). -/

namespace Sys2Proof.Machine

/-! ### Boot and reset (R234, R235, 24 R438) -/

section
variable (s : State) (bad : Bool) (x : BootSetup)

theorem exec_reset_rom : exec (.reset .rom bad x) s = .next (bootStep s bad x) := rfl

theorem exec_reset_rom_read (h : s.dev.plat.status = 1) :
    exec (.reset .rom bad x) s = .next { s with dev := s.dev.onPlat (fun p => { p with status := if bad then 15 else 2 }) } := by
  have hn : s.dev.plat.status.toNat = 1 := congrArg BitVec.toNat h
  rw [exec_reset_rom, bootStep, hn]
  rfl

theorem exec_reset_rom_check (h : s.dev.plat.status = 2) : exec (.reset .rom bad x) s = .next { s with dev := s.dev.onPlat (fun p =>
    { p with status := if bad = true ∨ s.dev.plat.flashBad = true ∨ imageVerdict s.dev.plat s.dev.plat.image ≠ 0 then 15 else 3 }) } := by
  have hn : s.dev.plat.status.toNat = 2 := congrArg BitVec.toNat h
  rw [exec_reset_rom, bootStep, hn]
  simp only [Dev.onPlat, Bool.or_eq_true, decide_eq_true_eq, or_assoc]

theorem exec_reset_rom_measure (h : s.dev.plat.status = 3) : ∃ t, exec (.reset .rom bad x) s = .next t ∧ t.mem = s.mem ∧
    t.dev.plat.status = 4 ∧ t.dev.plat.cxlHost1 = x.cxl1 ∧ t.dev.plat.cxlHost2 = x.cxl2 ∧
    measOf t.dev.plat 0 = sha384 (measOf s.dev.plat 0 ++ bytesOf 48 (Config.imageDigest s.dev.plat.image).toNat) ∧
    measOf t.dev.plat 1 = sha384 (measOf s.dev.plat 1 ++ bytesOf 48 (Config.strapDigest s.dev.plat.minVersion).toNat) := by
  have hn : s.dev.plat.status.toNat = 3 := congrArg BitVec.toNat h
  rw [exec_reset_rom, bootStep, hn]
  refine ⟨_, rfl, rfl, rfl, rfl, rfl, ?_, ?_⟩
  · exact (measOf_measure _ 1 _ 0).trans ((if_neg (by decide)).trans ((measOf_measure _ 0 _ 0).trans (if_pos rfl)))
  · refine (measOf_measure _ 1 _ 1).trans ((if_pos rfl).trans ?_)
    rw [measOf_measure, if_neg (by decide)]

theorem exec_reset_rom_start (h : s.dev.plat.status = 4) : ∃ t, exec (.reset .rom bad x) s = .next t ∧ t.mem = [] ∧ t.dev.mmeta = {} ∧
    t.dev.plat.status = 5 ∧ t.dev.objs.farLp6 = (x.far != .cxl) ∧ t.dev.objs.farCxl = (x.far != .lp6) := by
  have hn : s.dev.plat.status.toNat = 4 := congrArg BitVec.toNat h
  rw [exec_reset_rom, bootStep, hn]
  exact ⟨_, rfl, rfl, rfl, rfl, rfl, rfl⟩

theorem exec_reset_rom_done (h : 5 ≤ s.dev.plat.status.toNat) : exec (.reset .rom bad x) s = .next s := by
  rw [exec_reset_rom, bootStep]
  dsimp only
  split
  case h_5 => rfl
  all_goals omega

end

section
variable {s : State} (h15 : s.dev.plat.status = 15)
include h15

theorem exec_recoveryGo_reset : exec (.recoveryGo 0) s = .next (recoveryStart s 1) := by
  have hv : ctlVerdict s.dev.plat (.port 0) 0x118 = .acts := by
    have hp : ctlPlace 0x118 = .recovery := rfl
    simp [ctlVerdict, h15, hp]
  exact next_eq (ctlWrite_port_acts (ctlDown_of_lt (by decide)) (isMaster_of (q := 0) (.inl rfl)) hv 1)

/-- R235: only over port 0 does recovery start. -/
theorem exec_recoveryGo_counts {p : BitVec 2} (hm : isMaster s.dev.plat p.toNat = true) (hp : p ≠ 0) :
    exec (.recoveryGo p) s = .next { s with dev := countRefused s.dev } := by
  have hne : p.toNat ≠ 0 := fun h => hp (BitVec.eq_of_toNat_eq h)
  have hv : ctlVerdict s.dev.plat (.port p.toNat) 0x118 = .counts := by
    have hp : ctlPlace 0x118 = .recovery := rfl
    simp [ctlVerdict, h15, hp, hne]
  exact next_eq (ctlWrite_port_counts (ctlDown_of_lt (by decide)) hm hv 1)

theorem exec_recoveryGo_good (hg : imageVerdict s.dev.plat (some s.dev.plat.recovery) = 0) : exec (.recoveryGo 0) s =
    .next (bootState { s with dev := s.dev.onPlat (fun p => { p with flashBad := false, image := some p.recovery }) }) := by
  rw [exec_recoveryGo_reset h15, recoveryStart, if_neg (not_not.2 rfl)]
  exact next_eq (if_pos hg)

theorem exec_recoveryGo_bad (hb : imageVerdict s.dev.plat (some s.dev.plat.recovery) ≠ 0) : exec (.recoveryGo 0) s =
    .next { s with dev := s.dev.onPlat (fun p => { p with failing := imageVerdict s.dev.plat (some s.dev.plat.recovery) }) } := by
  rw [exec_recoveryGo_reset h15, recoveryStart, if_neg (not_not.2 rfl)]
  exact next_eq (if_neg hb)

end

theorem exec_bootReady {s : State} (h : s.dev.plat.status = 5) (hc : 2048 ≤ (s.dev.cores.filter (fun c => c.2.running)).length) :
    exec .bootReady s = .next { s with dev := s.dev.onPlat (fun p =>
      { p with status := 6, minVersion := max p.minVersion (Config.imageVersion p.image) }) } := by
  have hready : (s.dev.plat.status = 5 && decide (2048 ≤ (s.dev.cores.filter (fun c => c.2.running)).length)) = true := by simp [h, hc]
  exact if_pos hready

/-! ### Reports (R250) -/

/-- A report and its signature, highest byte first, as they stand from byte 0x040 of the mailbox. -/
def signedReport (p : Plat) (n : Nat) : List Byte :=
  reportBytes p n ++ (bytesOf 96 (Config.attestSign (reportBytes p n)).toNat).reverse

theorem exec_attestationReportReady {s : State} {p : BitVec 2} (h : s.dev.plat.status = 6) (hm : Tab.get 0 s.dev.plat.mailState p.toNat = 1) :
    ∃ t, exec (.attestationReportReady p) s = .next t ∧ Tab.get 0 t.dev.plat.mailState p.toNat = 2 ∧
      (Mem.wf s.dev.plat.mailbox = true → ∀ i < (signedReport s.dev.plat p.toNat).length,
        Mem.read t.dev.plat.mailbox (0x200 * p.toNat + 0x40 + i) = (signedReport s.dev.plat p.toNat).getD i 0) := by
  have hgo : ¬(s.dev.plat.status ≠ 6 || Tab.get 0 s.dev.plat.mailState p.toNat ≠ 1) = true := by
    rw [h, hm]
    decide
  have hexec : exec (.attestationReportReady p) s = .next { s with dev := s.dev.onPlat (fun q =>
      { q with mailbox := Mem.setBytes q.mailbox (0x200 * p.toNat + 0x40) (signedReport q p.toNat)
               mailState := Tab.set q.mailState p.toNat 2 }) } := if_neg hgo
  refine ⟨_, hexec, (Tab.get_set ..).trans (if_pos rfl), fun hwf i hi => ?_⟩
  have hread := Mem.read_setBytes (signedReport s.dev.plat p.toNat) (0x200 * p.toNat + 0x40) hwf hi
  rw [Dev.onPlat_plat]
  generalize signedReport s.dev.plat p.toNat = l at hread ⊢
  exact hread

/-! ### Power and ageing (R237, R239, R248) -/

theorem exec_powerCapRaise (s : State) (above : PowerOver) (up : Bool) :
    let P := s.dev.plat
    let rises := up = true ∨ (above.tenMs = true ∧ P.over10 = false) ∨ (above.oneS = true ∧ P.over1s = false)
    exec (.powerCapRaise above up) s = .next { s with dev := s.dev.onPlat (fun x => { x with
      over10 := above.tenMs, over1s := above.oneS, cap := if rises then (if x.cap = 6 then 6 else x.cap + 1) else x.cap,
      capSince := if rises ∧ x.cap = 5 then s.dev.now else x.capSince }) } := by
  intro P rises
  have hrises : (up || (above.tenMs && !P.over10) || (above.oneS && !P.over1s)) = true ↔ rises := by
    simp [rises, or_assoc]
  refine next_eq (congrArg (fun q => { s with dev := { s.dev with plat := q } }) ?_)
  show (if (up || (above.tenMs && !P.over10) || (above.oneS && !P.over1s)) = true then _ else _) = _
  by_cases h : rises
  · rw [if_pos (hrises.2 h)]
    simp only [h, if_true, true_and]
  · rw [if_neg (mt hrises.1 h)]
    simp only [h, if_false, false_and]

/-- Without power no context runs. -/
theorem issuable_of_pfault {d : Dev} (h : d.plat.pfault = true) (r k : Nat) : issuable d r k = false := by
  simp [issuable, h]

section
variable {s : State} (h6 : s.dev.plat.cap = 6) (ho : s.dev.plat.over10 = true ∨ s.dev.plat.over1s = true)
  (ht : s.dev.plat.capSince + 36000000 ≤ s.dev.now)
include h6 ho ht

theorem exec_powerFault : exec .powerFault s = .next { s with dev := { s.dev.onPlat (fun p => { p with pfault := true }) with
      cores := s.dev.cores.map (fun c => (c.1, unpowered c.2))
      coaches := s.dev.coaches.map (fun c => (c.1, { c.2 with bank := [], step := none })) } } := by
  have hgo : (s.dev.plat.cap = 6 && (s.dev.plat.over10 || s.dev.plat.over1s) && decide (s.dev.plat.capSince + capWait ≤ s.dev.now)) = true := by
    simp [h6, ho, capWait, ht]
  exact if_pos hgo

theorem exec_powerFault_stops : ∃ t, exec .powerFault s = .next t ∧ t.mem = s.mem ∧ t.dev.plat = { s.dev.plat with pfault := true } ∧
    (∀ i, (t.dev.coach i).step = none) ∧ ∀ i k, (t.dev.slot i k).life = .free ∧ issuable t.dev i k = false := by
  refine ⟨_, exec_powerFault h6 ho ht, rfl, rfl, fun i => ?_, fun i k => ⟨?_, issuable_of_pfault rfl i k⟩⟩
  · exact congrArg Coach.step (Tab.get_map_snd (fun c : Coach => { c with bank := [], step := none }) {} s.dev.coaches i)
  · exact congrArg (fun c => (c.slot k).life) (Tab.get_map_snd unpowered {} s.dev.cores i)

end

/-- R239: towards what is needed, at most 15 mV at a time. -/
theorem replan_eq {volt need : Nat} (hn : need ≤ 150) : replan volt need = min need (volt + 15) := by
  show min 150 (if volt < need then volt + min 15 (need - volt) else need) = _
  split <;> omega

theorem byte_of_le {n : Nat} (h : n < 256) : BitVec.ofNat 8 (Nat.min n 255) = BitVec.ofNat 8 n :=
  congrArg _ (Nat.min_eq_left (Nat.le_of_lt_succ h))

section
variable {s : State} {u need : Nat} (hu : u < 256) (next : Nat)
include hu

theorem exec_ageingSample_replans (hn : need ≤ 150) : exec (.ageingSample u need next) s = .next { s with dev := s.dev.onCoach u (fun c =>
    { c with need := BitVec.ofNat 8 need, volt := BitVec.ofNat 8 (min need (c.volt.toNat + 15)) }) } := by
  show execAgeingSample u need next s = _
  unfold execAgeingSample
  dsimp only
  rw [if_neg (Nat.not_le.2 hu), if_pos hn]
  refine next_eq (congrArg (fun f => { s with dev := s.dev.onCoach u f }) (funext fun c => ?_))
  rw [replan_eq hn, byte_of_le (by omega), byte_of_le (by omega)]

theorem exec_ageingSample_final (hn : 150 < need) (hb : need < 256) (h6 : (s.dev.coach u).abin = 6) (hf : (s.dev.coach u).final = false) :
    exec (.ageingSample u need next) s = .next { s with dev := (s.dev.onCoach u (fun c =>
      { c with need := BitVec.ofNat 8 need, volt := 150, final := true })).post 5 u } := by
  show execAgeingSample u need next s = _
  unfold execAgeingSample
  dsimp only
  rw [if_neg (Nat.not_le.2 hu), if_neg (Nat.not_le.2 hn), if_pos h6, hf, byte_of_le hb]
  rfl

theorem exec_ageingSample_moves (hn : 150 < need) (h6 : (s.dev.coach u).abin ≠ 6) (hx : next ≤ 150) :
    exec (.ageingSample u need next) s = .next { s with dev := (s.dev.onCoach u (fun c =>
      { c with need := BitVec.ofNat 8 next, volt := BitVec.ofNat 8 (min next (c.volt.toNat + 15)), exhausted := true, abin := c.abin + 1 })).post 4 u } := by
  show execAgeingSample u need next s = _
  unfold execAgeingSample
  dsimp only
  rw [if_neg (Nat.not_le.2 hu), if_neg (Nat.not_le.2 hn), if_neg h6]
  refine next_eq (congrArg (fun f => { s with dev := (s.dev.onCoach u f).post 4 u }) (funext fun c => ?_))
  rw [replan_eq hx, byte_of_le (by omega), byte_of_le (by omega)]

end

/-! ### The debug port (R241, 24 R432) -/

section
variable {s : State} (hdbg : s.dev.plat.debug = true) {n : Nat} (hn : n < 8)
include hdbg hn

theorem exec_debugHaltDie : exec (.debugHaltDie n) s = .next { s with dev := { s.dev.onDie n (fun h => { h with halted := true }) with
    cores := s.dev.cores.map (fun c => if dieOf c.1 = n then (c.1, haltSections c.2) else c) } } := by
  have hgo : (s.dev.plat.debug && decide (n < 8)) = true := by simp [hdbg, hn]
  exact if_pos hgo

theorem exec_debugResumeDie : exec (.debugResumeDie n) s =
    .next { s with dev := (dieRanks n).foldl judgeQueued (s.dev.onDie n (fun h => { h with halted := false })) } := by
  have hgo : (s.dev.plat.debug && decide (n < 8)) = true := by simp [hdbg, hn]
  refine (if_pos hgo).trans (next_eq ?_)
  rw [dieRanks, List.foldl_map]

end

theorem haltSections_slot (c : Core) (k : Nat) : (haltSections c).slot k = (c.slot k).abort 6 0 :=
  Tab.get_map_snd (fun t : Slot => t.abort 6 0) {} c.slots k

/-- R241: a halted die, whose open sections have aborted with cause 6. -/
theorem exec_debugHaltDie_halts {s : State} (hdbg : s.dev.plat.debug = true) {n : Nat} (hn : n < 8) :
    ∃ t, exec (.debugHaltDie n) s = .next t ∧ t.mem = s.mem ∧ t.dev.plat = s.dev.plat ∧
      (∀ i, t.dev.die i = if i = n then { s.dev.die n with halted := true } else s.dev.die i) ∧
      ∀ r k, t.dev.slot r k = if dieOf r = n then (s.dev.slot r k).abort 6 0 else s.dev.slot r k := by
  refine ⟨_, exec_debugHaltDie hdbg hn, rfl, rfl, fun i => ?_, fun r k => ?_⟩
  · refine (Dev.onDie_die s.dev n (fun h => { h with halted := true }) i).trans ?_
    exact if_congr eq_comm rfl rfl
  · refine (congrArg (Core.slot · k) (Tab.get_map_where (f := haltSections) rfl (fun r => dieOf r = n) s.dev.cores r)).trans ?_
    split
    · exact haltSections_slot _ k
    · rfl

/-- 24 R432: a resumed die, whose cores have judged the calls that came meanwhile. -/
theorem exec_debugResumeDie_judges {s : State} (hdbg : s.dev.plat.debug = true) {n : Nat} (hn : n < 8) :
    ∃ t, exec (.debugResumeDie n) s = .next t ∧ t.mem = s.mem ∧ t.dev.plat = s.dev.plat ∧
      (∀ i, t.dev.die i = if i = n then { s.dev.die n with halted := false } else s.dev.die i) ∧
      (∀ r, dieOf r = n → (t.dev.core r).eng.dq = (s.dev.core r).judged) ∧
      ((∀ r, dieOf r = n → ∀ x ∈ (s.dev.core r).eng.dq, x.unjudged = false) → ∀ r k, t.dev.slot r k = s.dev.slot r k) := by
  have hexec := exec_debugResumeDie hdbg hn
  have hnodup := nodup_dieRanks n
  have hmem (r : Nat) : r ∈ dieRanks n ↔ dieOf r = n := mem_dieRanks
  generalize dieRanks n = ranks at hexec hnodup hmem
  obtain ⟨hplat, hdies⟩ := foldl_judgeQueued_leaves ranks (s.dev.onDie n (fun h => { h with halted := false }))
  refine ⟨_, hexec, rfl, hplat, fun i => ?_, fun r hr => ?_, fun h r k => ?_⟩
  · rw [Dev.die, hdies]
    refine (Dev.onDie_die s.dev n (fun h => { h with halted := false }) i).trans ?_
    exact if_congr eq_comm rfl rfl
  · exact foldl_judgeQueued_dq ranks (s.dev.onDie n (fun h => { h with halted := false })) hnodup ((hmem r).2 hr)
  · exact foldl_judgeQueued_slot ranks (s.dev.onDie n (fun h => { h with halted := false })) (fun r hr => h r ((hmem r).1 hr)) r k

section
variable {s : State} (hdbg : s.dev.plat.debug = true) {r : Nat} (hr : r < 2048) (hup : s.dev.engineUp r = true)
include hdbg hr hup

theorem exec_debugPortWork_gives (pc : PcIx) (hi : serviceIdle (s.dev.slot r 14) = true) : exec (.debugPortWork r (some pc)) s =
    .next { s with dev := s.dev.onSlot r 14 (fun t => { life := .live, owner := t.owner, pc := pc, flow := { nextId := t.flow.nextId } }) } := by
  show execDebugPortWork r (some pc) s = _
  simp [execDebugPortWork, hdbg, hr, hup, hi, devStep]

theorem exec_debugPortWork_ends (hl : (s.dev.slot r 14).life = .live) : exec (.debugPortWork r none) s =
    .next { s with dev := s.dev.onSlot r 14 (fun t => { owner := t.owner, flow := t.flow }) } := by
  show execDebugPortWork r none s = _
  simp [execDebugPortWork, hdbg, hr, hup, hl, devStep]

end

/-- Without the debug enable the port does nothing. -/
theorem exec_debug_off {s : State} (hdbg : s.dev.plat.debug = false) (n r : Nat) : exec (.debugHaltDie n) s = .next s ∧
    exec (.debugResumeDie n) s = .next s ∧ ∀ x, exec (.debugPortWork r x) s = .next s := by
  have hstop : ¬(s.dev.plat.debug && decide (n < 8)) = true := by simp [hdbg]
  have hport : (!s.dev.plat.debug || decide (2048 ≤ r) || !s.dev.engineUp r) = true := by simp [hdbg]
  exact ⟨if_neg hstop, if_neg hstop, fun _ => if_pos hport⟩

theorem Dev.onSlot_slot_other (d : Dev) {r k : Nat} (f : Slot → Slot) {q j : Nat} (h : ¬(q = r ∧ j = k)) :
    (d.onSlot r k f).slot q j = d.slot q j := by
  rw [Dev.onSlot_slot, if_neg (fun e => h ⟨e.1.symm, e.2.symm⟩)]

/-! ### A die that fails (24 R434) -/

theorem failCore_default (n : Nat) : failCore n {} = {} := rfl

theorem exec_dieFailure {s : State} {n : Nat} (hn : n < 10) :
    ∃ t, exec (.dieFailure n) s = .next t ∧ t.mem = s.mem ∧ t.dev.plat.posts = s.dev.plat.posts ++ [(6, n)] ∧
      (dieStatus t.dev).getLsbD n = true ∧ (n < 8 → ∀ r k, dieOf r = n → (t.dev.slot r k).life = .free) ∧
      (n < 8 → ∀ i, i / 32 = n → (t.dev.coach i).step = none) ∧ ∀ r k, dieOf r ≠ n → t.dev.slot r k = s.dev.slot r k := by
  show ∃ t, execDieFailure n s = _ ∧ _
  unfold execDieFailure
  rw [if_neg (Nat.not_le.2 hn)]
  refine ⟨_, rfl, rfl, ?_⟩
  dsimp only
  split
  next h8 =>
    refine ⟨rfl, dieStatus_bit hn (if_pos h8), ?_, ?_, fun _ _ _ => rfl⟩ <;> omega
  next h8 =>
    split
    next h9 =>
      refine ⟨rfl, dieStatus_bit hn ((if_neg h8).trans (if_pos h9)), ?_, ?_, fun _ _ _ => rfl⟩ <;> omega
    next h9 =>
      have hcore (r : Nat) := Tab.get_map_where (failCore_default n) (fun r => dieOf r = n) s.dev.cores r
      have hcoach (i : Nat) := Tab.get_map_where (f := fun c : Coach => { c with step := none }) (dflt := {}) rfl (fun i => i / 32 = n) s.dev.coaches i
      refine ⟨rfl, dieStatus_bit hn ?_, fun _ r k hr => ?_, fun _ i hi => ?_, fun r k hr => ?_⟩
      · rw [if_neg h8, if_neg h9]
        have hdie := (Dev.onDie_die s.dev n (fun h => { h with failed := true }) n).trans (if_pos rfl)
        exact congrArg Die.failed hdie
      · exact congrArg (fun c => (Core.slot c k).life) ((hcore r).trans (if_pos hr))
      · exact congrArg Coach.step ((hcoach i).trans (if_pos hi))
      · exact congrArg (Core.slot · k) ((hcore r).trans (if_neg hr))

/-- Settles O56: each step of boot, power, ageing, debug and failure does what its clause says. -/
theorem bootPowerAndDebug : Obligations.BootPowerAndDebug := by
  unfold Obligations.BootPowerAndDebug
  intro s bad c1 c2 o10 o1 up far p u need next n r pc P plat c rom rises report signed held moved posted
  refine ⟨⟨_, rfl, rfl, rfl, rfl, rfl, rfl, rfl, rfl⟩, exec_reset_rom_read s bad _, exec_reset_rom_check s bad _, exec_reset_rom_measure s bad _,
    exec_reset_rom_start s bad _, exec_reset_rom_done s bad _, fun h15 => ⟨fun hg => ?good, exec_recoveryGo_bad h15, exec_recoveryGo_counts h15⟩,
    ⟨_, rfl, rfl, rfl, rfl, rfl⟩, exec_bootReady, exec_attestationReportReady,
    exec_powerCapRaise s ⟨o10, o1⟩ up, rfl, exec_powerFault_stops, fun hu _ => ⟨exec_ageingSample_replans hu next,
    exec_ageingSample_final hu next, exec_ageingSample_moves hu next⟩, ⟨rfl, rfl, rfl, rfl⟩,
    fun hd hn => ⟨exec_debugHaltDie_halts hd hn, exec_debugResumeDie_judges hd hn⟩, fun hd hr hup => ⟨fun hi => ?gives, fun hl => ?ends⟩,
    fun hd => exec_debug_off hd n r, exec_dieFailure⟩
  case good => exact ⟨_, exec_recoveryGo_good h15 hg, rfl, rfl, rfl, rfl, rfl, rfl, rfl⟩
  case gives =>
    refine ⟨_, exec_debugPortWork_gives hd hr hup pc hi, ?_, ?_, fun q k h => Dev.onSlot_slot_other _ _ h⟩ <;> simp
  case ends =>
    refine ⟨_, exec_debugPortWork_ends hd hr hup hl, ?_, fun q k h => Dev.onSlot_slot_other _ _ h⟩
    simp

end Sys2Proof.Machine
end

section
/-! SUPPORT. A matrix command whose operands meet the rules passes the checks of its issue and enters the queue (16 R349, R350). -/

namespace Sys2Proof.Machine

/-! ### The checks on operand pointers -/

/-- An operand passes checks 1 to 5 over its extent (04 R77, 09 R200): at a peer that check 4 admits, or in bytes of local memory that
check 5 admits. -/
structure MPtr.Admitted (d : Dev) (q : MPtr) : Prop where
  notControl : pspace q.p ≠ 5
  tags : tagsOk d d.me d.rank .matrix 8 q.p = true
  aligned : paddr q.p % 8 = 0
  peer : pspace q.p = 6 → peerCheck d.objs d.me.part (ppeer q.p) = none
  own : pspace q.p = 1 → windowOk d.my d.who d.me (paddr q.p) q.bytes = true
  shared : pspace q.p = 2 → sharedOk (d.core (prank q.p)) (paddr q.p) q.bytes = true

section
variable {d : Dev} {l : List MPtr} (h : ∀ q ∈ l, q.Admitted d)
include h

theorem mChecks13_of_admitted {align : Nat} (ha : align ∣ 8) : mChecks13 d align l = none := by
  induction l with
  | nil => rfl
  | cons q l ih =>
    obtain ⟨hq, hl⟩ := List.forall_mem_cons.1 h
    have halign : paddr q.p % align = 0 := Nat.mod_eq_zero_of_dvd (ha.trans (Nat.dvd_of_mod_eq_zero hq.aligned))
    simp [mChecks13, hq.notControl, hq.tags, halign, ih hl]

theorem mCheck4_of_admitted : mCheck4 d l = none := by
  induction l with
  | nil => rfl
  | cons q l ih =>
    obtain ⟨hq, hl⟩ := List.forall_mem_cons.1 h
    rw [mCheck4, ih hl]
    split
    next h6 => rw [hq.peer h6]
    next => rfl

theorem mCheck5_of_admitted : mCheck5 d l = none := by
  induction l with
  | nil => rfl
  | cons q l ih =>
    obtain ⟨hq, hl⟩ := List.forall_mem_cons.1 h
    rw [mCheck5, ih hl]
    refine if_pos ?_
    split
    next h1 => exact hq.own h1
    next h2 => exact hq.shared h2
    next => rfl

end

/-- A local operand is admitted. -/
theorem MatrixOperand.admitted {s : State} {p : Word} {n : Nat} (h : MatrixOperand s p n) (ext : Nat) :
    (⟨p, n, ext⟩ : MPtr).Admitted s.dev := by
  obtain ⟨htags, halign, ⟨hsp, hwin⟩ | ⟨hsp, hsh⟩⟩ := h
  · exact ⟨by simp [hsp], htags, halign, fun h => by simp [hsp] at h, fun _ => hwin, fun h => by simp [hsp] at h⟩
  · exact ⟨by simp [hsp], htags, halign, fun h => by simp [hsp] at h, fun h => by simp [hsp] at h, fun _ => hsh⟩

/-- A destination in global memory or at an admitted peer is admitted (16 R354). -/
theorem MPtr.admitted_of_far {d : Dev} {q : MPtr} (hsp : pspace q.p = 0 ∨ pspace q.p = 6 ∧ peerCheck d.objs d.me.part (ppeer q.p) = none)
    (htags : tagsOk d d.me d.rank .matrix 8 q.p = true) (halign : paddr q.p % 8 = 0) : q.Admitted d := by
  obtain hsp | ⟨hsp, hpeer⟩ := hsp
  · exact ⟨by simp [hsp], htags, halign, fun h => by simp [hsp] at h, fun h => by simp [hsp] at h, fun h => by simp [hsp] at h⟩
  · exact ⟨by simp [hsp], htags, halign, fun _ => hpeer, fun h => by simp [hsp] at h, fun h => by simp [hsp] at h⟩

/-! ### The conditions of 09 R200 -/

theorem firstSub_eq_none {l : List (Nat × Bool)} : firstSub l = none ↔ ∀ e ∈ l, e.2 = false := by
  induction l with
  | nil => simp [firstSub]
  | cons e l ih =>
    obtain ⟨n, b⟩ := e
    cases b <;> simp [firstSub, ih]

theorem notLocal_of_operand {s : State} {p : Word} {n : Nat} (h : MatrixOperand s p n) : notLocal p = false := by
  obtain ⟨-, -, ⟨hsp, -⟩ | ⟨hsp, -⟩⟩ := h <;> simp [notLocal, hsp]

theorem kBad_eq_false {k hi : Nat} (h : 16 ≤ k ∧ k ≤ hi ∧ k % 16 = 0) : kBad k hi = false := by
  obtain ⟨hlo, hhi, hmod⟩ := h
  simp [kBad, hmod, Nat.not_lt.2 hlo, Nat.not_lt.2 hhi]

theorem rowBad_eq_false {p : Word} {len : Nat} (h : isPsb (pfmtOf p) = true → len % blockLen (plcode p) = 0) : rowBad p len = false := by
  cases hp : isPsb (pfmtOf p) with
  | false => simp [rowBad, hp]
  | true => simp [rowBad, h hp]

theorem offName_eq_false {d : Dev} {acc : Nat} (h : accEn d.my.regs.accmap acc = true) : offName d acc = false := by
  rw [offName, h, Bool.not_true]

theorem coopRefuses_eq_false {d : Dev} (h : coopOf d (unitOf d.rank) = none) : coopRefuses d = false := by
  rw [coopRefuses, h]
  rfl

theorem isHalf_iff {fmt : Nat} : isHalf fmt = true ↔ fmt = 2 ∨ fmt = 3 := by simp [isHalf]

theorem moveFmt_iff {fmt : Nat} : moveFmt fmt = true ↔ fmt = 1 ∨ (fmt = 2 ∨ fmt = 3) ∨ isPsb fmt = true := by
  simp [moveFmt, isHalf, or_assoc]

/-! ### Issue (R350) -/

theorem needTag_of_holds {s : State} {holds : BitVec 3 → Bool} (h : holds s.dev.me.tag = true) (k : State → Out) : needTag s holds k = k s := if_pos h

theorem Dev.onMe_congr {d : Dev} {f g : Slot → Slot} (h : f d.me = g d.me) : d.onMe f = d.onMe g := by
  show ({ d with cores := Tab.set d.cores d.rank ((d.core d.rank).onSlot d.who f) } : Dev) = _
  rw [Core.onSlot, show f ((d.core d.rank).slot d.who) = _ from h]
  rfl

/-- The command that the issuing thread posts. -/
def Dev.command (d : Dev) (op : MOp) (va vb : Word) : MCmd :=
  ⟨d.me.flow.nextId, d.who, op, 0, (ledBy d d.rank).isSome, d.me.pc, BitVec.ofNat 96 (d.my.lmem.readN (d.me.pc.toNat * 12) 12), va, vb⟩

theorem mEnter_eq (d : Dev) (op : MOp) (va vb : Word) : mEnter d op va vb =
    (d.onEng d.rank (fun e => { e with mq := e.mq ++ [d.command op va vb] })).onMe (fun t =>
      { t with pc := t.pc + 1, flow := { t.flow with nextId := d.me.flow.nextId + 1, tl := d.me.flow.tl ++ [(d.me.flow.nextId, 1)] } }) := by
  have hme : (d.onEng d.rank (fun e => { e with mq := e.mq ++ [d.command op va vb] })).me = d.me := Dev.onEng_slot ..
  refine Dev.onMe_congr (d := d.onEng d.rank (fun e => { e with mq := e.mq ++ [d.command op va vb] })) ?_
  rw [hme]
  rfl

theorem queued_mEnter (s : State) (op : MOp) (va vb : Word) : Queued s { s with dev := mEnter s.dev op va vb } op va vb := by
  have hword : (s.dev.command op va vb).word.toNat = s.dev.my.lmem.readN (s.dev.me.pc.toNat * 12) 12 :=
    (BitVec.toNat_ofNat _ _).trans (Nat.mod_eq_of_lt (Mem.readN_lt ..))
  exact ⟨s.dev.command op va vb, ⟨rfl, rfl, rfl, rfl, rfl, rfl, rfl, hword, rfl⟩, congrArg (State.mk s.mem) (mEnter_eq ..)⟩

/-- A command that passes every check enters the queue. -/
theorem mIssue_queues {s : State} {ptrs : Dev → List MPtr} {align : Nat} {subs : Dev → List (Nat × Bool)} {op : MOp} (hq : MayQueue s)
    (ha : align ∣ 8) (hp : ∀ q ∈ ptrs s.dev, q.Admitted s.dev) (hs : ∀ e ∈ subs s.dev, e.2 = false) (va vb : Word) :
    ∃ t, mIssue s ptrs align (fun d => firstSub (subs d)) (fun _ => op) va vb = .next t ∧ Queued s t op va vb := by
  obtain ⟨htag, hacq, hroom⟩ := hq
  have hhold : WaitCond.sendHold.holds s s.dev.rank s.dev.who = true := List.isEmpty_iff.2 hacq
  have hmq : WaitCond.mqRoom.holds s s.dev.rank s.dev.who = true := decide_eq_true hroom
  rw [mIssue, needTag_of_holds htag, parkUnless_pos _ _ _ hhold, parkUnless_pos _ _ _ hmq]
  dsimp only
  rw [mChecks13_of_admitted hp ha, firstSub_eq_none.2 hs, mCheck4_of_admitted hp, mCheck5_of_admitted hp]
  exact ⟨_, rfl, queued_mEnter ..⟩

end Sys2Proof.Machine
end

section
/-! OBLIGATION. Matrix commands enter the queue; `mqry`, `mcoop` and the tag check (09 R184, R190 to R201, 12 R265, 16 R349 to R355). -/

namespace Sys2Proof.Machine

/-! ### The commands -/

section
variable {s : State} (hq : MayQueue s)
include hq

/-- `mm` and `sqd` (R190, R191, R351); `sqd` takes PSB operands alone (R196). -/
theorem mmIssue_queues {a b : XReg} {k : BitVec 16} {mr nc : BitVec 2} {acc : AccReg} {ta tb sq : Bool}
    (ha : MatrixOperand s (s.dev.x a) (if ta then rowsBytes (s.dev.x a) k.toNat (dimOf mr) else rowsBytes (s.dev.x a) (dimOf mr) k.toNat))
    (hb : MatrixOperand s (s.dev.x b) (if tb then rowsBytes (s.dev.x b) (dimOf nc) k.toNat else rowsBytes (s.dev.x b) k.toNat (dimOf nc)))
    (hfmt : isPsb (pfmtOf (s.dev.x a)) = true ∧ isPsb (pfmtOf (s.dev.x b)) = true ∨
      sq = false ∧ isHalf (pfmtOf (s.dev.x a)) = true ∧ isHalf (pfmtOf (s.dev.x b)) = true)
    (hk : 16 ≤ k.toNat ∧ k.toNat ≤ 32768 ∧ k.toNat % 16 = 0)
    (hra : rowBad (s.dev.x a) (if ta then dimOf mr else k.toNat) = false) (hrb : rowBad (s.dev.x b) (if tb then k.toNat else dimOf nc) = false)
    (hacc : offName s.dev acc.toNat = false) (hfree : coopBad s.dev acc.toNat mr nc = false) :
    ∃ t, mmIssue s ta tb sq acc a b k mr nc = .next t ∧
      Queued s t (.mm ta tb sq acc.toNat (s.dev.x a) (s.dev.x b) k.toNat (dimOf mr) (dimOf nc)) (s.dev.x a) (s.dev.x b) := by
  have hsub1 : (!(isPsb (pfmtOf (s.dev.x a)) && isPsb (pfmtOf (s.dev.x b))) &&
      (sq || !(isHalf (pfmtOf (s.dev.x a)) && isHalf (pfmtOf (s.dev.x b))))) = false := by
    obtain ⟨hp, hp'⟩ | ⟨hsq, hh, hh'⟩ := hfmt
    · rw [hp, hp']; rfl
    · rw [hsq, hh, hh']; exact Bool.and_false _
  unfold mmIssue
  refine mIssue_queues hq (Nat.dvd_refl 8) ?_ ?_ _ _
  · simp [ha.admitted, hb.admitted]
  · simp only [List.forall_mem_cons, Bool.or_eq_false_iff]
    exact ⟨hsub1, ⟨notLocal_of_operand ha, notLocal_of_operand hb⟩, kBad_eq_false hk, ⟨hra, hrb⟩, hacc, hfree, nofun⟩

/-- `mmc` (R195, R352). -/
theorem exec_mmc_queues {tgt : MmcTgt} {acc accs : AccReg} {b : XReg} {k : BitVec 16} (hb : MatrixOperand s (s.dev.x b) (rowsBytes (s.dev.x b) k.toNat 128))
    (hfmt : if tgt = .bf16 then isHalf (pfmtOf (s.dev.x b)) = true else isPsb (pfmtOf (s.dev.x b)) = true)
    (hk : 16 ≤ k.toNat ∧ k.toNat ≤ 128 ∧ k.toNat % 16 = 0) (hrow : rowBad (s.dev.x b) 128 = false) (hacc : offName s.dev acc.toNat = false)
    (haccs : offName s.dev accs.toNat = false) (hbank : accBank s.dev.my.regs.accmap acc.toNat ≠ accBank s.dev.my.regs.accmap accs.toNat)
    (halone : coopOf s.dev (unitOf s.dev.rank) = none) (ta : Bool) :
    ∃ t, exec (.mmc tgt ta acc accs b k) s = .next t ∧ Queued s t (.mmc tgt ta acc.toNat accs.toNat (s.dev.x b) k.toNat) 0 (s.dev.x b) := by
  have hsub1 : (if tgt = .bf16 then !isHalf (pfmtOf (s.dev.x b)) else !isPsb (pfmtOf (s.dev.x b))) = false := by
    split at hfmt
    next h => rw [if_pos h, hfmt, Bool.not_true]
    next h => rw [if_neg h, hfmt, Bool.not_true]
  show ∃ t, execMmc tgt ta acc accs b k s = .next t ∧ _
  unfold execMmc
  refine mIssue_queues hq (Nat.dvd_refl 8) ?_ ?_ _ _
  · simp [hb.admitted]
  · simp only [List.forall_mem_cons, Bool.or_eq_false_iff, beq_eq_false_iff_ne]
    exact ⟨hsub1, notLocal_of_operand hb, kBad_eq_false hk, hrow, ⟨hacc, haccs⟩, hbank, coopRefuses_eq_false halone, nofun⟩

/-- `topk` (R197, R353). -/
theorem topkIssue_queues {d b : XReg} {acc : AccReg} {kk : BitVec 7} {nb : BitVec 3} (hd : MatrixOperand s (s.dev.x d) (256 * kk.toNat))
    (hb : b ≠ 0 → MatrixOperand s (s.dev.x b) (512 * kk.toNat)) (hk : 1 ≤ kk.toNat ∧ kk.toNat ≤ 64) (hn : 1 ≤ nb.toNat ∧ nb.toNat ≤ 4)
    (hrun : acc.toNat + nb.toNat ≤ 4) (hacc : ∀ i, acc.toNat ≤ i → i < acc.toNat + nb.toNat → offName s.dev i = false)
    (halone : coopOf s.dev (unitOf s.dev.rank) = none) (max : Bool) :
    ∃ t, topkIssue s max d acc b kk nb = .next t ∧
      Queued s t (.topk max acc.toNat (s.dev.x d) (if b = 0 then none else some (s.dev.x b)) kk.toNat nb.toNat) (s.dev.x d) (s.dev.x b) := by
  have hptr : ∀ q ∈ (if b = 0 then [] else [(⟨s.dev.x b, 128 * 4 * kk.toNat, 6⟩ : MPtr)]) ++ [⟨s.dev.x d, 128 * 2 * kk.toNat, 2⟩],
      q.Admitted s.dev := by
    split
    next => simpa using hd.admitted 2
    next h => simpa using And.intro ((hb h).admitted 6) (hd.admitted 2)
  have hval : b ≠ 0 → notLocal (s.dev.x b) = false ∧ paddr (s.dev.x b) % 8 = 0 := fun h =>
    ⟨notLocal_of_operand (hb h), (hb h).2.1⟩
  have hnames : ∀ i < nb.toNat, offName s.dev (acc.toNat + i) = false := fun i hi => hacc _ (by omega) (by omega)
  unfold topkIssue
  refine mIssue_queues hq (Nat.one_dvd 8) hptr ?_ _ _
  simp only [List.forall_mem_cons, Bool.or_eq_false_iff, Bool.and_eq_false_imp, decide_eq_false_iff_not, bne_iff_ne, bne_eq_false_iff_eq]
  refine ⟨⟨notLocal_of_operand hd, fun h => (hval h).1⟩, ?_, ⟨⟨by omega, hd.2.1⟩, fun h => (hval h).2⟩, coopRefuses_eq_false halone, nofun⟩
  simpa [upto] using fun i hi _ => hnames i hi

section
variable {acc : AccReg} {mr nc : BitVec 2} (hacc : offName s.dev acc.toNat = false) (hfree : coopBad s.dev acc.toNat mr nc = false)
include hacc hfree

/-- `macz` (R354). -/
theorem exec_macz_queues : ∃ t, exec (.macz acc mr nc) s = .next t ∧ Queued s t (.macz acc.toNat (dimOf mr) (dimOf nc)) 0 0 := by
  show ∃ t, execMacz acc mr nc s = .next t ∧ _
  unfold execMacz
  refine mIssue_queues hq (Nat.dvd_refl 8) (by simp) ?_ _ _
  simp only [List.forall_mem_cons]
  exact ⟨hacc, hfree, nofun⟩

/-- `macst` (R198, R354): its destination may lie in global memory or at a peer. -/
theorem exec_macst_queues {d : XReg} {rnd : Rnd} (hd : (⟨s.dev.x d, rowsBytes (s.dev.x d) (dimOf mr) (dimOf nc), 2⟩ : MPtr).Admitted s.dev)
    (hsp : notLocal (s.dev.x d) = false ∨ pspace (s.dev.x d) = 0 ∨ pspace (s.dev.x d) = 6) (hfmt : moveFmt (pfmtOf (s.dev.x d)) = true)
    (hrow : rowBad (s.dev.x d) (dimOf nc) = false) (hrnd : isPsb (pfmtOf (s.dev.x d)) = true → rnd = .rne) :
    ∃ t, exec (.macst rnd d acc mr nc) s = .next t ∧
      Queued s t (.macst rnd (s.dev.x d) acc.toNat (dimOf mr) (dimOf nc)) (s.dev.x d) 0 := by
  have hplace : (notLocal (s.dev.x d) && pspace (s.dev.x d) != 0 && pspace (s.dev.x d) != 6) = false := by
    obtain h | h | h := hsp <;> simp [h]
  have hround : (isPsb (pfmtOf (s.dev.x d)) && rnd != .rne) = false := by
    cases h : isPsb (pfmtOf (s.dev.x d)) with
    | false => rfl
    | true => rw [hrnd h]; rfl
  show ∃ t, execMacst rnd d acc mr nc s = .next t ∧ _
  unfold execMacst
  refine mIssue_queues hq (Nat.dvd_refl 8) (by simpa using hd) ?_ _ _
  simp only [List.forall_mem_cons]
  exact ⟨by rw [hfmt, Bool.not_true], hplace, hrow, hacc, hfree, hround, nofun⟩

/-- `macld` (R198, R354). -/
theorem exec_macld_queues {a : XReg} (ha : MatrixOperand s (s.dev.x a) (rowsBytes (s.dev.x a) (dimOf mr) (dimOf nc)))
    (hfmt : moveFmt (pfmtOf (s.dev.x a)) = true) (hrow : rowBad (s.dev.x a) (dimOf nc) = false) :
    ∃ t, exec (.macld acc a mr nc) s = .next t ∧ Queued s t (.macld acc.toNat (s.dev.x a) (dimOf mr) (dimOf nc)) (s.dev.x a) 0 := by
  show ∃ t, execMacld acc a mr nc s = .next t ∧ _
  unfold execMacld
  refine mIssue_queues hq (Nat.dvd_refl 8) (by simpa using ha.admitted 1) ?_ _ _
  simp only [List.forall_mem_cons]
  exact ⟨by rw [hfmt, Bool.not_true], notLocal_of_operand ha, hrow, hacc, hfree, nofun⟩

end

end

/-! ### Queries and groups (R199 to R201, R355) -/

theorem mqryWord_eq (d : Dev) (r : Nat) : mqryWord d r = BitVec.ofNat 64 ((d.coach (unitOf r)).steps % 2 ^ 32 * 2 ^ 32 +
    (match (d.coach (unitOf r)).group with | some (g, q) => q * 2 ^ 24 + g * 2 ^ 21 + 2 ^ 20 | none => 0) +
    (d.core r).regs.accmap.toNat * 2 ^ 8 + (if (d.core r).regs.mqw = 0 then 1 else (d.core r).regs.mqw.toNat) * 2 ^ 4 + (d.core r).eng.mq.length) := by
  unfold mqryWord
  dsimp only
  cases (d.coach (unitOf r)).group with
  | none => simp [w64, fld, b2n]
  | some e => simp [w64, fld, b2n, Nat.add_assoc]

theorem exec_mqry {s : State} (h : holdsM s.dev.me.tag = true) (d : XReg) : exec (.mqry d) s = writesX s d (mqryWord s.dev s.dev.rank) := by
  show execMqry d s = _
  rw [execMqry, needTag_of_holds h]
  exact congrArg (fun d => Host.Outcome.next (State.mk s.mem d)) (Dev.onMe_congr (by rw [Slot.advance, Slot.setX_pc]))

section
variable {s : State} (htag : holdsM s.dev.me.tag = true) (hm : MaySend s false false none) {a : XReg} (d : XReg)
include htag hm

theorem exec_mcoop_reserved (hz : bits (s.dev.x a) 63 6 ≠ 0) : exec (.mcoop d a) s = fault s 0x03 0 2 := by
  have hbad : (!zeroBits (s.dev.x a) 63 6) = true := by simpa [zeroBits] using hz
  show execMcoop d a s = _
  unfold execMcoop
  dsimp only
  rw [needTag_of_holds htag, sendStalls_go _ _ _ _ hm, if_pos hbad]

variable (hz : bits (s.dev.x a) 63 6 = 0)
include hz

theorem exec_mcoop_other_unit (hu : unitOf s.dev.rank % 32 ≠ 4 * bits (s.dev.x a) 2 0 + bits (s.dev.x a) 4 3) :
    exec (.mcoop d a) s = fault s 0x51 0 9 := by
  have hok : ¬(!zeroBits (s.dev.x a) 63 6) = true := by simp [zeroBits, hz]
  show execMcoop d a s = _
  unfold execMcoop
  dsimp only
  rw [needTag_of_holds htag, sendStalls_go _ _ _ _ hm, if_neg hok, if_pos hu]

/-- A join does not wait for a quadrant that another core holds, nor a leave for a group of which the core is no member (R201). -/
theorem exec_mcoop_asks (hu : unitOf s.dev.rank % 32 = 4 * bits (s.dev.x a) 2 0 + bits (s.dev.x a) 4 3)
    (hjoin : (s.dev.x a).getLsbD 5 = true → heldByOther s.dev s.dev.rank (bits (s.dev.x a) 2 0) (bits (s.dev.x a) 4 3) = true ∨
      WaitCond.coachIdle.holds s s.dev.rank s.dev.who = true)
    (hleave : (s.dev.x a).getLsbD 5 = false → isMember s.dev s.dev.rank (bits (s.dev.x a) 2 0) (bits (s.dev.x a) 4 3) = true →
      WaitCond.groupIdle.holds s s.dev.rank s.dev.who = true) :
    ∃ t, exec (.mcoop d a) s = .next t ∧ Sends s t .ld (.mcoop (s.dev.x a)) (.x d) (.loc s.dev.rank 0) false false := by
  have hok : ¬(!zeroBits (s.dev.x a) 63 6) = true := by simp [zeroBits, hz]
  show ∃ t, execMcoop d a s = .next t ∧ _
  unfold execMcoop
  dsimp only
  rw [needTag_of_holds htag, sendStalls_go _ _ _ _ hm, if_neg hok, if_neg (not_not.2 hu)]
  cases h5 : (s.dev.x a).getLsbD 5 with
  | true =>
    rw [if_pos rfl]
    split
    next => exact sendNow_sends ..
    next hother => rw [parkUnless_pos _ _ _ ((hjoin h5).resolve_left hother)]; exact sendNow_sends ..
  | false =>
    rw [if_neg Bool.false_ne_true]
    split
    next hmember => rw [parkUnless_pos _ _ _ (hleave h5 hmember)]; exact sendNow_sends ..
    next => exact sendNow_sends ..

end

/-- Settles O47: each command by its conditions of 09 R200, `mqry` and `mcoop`, and check 6 for all of them. -/
theorem matrixCommandsAndQueries : Obligations.MatrixCommandsAndQueries := by
  unfold Obligations.MatrixCommandsAndQueries
  refine ⟨?_, ?_⟩
  · intro s ta tb acc accs d a b k mr nc tgt kk nb rnd p q o m n half psb whole depth named free alone queues hq
    refine ⟨fun ha hb hfmt hk hra hrb hacc hfree => ?mm, fun ha hb hpa hpb hk hra hrb hacc hfree => ?sqd,
      fun hb hfmt hk hrow hacc haccs hbank halone => ?mmc, fun hd hb hk1 hk64 hn1 hn4 hrun hacc halone => ?topk,
      fun hacc hfree => exec_macz_queues hq (offName_eq_false hacc) hfree, fun hd hfmt hrow hacc hfree hrnd => ?macst,
      fun ha hfmt hrow hacc hfree => exec_macld_queues hq (offName_eq_false hacc) hfree ha (moveFmt_iff.2 hfmt) (rowBad_eq_false hrow)⟩
    case mm =>
      exact mmIssue_queues hq ha hb (hfmt.imp_right fun ⟨hp, hq⟩ => ⟨rfl, isHalf_iff.2 hp, isHalf_iff.2 hq⟩) hk (rowBad_eq_false hra)
        (rowBad_eq_false hrb) (offName_eq_false hacc) hfree
    case sqd =>
      exact mmIssue_queues (ta := false) hq ha hb (.inl ⟨hpa, hpb⟩) hk (rowBad_eq_false hra) (rowBad_eq_false hrb) (offName_eq_false hacc) hfree
    case mmc =>
      refine exec_mmc_queues hq hb ?_ hk (rowBad_eq_false hrow) (offName_eq_false hacc) (offName_eq_false haccs) hbank halone ta
      split at hfmt
      next h => rw [if_pos h]; exact isHalf_iff.2 hfmt
      next h => rw [if_neg h]; exact hfmt
    case topk =>
      have hissue := topkIssue_queues hq hd hb ⟨hk1, hk64⟩ ⟨hn1, hn4⟩ hrun (fun i hlo hhi => offName_eq_false (hacc i hlo hhi)) halone
      exact ⟨hissue true, hissue false⟩
    case macst =>
      have hadm : (⟨o, rowsBytes o m n, 2⟩ : MPtr).Admitted s.dev := by
        obtain hd | ⟨hsp, htags, halign⟩ := hd
        · exact hd.admitted 2
        · exact MPtr.admitted_of_far hsp htags halign
      exact exec_macst_queues hq (offName_eq_false hacc) hfree hadm (hd.imp notLocal_of_operand fun ⟨hsp, _⟩ => hsp.imp_right And.left)
        (moveFmt_iff.2 hfmt) (rowBad_eq_false hrow) hrnd
  · intro s d a b ta tb acc accs k mr nc tgt kk nb rnd v h c ill
    refine ⟨fun htag => ⟨?_, fun hz hm => exec_mcoop_reserved htag hm d hz, fun hz hm hu => exec_mcoop_other_unit htag hm d hz hu,
      fun hz hu hm hjoin hleave => exec_mcoop_asks htag hm d hz hu hjoin hleave⟩, fun htag => ?_⟩
    · rw [exec_mqry htag, mqryWord_eq]
      rfl
    · have hno : ¬holdsM s.dev.me.tag = true := by simp [htag]
      exact ⟨if_neg hno, if_neg hno, if_neg hno, if_neg hno, if_neg hno, if_neg hno, if_neg hno, if_neg hno, if_neg hno, if_neg hno⟩

end Sys2Proof.Machine
end

section
/-! SUPPORT. Tables updated at several keys in turn, and what rounds of updates do to engines and coaches. -/

namespace Sys2Proof.Machine

/-! ### Tables updated at distinct keys -/

section
variable {α β : Type} (dflt : α) (key : β → Nat) (f : β → α → α)

/-- Updates at other keys leave a key's value. -/
theorem Tab.get_foldl_update_of_not_mem (l : List β) (t : Tab α) (k : Nat) (h : ∀ e ∈ l, key e ≠ k) :
    Tab.get dflt (l.foldl (fun t e => Tab.set t (key e) (f e (Tab.get dflt t (key e)))) t) k = Tab.get dflt t k := by
  induction l generalizing t with
  | nil => rfl
  | cons x l ih =>
    obtain ⟨hx, hl⟩ := List.forall_mem_cons.1 h
    rw [List.foldl_cons, ih _ hl, Tab.get_set, if_neg hx]

/-- An update at each of several distinct keys is made once. -/
theorem Tab.get_foldl_update_of_mem {l : List β} (t : Tab α) (hn : (l.map key).Nodup) {e : β} (he : e ∈ l) :
    Tab.get dflt (l.foldl (fun t e => Tab.set t (key e) (f e (Tab.get dflt t (key e)))) t) (key e) = f e (Tab.get dflt t (key e)) := by
  induction l generalizing t with
  | nil => cases he
  | cons x l ih =>
    obtain ⟨hx, hl⟩ := List.nodup_cons.1 hn
    rw [List.foldl_cons]
    obtain rfl | he := List.mem_cons.1 he
    · rw [Tab.get_foldl_update_of_not_mem _ _ _ _ _ _ (fun y hy h => hx (List.mem_map.2 ⟨y, hy, h⟩)), Tab.get_set, if_pos rfl]
    · have hne : key x ≠ key e := fun h => hx (List.mem_map.2 ⟨e, he, h.symm⟩)
      rw [ih _ hl he, Tab.get_set, if_neg hne]

end

/-! ### A bank's elements (09 R193) -/

/-- The number of an element in its coach's banks. -/
def bankKey (bank : Nat) (e : Nat × Nat) : Nat := bank * 16384 + e.1 * 128 + e.2

/-- Rows and columns of a bank. -/
def bankCells : List (Nat × Nat) := upto 128 ×ˢ upto 128

theorem onBank_eq (h : Coach) (bank : Nat) (f : Nat → Nat → BitVec 32 → BitVec 32) :
    onBank h bank (upto 128) f = { h with
      bank := bankCells.foldl (fun t e => Tab.set t (bankKey bank e) (f e.1 e.2 (Tab.get 0 t (bankKey bank e)))) h.bank } := by
  have hcell (t : Tab (BitVec 32)) (l : List (Nat × Nat)) : l.foldl (fun h e =>
      { h with bank := Tab.set h.bank (bankKey bank e) (f e.1 e.2 (Tab.get 0 h.bank (bankKey bank e))) }) ({ h with bank := t } : Coach) =
      { h with bank := l.foldl (fun t e => Tab.set t (bankKey bank e) (f e.1 e.2 (Tab.get 0 t (bankKey bank e)))) t } := by
    induction l generalizing t with
    | nil => rfl
    | cons e l ih => exact ih _
  refine Eq.trans ?_ (hcell h.bank bankCells)
  show _ = ((upto 128).flatMap fun i => (upto 128).map (Prod.mk i)).foldl _ _
  rw [List.foldl_flatMap]
  simp only [List.foldl_map]
  rfl

theorem bankCells_nodup (bank : Nat) : (bankCells.map (bankKey bank)).Nodup := by
  refine List.Nodup.map_on (fun x hx y hy h => ?_) (List.nodup_range.product List.nodup_range)
  obtain ⟨hx1, hx2⟩ := List.mem_product.1 hx
  obtain ⟨hy1, hy2⟩ := List.mem_product.1 hy
  have := List.mem_range.1 hx2
  have := List.mem_range.1 hy2
  unfold bankKey at h
  exact Prod.ext (by omega) (by omega)

/-- Every element of the bank takes its new value, and no other element of the coach changes. -/
theorem onBank_bank (h : Coach) (bank : Nat) (f : Nat → Nat → BitVec 32 → BitVec 32) (j : Nat) :
    Tab.get 0 (onBank h bank (upto 128) f).bank j = if bank * 16384 ≤ j ∧ j < bank * 16384 + 16384 then
      f ((j - bank * 16384) / 128) ((j - bank * 16384) % 128) (Tab.get 0 h.bank j) else Tab.get 0 h.bank j := by
  rw [onBank_eq]
  dsimp only
  by_cases hj : bank * 16384 ≤ j ∧ j < bank * 16384 + 16384
  · obtain ⟨hlo, hhi⟩ := hj
    have hmem : ((j - bank * 16384) / 128, (j - bank * 16384) % 128) ∈ bankCells :=
      List.mem_product.2 ⟨List.mem_range.2 (by omega), List.mem_range.2 (by omega)⟩
    have hkey : bankKey bank ((j - bank * 16384) / 128, (j - bank * 16384) % 128) = j := by unfold bankKey; omega
    have hget := Tab.get_foldl_update_of_mem 0 (bankKey bank) (fun e => f e.1 e.2) h.bank (bankCells_nodup bank) hmem
    rw [hkey] at hget
    rw [if_pos ⟨hlo, hhi⟩]
    exact hget
  · rw [if_neg hj]
    refine Tab.get_foldl_update_of_not_mem 0 (bankKey bank) (fun e => f e.1 e.2) _ _ j fun e he hkey => hj ?_
    obtain ⟨h1, h2⟩ := List.mem_product.1 he
    have := List.mem_range.1 h1
    have := List.mem_range.1 h2
    unfold bankKey at hkey
    omega

/-! ### Updates that agree where they apply -/

theorem Dev.onCore_congr {d : Dev} {r : Nat} {f g : Core → Core} (h : f (d.core r) = g (d.core r)) : d.onCore r f = d.onCore r g := by
  rw [Dev.onCore, h]
  rfl

theorem Dev.onEng_congr {d : Dev} {r : Nat} {f g : CoreEng → CoreEng} (h : f (d.core r).eng = g (d.core r).eng) : d.onEng r f = d.onEng r g :=
  Dev.onCore_congr (congrArg (fun e => { d.core r with eng := e }) h)

theorem Dev.onSlot_congr {d : Dev} {r k : Nat} {f g : Slot → Slot} (h : f (d.slot r k) = g (d.slot r k)) : d.onSlot r k f = d.onSlot r k g :=
  Dev.onCore_congr (congrArg (fun t => { d.core r with slots := Tab.set (d.core r).slots k t }) h)

/-! ### Rounds of updates -/

@[simp] theorem Dev.onCoach_core (d : Dev) (u : Nat) (f : Coach → Coach) (r : Nat) : (d.onCoach u f).core r = d.core r := rfl

/-- Coaches changed in turn: a coach named several times changes as one named once. -/
theorem Dev.foldl_onCoach_coach {f : Coach → Coach} (hf : ∀ h, f (f h) = f h) (l : List Nat) (d : Dev) (u : Nat) :
    (l.foldl (fun d v => d.onCoach v f) d).coach u = if u ∈ l then f (d.coach u) else d.coach u := by
  induction l generalizing d with
  | nil => rfl
  | cons v l ih =>
    rw [List.foldl_cons, ih, Dev.onCoach_coach]
    by_cases hv : v = u
    · subst hv
      simp [hf]
    · simp [hv, Ne.symm hv]

theorem Dev.foldl_onCoach_cores (f : Coach → Coach) (l : List Nat) (d : Dev) : (l.foldl (fun d v => d.onCoach v f) d).cores = d.cores := by
  induction l generalizing d with
  | nil => rfl
  | cons v l ih => exact ih (d.onCoach v f)

theorem Dev.foldl_onCoach_now (f : Coach → Coach) (l : List Nat) (d : Dev) : (l.foldl (fun d v => d.onCoach v f) d).now = d.now := by
  induction l generalizing d with
  | nil => rfl
  | cons v l ih => exact ih (d.onCoach v f)

/-- The device in which each core of `rs` has the credit that `g` gives it (09 R189). -/
def Dev.withCredits (d : Dev) (rs : List Nat) (g : Nat → Int) : Dev := rs.foldl (fun d r => d.onEng r (fun e => { e with mcredit := g r })) d

theorem Dev.withCredits_core (d : Dev) (rs : List Nat) (g : Nat → Int) (q : Nat) : (d.withCredits rs g).core q =
    if q ∈ rs then { d.core q with eng := { (d.core q).eng with mcredit := g q } } else d.core q := by
  induction rs generalizing d with
  | nil => rfl
  | cons r rs ih =>
    refine (ih (d.onEng r (fun e => { e with mcredit := g r }))).trans ?_
    rw [Dev.onEng_core]
    by_cases hr : r = q
    · subst hr
      simp
    · simp [hr, Ne.symm hr]

theorem Dev.withCredits_objs (d : Dev) (rs : List Nat) (g : Nat → Int) : (d.withCredits rs g).objs = d.objs := by
  induction rs generalizing d with
  | nil => rfl
  | cons r rs ih => exact ih (d.onEng r _)

end Sys2Proof.Machine
end

section
/-! SUPPORT. Operands are fetched, and the unit starts the one queue that contends (09 R187 to R189, 06 R116). -/

namespace Sys2Proof.Machine

/-! ### The operand fetch (R188) -/

theorem foldl_eq_self {α β : Type} {f : α → β → α} {a : α} {l : List β} (h : ∀ b ∈ l, f a b = a) : l.foldl f a = a := by
  induction l with
  | nil => rfl
  | cons b l ih =>
    obtain ⟨hb, hl⟩ := List.forall_mem_cons.1 h
    rw [List.foldl_cons, hb, ih hl]

/-- A local extent whose words are right leaves no record. -/
theorem noteRead_loc_of_good {s : State} {r o n : Nat} (h : extentPoison (s.dev.core r) o n = false) : noteRead s (.loc r o) n = s :=
  foldl_eq_self fun w hw => by
    have hgood : Tab.get false (s.dev.core r).lpoison w = false := by simpa using List.any_eq_false.1 h w hw
    rw [noteWord, hgood, if_neg Bool.false_ne_true]

theorem noteFeed_of_good {s : State} {r : Nat} {m : MCmd} {st : Nat}
    (h : ∀ x ∈ stepReads s.dev r m st, slabPoison (s.dev.core x.1) x.2.2 = false) : noteFeed s r m st = s :=
  foldl_eq_self fun x hx => foldl_eq_self fun e he => noteRead_loc_of_good (by simpa using List.any_eq_false.1 (h x hx) e he)

section
variable {s : State} {m : MCmd} {st : Nat}

theorem exec_matrixOperandFetch {u c : Nat} (hup : s.dev.engineUp (u * 8 + c % 8) = true) (hb : bufsUsed s.dev (u * 8 + c % 8) < 2)
    (hn : nextFetch s.dev (u * 8 + c % 8) (s.dev.core (u * 8 + c % 8)).eng.mbuf (s.dev.core (u * 8 + c % 8)).eng.mq = some (m, st))
    (hoc : (s.dev.slot (u * 8 + c % 8) m.slot).flow.ocClear m.id = true) (hr : rushed (s.dev.slot (u * 8 + c % 8) m.slot) = false)
    (hgood : ∀ x ∈ stepReads s.dev (u * 8 + c % 8) m st, slabPoison (s.dev.core x.1) x.2.2 = false) (slip : Bool) :
    exec (.matrixOperandFetch u c slip) s = .next { s with dev := s.dev.onEng (u * 8 + c % 8) (fun e => { e with
      mbuf := e.mbuf ++ [if slip then slipped m (fetchStep s (u * 8 + c % 8) m st) else fetchStep s (u * 8 + c % 8) m st], mfeed := [] }) } := by
  show execMatrixOperandFetch u c slip s = _
  unfold execMatrixOperandFetch
  dsimp only
  rw [if_neg (by simp [hup, hb]), hn]
  dsimp only
  rw [if_neg (by simp [hoc, hr]), noteFeed_of_good hgood]

theorem slipped_of_psb {b : MBuf} {h : Word} (hp : psbOperand m.op = some h) :
    slipped m b = { b with bad := some (0x50, BitVec.ofNat 32 (1 * 2 ^ 8), h) } := by
  rw [slipped, hp]
  rfl

/-- 06 R116: an engine step reads one word of an operand before the fetch. -/
theorem exec_engineStep_feed {r q w : Nat} (hup : s.dev.engineUp r = true) (hb : bufsUsed s.dev r < 2)
    (hn : nextFetch s.dev r (s.dev.core r).eng.mbuf (s.dev.core r).eng.mq = some (m, st)) (hoc : (s.dev.slot r m.slot).flow.ocClear m.id = true)
    (hr : rushed (s.dev.slot r m.slot) = false) (hreads : ∃ x ∈ stepReads s.dev r m st, x.1 = q ∧ ∃ y ∈ x.2.2, w ∈ touched y.1 y.2)
    (hnew : ∀ f ∈ (s.dev.core r).eng.mfeed, ¬(f.1 = q ∧ f.2.1 = w)) :
    exec (.engineStep r (.feed q w)) s = .next { s with dev := s.dev.onEng r (fun e => { e with
      mfeed := e.mfeed ++ [(q, w, (s.dev.core q).lmem.word (8 * w), Tab.get false (s.dev.core q).lpoison w)] }) } := by
  have hread : (!(stepReads s.dev r m st).any (fun x => x.1 == q && x.2.2.any (fun y => (touched y.1 y.2).contains w))) = false := by
    simpa using hreads
  have hold : (s.dev.core r).eng.mfeed.any (fun f => f.1 == q && f.2.1 == w) = false := by simpa using hnew
  show execEngineStep r (.feed q w) s = _
  unfold execEngineStep
  rw [if_neg (by simp [hup])]
  dsimp only
  unfold stepFeed
  dsimp only
  rw [if_neg (Nat.not_le.2 hb), hn]
  dsimp only
  rw [hread, hold, hoc, hr, if_neg (by decide)]

end

/-! ### The arbiter with one contender (R189, 03 R57) -/

theorem ledBy_of_objs {d d' : Dev} (h : d'.objs = d.objs) (r : Nat) : ledBy d' r = ledBy d r := by
  unfold ledBy coopOf
  rw [h]

theorem MCmd.steps_of_objs {d d' : Dev} (h : d'.objs = d.objs) (m : MCmd) (r : Nat) : m.steps d' r = m.steps d r := by
  rw [MCmd.steps, MCmd.steps, MCmd.grouped, MCmd.grouped, ledBy_of_objs h]

/-- A step's tiles follow the groups and the core's bank map. -/
theorem stepTiles_of_objs {d d' : Dev} {r : Nat} (h : d'.objs = d.objs) (hr : (d'.core r).regs = (d.core r).regs) (m : MCmd) :
    stepTiles d' r m = stepTiles d r m := by
  unfold stepTiles
  rw [ledBy_of_objs h, hr]

/-- A command posted to no group, or to one that stands no more, runs on its core's unit. -/
theorem stepUnits_alone {d : Dev} {r : Nat} {m : MCmd} (h : m.grp = true → ledBy d r = none) : stepUnits d r m = [unitOf r] := by
  have hnone : (if m.grp then ledBy d r else none) = none := by
    split
    next hg => exact h hg
    next => rfl
  rw [stepUnits, hnone]

/-- A queue's credit in what a round lists of its contenders: 0 where the queue did not contend. -/
def creditIn (l : List (Nat × Int)) (q : Nat) : Int := ((l.find? (fun p => p.1 == q)).map (·.2)).getD 0

theorem creditIn_of_not_mem {l : List (Nat × Int)} {q : Nat} (h : ∀ e ∈ l, e.1 ≠ q) : creditIn l q = 0 := by
  have hnone : l.find? (fun p => p.1 == q) = none := List.find?_eq_none.2 fun e he => by simpa using h e he
  rw [creditIn, hnone]
  rfl

theorem swrr_single (r : Nat) (c w : Int) : (swrr [(r, c, w)]).1 = some r ∧ ∀ e ∈ (swrr [(r, c, w)]).2, e.1 = r := by
  simp [swrr]

/-- The numbers of the cores of a coach that contend, where one does. -/
theorem filter_contends {d : Dev} {u r : Nat} (hu : r / 8 = u) (hc : ∀ j < 8, contends d (u * 8 + j) = (u * 8 + j == r)) :
    ((upto 8).map (fun j => u * 8 + j)).filter (contends d) = [r] := by
  have hmem : r ∈ (upto 8).map (fun j => u * 8 + j) := List.mem_map.2 ⟨r % 8, List.mem_range.2 (Nat.mod_lt r (by decide)), by omega⟩
  have hnodup : ((upto 8).map (fun j => u * 8 + j)).Nodup := List.nodup_range.map fun _ _ h => Nat.add_left_cancel h
  have honly : ∀ q ∈ (upto 8).map (fun j => u * 8 + j), contends d q = (q == r) := by
    intro q hq
    obtain ⟨j, hj, rfl⟩ := List.mem_map.1 hq
    exact hc j (List.mem_range.1 hj)
  rw [List.filter_congr honly, List.filter_beq, List.count_eq_one_of_mem hnodup hmem]
  rfl

section
variable {s : State} {u r : Nat} {m : MCmd} {rest : List MCmd} (hu : r / 8 = u) (hup : s.dev.engineUp (u * 8) = true)
  (hidle : (s.dev.coach u).step = none) (hc : ∀ j < 8, contends s.dev (u * 8 + j) = (u * 8 + j == r)) (hq : (s.dev.core r).eng.mq = m :: rest)
  (hg : m.grp = true → ledBy s.dev r = none)
include hu hup hidle hc hq hg

/-- R189: the one queue that contends has its next step started, and every other queue's credit is 0. -/
theorem exec_matrixStepBoundary
    (hgood : ∀ z, (s.dev.core r).eng.mbuf.find? (fun b => b.cmd == m.id && b.step == m.next) = some z → z.bad = none) :
    ∃ g : Nat → Int, (∀ q, q ≠ r → g q = 0) ∧ exec (.matrixStepBoundary u) s =
      .next { s with dev := startStep (s.dev.withCredits ((upto 8).map (fun j => u * 8 + j)) g) r m } := by
  obtain ⟨hwin, hlist⟩ := swrr_single r (s.dev.core r).eng.mcredit (mqWeight (s.dev.core r))
  have hbad : ((s.dev.core r).eng.mbuf.find? (fun b => b.cmd == m.id && b.step == m.next)).bind (·.bad) = none := by
    cases h : (s.dev.core r).eng.mbuf.find? (fun b => b.cmd == m.id && b.step == m.next) with
    | none => rfl
    | some z => exact hgood z h
  have hfree : ((stepUnits s.dev r m).any fun v => (s.dev.coach v).step.isSome) = false := by
    simp [stepUnits_alone hg, unitOf, hu, hidle]
  refine ⟨creditIn (swrr [(r, (s.dev.core r).eng.mcredit, mqWeight (s.dev.core r))]).2,
    fun q hqr => creditIn_of_not_mem fun e he => (hlist e he).trans_ne (Ne.symm hqr), ?_⟩
  show execMatrixStepBoundary u s = _
  unfold execMatrixStepBoundary
  dsimp only
  rw [if_neg (by simp [hup, hidle]), filter_contends hu hc]
  dsimp only
  rw [List.map_singleton, hwin]
  dsimp only
  rw [hq]
  dsimp only
  rw [hfree, if_neg Bool.false_ne_true, hbad]
  rfl

end

end Sys2Proof.Machine
end

section
/-! OBLIGATION. Matrix steps start, are applied and leave `tl`, and engine words are placed and filled (09 R185 to R189, 16 R351, R354, 06
R116, R132). -/

namespace Sys2Proof.Machine

/-! ### A step starts (R187) -/

/-- A step that its core's unit runs alone, and that is not its command's last. -/
theorem startStep_alone {d : Dev} {r : Nat} {m : MCmd} {rest : List MCmd} (hg : m.grp = true → ledBy d r = none)
    (hq : (d.core r).eng.mq = m :: rest) (hn : m.next + 1 < m.steps d r) : ∃ buf range, startStep d r m = (d.onEng r (fun e => { e with
        mbuf := e.mbuf.filter (fun b => !(b.cmd == m.id && b.step == m.next)), mq := { m with next := m.next + 1 } :: rest })).onCoach (unitOf r)
      (fun h => { h with step := some ⟨r, m, m.next, buf, false, stepTiles d r m, range⟩ }) := by
  have hlast : ¬m.next + 1 ≥ m.steps d r := Nat.not_le.2 hn
  have heng : d.onEng r (fun e => { e with
        mbuf := e.mbuf.filter (fun b => !(b.cmd == m.id && b.step == m.next))
        mq := if m.next + 1 ≥ m.steps d r then e.mq.drop 1 else modAt (fun x => { x with next := x.next + 1 }) e.mq 0 }) =
      d.onEng r (fun e => { e with
        mbuf := e.mbuf.filter (fun b => !(b.cmd == m.id && b.step == m.next)), mq := { m with next := m.next + 1 } :: rest }) :=
    Dev.onEng_congr (by rw [if_neg hlast, hq]; rfl)
  unfold startStep
  dsimp only
  rw [stepUnits_alone hg, decide_eq_false hlast, heng]
  exact ⟨_, _, rfl⟩

theorem matrixStepBoundary_starts {s : State} {u r : Nat} {m : MCmd} {rest : List MCmd} (hu : r / 8 = u) (hup : s.dev.engineUp (u * 8) = true)
    (hidle : (s.dev.coach u).step = none) (hc : ∀ j < 8, contends s.dev (u * 8 + j) = (u * 8 + j == r)) (hq : (s.dev.core r).eng.mq = m :: rest)
    (hn : m.next + 1 < m.steps s.dev r) (hg : m.grp = true → ledBy s.dev r = none)
    (hgood : ∀ z, (s.dev.core r).eng.mbuf.find? (fun b => b.cmd == m.id && b.step == m.next) = some z → z.bad = none) :
    ∃ t y, exec (.matrixStepBoundary u) s = .next t ∧ t.mem = s.mem ∧ (t.dev.coach u).step = some y ∧ y.core = r ∧ y.cmd = m ∧
      y.step = m.next ∧ y.last = false ∧ y.tiles = stepTiles s.dev r m ∧
      (∀ j < 8, u * 8 + j ≠ r → (t.dev.core (u * 8 + j)).eng.mcredit = 0) ∧ (t.dev.core r).eng.mq = { m with next := m.next + 1 } :: rest ∧
      (t.dev.core r).eng.mbuf = (s.dev.core r).eng.mbuf.filter (fun b => !(b.cmd == m.id && b.step == m.next)) := by
  obtain ⟨g, hzero, hexec⟩ := exec_matrixStepBoundary hu hup hidle hc hq hg hgood
  have hobjs := s.dev.withCredits_objs ((upto 8).map (fun j => u * 8 + j)) g
  have hcore := s.dev.withCredits_core ((upto 8).map (fun j => u * 8 + j)) g
  generalize s.dev.withCredits ((upto 8).map (fun j => u * 8 + j)) g = d at hexec hobjs hcore
  have hmem {j : Nat} (hj : j < 8) : u * 8 + j ∈ (upto 8).map (fun j => u * 8 + j) := List.mem_map_of_mem (List.mem_range.2 hj)
  have hr : d.core r = { s.dev.core r with eng := { (s.dev.core r).eng with mcredit := g r } } := by
    rw [hcore, if_pos (by simpa only [show u * 8 + r % 8 = r by omega] using hmem (Nat.mod_lt r (by decide)))]
  obtain ⟨buf, range, hstart⟩ := startStep_alone (d := d) (r := r) (rest := rest) (fun h => (ledBy_of_objs hobjs r).trans (hg h))
    (by rw [hr, hq]) (hn.trans_eq (m.steps_of_objs hobjs r).symm)
  rw [stepTiles_of_objs hobjs (by rw [hr])] at hstart
  refine ⟨_, ⟨r, m, m.next, buf, false, stepTiles s.dev r m, range⟩, hexec, rfl, ?_, rfl, rfl, rfl, rfl, rfl, fun j hj hjr => ?_, ?_, ?_⟩
  all_goals dsimp only; rw [hstart]
  · rw [Dev.onCoach_coach, if_pos (show unitOf r = u from hu)]
  · rw [Dev.onCoach_core, Dev.onEng_core, if_neg (Ne.symm hjr), hcore, if_pos (hmem hj)]
    exact hzero _ hjr
  · rw [Dev.onCoach_core, Dev.onEng_eng_self]
  · rw [Dev.onCoach_core, Dev.onEng_eng_self, hr]

/-! ### A step ends and is applied (R187, R351) -/

theorem Dev.thr_of_cores {d d' : Dev} (h : d'.cores = d.cores) (r k : Nat) : d'.thr r k = d.thr r k := by
  unfold Dev.thr Dev.slot Dev.core
  rw [h]

theorem MCmd.stands_of_cores {d d' : Dev} (h : d'.cores = d.cores) (m : MCmd) (r : Nat) : m.stands d' r = m.stands d r := by
  rw [MCmd.stands, MCmd.stands, Dev.thr_of_cores h]

/-- The array no longer runs the step `m`. -/
def Coach.without (m : MStep) (h : Coach) : Coach :=
  { h with step := h.step.filter (fun x => !(x.core == m.core && x.cmd.id == m.cmd.id && x.cmd.slot == m.cmd.slot)) }

theorem Coach.without_without (m : MStep) (h : Coach) : (h.without m).without m = h.without m := by
  simp [Coach.without, Option.filter_filter]

theorem clearStep_eq (d : Dev) (u : Nat) (m : MStep) : clearStep d u m =
    ((upto 4).map (fun q => u / 4 * 4 + q)).foldl (fun d v => d.onCoach v (Coach.without m)) d := by
  rw [List.foldl_map]
  rfl

theorem clearStep_cores (d : Dev) (u : Nat) (m : MStep) : (clearStep d u m).cores = d.cores := by
  rw [clearStep_eq, Dev.foldl_onCoach_cores]

theorem clearStep_now (d : Dev) (u : Nat) (m : MStep) : (clearStep d u m).now = d.now := by
  rw [clearStep_eq, Dev.foldl_onCoach_now]

theorem clearStep_coach {d : Dev} {u : Nat} {m : MStep} (h : (d.coach u).step = some m) :
    (clearStep d u m).coach u = { d.coach u with step := none } := by
  have hmem : u ∈ (upto 4).map (fun q => u / 4 * 4 + q) := List.mem_map.2 ⟨u % 4, List.mem_range.2 (Nat.mod_lt u (by decide)), by omega⟩
  rw [clearStep_eq, Dev.foldl_onCoach_coach (Coach.without_without m), if_pos hmem, Coach.without, h]
  simp

/-- The device once a step has left the arrays: a command whose last step it was leaves `tl` 16 cycles later (R185). -/
def Dev.stepEnded (d : Dev) (m : MStep) : Dev :=
  if m.last && m.cmd.stands d m.core then d.onEng m.core (fun e => { e with mtl := e.mtl ++ [(m.cmd.id, m.cmd.slot, d.now + 16)] }) else d

theorem Dev.stepEnded_coach (d : Dev) (m : MStep) (u : Nat) : (d.stepEnded m).coach u = d.coach u := by
  unfold Dev.stepEnded
  split <;> rfl

theorem Dev.stepEnded_mtl (d : Dev) (m : MStep) : ((d.stepEnded m).core m.core).eng.mtl = if m.last = true ∧ m.cmd.stands d m.core = true then
    (d.core m.core).eng.mtl ++ [(m.cmd.id, m.cmd.slot, d.now + 16)] else (d.core m.core).eng.mtl := by
  simp only [Dev.stepEnded, Bool.and_eq_true]
  split
  · rw [Dev.onEng_eng_self]
  · rfl

/-- In `t` the step `x` of `s` in unit `u` has ended: the array is free, the step counts, and a last one's command leaves `tl` in 16
cycles. -/
def StepEnded (s t : State) (u : Nat) (x : MStep) : Prop :=
  t.mem = s.mem ∧ (t.dev.coach u).step = none ∧ (t.dev.coach u).steps = (s.dev.coach u).steps + 1 ∧
    (t.dev.core x.core).eng.mtl = if x.last = true ∧ x.cmd.stands s.dev x.core = true then
      (s.dev.core x.core).eng.mtl ++ [(x.cmd.id, x.cmd.slot, s.dev.now + 16)] else (s.dev.core x.core).eng.mtl

theorem rowsHeld_of_nil {s : State} {m : MStep} (h : m.cmd.op.storeRows m.range (m.tiles.map (fun t => (t.2.2.1, t.2.2.2))) = []) :
    rowsHeld s m = false := by
  rw [rowsHeld, h]
  rfl

/-- A bank's update changes nothing else of its coach. -/
theorem onBank_only (h : Coach) (bank : Nat) (f : Nat → Nat → BitVec 32 → BitVec 32) :
    onBank h bank (upto 128) f = { h with bank := (onBank h bank (upto 128) f).bank } := by
  rw [onBank_eq]

theorem stepIn_macz (s : State) (u bk : Nat) {x : MStep} {acc mm nn : Nat} (hop : x.cmd.op = .macz acc mm nn) :
    stepIn s x (u, bk, 0, 0) = { s with dev := s.dev.onCoach u (fun h => onBank h bk (upto 128) (fun _ _ _ => 0)) } := by
  unfold stepIn
  rw [hop]

theorem stepIn_mm (s : State) (u bk : Nat) {x : MStep} {acc kk mm nn : Nat} {ta tb sq : Bool} {p q : Word}
    (hop : x.cmd.op = .mm ta tb sq acc p q kk mm nn) : stepIn s x (u, bk, 0, 0) = { s with dev := s.dev.onCoach u (fun h =>
      mulTile h bk (x.buf.getD ⟨0, 0, [], [], none⟩).a (x.buf.getD ⟨0, 0, [], [], none⟩).b 0 0 (min 128 (kk - 128 * x.range)) sq
        (isHalf (pfmtOf p) && isHalf (pfmtOf q))) } := by
  unfold stepIn
  rw [hop]

section
variable {s : State} {u bk : Nat} {x : MStep} (hx : (s.dev.coach u).step = some x) (hup : s.dev.engineUp (u * 8) = true)
  (hu : unitOf x.core = u) (ht : x.tiles = [(u, bk, 0, 0)])
include hx hup hu ht

/-- A step that changes each element of its one tile's bank as `f` does, and nothing else. -/
theorem exec_arrayStepEnd_tile {f : Nat → Nat → BitVec 32 → BitVec 32} (hheld : rowsHeld s x = false)
    (hin : stepIn s x (u, bk, 0, 0) = { s with dev := s.dev.onCoach u (fun h => onBank h bk (upto 128) f) }) (htop : ∀ t, stepTopk t x = t) :
    ∃ t, exec (.arrayStepEnd u) s = .next t ∧ StepEnded s t u x ∧ ∀ j, Tab.get 0 (t.dev.coach u).bank j =
      if bk * 16384 ≤ j ∧ j < bk * 16384 + 16384 then
        f ((j - bk * 16384) / 128) ((j - bk * 16384) % 128) (Tab.get 0 (s.dev.coach u).bank j)
      else Tab.get 0 (s.dev.coach u).bank j := by
  let d := (s.dev.onCoach u (fun h => onBank h bk (upto 128) f)).onCoach u (fun h => { h with steps := h.steps + 1 })
  have hexec : exec (.arrayStepEnd u) s = .next { s with dev := (clearStep d u x).stepEnded x } := by
    show execArrayStepEnd u s = _
    unfold execArrayStepEnd
    rw [hx]
    dsimp only
    rw [if_neg (by simp [hup, hu, hheld]), ht, List.foldl_cons, List.foldl_nil, hin, htop]
    rfl
  have hcoach : d.coach u = { s.dev.coach u with bank := (onBank (s.dev.coach u) bk (upto 128) f).bank, steps := (s.dev.coach u).steps + 1 } := by
    rw [Dev.onCoach_coach, if_pos rfl, Dev.onCoach_coach, if_pos rfl, onBank_only]
  have hclear := clearStep_coach (d := d) (u := u) (m := x) (by rw [hcoach, hx])
  have hcores : (clearStep d u x).cores = s.dev.cores := clearStep_cores d u x
  have hnow : (clearStep d u x).now = s.dev.now := clearStep_now d u x
  refine ⟨_, hexec, ⟨rfl, ?_, ?_, ?_⟩, ?_⟩
  · rw [Dev.stepEnded_coach, hclear]
  · rw [Dev.stepEnded_coach, hclear, hcoach]
  · rw [Dev.stepEnded_mtl, MCmd.stands_of_cores hcores, hnow, Dev.core, hcores]
    rfl
  · rw [Dev.stepEnded_coach, hclear, hcoach]
    dsimp only
    exact onBank_bank (s.dev.coach u) bk f

theorem arrayStepEnd_macz {acc mm nn : Nat} (hop : x.cmd.op = .macz acc mm nn) :
    ∃ t, exec (.arrayStepEnd u) s = .next t ∧ StepEnded s t u x ∧ ∀ j, Tab.get 0 (t.dev.coach u).bank j =
      if bk * 16384 ≤ j ∧ j < bk * 16384 + 16384 then 0 else Tab.get 0 (s.dev.coach u).bank j := by
  exact exec_arrayStepEnd_tile hx hup hu ht (rowsHeld_of_nil (by rw [hop]; rfl)) (stepIn_macz s u bk hop) (fun t => by unfold stepTopk; rw [hop])

/-- The product of a step's slabs, group by group (R351, 05 R109, R110). -/
theorem arrayStepEnd_mm {acc kk mm nn : Nat} {ta tb sq : Bool} {p q : Word} (hop : x.cmd.op = .mm ta tb sq acc p q kk mm nn) :
    ∃ t, exec (.arrayStepEnd u) s = .next t ∧ StepEnded s t u x ∧
      let buf := x.buf.getD ⟨0, 0, [], [], none⟩
      let cnt := min 128 (kk - 128 * x.range)
      let g := if isHalf (pfmtOf p) && isHalf (pfmtOf q) then 4 else 16
      ∀ j, Tab.get 0 (t.dev.coach u).bank j = if bk * 16384 ≤ j ∧ j < bk * 16384 + 16384 then
        foldGroups g (cnt / g) ((upto cnt).map (fun k => term sq (unpack fp32 (nth 0 buf.a ((j - bk * 16384) / 128 * cnt + k)))
          (unpack fp32 (nth 0 buf.b ((j - bk * 16384) % 128 * cnt + k))))) (Tab.get 0 (s.dev.coach u).bank j)
        else Tab.get 0 (s.dev.coach u).bank j := by
  obtain ⟨t, hexec, hend, hbank⟩ := exec_arrayStepEnd_tile hx hup hu ht (rowsHeld_of_nil (by rw [hop]; rfl)) (stepIn_mm s u bk hop)
    (fun t => by unfold stepTopk; rw [hop])
  simp only [Nat.zero_add] at hbank
  exact ⟨t, hexec, hend, hbank⟩

end

/-- 09 R185: a command of a core whose engine has no words left leaves `tl` when its 16 cycles have passed. -/
theorem exec_matrixTlRelease {s : State} {r k : Nat} {e1 : Nat × Nat × Nat} {more : List (Nat × Nat × Nat)} (hr : r < 2048) (hk : k < 16)
    (hl : (s.dev.core r).eng.mtl = e1 :: more) (hslot : e1.2.1 = k) (htime : e1.2.2 ≤ s.dev.now) (hwords : (s.dev.core r).eng.ewords = []) :
    exec (.matrixTlRelease r) s = .next { s with dev := (s.dev.onEng r (fun e => { e with mtl := more })).onSlot r k (fun t =>
      { t with flow := { (s.dev.slot r k).flow with tl := popDone (dec1 e1.1 (s.dev.slot r k).flow.tl) } }) } := by
  have hfind : (s.dev.core r).eng.mtl.find? (fun m => m.2.2 ≤ s.dev.now &&
      !(s.dev.core r).eng.ewords.any (fun w => w.id == m.1 && w.slot == m.2.1 && !w.free)) = some e1 := by
    rw [hl, hwords]
    exact List.find?_cons_of_pos (by simpa using htime)
  have heng : s.dev.onEng r (fun e => { e with mtl := e.mtl.erase e1 }) = s.dev.onEng r (fun e => { e with mtl := more }) :=
    Dev.onEng_congr (by rw [hl, List.erase_cons_head])
  show execMatrixTlRelease r s = _
  unfold execMatrixTlRelease
  dsimp only
  rw [hfind]
  dsimp only
  rw [hslot, Dev.onThrFlow_eq_onSlot _ hr hk, State.frameSync_of_lt hk, heng,
    Dev.onSlot_congr (g := fun t => { t with flow := { (s.dev.slot r k).flow with tl := popDone (dec1 e1.1 (s.dev.slot r k).flow.tl) } })
      (by rw [Dev.onEng_slot]; rfl)]

/-! ### An engine's word is written and set full (R354, 06 R116, R132) -/

/-- A byte of memory in which `n` bytes stand as `g` gives them. -/
theorem Mem.read_setBytes_upto (n : Nat) (g : Nat → Byte) {m : Mem} (a z : Nat) (h : m.wf = true) :
    (m.setBytes a ((upto n).map g)).read z = if a ≤ z ∧ z < a + n then g (z - a) else m.read z := by
  have hlen : ((upto n).map g).length = n := (List.length_map ..).trans List.length_range
  by_cases hz : a ≤ z ∧ z < a + n
  · obtain ⟨i, rfl⟩ := Nat.exists_eq_add_of_le hz.1
    have hi : i < n := Nat.lt_of_add_lt_add_left hz.2
    rw [Mem.read_setBytes _ _ h (hi.trans_eq hlen.symm), if_pos hz, Nat.add_sub_cancel_left]
    simp [upto, hi]
  · rw [Mem.read_setBytes_outside _ _ _ _ h (by omega), if_neg hz]

theorem clearLine_onlyMemory {s t : State} (h : OnlyMemory s t) (e : CoreEng) (w : EWord) : OnlyMemory s (clearLine t e w) := by
  obtain ⟨m, hm⟩ := h
  unfold clearLine
  split
  · split
    · exact ⟨m, hm⟩
    · exact ⟨_, by rw [hm]; rfl⟩
  · exact ⟨m, hm⟩

theorem clearLine_empty (s : State) (e : CoreEng) (w : EWord) : (clearLine s e w).dev.mmeta.empty = s.dev.mmeta.empty := by
  unfold clearLine
  (repeat' split) <;> rfl

theorem exec_engineStep_word {s : State} {r : Nat} (i : Nat) (hup : s.dev.engineUp r = true) :
    exec (.engineStep r (.word i)) s = stepWord r i s := by
  show execEngineStep r (.word i) s = _
  unfold execEngineStep
  rw [if_neg (by simp [hup])]

section
variable {s : State} {r i pa key : Nat} {w : EWord} (hup : s.dev.engineUp r = true) (hw : nth? (s.dev.core r).eng.ewords i = some w)
  (hl : w.loc = some (.glob pa, key))
include hup hw hl

theorem exec_engineStep_word_full (hp : w.placed = true) (hwait : s.dev.objs.feWait = [])
    (hwf : Tab.wfFrom false 0 s.dev.mmeta.empty = true) : ∃ t, exec (.engineStep r (.word i)) s = .next t ∧ t.mem = s.mem ∧
      (t.dev.core r).eng.ewords = dropAt (s.dev.core r).eng.ewords i ∧
      ∀ z, Tab.get false t.dev.mmeta.empty z = if z = pa / 8 then false else Tab.get false s.dev.mmeta.empty z := by
  let gone : State := { s with dev := s.dev.onEng r (fun e => { e with ewords := dropAt e.ewords i }) }
  have hexec : exec (.engineStep r (.word i)) s = .next (markEligible (gone.setFe (.glob pa) false) pa) := by
    rw [exec_engineStep_word i hup]
    unfold stepWord
    dsimp only
    rw [hw]
    dsimp only
    rw [hl]
    dsimp only
    rw [if_pos hp]
    exact congrArg Host.Outcome.next (fillWords_glob (s := gone) hwait pa)
  refine ⟨_, hexec, rfl, ?_, setFe_empty (s := gone) hwf pa false⟩
  exact congrArg CoreEng.ewords (Dev.onEng_eng_self s.dev r (fun e => { e with ewords := dropAt e.ewords i }))

theorem exec_engineStep_word_placed (hp : w.placed = false) (hex : s.dev.objs.exists pa = true) (hheld : s.heldBank (.glob pa) = false)
    (hlost : s.lost (.glob pa) = false)
    (hrange : ¬(pspace w.ptr = 0 ∧ rangeHit s.dev.objs (s.dev.thr r w.slot).asid.toNat (paddr w.ptr) 8 = true))
    (htags : ∀ l ∈ linesOf pa 8, s.dev.badTag l = false) (hwf : s.memOk) : ∃ t, exec (.engineStep r (.word i)) s = .next t ∧
      (t.dev.core r).eng.ewords = modAt (fun v => { v with placed := true }) (s.dev.core r).eng.ewords i ∧
      (∀ z, t.mem.read z = if pa ≤ z ∧ z < pa + 8 then Tab.get 0 w.bytes (z - pa) else (s.memAs pa 8 key).read z) ∧
      t.dev.mmeta.empty = s.dev.mmeta.empty := by
  let bs := (upto 8).map (fun j => Tab.get 0 w.bytes j)
  let put := (s.writeLoc (.glob pa) key bs).withDev (fun d =>
    d.onEng r (fun e => { e with ewords := modAt (fun v => { v with placed := true }) e.ewords i }))
  have hpart : notePartial s (.glob pa) 8 = s := foldl_noteLine_of_good fun l hl => htags l (List.mem_filter.1 hl).1
  have hexec : exec (.engineStep r (.word i)) s = .next (clearLine put (s.dev.core r).eng w) := by
    rw [exec_engineStep_word i hup]
    unfold stepWord
    dsimp only
    rw [hw]
    dsimp only
    rw [hl]
    dsimp only
    rw [if_neg (by simp [hp]), if_neg (by simp [hex]), if_neg (by simp [hheld]), if_neg (by simp [hlost]),
      if_neg (by simpa using hrange), hpart]
  obtain ⟨m, hmeta⟩ := clearLine_onlyMemory (.refl put) (s.dev.core r).eng w
  obtain ⟨m', hwritten⟩ := writeLoc_onlyMemory s pa key bs
  refine ⟨_, hexec, ?_, fun z => ?_, ?_⟩
  · have hplaced : (clearLine put (s.dev.core r).eng w).dev.core r = put.dev.core r := by rw [hmeta]; rfl
    rw [hplaced]
    refine (congrArg CoreEng.ewords (Dev.onEng_eng_self ..)).trans ?_
    rw [hwritten]
    rfl
  · rw [clearLine_mem]
    show ((s.memAs pa 8 key).setBytes pa bs).read z = _
    rw [Mem.read_setBytes_upto 8 _ _ _ (State.memAs_wf hwf ..)]
  · rw [clearLine_empty]
    exact writeLoc_empty s pa key bs

end

/-- Settles O48: the fetch, the start, the array's step, the release of `tl` and the engine's word, each by its own rule. -/
theorem matrixStepsRun : Obligations.MatrixStepsRun := by
  unfold Obligations.MatrixStepsRun
  intro s u c r i k m st x acc ta tb sq p q kk mm nn w bk pa key qc wd e1 more rest rk e bank b f
  refine ⟨fun hup hbufs hnext hoc hrush => ⟨fun hgood => ⟨?fetch, fun h hpsb => ?slip⟩, ?feed⟩, ?start, fun hx hup hu ht => ⟨?macz, ?mm⟩,
    exec_matrixTlRelease, fun hup hw hl hex hheld hlost hrange htags hwf => ⟨?placed, ?full⟩⟩
  case fetch => exact exec_matrixOperandFetch hup hbufs hnext hoc hrush hgood false
  case slip =>
    have hexec := exec_matrixOperandFetch hup hbufs hnext hoc hrush hgood true
    rwa [if_pos rfl, slipped_of_psb hpsb] at hexec
  case feed => exact exec_engineStep_feed hup hbufs hnext hoc hrush
  case start => exact matrixStepBoundary_starts
  case macz =>
    intro hop
    obtain ⟨t, hexec, ⟨hmem, hidle, hcount, -⟩, hbank⟩ := arrayStepEnd_macz hx hup hu ht hop
    exact ⟨t, hexec, hmem, hidle, hcount, hbank⟩
  case mm =>
    intro hop
    obtain ⟨t, hexec, ⟨hmem, hidle, hcount, htl⟩, hbank⟩ := arrayStepEnd_mm hx hup hu ht hop
    exact ⟨t, hexec, hmem, hidle, hcount, htl, hbank⟩
  case placed => exact fun hp => exec_engineStep_word_placed hup hw hl hp hex hheld hlost hrange htags hwf
  case full => exact exec_engineStep_word_full hup hw hl

end Sys2Proof.Machine
end

section
/-! SUPPORT. Links change: replays are counted, trainings begin, links fail (10 R228, 25 R445 to R447). -/

namespace Sys2Proof.Machine

/-! ### A link's state -/

/-- The state of link `l`. -/
def Dev.link (d : Dev) (l : Nat) : Link := Tab.get {} d.objs.links l

/-- From `s` to `t` link `l` becomes `x` and the platform posts `events`; the other links, the cores and the fabric stay. -/
def LinkBecomes (s t : State) (l : Nat) (x : Link) (events : List (Nat × Nat)) : Prop :=
  t.mem = s.mem ∧ t.dev.cores = s.dev.cores ∧ t.dev.link l = x ∧ (∀ j, j ≠ l → t.dev.link j = s.dev.link j) ∧
    t.dev.plat.posts = s.dev.plat.posts ++ events ∧ t.dev.objs.fabric = s.dev.objs.fabric

/-- The state in which link `l` is `x`. -/
def State.withLink (s : State) (l : Nat) (x : Link) : State := { s with dev := setLink s.dev l x }

theorem setLink_link (d : Dev) (l : Nat) (x : Link) (j : Nat) : (setLink d l x).link j = if l = j then x else d.link j := by
  unfold setLink
  dsimp only
  split <;> exact Tab.get_set ..

theorem setLink_posts (d : Dev) (l : Nat) (x : Link) :
    (setLink d l x).plat.posts = d.plat.posts ++ if (d.link l).state = x.state then [] else [(7, l)] := by
  unfold setLink Dev.link
  dsimp only
  split
  · exact (List.append_nil _).symm
  · rfl

/-- A link event is posted exactly where the link's state changes (25 R447). -/
theorem withLink_becomes (s : State) (l : Nat) (x : Link) :
    LinkBecomes s (s.withLink l x) l x (if (s.dev.link l).state = x.state then [] else [(7, l)]) :=
  ⟨rfl, setLink_cores .., (setLink_link ..).trans (if_pos rfl), fun _ hj => (setLink_link ..).trans (if_neg hj.symm),
    setLink_posts .., setLink_fabric ..⟩

theorem withLink_becomes_same {s : State} {l : Nat} {x : Link} (h : (s.dev.link l).state = x.state) :
    LinkBecomes s (s.withLink l x) l x [] := by
  have hb := withLink_becomes s l x
  rwa [if_pos h] at hb

theorem withLink_becomes_other {s : State} {l : Nat} {x : Link} (h : (s.dev.link l).state ≠ x.state) :
    LinkBecomes s (s.withLink l x) l x [(7, l)] := by
  have hb := withLink_becomes s l x
  rwa [if_neg h] at hb

/-- A link carries packets (25 R447): it is up and its far-tier die has not failed. -/
theorem linkUp_iff (d : Dev) (l : Nat) : linkUp d l = true ↔
    ((d.link l).state = 2 ∨ (d.link l).state = 3) ∧ (if l < 7 then d.plat.farFailed0 else d.plat.farFailed1) = false := by
  simp [linkUp, Dev.link]

/-! ### Failure -/

/-- Where no request is on its way, a failed link is all that changes. -/
theorem linkFails_of_unsent {s : State} (h : ∀ g ∈ s.dev.objs.fabric, g.stage = 0) (l : Nat) (k : Link) :
    linkFails s l k = s.linkFailed l k := by
  have hf : ∀ g ∈ (s.linkFailed l k).dev.objs.fabric, g.stage = 0 := by simpa [State.linkFailed] using h
  have hn (n : Nat) : linkNotices l (s.linkFailed l k) n = s.linkFailed l k := by
    cases n with
    | zero => rfl
    | succ n =>
      have hnone : (s.linkFailed l k).dev.objs.fabric.find?
          (fun f => f.stage == 1 && f.link (s.linkFailed l k).dev == l) = none := by
        simp only [List.find?_eq_none]
        intro g hg
        simp [hf g hg]
      simp only [linkNotices, hnone]
  rw [linkFails_eq, hn, cutRequests_of_unsent hf]

/-- Of a link that fails no flit stays to be acknowledged (log 44). -/
theorem linkFails_becomes {s : State} {l : Nat} (h : (s.dev.link l).state ≠ 4) (h0 : ∀ g ∈ s.dev.objs.fabric, g.stage = 0) (k : Link) :
    LinkBecomes s (linkFails s l k) l { k with state := 4, wide := false, acked := k.txseq } [(7, l)] := by
  rw [linkFails_of_unsent h0]
  exact withLink_becomes_other h

/-! ### Training begins -/

/-- The link as its training begins (25 R446). -/
def Link.training (k : Link) (now : Nat) : Link :=
  { k with state := 1, since := now, retrains := if k.retrains = 255 then 255 else k.retrains + 1, recent := [] }

theorem satByte_eq (b : Byte) : satByte b = if b = 255 then 255 else b + 1 := by
  by_cases h : b = 255
  · rw [h]
    rfl
  · rw [if_neg h]
    exact if_neg h

theorem startTraining_eq (d : Dev) (l : Nat) : startTraining d l = setLink d l ((d.link l).training d.now) := by
  unfold Link.training
  rw [← satByte_eq]
  rfl

/-! ### Replays and lanes (R445, R446) -/

theorem laneUsed_iff (k : Link) (lane : Nat) : laneUsed k lane = true ↔
    if k.state = 2 then lane < 16 else if k.lanefail.toNat % 256 = 0 then lane < 8 else 8 ≤ lane ∧ lane < 16 := by
  unfold laneUsed
  split
  · simp
  · split <;> simp

section
variable {s : State} {l : Nat}

/-- The replays of a link within the last 100 µs. -/
def Link.replaysSince (k : Link) (now : Nat) : List Nat := k.recent.filter (fun t => now < t + linkWindow)

/-- The link after a further replay: the count stays at its greatest value. -/
def Link.replayed (k : Link) (now : Nat) : Link :=
  { k with replays := if k.replays = 0xFFFF then 0xFFFF else k.replays + 1, recent := (now :: k.replaysSince now).take 16 }

theorem exec_replayThreshold_below (h : ((s.dev.link l).replaysSince s.dev.now).length < 16) : exec (.replayThreshold l) s = .next s := by
  refine if_neg fun hgo => ?_
  simp only [Bool.and_eq_true, decide_eq_true_eq] at hgo
  exact absurd hgo.2 (Nat.not_le.2 h)

theorem exec_laneLoss_unused {lane : Nat} (hu : laneUsed (s.dev.link l) lane = false) : exec (.laneLoss l lane) s = .next s := by
  refine if_pos ?_
  change (_ || !laneUsed (s.dev.link l) lane) = true
  rw [hu]
  exact Bool.or_true _

variable (hl : l < 14) (hup : linkUp s.dev l = true)
include hl hup

theorem exec_flitReplay : exec (.flitReplay l) s = .next (s.withLink l ((s.dev.link l).replayed s.dev.now)) := by
  have hgo : ¬(14 ≤ l || !linkUp s.dev l) = true := by simp [Nat.not_le.2 hl, hup]
  have hcount : (if (s.dev.link l).replays = 0xFFFF then (s.dev.link l).replays else (s.dev.link l).replays + 1) =
      if (s.dev.link l).replays = 0xFFFF then 0xFFFF else (s.dev.link l).replays + 1 := by
    split
    · assumption
    · rfl
  refine (if_neg hgo).trans ?_
  rw [Link.replayed, ← hcount]
  rfl

theorem exec_replayThreshold_reached (h : 16 ≤ ((s.dev.link l).replaysSince s.dev.now).length) :
    exec (.replayThreshold l) s = .next (s.withLink l ((s.dev.link l).training s.dev.now)) := by
  have hgo : exec (.replayThreshold l) s = devStep s (fun d => startTraining d l) := by
    refine if_pos ?_
    simp only [hl, hup, decide_true, Bool.true_and, decide_eq_true_eq]
    exact h
  rw [hgo, devStep, startTraining_eq, State.withLink]

variable {lane : Nat} (hu : laneUsed (s.dev.link l) lane = true)
include hu

theorem exec_laneLoss_used : exec (.laneLoss l lane) s =
    if (s.dev.link l).state = 2 then .next (s.withLink l ((s.dev.link l).training s.dev.now))
    else .next (linkFails s l (s.dev.link l)) := by
  have hgo : exec (.laneLoss l lane) s = if (s.dev.link l).state = 2 then devStep s (fun d => startTraining d l)
      else .next (linkFails s l (s.dev.link l)) := by
    refine if_neg ?_
    change ¬(_ || !laneUsed (s.dev.link l) lane) = true
    simp [Nat.not_le.2 hl, hup, hu]
  rw [hgo, devStep, startTraining_eq, State.withLink]

end

/-! ### The end of a training (R446) -/

/-- No lane of a half is marked where its byte of the marks is zero. -/
theorem any_getLsbD_eq_false_iff (b : BitVec 16) (lo : Nat) :
    (upto 8).any (fun i => b.getLsbD (lo + i)) = false ↔ b.toNat / 2 ^ lo % 256 = 0 := by
  have hbyte : b.toNat / 2 ^ lo % 256 = (b.extractLsb' lo 8).toNat := by
    rw [BitVec.extractLsb'_toNat, Nat.shiftRight_eq_div_pow]
  have hzero : (b.extractLsb' lo 8).toNat = 0 ↔ b.extractLsb' lo 8 = 0 := (BitVec.toNat_eq (y := 0#8)).symm
  rw [hbyte, hzero]
  constructor
  · intro h
    refine BitVec.eq_of_getLsbD_eq fun i hi => ?_
    have hb := List.any_eq_false.1 h i (List.mem_range.2 hi)
    simpa [hi] using hb
  · intro h
    refine List.any_eq_false.2 fun i hi => ?_
    have hi8 : i < 8 := List.mem_range.1 hi
    have hb : (b.extractLsb' lo 8).getLsbD i = false := by rw [h]; simp
    simpa [hi8] using hb

/-- The state that a training ends in, by the halves that have a marked lane. -/
theorem trainedState_eq (b : BitVec 16) :
    let low := (upto 8).any (fun i => b.getLsbD i)
    let high := (upto 8).any (fun i => b.getLsbD (8 + i))
    trainedState b = if low = false ∧ high = false then 2 else if low = false ∨ high = false then 3 else 4 := by
  intro low high
  have hlow : low = false ↔ b.toNat % 256 = 0 := by
    have h := any_getLsbD_eq_false_iff b 0
    simp only [Nat.zero_add, Nat.pow_zero, Nat.div_one] at h
    exact h
  have hhigh : high = false ↔ b.toNat / 256 = 0 := by
    have h := any_getLsbD_eq_false_iff b 8
    have hlt := b.isLt
    rw [h]
    omega
  have hzero : b = 0 ↔ low = false ∧ high = false := by
    rw [hlow, hhigh, BitVec.toNat_eq]
    change b.toNat = 0 ↔ _
    omega
  simp only [trainedState, hzero, Bool.or_eq_true, decide_eq_true_eq, hlow, hhigh]

section
variable {s : State} {l : Nat} (hl : l < 14) (hst : (s.dev.link l).state = 1)
include hl hst

theorem linkTrainingDone_becomes {bad : BitVec 16} (hnow : s.dev.now ≤ (s.dev.link l).since + linkWindow)
    (h0 : ∀ g ∈ s.dev.objs.fabric, g.stage = 0) {marks : BitVec 16}
    (hm : marks = if (s.dev.link l).wide then bad else (s.dev.link l).lanefail ||| bad) :
    ∃ t, exec (.linkTrainingDone l bad) s = .next t ∧ LinkBecomes s t l
      { s.dev.link l with
        state := trainedState marks, lanefail := marks, wide := false, far := BitVec.ofNat 8 (linkFar s.dev l)
        acked := if trainedState marks = 4 then (s.dev.link l).txseq else (s.dev.link l).acked } [(7, l)] := by
  let k1 : Link := { s.dev.link l with
    state := trainedState marks, lanefail := marks, wide := false, far := BitVec.ofNat 8 (linkFar s.dev l) }
  have hgo : exec (.linkTrainingDone l bad) s =
      if trainedState marks = 4 then .next (linkFails s l k1) else devStep s (fun d => setLink d l k1) := by
    subst hm
    refine if_neg ?_
    change ¬(_ || decide ((s.dev.link l).state ≠ 1) || decide ((s.dev.link l).since + linkWindow < s.dev.now)) = true
    simp [Nat.not_le.2 hl, hst, Nat.not_lt.2 hnow]
  rw [hgo]
  by_cases h4 : trainedState marks = 4
  · have hb := linkFails_becomes (k := k1) (by rw [hst]; decide) h0
    rw [if_pos h4, if_pos h4]
    refine ⟨_, rfl, ?_⟩
    rw [h4]
    exact hb
  · rw [if_neg h4, if_neg h4]
    have hne : (s.dev.link l).state ≠ k1.state := by
      rw [hst]
      change 1 ≠ trainedState marks
      unfold trainedState
      split
      · decide
      · split <;> decide
    exact ⟨_, rfl, withLink_becomes_other hne⟩

omit hl hst in
theorem exec_linkTrainingTimeout_waits (hnow : s.dev.now < (s.dev.link l).since + linkWindow) :
    exec (.linkTrainingTimeout l) s = .next s := by
  refine if_neg fun hgo => ?_
  simp only [Bool.and_eq_true, decide_eq_true_eq] at hgo
  exact absurd hgo.2 (Nat.not_le.2 hnow)

end

/-! ### A neighbour without power (R443) -/

theorem routerPowerLoss_becomes {s : State} {l peer : Nat} {col : Bool} (hto : linkTo s.dev peer = some l) (hside : decide (l < 7) = !col)
    (h4 : (s.dev.link l).state ≠ 4) (h0 : ∀ g ∈ s.dev.objs.fabric, g.stage = 0) :
    ∃ t, exec (.routerPowerLoss peer col) s = .next t ∧
      LinkBecomes s t l { s.dev.link l with state := 4, wide := false, acked := (s.dev.link l).txseq } [(7, l)] := by
  let s0 : State := { s with dev := s.dev.onObjs (fun o => { o with routerDown := (2 * peer + b2n col) :: o.routerDown }) }
  refine ⟨linkFails s0 l (s.dev.link l), ?_, linkFails_becomes (s := s0) h4 h0 _⟩
  change Host.Outcome.next _ = _
  simp only [hto, hside, beq_self_eq_true, if_true]
  rfl

/-- Settles O59: each event changes one link and no more. -/
theorem linksRetrainAndFail : Obligations.LinksRetrainAndFail := by
  unfold Obligations.LinksRetrainAndFail
  intro s l lane peer bad col now k up within becomes training marks trained gone none low high used hl
  have hup (h : up) : linkUp s.dev l = true := (linkUp_iff s.dev l).2 h
  have hne1 (h : up) : (s.dev.link l).state ≠ 1 := by
    obtain ⟨h2 | h3, -⟩ := h
    · rw [Dev.link, h2]; decide
    · rw [Dev.link, h3]; decide
  have hused : used ↔ laneUsed k lane = true := (laneUsed_iff k lane).symm
  refine ⟨fun h => ⟨_, exec_flitReplay hl (hup h), withLink_becomes_same rfl⟩, fun h h16 => ?threshold, fun _ => exec_replayThreshold_below, fun h hu h2 => ?whole, fun h hu h3 h0 => ?half,
    fun _ hu => ?unused, fun h1 hnow h0 => ?done, fun h1 hnow h0 => ?timeout, fun _ => exec_linkTrainingTimeout_waits,
    fun hto hside h4 h0 => routerPowerLoss_becomes hto hside h4 h0⟩
  case threshold => exact ⟨_, exec_replayThreshold_reached hl (hup h) h16, withLink_becomes_other (hne1 h)⟩
  case whole => exact ⟨_, (exec_laneLoss_used hl (hup h) (hused.1 hu)).trans (if_pos h2), withLink_becomes_other (hne1 h)⟩
  case half =>
    have h2 : k.state ≠ 2 := by rw [h3]; decide
    have h4 : k.state ≠ 4 := by rw [h3]; decide
    exact ⟨_, (exec_laneLoss_used hl (hup h) (hused.1 hu)).trans (if_neg h2), linkFails_becomes h4 h0 k⟩
  case unused => exact exec_laneLoss_unused (Bool.eq_false_iff.2 fun hb => hu (hused.2 hb))
  case done =>
    have hdone := linkTrainingDone_becomes hl h1 (bad := bad) hnow h0 (marks := marks) rfl
    rw [trainedState_eq] at hdone
    exact hdone
  case timeout => exact ⟨_, exec_linkTrainingTimeout hl h1 hnow, linkFails_becomes (by rw [Dev.link, h1]; decide) h0 k⟩

end Sys2Proof.Machine
end

section
/-! OBLIGATION. The drain of a stream and a table of bad tags that lists a line twice (06 R116, 10 R207, 22 R411). -/

namespace Sys2Proof.Machine

/-- An output stream with one PSB block to drain, at the start of line 0x800, and a memory-error log at 0x1000. The table of bad tags
is not in its canonical form: it lists line 0x800 twice, so that what clears the line's first entry uncovers the second. -/
def sTagListedTwice : State :=
  { mem := [(0x8000, 0x0F)]
    dev := {
      cores := [(0, { running := true, slots := [(1, { life := .live })], eng := { streams := [(0,
        { bound := true, slot := 1, accepted := true, base := 0x0420000000020000, w0 := 0x8000000000000000, out := [(0, 0, 0)] })] } })]
      plat := { regs := [(0x3000, 0x1000)] }
      objs := { roots := [(0, 0x8000)] }
      mmeta := { tagBad := [(0x800, false), (0x800, true)] } } }

/-- The stream that drains. -/
def aDrained : Stream := Tab.get {} (sTagListedTwice.dev.core 0).eng.streams 0

/-- The first word of the block clears the line's tag; the second word then finds it wrong, and its record of type 2 stands in the
log (22 R411, R414). -/
theorem streamDrain_tagListedTwice : (match exec (.streamDrain 0 0 false) sTagListedTwice with
    | .next t => t.mem.read 0x1007
    | _ => 0) = 0x20 := by
  decide +kernel

theorem aDrained_place : elemPlaces sTagListedTwice 0 aDrained 0x0420000000020000 false =
    .ok [(.glob 0x20000, streamElem aDrained.base, 0)] := by
  decide

/-- The element passes what stands before a drain: its words have memory and no line of theirs a bad tag at its start. -/
theorem aDrained_sound : elemHeld sTagListedTwice aDrained 0x0420000000020000 = false ∧
    anyHeld sTagListedTwice (.glob 0x20000) (streamElem aDrained.base) = false ∧
    (∀ l ∈ linesOf 0x20000 (streamElem aDrained.base), sTagListedTwice.dev.badTag l = false) ∧
    ((Loc.glob 0x20000).words (streamElem aDrained.base)).any (fun w => sTagListedTwice.lost w) = false := by
  decide

/-- Refutes O51: the statement takes any table of bad tags, and an encrypted write clears a line's entry only in a canonical one. In
`sTagListedTwice` the drain of one block leaves a record in the memory-error log, where the statement says that no byte but the block's
changes. -/
theorem not_copiesAndStreamsMove : ¬ Obligations.CopiesAndStreamsMove := by
  unfold Obligations.CopiesAndStreamsMove
  intro h
  obtain ⟨-, -, -, -, drain, -⟩ := h sTagListedTwice 0 0 0 0 0 0 0 0x20000 0 (streamElem aDrained.base) 0 0 default 0 0
    0x0420000000020000 0 default 0 0 [] default default 0
  obtain ⟨hheld, hany, hsound, hlost⟩ := aDrained_sound
  obtain ⟨t, ht, -, hmem⟩ := drain (by decide) (by decide) (by decide) (by decide) (fun _ => rfl) rfl (by decide) aDrained_place
    (by decide) (by decide) hheld hany hsound hlost rfl (by unfold State.memOk; decide) rfl rfl
  have hlog := streamDrain_tagListedTwice
  rw [ht] at hlog
  have hkept : t.mem.read 0x1007 = 0 := (hmem 0x1007).trans (by decide)
  exact absurd (hkept.symm.trans hlog) (by decide)

end Sys2Proof.Machine
end

section
/-! SUPPORT. Words read at issue through a local pointer, and operations that enter a class as they issue (04 R80, 14 R300). -/

namespace Sys2Proof.Machine

/-! ### Words of local memory (04 R80) -/

theorem Mem.words_eq_map (m : Mem) (a n : Nat) : m.words a n = (List.range n).map (fun i => m.word (a + 8 * i)) := by
  induction n generalizing a with
  | zero => rfl
  | succ n ih =>
    rw [Mem.words, ih, List.range_succ_eq_map, List.map_cons, List.map_map]
    refine congrArg₂ _ rfl (List.map_congr_left fun i _ => congrArg m.word ?_)
    rw [Nat.succ_eq_add_one]
    omega

theorem Mem.words_four (m : Mem) (a : Nat) :
    m.words a 4 = [m.word (a + 8 * 0), m.word (a + 8 * 1), m.word (a + 8 * 2), m.word (a + 8 * 3)] := m.words_eq_map a 4

theorem tableRead_of_ok {s : State} {p : Word} {n : Nat} (h : payloadFault s.dev p n = none) (k : List Word → Out) :
    tableRead s p n k = k (s.dev.my.lmem.words (paddr p) n) := by
  rw [tableRead, h]

/-! ### An operation enters its class (R300) -/

@[simp] theorem Dev.onEng_me (d : Dev) (r : Nat) (f : CoreEng → CoreEng) : (d.onEng r f).me = d.me := Dev.onEng_slot ..

/-- The context once the next operation of `f`, its flow at issue, has issued and counts in `cp`. -/
def Slot.entersCp (f : Flow) (u : Slot) : Slot :=
  { u with pc := u.pc + 1, flow := { u.flow with nextId := f.nextId + 1, cp := f.cp ++ [(f.nextId, 1)] } }

/-- The context once the next operation of `f`, its flow at issue, has issued and counts in `st`. -/
def Slot.entersSt (f : Flow) (u : Slot) : Slot :=
  { u with pc := u.pc + 1, flow := { u.flow with nextId := f.nextId + 1, st := f.st ++ [(f.nextId, 1)] } }

theorem Dev.retire_entersCp {d : Dev} {f : Flow} (hf : d.me.flow = f) {g : Slot → Slot} (hg : ∀ u, (g u).flow = u.flow) :
    d.retire (fun t => { g t with flow := { t.flow with nextId := f.nextId + 1 }.enter .cp f.nextId 1 }) =
      d.onMe (fun u => (g u).entersCp f) := by
  subst hf
  refine Dev.onMe_congr ?_
  rw [Slot.entersCp, hg]
  rfl

theorem Dev.retire_setX (d : Dev) (x : XReg) (v : Word) :
    d.retire (fun t => t.setX x v) = d.onMe (fun t => { t.setX x v with pc := t.pc + 1 }) := by
  refine Dev.onMe_congr ?_
  simp [Slot.advance]

theorem devStep_setX (s : State) (x : XReg) (v : Word) : devStep s (fun d => d.retire (fun t => t.setX x v)) = writesX s x v :=
  congrArg (fun d : Dev => (.next ⟨s.mem, d⟩ : Out)) (Dev.retire_setX ..)

/-! ### A core's engines, and the issuing thread -/

theorem Dev.onEng_onEng (d : Dev) (r : Nat) (f g : CoreEng → CoreEng) : (d.onEng r f).onEng r g = d.onEng r (fun e => g (f e)) := by
  simp [Dev.onEng, Dev.onCore, Dev.core, Tab.get_set, Tab.set_set]

theorem Dev.onMe_onEng (d : Dev) (f : Slot → Slot) (g : CoreEng → CoreEng) :
    (d.onMe f).onEng d.rank g = (d.onEng d.rank g).onMe f := by
  simp [Dev.onEng, Dev.onMe, Dev.onSlot, Dev.onCore, Core.onSlot, Dev.core, Core.slot, Tab.get_set, Tab.set_set]

theorem Dev.onMe_eng (d : Dev) (f : Slot → Slot) (r : Nat) : ((d.onMe f).core r).eng = (d.core r).eng := by
  rw [Dev.onMe, Dev.onSlot_eng]

end Sys2Proof.Machine
end

section
/-! SUPPORT. Streams are bound and dropped (10 R204 to R208, 16 R364). -/

namespace Sys2Proof.Machine

/-- The stream register that a bind by the issuing thread fills (R204, R205). -/
def Dev.boundStream (d : Dev) (base pat : Word) : Stream :=
  let word := fun i => d.my.lmem.word (paddr pat + 8 * i)
  { bound := true, slot := d.who, base := base, w0 := word 0, s0 := word 1, s1 := word 2, s2 := word 3, asid := d.me.asid.toNat,
    bindId := d.me.flow.nextId, serial := d.my.eng.serials + 1 }

/-- A pattern at `pat` for a base passes the checks of R364. -/
structure PatternOk (d : Dev) (base pat : Word) : Prop where
  readable : payloadFault d pat 4 = none
  reserved : bits (d.my.lmem.word (paddr pat + 8 * 0)) 62 48 = 0
  strides : ∀ i, 1 ≤ i → i ≤ 3 → strideOk (d.my.lmem.word (paddr pat + 8 * i)) = true
  blocks : isPsb (pfmtOf base) = true →
    ∀ i, 1 ≤ i → i ≤ 3 → (d.my.lmem.word (paddr pat + 8 * i)).toInt % blockBytes (pfmtOf base) (plcode base) = 0
  space : pspace base ≠ 3 ∧ pspace base ≠ 4 ∧ pspace base ≠ 5

theorem PatternOk.psbStrides {d : Dev} {base pat : Word} (h : PatternOk d base pat) :
    psbStridesBad base [d.my.lmem.word (paddr pat + 8 * 1), d.my.lmem.word (paddr pat + 8 * 2), d.my.lmem.word (paddr pat + 8 * 3)] = false := by
  cases hp : isPsb (pfmtOf base) with
  | false => simp [psbStridesBad, hp]
  | true =>
    have h1 := h.blocks hp 1 (by decide) (by decide)
    have h2 := h.blocks hp 2 (by decide) (by decide)
    have h3 := h.blocks hp 3 (by decide) (by decide)
    rw [psbStridesBad, hp]
    simp only [List.any_cons, List.any_nil, h1, h2, h3]
    rfl

section
variable {s : State} {n : SReg} (htag : holdsC s.dev.me.tag = true)
include htag

theorem exec_sbind_binds {a b : XReg} (hacq : s.dev.me.flow.acq = []) (hfree : (s.dev.stream n.toNat).bound = false)
    (hout : (s.dev.stream n.toNat).out = []) (hdrop : (s.dev.stream n.toNat).dropped = none)
    (hp : PatternOk s.dev (s.dev.x a) (s.dev.x b)) :
    exec (.sbind n a b) s = .next { s with dev :=
      ((s.dev.onStream n.toNat (fun _ => s.dev.boundStream (s.dev.x a) (s.dev.x b))).onEng s.dev.rank (fun e =>
        { e with serials := e.serials + 1 })).onMe (Slot.entersCp s.dev.me.flow) } := by
  have hhold : WaitCond.sendHold.holds s s.dev.rank s.dev.who = true := List.isEmpty_iff.2 hacq
  have hroom : (WaitCond.produce n.toNat 4096).holds s s.dev.rank s.dev.who = true := by
    change ((s.dev.stream n.toNat).dropped.isNone && decide ((s.dev.stream n.toNat).out.length * _ + 4096 ≤ 4096)) = true
    simp [hdrop, hout]
  have hall : [s.dev.my.lmem.word (paddr (s.dev.x b) + 8 * 1), s.dev.my.lmem.word (paddr (s.dev.x b) + 8 * 2),
      s.dev.my.lmem.word (paddr (s.dev.x b) + 8 * 3)].all strideOk = true := by
    have h1 := hp.strides 1 (by decide) (by decide)
    have h2 := hp.strides 2 (by decide) (by decide)
    have h3 := hp.strides 3 (by decide) (by decide)
    rw [List.all_cons, List.all_cons, List.all_cons, h1, h2, h3]
    rfl
  have hres : zeroBits (s.dev.my.lmem.word (paddr (s.dev.x b) + 8 * 0)) 62 48 = true := beq_iff_eq.2 hp.reserved
  obtain ⟨hs3, hs4, hs5⟩ := hp.space
  have hwords : ¬(!zeroBits (s.dev.my.lmem.word (paddr (s.dev.x b) + 8 * 0)) 62 48 ||
      !([s.dev.my.lmem.word (paddr (s.dev.x b) + 8 * 1), s.dev.my.lmem.word (paddr (s.dev.x b) + 8 * 2),
        s.dev.my.lmem.word (paddr (s.dev.x b) + 8 * 3)].all strideOk)) = true := by rw [hres, hall]; decide
  have hprivate : ¬(pspace (s.dev.x a) = 5 && !privSlot s.dev.who) = true := by simp [hs5]
  have hspace : ¬(pspace (s.dev.x a) = 3 || pspace (s.dev.x a) = 4 || pspace (s.dev.x a) = 5) = true := by simp [hs3, hs4, hs5]
  show execSbind n a b s = _
  unfold execSbind
  rw [needTag_of_holds htag, parkUnless_pos _ _ _ hhold, parkUnless_pos _ _ _ hroom, tableRead_of_ok hp.readable, Mem.words_four]
  refine (if_neg hwords).trans ((if_neg (Bool.eq_false_iff.1 hfree)).trans ((if_neg (Bool.eq_false_iff.1 hp.psbStrides)).trans
    ((if_neg hprivate).trans ((if_neg hspace).trans
      (congrArg (fun d : Dev => (.next ⟨s.mem, d⟩ : Out)) (Dev.retire_entersCp (g := fun u => u) (congrArg Slot.flow ?_) fun _ => rfl))))))
  exact (Dev.onEng_me ..).trans (Dev.onEng_me ..)

theorem exec_sdrop_other {d : XReg} (h : (s.dev.stream n.toNat).bound = false ∨ (s.dev.stream n.toNat).slot ≠ s.dev.who) :
    exec (.sdrop d n) s = writesX s d 0 := by
  show execSdrop d n s = _
  unfold execSdrop
  rw [needTag_of_holds htag]
  dsimp only
  rw [if_pos (by simpa using h), devStep_setX]

variable {d : XReg} (hb : (s.dev.stream n.toNat).bound = true) (hslot : (s.dev.stream n.toNat).slot = s.dev.who)
  (hacc : (s.dev.stream n.toNat).accepted = true)
include hb hslot hacc

/-- The drop of a stream that the issuing thread holds and the unit has accepted. -/
theorem exec_sdrop_own : exec (.sdrop d n) s =
    let y := s.dev.stream n.toNat
    let id := s.dev.me.flow.nextId
    if y.w0.getLsbD 63 && !(y.out.isEmpty && y.cover.isEmpty) then
      devStep s (fun v => (v.onStream n.toNat (fun y => { y with bound := false, dropped := some id })).retire (fun t =>
        { t.setX d (w64 y.pos) with flow := { t.flow with nextId := id + 1 }.enter .cp id 1 }))
    else devStep (streamTo s n.toNat (fun _ => {})) (fun v => v.retire (fun t => t.setX d (w64 y.pos))) := by
  have haccept : acceptStream s.dev s.dev.rank n.toNat = s.dev := if_pos hacc
  have hmine : ¬(!(s.dev.stream n.toNat).bound || decide ((s.dev.stream n.toNat).slot ≠ s.dev.who)) = true := by simp [hb, hslot]
  show execSdrop d n s = _
  unfold execSdrop
  rw [needTag_of_holds htag]
  refine (if_neg hmine).trans ?_
  rw [haccept]
  rfl

/-- R208: an input stream, and one with nothing to drain, is free at once. -/
theorem exec_sdrop_frees (h : (s.dev.stream n.toNat).w0.getLsbD 63 = false ∨
      (s.dev.stream n.toNat).out = [] ∧ (s.dev.stream n.toNat).cover = []) :
    exec (.sdrop d n) s = writesX (streamTo s n.toNat (fun _ => {})) d (BitVec.ofNat 64 (s.dev.stream n.toNat).pos) := by
  have hrest : ¬((s.dev.stream n.toNat).w0.getLsbD 63 && !((s.dev.stream n.toNat).out.isEmpty &&
      (s.dev.stream n.toNat).cover.isEmpty)) = true := by
    obtain hw | ⟨ho, hc⟩ := h
    · rw [hw]; exact Bool.false_ne_true
    · rw [ho, hc]; simp
  rw [exec_sdrop_own htag hb hslot hacc]
  exact (if_neg hrest).trans (devStep_setX (streamTo s n.toNat (fun _ => {})) d _)

/-- R208: an output stream with elements to drain counts in `cp` until it is empty. -/
theorem exec_sdrop_drains (hw : (s.dev.stream n.toNat).w0.getLsbD 63 = true)
    (h : (s.dev.stream n.toNat).out ≠ [] ∨ (s.dev.stream n.toNat).cover ≠ []) :
    exec (.sdrop d n) s = .next { s with dev :=
      (s.dev.onStream n.toNat (fun y => { y with bound := false, dropped := some s.dev.me.flow.nextId })).onMe (fun u =>
        (u.setX d (BitVec.ofNat 64 (s.dev.stream n.toNat).pos)).entersCp s.dev.me.flow) } := by
  have hrest : ((s.dev.stream n.toNat).w0.getLsbD 63 && !((s.dev.stream n.toNat).out.isEmpty &&
      (s.dev.stream n.toNat).cover.isEmpty)) = true := by
    rw [hw]
    simpa [← not_and_or] using h
  rw [exec_sdrop_own htag hb hslot hacc]
  refine (if_pos hrest).trans (congrArg (fun d : Dev => (.next ⟨s.mem, d⟩ : Out)) (Dev.retire_entersCp ?_ fun u => ?_))
  · exact congrArg Slot.flow (Dev.onEng_me ..)
  · exact Slot.setX_flow ..

end

end Sys2Proof.Machine
end

section
/-! SUPPORT. Messages leave, armed sends fire, and counters are set (10 R216 to R218, 16 R365 to R367). -/

namespace Sys2Proof.Machine

theorem Dev.retire_entersSt {d : Dev} {f : Flow} (hf : d.me.flow = f) :
    d.retire (fun t => { t with flow := { t.flow with nextId := f.nextId + 1 }.enter .st f.nextId 1 }) = d.onMe (Slot.entersSt f) := by
  subst hf
  exact Dev.onMe_congr rfl

/-! ### A send's checks and its message (R365) -/

/-- The message of a send to `w` of the `m` words at `p`. -/
def Dev.message (d : Dev) (e : Bool) (w p : Word) (m : Nat) : Msg := msgOf w e (d.my.lmem.words (paddr p) m)

/-- The request that carries it. -/
def Dev.messageReq (d : Dev) (e : Bool) (w p : Word) (m : Nat) : Req := sendReq d w e (d.my.lmem.words (paddr p) m)

/-- A target word and a payload of `m` words pass the checks of R365. -/
structure SendOk (s : State) (w p : Word) (m : Nat) : Prop where
  reserved : bits w 63 33 = 0
  bit23 : w.getLsbD 23 = false
  payload : payloadFault s.dev p m = none
  peer : w.getLsbD 32 = true → peerCheck s.dev.objs s.dev.me.part (bits w 31 24) = none

theorem sendChecks_of_ok {s : State} {a b : XReg} {m : Nat} (h : SendOk s (s.dev.x a) (s.dev.x b) m) (e : Bool) (k : State → Req → Out) :
    sendChecks s e m a b k = k s (s.dev.messageReq e (s.dev.x a) (s.dev.x b) m) := by
  have hword : ¬(!zeroBits (s.dev.x a) 63 33 || (s.dev.x a).getLsbD 23) = true := by rw [zeroBits, h.reserved, h.bit23]; decide
  have hpeer : (if (s.dev.x a).getLsbD 32 then peerCheck s.dev.objs s.dev.me.part (bits (s.dev.x a) 31 24) else none) = none := by
    split
    · exact h.peer ‹_›
    · rfl
  unfold sendChecks
  refine (if_neg hword).trans ?_
  rw [h.payload]
  dsimp only
  rw [hpeer]
  rfl

theorem sendEnters_messageReq (d : Dev) (e : Bool) (w p : Word) (m : Nat) :
    sendEnters d (d.messageReq e w p m) = d.onMe (Slot.entersSt d.me.flow) := Dev.retire_entersSt rfl

/-- A message for this device waits to be placed (R216). -/
theorem postMsg_here {d : Dev} {m : Msg} (h : m.remote = false ∨ m.peer = d.objs.peerSelf.toNat) (r k : Nat) (q : Req) :
    postMsg d r k q m = d.onObjs (fun o => { o with msgs := o.msgs ++ [(r, k, q)] }) := by
  refine if_neg ?_
  obtain h | h := h <;> simp [h]

/-- A message for a peer enters the fabric (R224). -/
theorem postMsg_away {d : Dev} {m : Msg} (h : ¬(m.remote = false ∨ m.peer = d.objs.peerSelf.toNat)) (r k : Nat) (q : Req) :
    postMsg d r k q m = d.onObjs (fun o => { o with fabric := o.fabric ++ [⟨r, k, q, [], 0, false⟩] }) :=
  if_pos (by simpa using h)

/-! ### Armed sends (R218) -/

theorem fireArmed_none {d : Dev} {r c : Nat} (h : Tab.get none (d.core r).eng.armed c = none) : fireArmed d r c = d := by
  rw [fireArmed, h]

theorem fireArmed_below {d : Dev} {r c : Nat} {q : Req} {thr : BitVec 32} (h : Tab.get none (d.core r).eng.armed c = some (q, thr))
    (hlt : (d.counterOf r c).toNat < thr.toNat) : fireArmed d r c = d := by
  rw [fireArmed, h]
  exact if_pos hlt

theorem fireArmed_reached {d : Dev} {r c : Nat} {q : Req} {thr : BitVec 32} {m : Msg}
    (h : Tab.get none (d.core r).eng.armed c = some (q, thr)) (hge : thr.toNat ≤ (d.counterOf r c).toNat) (hm : q.op = .send m) :
    fireArmed d r c = postMsg (d.onEng r (fun e => { e with armed := Tab.set e.armed c none })) r q.elem q m := by
  have hmsg : q.msg? = some m := by rw [Req.msg?, hm]
  rw [fireArmed, h]
  refine (if_neg (Nat.not_lt.2 hge)).trans ?_
  rw [hmsg]

/-- A core's counter as its new value `k` stands. -/
def Dev.withCounter (d : Dev) (c : Nat) (k : BitVec 32) : Dev := d.onEng d.rank (fun e => { e with rctr := Tab.set e.rctr c k })

theorem setCounter_of_none {d : Dev} {c : Nat} (h : Tab.get none d.my.eng.armed c = none) (k : BitVec 32) :
    setCounter d d.rank c k = d.withCounter c k :=
  fireArmed_none (by rw [Dev.onEng_eng_self]; exact h)

section
variable {s : State} (htag : holdsN s.dev.me.tag = true)
include htag

section
variable {a b : XReg} {m : BitVec 6} (hacq : s.dev.me.flow.acq = []) (hok : SendOk s (s.dev.x a) (s.dev.x b) m.toNat)
include hacq hok

/-- A send counts in `st`, and its message leaves. -/
theorem exec_nsend (e : Bool) :
    exec (.nsend e m a b) s = .next ⟨s.mem, postMsg (s.dev.onMe (Slot.entersSt s.dev.me.flow)) s.dev.rank s.dev.who
        (s.dev.messageReq e (s.dev.x a) (s.dev.x b) m.toNat) (s.dev.message e (s.dev.x a) (s.dev.x b) m.toNat)⟩ := by
  show execNsend e m a b s = _
  unfold execNsend
  rw [needTag_of_holds htag, parkUnless_pos s .sendHold _ (List.isEmpty_iff.2 hacq), sendChecks_of_ok hok, devStep, sendEnters_messageReq]
  rfl

variable {c : BitVec 4} (harm : Tab.get none s.dev.my.eng.armed c.toNat = none)
include harm

/-- An armed send counts in `st` and stands at its counter, which may have reached its threshold already. -/
theorem exec_tsend (e : Bool) (thr : BitVec 32) :
    let q := s.dev.messageReq e (s.dev.x a) (s.dev.x b) m.toNat
    exec (.tsend e m c thr a b) s = .next { s with dev := fireArmed ((s.dev.onMe (Slot.entersSt s.dev.me.flow)).onEng s.dev.rank (fun x =>
      { x with armed := Tab.set x.armed c.toNat (some (q, thr)) })) s.dev.rank c.toNat } := by
  have hfree : ¬(Tab.get none s.dev.my.eng.armed c.toNat).isSome = true := by rw [harm]; exact Bool.false_ne_true
  show execTsend e m c thr a b s = _
  unfold execTsend
  rw [needTag_of_holds htag, parkUnless_pos s .sendHold _ (List.isEmpty_iff.2 hacq), sendChecks_of_ok hok]
  refine (if_neg hfree).trans ?_
  rw [devStep, sendEnters_messageReq]

theorem exec_tsend_waits (e : Bool) {thr : BitVec 32} (hlt : (s.dev.counterOf s.dev.rank c.toNat).toNat < thr.toNat) :
    let q := s.dev.messageReq e (s.dev.x a) (s.dev.x b) m.toNat
    exec (.tsend e m c thr a b) s = .next { s with dev := (s.dev.onMe (Slot.entersSt s.dev.me.flow)).onEng s.dev.rank (fun x =>
      { x with armed := Tab.set x.armed c.toNat (some (q, thr)) }) } := by
  intro q
  rw [exec_tsend htag hacq hok harm, fireArmed_below (q := q) (thr := thr)]
  · rw [Dev.onEng_eng_self, Tab.get_set, if_pos rfl]
  · rw [Dev.counterOf, Dev.onEng_eng_self, Dev.onMe_eng]
    exact hlt

theorem exec_tsend_fires (e : Bool) {thr : BitVec 32} (hge : thr.toNat ≤ (s.dev.counterOf s.dev.rank c.toNat).toNat) :
    exec (.tsend e m c thr a b) s = .next ⟨s.mem, postMsg ((s.dev.onEng s.dev.rank (fun x =>
      { x with armed := Tab.set x.armed c.toNat none })).onMe (Slot.entersSt s.dev.me.flow)) s.dev.rank s.dev.who
        (s.dev.messageReq e (s.dev.x a) (s.dev.x b) m.toNat) (s.dev.message e (s.dev.x a) (s.dev.x b) m.toNat)⟩ := by
  rw [exec_tsend htag hacq hok harm, fireArmed_reached (q := s.dev.messageReq e (s.dev.x a) (s.dev.x b) m.toNat) (thr := thr)
    (m := s.dev.message e (s.dev.x a) (s.dev.x b) m.toNat)]
  · rw [Dev.onEng_onEng, Dev.onMe_onEng]
    simp only [Tab.set_set]
    rfl
  · rw [Dev.onEng_eng_self, Tab.get_set, if_pos rfl]
  · rw [Dev.counterOf, Dev.onEng_eng_self, Dev.onMe_eng]
    exact hge
  · rfl

end

theorem exec_rcsetRd (d : XReg) (c : BitVec 4) :
    exec (.rcsetRd d c) s = writesX s d ((s.dev.counterOf s.dev.rank c.toNat).setWidth 64) := by
  show rcset s d c 0 (fun _ _ => none) = _
  unfold rcset
  rw [needTag_of_holds htag]
  exact (if_neg (by decide)).trans (devStep_setX ..)

section
variable {c : BitVec 4} {v : Word} {f : BitVec 32 → BitVec 32 → Option (BitVec 32)} (d : XReg)

theorem rcset_upper (hv : bits v 63 32 ≠ 0) : rcset s d c v f = fault s 0x03 0 3 := by
  unfold rcset
  rw [needTag_of_holds htag]
  exact if_pos (by simpa [zeroBits] using hv)

theorem rcset_sets (hv : bits v 63 32 = 0) (harm : Tab.get none s.dev.my.eng.armed c.toNat = none) {k : BitVec 32}
    (hf : f (s.dev.counterOf s.dev.rank c.toNat) (v.setWidth 32) = some k) :
    rcset s d c v f = writesX { s with dev := s.dev.withCounter c.toNat k } d ((s.dev.counterOf s.dev.rank c.toNat).setWidth 64) := by
  unfold rcset
  rw [needTag_of_holds htag]
  refine (if_neg (by simp [zeroBits, hv])).trans ?_
  unfold devStep
  dsimp only
  rw [hf]
  dsimp only
  rw [setCounter_of_none harm]
  exact devStep_setX { s with dev := s.dev.withCounter c.toNat k } d _

end

end

theorem satAdd_setWidth (k : BitVec 32) (p : Word) : satAdd k (p.setWidth 32) = BitVec.ofNat 32 (min 0xFFFFFFFF (k.toNat + bits p 31 0)) := by
  rw [satAdd, BitVec.toNat_setWidth, bits, pow_zero, Nat.div_one]

end Sys2Proof.Machine
end

section
/-! OBLIGATION. Stream binds and drops, sends, armed sends and receive counters (10 R204 to R208, R216 to R218, 16 R364 to R367). -/

namespace Sys2Proof.Machine

/-- Settles O50: each operation's own rule, an armed send that fires at once being a send from the state with its counter
disarmed. -/
theorem streamsSendsAndCounters : Obligations.StreamsSendsAndCounters := by
  intro s n d a b e m c thr me f p w word y count armed msg bind sent bound unbound fits here placed ported leaves counts
  refine ⟨fun htag => ⟨fun hacq hout hdrop hread hres hstr hfree hblk h3 h4 h5 => ?_, fun h => ?_, fun hb hslot hacc =>
    ⟨fun h => ?_, fun hw h => ?_⟩⟩, fun htag => ⟨fun hacq hfits => ?_, ?_, fun hv harm => ⟨?_, ?_⟩, fun hv => ⟨?_, ?_⟩⟩⟩
  · exact exec_sbind_binds htag hacq hfree hout hdrop ⟨hread, hres, hstr, hblk, h3, h4, h5⟩
  · exact exec_sdrop_other htag h
  · exact exec_sdrop_frees htag hb hslot hacc h
  · exact exec_sdrop_drains htag hb hslot hacc hw h
  · obtain ⟨hres, h23, hpay, hpeer⟩ := hfits
    have hok : SendOk s w p m.toNat := ⟨hres, h23, hpay, hpeer⟩
    let q := s.dev.messageReq e w p m.toNat
    have hleaves : ∀ (i : Instr) (u : State), u.dev.objs.peerSelf = s.dev.objs.peerSelf →
        exec i s = .next { u with dev := postMsg (u.dev.onMe sent) s.dev.rank s.dev.who q msg } → leaves i u := by
      intro i u hself hexec
      refine ⟨q, rfl, rfl, rfl, rfl, fun hh => hexec.trans ?_, fun hh => hexec.trans ?_⟩
      · rw [postMsg_here (by rw [Dev.onMe_objs, hself]; exact hh)]
      · rw [postMsg_away (by rw [Dev.onMe_objs, hself]; exact hh)]
    refine ⟨hleaves _ s rfl (exec_nsend htag hacq hok e), fun harm hge => hleaves _ _ rfl (exec_tsend_fires htag hacq hok harm e hge),
      fun harm hlt => ⟨q, rfl, rfl, rfl, exec_tsend_waits htag hacq hok harm e hlt⟩⟩
  · exact exec_rcsetRd htag d c
  · exact rcset_sets (f := fun _ v => some v) htag d hv harm rfl
  · rw [← satAdd_setWidth]
    exact rcset_sets (f := fun o v => some (satAdd o v)) htag d hv harm rfl
  · exact rcset_upper (f := fun _ v => some v) htag d hv
  · exact rcset_upper (f := fun o v => some (satAdd o v)) htag d hv

end Sys2Proof.Machine
end

section
/-! SUPPORT. Copies are checked and posted (10 R210 to R214, 16 R356 to R358, R363, 21 R404). -/

namespace Sys2Proof.Machine

/-! ### A copy enters the engine (R358) -/

/-- The context once a copy it issued has entered the engine, what else `g` does aside: the copy counts in `cp` under its number. -/
def Slot.takesCopy (f : Flow) (g : Slot → Slot) (u : Slot) : Slot :=
  { g u with pc := u.pc + 1, flow := { u.flow with nextId := f.nextId + 1, cp := f.cp ++ [(f.nextId, 1)] } }

theorem takeCopy_eq {d : Dev} {f : Flow} (hf : d.me.flow = f) {c : Copy} (hc : c.id = f.nextId) {g : Slot → Slot} (hpc : ∀ u, (g u).pc = u.pc) :
    takeCopy d c g = (d.onEng d.rank (fun e => { e with copies := e.copies ++ [c] })).onMe (Slot.takesCopy f g) := by
  subst hf
  refine Dev.onMe_congr ?_
  rw [Dev.onEng_me, Slot.takesCopy, hc, ← hpc d.me]
  rfl

theorem newCopy_live (d : Dev) (k : CpKind) (start : Nat) (among : List Nat) (comp : BitVec 16) (ctr : Word) (res : Bool) :
    (newCopy d k start among comp ctr res).live = if k.multi then (cpmEnds d k start among).1 else [0] := by
  cases k <;> rfl

theorem newCopy_fails (d : Dev) (k : CpKind) (start : Nat) (among : List Nat) (comp : BitVec 16) (ctr : Word) (res : Bool) :
    (newCopy d k start among comp ctr res).fails = if k.multi then (cpmEnds d k start among).2 else [] := by
  cases k <;> rfl

theorem postCopy_of_ok {s : State} {k : CpKind} {start : Nat} {ctr : Option Word} (h : copyBad s.dev k start ctr = none)
    (among : List Nat) (comp : BitVec 16) (f : Dev → Dev) (g : Slot → Slot) (res : Bool) :
    postCopy s k start among comp ctr f g res =
      .next { s with dev := takeCopy (f s.dev) (newCopy s.dev k start among comp (ctr.getD 0) res) g } := by
  rw [postCopy, h]
  rfl

theorem compField_eq (c : Comp) : compField c = BitVec.ofNat 16 (c.tag.toNat * 2 ^ 8 + c.creg.toNat * 2 ^ 2 + c.ev.toNat) := by
  have hev : b2n c.ev = c.ev.toNat := by cases c.ev <;> rfl
  rw [compField, hev]
  rfl

/-! ### The copy commands' tables (R357) -/

theorem listRead_of_ok {s : State} {p : Word} (h1 : payloadFault s.dev p 1 = none)
    (hres : bits (s.dev.my.lmem.word (paddr p + 8 * 0)) 63 5 = 0)
    (hall : payloadFault s.dev p (bits (s.dev.my.lmem.word (paddr p + 8 * 0)) 4 0 + 1 + 1) = none) (k : List Word → Out) :
    listRead s p k = k ((List.range (bits (s.dev.my.lmem.word (paddr p + 8 * 0)) 4 0 + 1)).map (fun i =>
      s.dev.my.lmem.word (paddr p + 8 * (i + 1)))) := by
  have hok : ¬(!zeroBits (s.dev.my.lmem.word (paddr p + 8 * 0)) 63 5) = true := by rw [zeroBits, hres]; decide
  have hnum : 2 + bits (s.dev.my.lmem.word (paddr p + 8 * 0)) 4 0 = bits (s.dev.my.lmem.word (paddr p + 8 * 0)) 4 0 + 1 + 1 := by omega
  rw [listRead, tableRead_of_ok h1]
  refine (if_neg hok).trans ?_
  change tableRead s p (2 + bits (s.dev.my.lmem.word (paddr p + 8 * 0)) 4 0) _ = _
  rw [hnum, tableRead_of_ok hall, Mem.words_eq_map, List.range_succ_eq_map, List.map_cons, List.tail_cons, List.map_map]
  rfl

/-! ### What each copy command posts -/

/-- The issuing thread and its core's engine can take a copy: the stalls and the tag of the copy commands pass. -/
structure CopyReady (s : State) : Prop where
  tag : holdsC s.dev.me.tag = true
  acq : s.dev.me.flow.acq = []
  room : s.dev.my.eng.copies.length < 128

theorem copyStalls_of_ready {s : State} (h : CopyReady s) (k : State → Out) : copyStalls s k = k s := by
  rw [copyStalls, needTag_of_holds h.tag, parkUnless_pos s .sendHold _ (List.isEmpty_iff.2 h.acq),
    parkUnless_pos s .copyRoom _ (decide_eq_true h.room)]

section
variable {s : State} (hs : CopyReady s) {d a b : XReg} {len : LenSrc} {cf : Comp}
include hs

theorem exec_cp_length (hl : lenOf s.dev len = none) : exec (.cp d a len cf) s = fault s 0x03 0 3 := by
  show execCp d a len cf s = _
  rw [execCp, copyStalls_of_ready hs, hl]

theorem exec_cpm_length (hl : lenOf s.dev len = none) : exec (.cpm d a len cf) s = fault s 0x03 0 3 := by
  show execCpm d a len cf s = _
  rw [execCpm, copyStalls_of_ready hs, hl]

theorem exec_cp_posts {n : Nat} (hl : lenOf s.dev len = some n) :
    exec (.cp d a len cf) s = postCopy s (.cp (s.dev.x d) (s.dev.x a) n) 0 [] (compField cf) (compCtr s.dev cf.creg) (fun d => d)
      (fun t => t) := by
  show execCp d a len cf s = _
  rw [execCp, copyStalls_of_ready hs, hl]

theorem exec_cpa_posts (hp : payloadFault s.dev (s.dev.x b) 4 = none) (h3 : s.dev.my.lmem.word (paddr (s.dev.x b) + 8 * 3) = 0) :
    let word := fun i => s.dev.my.lmem.word (paddr (s.dev.x b) + 8 * i)
    exec (.cpa d a b cf) s = postCopy s (.cpa (s.dev.x d) (s.dev.x a) (word 0) (word 1) (word 2)) 0 [] (compField cf)
      (compCtr s.dev cf.creg) (fun d => d) (fun t => t) := by
  show execCpa d a b cf s = _
  rw [execCpa, copyStalls_of_ready hs, tableRead_of_ok hp, Mem.words_four]
  exact if_neg (fun h => h h3)

theorem exec_cpm_posts {n : Nat} (hl : lenOf s.dev len = some n) (h1 : payloadFault s.dev (s.dev.x d) 1 = none)
    (hres : bits (s.dev.my.lmem.word (paddr (s.dev.x d) + 8 * 0)) 63 5 = 0) {size : Nat}
    (hsize : bits (s.dev.my.lmem.word (paddr (s.dev.x d) + 8 * 0)) 4 0 + 1 = size) (hall : payloadFault s.dev (s.dev.x d) (size + 1) = none) :
    let dests := (List.range size).map (fun i => s.dev.my.lmem.word (paddr (s.dev.x d) + 8 * (i + 1)))
    exec (.cpm d a len cf) s = postCopy s (.cpm (s.dev.x d) (s.dev.x a) n dests) 0 (List.range size) (compField cf)
      (compCtr s.dev cf.creg) (fun d => d) (fun t => t) := by
  subst hsize
  intro dests
  show execCpm d a len cf s = _
  rw [execCpm, copyStalls_of_ready hs, hl]
  dsimp only
  rw [listRead_of_ok h1 hres hall, upto, List.length_map, List.length_range]

end

/-! ### A stopped copy is taken up (R361, R363) -/

/-- Word `i` of the progress record of a tag. -/
def Core.progress (c : Core) (tag i : Nat) : Word := c.lmem.word (progressAt c tag + 8 * i)

/-- The pointer to the completion counter that a progress record keeps, where its copy has one. -/
def Core.progressCtr (c : Core) (tag : Nat) : Option Word :=
  if hasCtr (BitVec.ofNat 16 (bits (c.progress tag 4) 47 32)) then some (c.progress tag 3) else none

/-- The kind is taken out of a progress record whose copy is posted again. -/
def Core.spendRecord (c : Core) (at_ : Nat) (w0 : Word) : Core := { c with lmem := c.lmem.setWord at_ (w64 (bits w0 59 0)) }

/-- What `cpres` posts for a copy of kind `k` and entries `among`. -/
def resume (s : State) (d : XReg) (tag : Nat) (k : CpKind) (among : List Nat) : Out :=
  let c := s.dev.my
  postCopy s k (bits (c.progress tag 0) 47 0) among (BitVec.ofNat 16 (bits (c.progress tag 4) 47 32)) (c.progressCtr tag)
    (fun v => v.onMy (fun x => x.spendRecord (progressAt c tag) (c.progress tag 0))) (fun t => t.setX d 0) true

section
variable {s : State} (hs : CopyReady s) (d : XReg) {tag : BitVec 7}
include hs

theorem exec_cpres_answers (h : s.dev.my.regs.prbase.getLsbD 18 = false ∨ bits (s.dev.my.progress tag.toNat 0) 63 60 = 0 ∨
      3 < bits (s.dev.my.progress tag.toNat 0) 63 60) : exec (.cpres d tag) s = writesX s d 1 := by
  have hnone : (!s.dev.my.regs.prbase.getLsbD 18 || decide (bits (s.dev.my.progress tag.toNat 0) 63 60 = 0) ||
      decide (3 < bits (s.dev.my.progress tag.toNat 0) 63 60)) = true := by
    simpa only [Bool.or_eq_true, Bool.not_eq_true', decide_eq_true_eq, or_assoc] using h
  show execCpres d tag s = _
  rw [execCpres, copyStalls_of_ready hs]
  exact (if_pos hnone).trans (devStep_setX s d 1)

variable (hbase : s.dev.my.regs.prbase.getLsbD 18 = true)
  (hclean : (touched (progressAt s.dev.my tag.toNat) 64).any (fun i => Tab.get false s.dev.my.lpoison i) = false)
include hbase hclean

/-- A record of a kind from 1 to 3 that is read without error: what `cpres` posts goes by its kind. -/
theorem exec_cpres_reads {kind : Nat} (hkind : bits (s.dev.my.progress tag.toNat 0) 63 60 = kind) (h0 : kind ≠ 0) (h3 : ¬3 < kind) :
    let c := s.dev.my
    let w := c.progress tag.toNat
    exec (.cpres d tag) s =
      if kind = 1 then resume s d tag.toNat (.cp (w 1) (w 2) (bits (w 4) 31 0)) []
      else if kind = 2 then resume s d tag.toNat (.cpa (w 1) (w 2) (w 5) (w 6) (w 7)) []
      else listRead s (w 1) (fun l =>
        resume s d tag.toNat (.cpm (w 1) (w 2) (bits (w 4) 31 0) l) ((upto l.length).filter (fun i => (w 5).getLsbD i))) := by
  subst hkind
  have hsome : ¬(!s.dev.my.regs.prbase.getLsbD 18 || decide (bits (s.dev.my.progress tag.toNat 0) 63 60 = 0) ||
      decide (3 < bits (s.dev.my.progress tag.toNat 0) 63 60)) = true := by
    simp only [hbase, h0, h3]
    decide
  show execCpres d tag s = _
  rw [execCpres, copyStalls_of_ready hs]
  exact (if_neg hsome).trans (if_neg (Bool.eq_false_iff.1 hclean))

/-- A list in local memory that a `cpm`'s record points at is read again (R363). -/
theorem exec_cpres_cpm (hkind : bits (s.dev.my.progress tag.toNat 0) 63 60 = 3) {list : Word} (hlist : s.dev.my.progress tag.toNat 1 = list)
    (h1 : payloadFault s.dev list 1 = none) (hres : bits (s.dev.my.lmem.word (paddr list + 8 * 0)) 63 5 = 0) {size : Nat}
    (hsize : bits (s.dev.my.lmem.word (paddr list + 8 * 0)) 4 0 + 1 = size) (hall : payloadFault s.dev list (size + 1) = none) :
    let w := s.dev.my.progress tag.toNat
    exec (.cpres d tag) s = resume s d tag.toNat (.cpm list (w 2) (bits (w 4) 31 0) ((List.range size).map (fun i =>
        s.dev.my.lmem.word (paddr list + 8 * (i + 1))))) ((List.range size).filter (fun i => (w 5).getLsbD i)) := by
  subst hlist hsize
  rw [exec_cpres_reads hs d hbase hclean hkind (by decide) (by decide)]
  dsimp only
  rw [if_neg (by decide), if_neg (by decide), listRead_of_ok h1 hres hall, upto, List.length_map, List.length_range]

end

end Sys2Proof.Machine
end

section
/-! OBLIGATION. Copies enter the engine under their number, and `cpres` takes a stopped copy up (10 R210 to R214, 16 R356 to R358,
R363, 21 R404). -/

namespace Sys2Proof.Machine

/-- Settles O49: each command posts one copy, and a posted copy that passes the checks enters the engine. -/
theorem copiesEnterTheEngine : Obligations.CopiesEnterTheEngine := by
  intro s d a b len cf n tag me f ctr comp word p l size dests at_ rec_ taken enters htag hacq hroom
  have hs : CopyReady s := ⟨htag, hacq, hroom⟩
  have hcomp : comp = compField cf := (compField_eq cf).symm
  have hposts : ∀ {i : Instr} {k : CpKind} {start : Nat} {among : List Nat} {comp : BitVec 16} {ctr : Option Word} {spent : Dev → Dev}
      {g : Slot → Slot} {res : Bool}, exec i s = postCopy s k start among comp ctr spent g res → copyBad s.dev k start ctr = none →
      (spent s.dev).rank = s.dev.rank → (spent s.dev).me = me → (∀ u, (g u).pc = u.pc) →
      enters i k start among comp (ctr.getD 0) (spent s.dev) g res := by
    intro i k start among comp ctr spent g res hexec hok hrank hme hpc
    refine ⟨newCopy s.dev k start among comp (ctr.getD 0) res, ?_, rfl, rfl, rfl, rfl, rfl, rfl, rfl, rfl, rfl, rfl, rfl, rfl, rfl,
      newCopy_live .., newCopy_fails ..⟩
    rw [hexec, postCopy_of_ok hok, takeCopy_eq (f := f) (congrArg Slot.flow hme) rfl hpc, hrank]
    rfl
  have hresumes : ∀ (k : CpKind) (among : List Nat), exec (.cpres d tag) s = resume s d tag.toNat k among →
      copyBad s.dev k (bits (rec_ 0) 47 0) (s.dev.my.progressCtr tag.toNat) = none →
      enters (.cpres d tag) k (bits (rec_ 0) 47 0) among (BitVec.ofNat 16 (bits (rec_ 4) 47 32)) ((s.dev.my.progressCtr tag.toNat).getD 0)
        (s.dev.onMy (fun c => c.spendRecord at_ (rec_ 0))) (fun u => u.setX d 0) true :=
    fun k among hexec hok => hposts hexec hok rfl (Dev.onMy_me rfl) (fun u => Slot.setX_pc u d 0)
  rw [hcomp]
  refine ⟨fun hl => ⟨exec_cp_length hs hl, exec_cpm_length hs hl⟩, fun hl hok => ?_, fun hp h3 hok => ?_, fun hl h1 hres hall hok => ?_,
    fun h => exec_cpres_answers hs d h, ?_⟩
  · exact hposts (exec_cp_posts hs hl) hok rfl rfl fun _ => rfl
  · exact hposts (exec_cpa_posts hs hp h3) hok rfl rfl fun _ => rfl
  · exact hposts (exec_cpm_posts hs hl h1 hres rfl hall) hok rfl rfl fun _ => rfl
  · intro k among hbase hclean comp1 ctr1 list many hkind hok
    obtain ⟨h, rfl, rfl⟩ | ⟨h, rfl, rfl⟩ | ⟨h, h1, hres, hall, rfl, rfl⟩ := hkind
    · exact hresumes _ _ (exec_cpres_reads hs d hbase hclean h (by decide) (by decide)) hok
    · exact hresumes _ _ (exec_cpres_reads hs d hbase hclean h (by decide) (by decide)) hok
    · exact hresumes _ _ (exec_cpres_cpm hs d hbase hclean h rfl h1 hres rfl hall) hok

end Sys2Proof.Machine
end

section
/-! OBLIGATION. Ownership of the device, its host window and its aperture (03 R66, 11 R229 to R233, 24 R436). -/

namespace Sys2Proof.Machine

/-! ### Commands of the claim register (R231, R232) -/

/-- A claim takes a device that is free, or offered to the port that claims it, once it has booted. -/
theorem claimCmd_claim (P : Plat) (p : BitVec 2) : claimCmd P p.toNat 0x100 =
    if P.status = 6 ∧ (P.owned = false ∨ (P.offered = true ∧ P.target = p)) then
      { P with owner := p, owned := true, offered := false, epoch := P.epoch + 1 }
    else P := by
  simp [claimCmd, bits, zeroBits, BitVec.toNat_inj]

/-- The word of an offer to port `t`. -/
def offerWord (t : BitVec 2) : Word := BitVec.ofNat 64 (0x200 + 16 * t.toNat)

theorem offerWord_fields (t : BitVec 2) : bits (offerWord t) 9 8 = 2 ∧ bits (offerWord t) 5 4 = t.toNat ∧
    zeroBits (offerWord t) 63 10 = true ∧ zeroBits (offerWord t) 7 6 = true ∧ zeroBits (offerWord t) 3 0 = true ∧
    isClaim (offerWord t) = false := by
  revert t
  decide

theorem isMaster_iff (P : Plat) (p : BitVec 2) : isMaster P p.toNat = true ↔
    p = 0 ∨ p = 3 ∨ (p = 1 ∧ P.cxlHost1 = true) ∨ (p = 2 ∧ P.cxlHost2 = true) := by
  have h (c1 c2 : Bool) : ∀ p : BitVec 2, (p.toNat == 0 || p.toNat == 3 || (p.toNat == 1 && c1) || (p.toNat == 2 && c2)) = true ↔
      p = 0 ∨ p = 3 ∨ (p = 1 ∧ c1 = true) ∨ (p = 2 ∧ c2 = true) := by
    revert c1 c2
    decide
  exact h P.cxlHost1 P.cxlHost2 p

theorem claimCmd_offer (P : Plat) (p t : BitVec 2) : claimCmd P p.toNat (offerWord t) =
    if isOwner P p.toNat = true ∧ t ≠ p ∧ isMaster P t.toNat = true then { P with offered := true, target := t } else P := by
  obtain ⟨hcmd, ht, h63, h7, h3, -⟩ := offerWord_fields t
  simp [claimCmd, hcmd, ht, h63, h7, h3, and_assoc, BitVec.toNat_inj]

theorem claimCmd_release (P : Plat) (n : Nat) :
    claimCmd P n 0x300 = if isOwner P n = true then P.releaseOwner else P := by
  simp [claimCmd, bits, zeroBits]

/-! ### The commands of one cycle (R232) -/

/-- A cycle's only command, no claim, is performed. -/
theorem settleClaims_owners {P : Plat} {n : Nat} {v : Word} (hc : P.claims = [(n, v)]) (hv : isClaim v = false) :
    settleClaims P = claimCmd { P with claims := [] } n v := by
  have hclaims : (upto 4).flatMap (fun j => [(n, v)].filter (fun e => isClaim e.2 && e.1 == j)) = [] := by simp [hv]
  rw [settleClaims, hc, hclaims]
  simp only [List.filter, hv]
  rfl

/-- Claims alone are performed by rising port. -/
theorem settleClaims_claims {P : Plat} (h : ∀ e ∈ P.claims, isClaim e.2 = true) : settleClaims P =
    ((upto 4).flatMap (fun n => P.claims.filter (fun e => e.1 == n))).foldl (fun p e => claimCmd p e.1 e.2) { P with claims := [] } := by
  have howners : P.claims.filter (fun e => !isClaim e.2) = [] := List.filter_eq_nil_iff.2 fun e he => by simp [h e he]
  have hclaims (n : Nat) : P.claims.filter (fun e => isClaim e.2 && e.1 == n) = P.claims.filter (fun e => e.1 == n) :=
    List.filter_congr fun e he => by rw [h e he, Bool.true_and]
  simp only [settleClaims, howners, hclaims, List.nil_append]

theorem settleClaims_claim {P : Plat} {p : BitVec 2} (hc : P.claims = [(p.toNat, 0x100)]) :
    settleClaims P = claimCmd { P with claims := [] } p.toNat 0x100 := by
  have hsort : ∀ q : BitVec 2, (upto 4).flatMap (fun n => [(q.toNat, (0x100 : Word))].filter (fun e => e.1 == n)) = [(q.toNat, 0x100)] := by
    decide
  rw [settleClaims_claims (by simp [hc, isClaim, bits]), hc, hsort, List.foldl_cons, List.foldl_nil]

/-- Of two claims on a free device the lower port's takes it, and the other finds it taken. -/
theorem settleClaims_two {P : Plat} {p i : BitVec 2} (hc : P.claims = [(p.toNat, 0x100), (i.toNat, 0x100)]) (h6 : P.status = 6)
    (ho : P.owned = false) : settleClaims P = { P with
      claims := [], owner := if p.toNat ≤ i.toNat then p else i, owned := true, offered := false, epoch := P.epoch + 1 } := by
  have hsort : ∀ q j : BitVec 2, (upto 4).flatMap (fun n => [(q.toNat, (0x100 : Word)), (j.toNat, 0x100)].filter (fun e => e.1 == n)) =
      if q.toNat ≤ j.toNat then [(q.toNat, 0x100), (j.toNat, 0x100)] else [(j.toNat, 0x100), (q.toNat, 0x100)] := by
    decide
  have hfirst (q j : BitVec 2) :
      [(q.toNat, (0x100 : Word)), (j.toNat, 0x100)].foldl (fun p e => claimCmd p e.1 e.2) { P with claims := [] } =
        { P with claims := [], owner := q, owned := true, offered := false, epoch := P.epoch + 1 } := by
    rw [List.foldl_cons, List.foldl_cons, List.foldl_nil, claimCmd_claim _ q, if_pos ⟨h6, .inl ho⟩, claimCmd_claim, if_neg (by simp)]
  rw [settleClaims_claims (by simp [hc, isClaim, bits]), hc, hsort]
  split
  · exact hfirst p i
  · exact hfirst i p

theorem settleClaims_nil {P : Plat} (h : P.claims = []) : settleClaims P = P := by
  have hno : (upto 4).flatMap (fun _ => ([] : List (Nat × Word))) = [] := rfl
  rw [settleClaims, h]
  simp only [List.filter_nil, hno, List.nil_append, List.foldl_nil]
  rw [← h]

theorem settleLapsed_plat (d : Dev) : (settleLapsed d).plat = d.plat := by
  unfold settleLapsed
  split <;> rfl

theorem pass_plat (d : Dev) {n : Nat} (h : 0 < n) : (pass d n).plat = settleClaims d.plat := by
  have hclaims : (if d.plat.claims.isEmpty then d else d.onPlat settleClaims).plat = settleClaims d.plat := by
    split
    next he => exact (settleClaims_nil (List.isEmpty_iff.1 he)).symm
    next => rfl
  rw [pass, if_neg (Nat.ne_of_gt h)]
  refine (settleLapsed_plat _).trans ?_
  split <;> exact hclaims

/-! ### Writes of the claim register (R231) -/

/-- A master's command waits for its cycle's end. -/
theorem ctlWrite_claim (s : State) (p : BitVec 2) (v : Word) : ctlWrite s (.port p.toNat) 0x100 v =
    if isMaster s.dev.plat p.toNat = true then { s with dev := s.dev.onPlat (fun x => { x with claims := x.claims ++ [(p.toNat, v)] }) }
    else s := by
  split
  next hm =>
    have hplace : ctlPlace 0x100 = .claim := rfl
    have hv : ctlVerdict s.dev.plat (.port p.toNat) 0x100 = .acts := by simp [ctlVerdict, hplace]
    rw [ctlWrite_port_acts rfl hm hv]
    rfl
  next hm => simp [ctlWrite, hm]

theorem exec_offer (s : State) (p t : BitVec 2) : exec (.offer p t) s = .next (ctlWrite s (.port p.toNat) 0x100 (offerWord t)) := by
  have hword : w64 (0x200 + fld t.toNat 4) = offerWord t := congrArg w64 (by unfold fld; omega)
  exact congrArg (fun w => Host.Outcome.next (ctlWrite s (.port p.toNat) 0x100 w)) hword

/-! ### The host window (R229, 03 R66) -/

/-- A queue's host-wake word is set to `w`. -/
def State.setWake (s : State) (q : Nat) (w : Bool) : State :=
  { s with dev := s.dev.onObjs (fun o => { o with queues := o.queues.map (fun (x : Queue) => if x.num = q then { x with wake := w } else x) }) }

section
variable {s : State} {p : BitVec 2} (hm : isMaster s.dev.plat p.toNat = true) (h3 : p ≠ 3)
include hm h3

theorem hasWindow_of_master : hasWindow s.dev.plat p.toNat = true := by
  have hne : p.toNat ≠ 3 := fun h => h3 (BitVec.eq_of_toNat_eq h)
  simp [hasWindow, hm, hne]

theorem hostWake_owner (ho : isOwner s.dev.plat p.toNat = true) (q : Nat) (w : Bool) : hostWake p q w s = .next (s.setWake q w) := by
  simp [hostWake, hasWindow_of_master hm h3, ho, devStep, State.setWake]

theorem hostWake_stranger (ho : isOwner s.dev.plat p.toNat = false) (q : Nat) (w : Bool) :
    hostWake p q w s = .next { s with dev := countRefused s.dev } := by
  simp [hostWake, hasWindow_of_master hm h3, ho, devStep]

theorem exec_hostWindowPost_stranger (ho : isOwner s.dev.plat p.toNat = false) (q : Nat) (rec : List Word) :
    exec (.hostWindowPost p q rec) s = .next { s with dev := countRefused s.dev } := by
  change execHostWindowPost p q rec s = _
  simp [execHostWindowPost, hasWindow_of_master hm h3, ho, devStep]

/-- A queue whose home has failed takes no post (log 57 says which die is its home). -/
theorem exec_hostWindowPost_waits (ho : isOwner s.dev.plat p.toNat = true) {x : Queue} (hx : x ∈ s.dev.objs.queues)
    (hdown : queueDown s.dev x = true) (rec : List Word) : exec (.hostWindowPost p x.num rec) s = .next s := by
  have hany : s.dev.objs.queues.any (fun y => y.num == x.num && queueDown s.dev y) = true :=
    List.any_eq_true.2 ⟨x, hx, by simp [hdown]⟩
  change execHostWindowPost p x.num rec s = _
  rw [execHostWindowPost, hasWindow_of_master hm h3, ho, hany]
  rfl

theorem exec_hostWindowPost_enters (ho : isOwner s.dev.plat p.toNat = true) {q : Nat} {rec : List Word}
    (hup : ∀ x ∈ s.dev.objs.queues, x.num = q → queueDown s.dev x = false) (h0 : (enqueueRecord s false q none 0 rec).2 = 0) :
    exec (.hostWindowPost p q rec) s = .next ((enqueueRecord s false q none 0 rec).1.setWake q false) := by
  have hany : s.dev.objs.queues.any (fun y => y.num == q && queueDown s.dev y) = false :=
    List.any_eq_false.2 fun x hx => by
      rw [Bool.and_eq_true, beq_iff_eq]
      exact fun ⟨hq, hd⟩ => Bool.false_ne_true ((hup x hx hq).symm.trans hd)
  change execHostWindowPost p q rec s = _
  rw [execHostWindowPost, hasWindow_of_master hm h3, ho, hany]
  exact if_pos h0

end

/-! ### The aperture (R229, 04 R93) -/

theorem exec_hostApertureAccess_byte {s : State} {va : Nat} (hown : s.dev.plat.owned = true) (hva : va < 2 ^ 36) (b : Byte) :
    exec (.hostApertureAccess va 1 (some [b])) s = .next (apertureByte s (Config.hostAsid s.dev.plat.owner.toNat).toNat va b) := by
  change execHostApertureAccess va 1 (some [b]) s = _
  have hin : ¬2 ^ 36 < va + 1 := Nat.not_lt.2 hva
  have hg : (!s.dev.plat.owned || decide (2 ^ 36 < va + 1)) = false := by rw [hown, decide_eq_false hin]; rfl
  rw [execHostApertureAccess, if_neg (Bool.eq_false_iff.1 hg)]
  rfl

section
variable {s : State} {asid va level : Nat} {leaf : Word} (hw : walk s asid va = some (level, leaf))
include hw

/-- The aperture does not reach a leaf with host = 0. -/
theorem apertureByte_hidden (hl : leafHost leaf = false) (b : Byte) : apertureByte s asid va b = s := by
  simp [apertureByte, hw, hl]

theorem apertureByte_glob (hl : leafHost leaf = true) {pa key : Nat}
    (hc : checks78 s.dev.objs asid va 1 false true level leaf = .ok (.glob pa) key) (hx : s.dev.objs.exists pa = true)
    (hlost : s.lost (.glob pa) = false) (b : Byte) : apertureByte s asid va b = s.writeLoc (.glob pa) key [b] := by
  simp [apertureByte, hw, hl, hc, noMemory, hx, hlost]

end

theorem writeLoc_glob_cores (s : State) (pa key : Nat) (bs : List Byte) :
    (s.writeLoc (.glob pa) key bs).dev.plat = s.dev.plat ∧ (s.writeLoc (.glob pa) key bs).dev.cores = s.dev.cores := by
  obtain ⟨m, hm⟩ := writeLoc_onlyMemory s pa key bs
  rw [hm]
  exact ⟨rfl, rfl⟩

/-- Settles O53: each command of the claim register and the order of a cycle's claims; then the window and the aperture, by who writes. -/
theorem ownershipAndHostWindow : Obligations.OwnershipAndHostWindow := by
  unfold Obligations.OwnershipAndHostWindow
  intro s p t q va n rec b leaf level P plat released master owns refused queued heard claimed wakes asid
  have hmaster (i : BitVec 2) : isMaster P i.toNat = true ↔ master i := isMaster_iff P i
  have howns : isOwner P p.toNat = true ↔ owns := isOwner_iff P p
  have hstranger (ho : ¬owns) : isOwner P p.toNat = false := Bool.eq_false_iff.2 (mt howns.1 ho)
  refine ⟨fun hm => ?queued, fun hm => ?ignored, fun n => ⟨fun hn => ⟨pass_plat s.dev hn, pass_now s.dev n⟩, fun hn => hn ▸ rfl⟩,
    fun hc => ?claim, fun i hc h6 ho => ?two, fun hc => ?offer, fun hc => ?release, fun ho h3 => ?down, fun ho => ?downStranger,
    fun ho h3 => ?reset, fun hm h3 ho hdown hex => ?waits, fun hm h3 ho => ?enters, fun hm h3 ho => ?wakes, fun hm h3 ho => ?refused, rfl,
    fun hown hva hw => ⟨fun hl => ?hidden, fun hl pa key hc hx hlost => ?written⟩⟩
  case queued =>
    have hw (v : Word) : (.next (ctlWrite s (.port p.toNat) 0x100 v) : Out) = queued v :=
      congrArg _ ((ctlWrite_claim s p v).trans (if_pos ((hmaster p).2 hm)))
    exact ⟨hw 0x100, (exec_offer s p t).trans (hw _), hw 0x300⟩
  case ignored =>
    have hw (v : Word) : (.next (ctlWrite s (.port p.toNat) 0x100 v) : Out) = .next s :=
      congrArg _ ((ctlWrite_claim s p v).trans (if_neg (mt (hmaster p).1 hm)))
    exact ⟨hw 0x100, (exec_offer s p t).trans (hw _), hw 0x300⟩
  case claim => exact (settleClaims_claim hc).trans (claimCmd_claim heard p)
  case two => exact settleClaims_two hc h6 ho
  case offer =>
    obtain ⟨-, -, -, -, -, hnot⟩ := offerWord_fields t
    refine (settleClaims_owners hc hnot).trans ((claimCmd_offer heard p t).trans ?_)
    exact if_congr (and_congr howns (and_congr_right' (hmaster t))) rfl rfl
  case release =>
    refine (settleClaims_owners hc (by decide)).trans ((claimCmd_release heard p.toNat).trans ?_)
    exact if_congr howns rfl rfl
  case down =>
    have hg : (isOwner P p.toNat && decide (p ≠ 3)) = true := by rw [howns.2 ho, decide_eq_true h3]; rfl
    exact if_pos hg
  case downStranger =>
    have hg : ¬(isOwner P p.toNat && decide (p ≠ 3)) = true := by rw [hstranger ho]; exact Bool.false_ne_true
    exact if_neg hg
  case reset => exact if_pos ((isOwner_iff P 3).2 ⟨ho, h3⟩)
  case waits =>
    obtain ⟨x, hx, rfl⟩ := hex
    exact exec_hostWindowPost_waits ((hmaster p).2 hm) h3 (howns.2 ho) hx (hdown x hx rfl) rec
  case enters => exact exec_hostWindowPost_enters ((hmaster p).2 hm) h3 (howns.2 ho)
  case wakes =>
    have hw := hostWake_owner ((hmaster p).2 hm) h3 (howns.2 ho) q
    exact ⟨hw true, hw false⟩
  case refused =>
    have hw := hostWake_stranger ((hmaster p).2 hm) h3 (hstranger ho) q
    exact ⟨exec_hostWindowPost_stranger ((hmaster p).2 hm) h3 (hstranger ho) q rec, hw true, hw false⟩
  case hidden => exact (exec_hostApertureAccess_byte hown hva b).trans (congrArg _ (apertureByte_hidden hw hl b))
  case written =>
    obtain ⟨hplat, hcores⟩ := writeLoc_glob_cores s pa key [b]
    exact ⟨_, (exec_hostApertureAccess_byte hown hva b).trans (congrArg _ (apertureByte_glob hw hl hc hx hlost b)), writeLoc_mem s pa key [b],
      hplat, hcores⟩

end Sys2Proof.Machine
end

section
/-! SUPPORT. What the restore of a context leaves of cores' local memories, of their registers and of the platform (11 R247, 20 R389). -/

namespace Sys2Proof.Machine

/-! ### One change after another -/

/-- Where one element of a list brings about `P`, and every element keeps it, `P` stands after them all. `I` is what they all keep. -/
theorem foldl_establishes {α β : Type} {f : β → α → β} (I P : β → Prop) {l : List α} (hI : ∀ a ∈ l, ∀ b, I b → I (f b a))
    (hkeep : ∀ a ∈ l, ∀ b, I b → P b → P (f b a)) {x : α} (hset : ∀ b, I b → P (f b x)) {b : β} (hb : I b) (h : P b ∨ x ∈ l) :
    P (l.foldl f b) := by
  induction l generalizing b with
  | nil => simpa using h
  | cons a l ih =>
    obtain ⟨hIa, hIl⟩ := List.forall_mem_cons.1 hI
    obtain ⟨hka, hkl⟩ := List.forall_mem_cons.1 hkeep
    refine ih hIl hkl (hIa b hb) ?_
    rcases h with hP | hx
    · exact .inl (hka b hb hP)
    · rcases List.mem_cons.1 hx with rfl | hx
      · exact .inl (hset b hb)
      · exact .inr hx

/-! ### What a restored context leaves -/

/-- From one device to another the platform and every core's registers stay, and of local memories at most core `r`'s changes, in its
canonical form. -/
structure Dev.OnlyImage (r : Nat) (d d' : Dev) : Prop where
  plat : d'.plat = d.plat
  regs : ∀ q, (d'.core q).regs = (d.core q).regs
  lmem : ∀ q, q ≠ r → (d'.core q).lmem = (d.core q).lmem
  wf : (d.core r).lmem.wf = true → (d'.core r).lmem.wf = true

section
variable {r : Nat}

theorem Dev.OnlyImage.refl (d : Dev) : d.OnlyImage r d := ⟨rfl, fun _ => rfl, fun _ _ => rfl, id⟩

theorem Dev.OnlyImage.trans {a b c : Dev} (h : a.OnlyImage r b) (g : b.OnlyImage r c) : a.OnlyImage r c :=
  ⟨g.plat.trans h.plat, fun q => (g.regs q).trans (h.regs q), fun q hq => (g.lmem q hq).trans (h.lmem q hq), g.wf ∘ h.wf⟩

theorem Dev.OnlyImage.of_core {d d' : Dev} (hp : d'.plat = d.plat)
    (hc : ∀ q, (d'.core q).regs = (d.core q).regs ∧ (d'.core q).lmem = (d.core q).lmem) : d.OnlyImage r d' :=
  ⟨hp, fun q => (hc q).1, fun q _ => (hc q).2, fun h => (congrArg Mem.wf (hc r).2).trans h⟩

theorem Dev.OnlyImage.foldl {α : Type} {f : Dev → α → Dev} (hf : ∀ (d : Dev) a, d.OnlyImage r (f d a)) (l : List α) (d : Dev) :
    d.OnlyImage r (l.foldl f d) := by
  induction l generalizing d with
  | nil => exact .refl d
  | cons a l ih => exact (hf d a).trans (ih _)

theorem Dev.onCore_onlyImage (d : Dev) {f : Core → Core} (hr : (f (d.core r)).regs = (d.core r).regs)
    (hw : (d.core r).lmem.wf = true → (f (d.core r)).lmem.wf = true) : d.OnlyImage r (d.onCore r f) := by
  refine ⟨rfl, fun q => ?_, fun q hq => ?_, fun h => ?_⟩ <;> rw [Dev.onCore_core]
  · split
    next e => rw [← e, hr]
    next => rfl
  · rw [if_neg hq.symm]
  · rw [if_pos rfl]
    exact hw h

theorem Dev.onEng_onlyImage (d : Dev) (f : CoreEng → CoreEng) : d.OnlyImage r (d.onEng r f) := d.onCore_onlyImage rfl id

theorem Dev.onSlot_onlyImage (d : Dev) (k : Nat) (f : Slot → Slot) : d.OnlyImage r (d.onSlot r k f) := d.onCore_onlyImage rfl id

theorem Dev.onThrFlow_onlyImage (d : Dev) (k : Nat) (f : Flow → Flow) : d.OnlyImage r (d.onThrFlow r k f) := by
  unfold Dev.onThrFlow Dev.onThr
  split_ifs
  · exact .refl d
  · exact d.onSlot_onlyImage k _
  · exact d.onEng_onlyImage _

theorem Dev.sendReady_onlyImage (d : Dev) (k : Nat) : d.OnlyImage r (d.sendReady r k) := by
  refine .foldl (fun d q => ?_) _ d
  split
  · exact d.onThrFlow_onlyImage k _
  · exact .refl d

theorem Dev.postMiss_onlyImage (d : Dev) (asid page va : Nat) : d.OnlyImage r (d.postMiss r asid page va) :=
  (d.onEng_onlyImage _).trans (Dev.onSlot_onlyImage _ 12 _)

theorem Dev.relabel_onlyImage (d : Dev) (q k key : Nat) : d.OnlyImage r (d.relabel q k key) := by
  obtain ⟨u, f, heq, -, hcore⟩ := d.relabel_eq q k key
  refine .of_core rfl fun j => ?_
  rw [heq, Dev.onEng_core]
  split
  next e => subst e; rw [hcore]; exact ⟨rfl, rfl⟩
  next => rw [hcore]; exact ⟨rfl, rfl⟩

theorem renameLead_onlyImage (d : Dev) (old new : Nat) : d.OnlyImage r (renameLead d r old new) := by
  unfold renameLead
  exact d.onCore_onlyImage rfl id

theorem regroup_onlyImage (d : Dev) (k : Nat) (q : Saved) : d.OnlyImage r (regroup d r k q).1 := by
  unfold regroup
  dsimp only
  split
  · exact Dev.OnlyImage.trans (d.onEng_onlyImage _) (renameLead_onlyImage _ q.key k)
  · dsimp only
    exact d.onEng_onlyImage _

/-- Of cores' memories and registers, a restored context changes the local memory of its own core at most: its gate frames. -/
theorem restoreContext_onlyImage (s : State) (k pa : Nat) : s.dev.OnlyImage r (restoreContext s r k pa).dev := by
  have hposts (d : Dev) (l : List Req) : d.OnlyImage r (l.foldl
      (fun d q => if q.ready then d else d.postMiss r q.asid (paddr q.ptr / 2 ^ 16) (paddr q.ptr)) (d.sendReady r k)) := by
    refine (d.sendReady_onlyImage k).trans (.foldl (fun d q => ?_) _ _)
    split
    · exact .refl d
    · exact d.postMiss_onlyImage _ _ _
  refine .trans ?gates (hposts _ _)
  refine .trans ?engines (Dev.onCore_onlyImage _ rfl fun hc => foldl_mem_wf hc fun m i hm => Mem.setBytes_wf _ _ _ hm)
  refine .trans (.trans ?adopted (Dev.onEng_onlyImage _ _)) (.trans (Dev.onSlot_onlyImage _ k _) (Dev.onEng_onlyImage _ _))
  cases savedAt (s.dev.core r).eng pa with
  | none => exact .refl _
  | some q => exact (regroup_onlyImage s.dev k q).trans (Dev.relabel_onlyImage _ r q.key k)

end

end Sys2Proof.Machine
end

section
/-! SUPPORT. The save area of a die: the images that a restore reads and a save writes (11 R247). -/

namespace Sys2Proof.Machine

theorem mem_helpers_iff (k : Nat) : k ∈ (upto 11).filter isHelper ↔ 1 ≤ k ∧ k ≤ 10 := by
  rw [List.mem_filter, isHelper_iff, upto, List.mem_range]
  omega

theorem helpersFree_iff (d : Dev) (n : Nat) : helpersFree d n = true ↔
    ∀ c, c < 256 → ∀ k, 1 ≤ k → k ≤ 10 → (d.slot (n * 256 + c) k).life = .free := by
  have hupto (c : Nat) : c ∈ upto 256 ↔ c < 256 := List.mem_range
  simp only [helpersFree, dieCores, List.all_map, List.all_eq_true, mem_helpers_iff, hupto, beq_iff_eq, and_imp, Function.comp_apply]

theorem saveBase_core (o : DieOp) {n : Nat} (hn : n < 256) (c : Nat) : saveBase o (o.die * 256 + n) + c = o.base + n * 0x100000 + c := by
  unfold saveBase
  omega

theorem mem_dieCores_of_lt (m : Nat) {n : Nat} (hn : n < 256) : m * 256 + n ∈ dieCores m :=
  (mem_dieCores_iff m _).2 (by unfold dieOf; omega)

/-! ### Restoring a die -/

/-- The image of core `r` comes back to its local memory, above the program. -/
def restoreImage (o : DieOp) (s : State) (r : Nat) : State :=
  let lo := (s.dev.core r).regs.xb.toNat * 12
  { s with dev := s.dev.onCore r (fun c => { c with lmem := c.lmem.setBytes lo (s.mem.bytes (saveBase o r + lo) (0x40000 - lo)) }) }

/-- The frame word of slot `k` that says whether its frame is valid. -/
def frameFlag (o : DieOp) (r k : Nat) : Nat := saveBase o r + 0x40000 + (k - 1) * 0x10000 + 48

/-- A valid frame of slot `k` is restored where it may be, and its status is written. -/
def restoreFrame (o : DieOp) (r : Nat) (s : State) (k : Nat) : State :=
  let f := saveBase o r + 0x40000 + (k - 1) * 0x10000
  if (s.mem.word (frameFlag o r k)).getLsbD 63 then
    let st := restoreStatus s.dev s.mem r k f
    let s2 := if st = 0 then restoreContext s r k f else s
    s2.physMem (s2.mem.write (saveBase o r + 0xE0000 + k) (BitVec.ofNat 8 st)) (saveBase o r + 0xE0000 + k) 1
  else s.physMem (s.mem.write (saveBase o r + 0xE0000 + k) 0xFF) (saveBase o r + 0xE0000 + k) 1

/-- One core of a die is restored. -/
def restoreCore (o : DieOp) (s : State) (r : Nat) : State := ((upto 11).filter isHelper).foldl (restoreFrame o r) (restoreImage o s r)

theorem restoreDie_eq (s : State) (o : DieOp) : restoreDie s o = (dieCores o.die).foldl (restoreCore o) s := rfl

/-- What the restore of core `r` leaves: the platform, every core's registers and every other core's memory; and of global memory all
but the statuses of frames. -/
structure State.Restores (o : DieOp) (r : Nat) (s t : State) : Prop where
  dev : s.dev.OnlyImage r t.dev
  wf : s.mem.wf = true → t.mem.wf = true
  read : s.mem.wf = true → ∀ q c, c < 0xE0000 → t.mem.read (saveBase o q + c) = s.mem.read (saveBase o q + c)

section
variable {o : DieOp} {r : Nat}

theorem State.Restores.of_mem_eq {s t : State} (h : s.dev.OnlyImage r t.dev) (hm : t.mem = s.mem) : s.Restores o r t :=
  ⟨h, fun hw => hm ▸ hw, fun _ _ _ _ => by rw [hm]⟩

theorem State.Restores.trans {a b c : State} (h : a.Restores o r b) (g : b.Restores o r c) : a.Restores o r c :=
  ⟨h.dev.trans g.dev, g.wf ∘ h.wf, fun hw q z hz => (g.read (h.wf hw) q z hz).trans (h.read hw q z hz)⟩

theorem State.Restores.frameFlag {s t : State} (h : s.Restores o r t) (hw : s.mem.wf = true) (q : Nat) {k : Nat} (hk : k ≤ 10) :
    t.mem.word (frameFlag o q k) = s.mem.word (frameFlag o q k) := by
  refine Mem.word_congr _ _ _ fun b hlo hhi => ?_
  unfold Machine.frameFlag at hlo hhi
  have hb := h.read hw q (b - saveBase o q) (by omega)
  rwa [show saveBase o q + (b - saveBase o q) = b by omega] at hb

/-- A frame's status, written. -/
theorem physMem_restores (s : State) {k : Nat} (hk : k ≤ 10) (st : Byte) :
    s.Restores o r (s.physMem (s.mem.write (saveBase o r + 0xE0000 + k) st) (saveBase o r + 0xE0000 + k) 1) := by
  refine ⟨.of_core rfl fun _ => ⟨rfl, rfl⟩, Mem.write_wf _ _ _, fun hw q c hc => ?_⟩
  have hne : saveBase o r + 0xE0000 + k ≠ saveBase o q + c := by
    unfold saveBase
    omega
  exact (Mem.read_write _ _ _ _ hw).trans (if_neg hne)

theorem restoreFrame_restores (s : State) {k : Nat} (hk : k ≤ 10) : s.Restores o r (restoreFrame o r s k) := by
  unfold restoreFrame
  dsimp only
  split
  · refine .trans ?_ (physMem_restores _ hk _)
    split
    · exact .of_mem_eq (restoreContext_onlyImage s k _) rfl
    · exact .of_mem_eq (.refl _) rfl
  · exact physMem_restores s hk _

/-- No frame stands for the slot: its core's memory stays. -/
theorem restoreFrame_lmem {s : State} {k : Nat} (h : (s.mem.word (frameFlag o r k)).getLsbD 63 = false) (q : Nat) :
    ((restoreFrame o r s k).dev.core q).lmem = (s.dev.core q).lmem := by
  unfold restoreFrame
  dsimp only
  rw [if_neg (Bool.eq_false_iff.1 h)]
  rfl

theorem restoreImage_restores (s : State) : s.Restores o r (restoreImage o s r) :=
  .of_mem_eq (s.dev.onCore_onlyImage (f := fun c => { c with lmem := c.lmem.setBytes ((s.dev.core r).regs.xb.toNat * 12) _ }) rfl
    fun hc => Mem.setBytes_wf _ _ _ hc) rfl

theorem restoreFrames_restores {l : List Nat} (hl : ∀ k ∈ l, k ≤ 10) (s : State) : s.Restores o r (l.foldl (restoreFrame o r) s) := by
  induction l generalizing s with
  | nil => exact .of_mem_eq (.refl _) rfl
  | cons k l ih =>
    obtain ⟨hk, hl⟩ := List.forall_mem_cons.1 hl
    exact (restoreFrame_restores s hk).trans (ih hl _)

theorem helpers_le {k : Nat} (h : k ∈ (upto 11).filter isHelper) : k ≤ 10 := ((mem_helpers_iff k).1 h).2

theorem restoreCore_restores (s : State) : s.Restores o r (restoreCore o s r) :=
  (restoreImage_restores s).trans (restoreFrames_restores (fun _ => helpers_le) _)

/-- Core `r`'s save area holds no valid frame. -/
def NoFrames (o : DieOp) (r : Nat) (m : Mem) : Prop := ∀ k, 1 ≤ k → k ≤ 10 → (m.word (frameFlag o r k)).getLsbD 63 = false

theorem State.Restores.noFrames {s t : State} {q : Nat} (h : s.Restores o q t) (hw : s.mem.wf = true) (hn : NoFrames o r s.mem) :
    NoFrames o r t.mem := fun k h1 h10 => by rw [h.frameFlag hw r h10, hn k h1 h10]

/-- With no valid frame a core's memory above the program is its image. -/
theorem restoreCore_lmem {s : State} (hw : s.mem.wf = true) (hn : NoFrames o r s.mem) (hc : (s.dev.core r).lmem.wf = true) {a : Nat}
    (hlo : (s.dev.core r).regs.xb.toNat * 12 ≤ a) (hhi : a < 0x40000) :
    ((restoreCore o s r).dev.core r).lmem.read a = s.mem.read (saveBase o r + a) := by
  have hframes (l : List Nat) (hl : ∀ k ∈ l, 1 ≤ k ∧ k ≤ 10) (u : State) (hu : u.mem.wf = true) (hno : NoFrames o r u.mem) :
      ((l.foldl (restoreFrame o r) u).dev.core r).lmem = (u.dev.core r).lmem := by
    induction l generalizing u with
    | nil => rfl
    | cons k l ih =>
      obtain ⟨⟨h1, h10⟩, hl⟩ := List.forall_mem_cons.1 hl
      have hk := restoreFrame_restores (o := o) (r := r) u h10
      exact (ih hl _ (hk.wf hu) (hk.noFrames hu hno)).trans (restoreFrame_lmem (hno k h1 h10) r)
  rw [restoreCore, hframes _ (fun k hk => (mem_helpers_iff k).1 hk) (restoreImage o s r) hw hn, restoreImage, Dev.onCore_core_self]
  refine (Mem.read_setBytes_bytes _ _ _ _ _ hc).trans ((if_pos ⟨hlo, by omega⟩).trans ?_)
  congr 1
  omega

end

theorem restoreDie_plat (s : State) (o : DieOp) : (restoreDie s o).dev.plat = s.dev.plat := by
  rw [restoreDie_eq]
  induction dieCores o.die generalizing s with
  | nil => rfl
  | cons r l ih => exact (ih _).trans (restoreCore_restores s).dev.plat

/-- While a die is restored from `s`, core `q` without a frame still finds there what its own restore reads. -/
structure ImageWaits (o : DieOp) (q : Nat) (s t : State) : Prop where
  wf : t.mem.wf = true
  noFrames : NoFrames o q t.mem
  lmem : (t.dev.core q).lmem.wf = true
  regs : (t.dev.core q).regs = (s.dev.core q).regs
  read : ∀ c, c < 0xE0000 → t.mem.read (saveBase o q + c) = s.mem.read (saveBase o q + c)

/-- A core of the die with no valid frame has its image back above the program, whatever the other cores' frames do. -/
theorem restoreDie_lmem {s : State} {o : DieOp} {q : Nat} (hq : q ∈ dieCores o.die) (hw : s.mem.wf = true) (hn : NoFrames o q s.mem)
    (hc : (s.dev.core q).lmem.wf = true) {a : Nat} (hlo : (s.dev.core q).regs.xb.toNat * 12 ≤ a) (hhi : a < 0x40000) :
    ((restoreDie s o).dev.core q).lmem.read a = s.mem.read (saveBase o q + a) := by
  have hcore (t : State) (r : Nat) := restoreCore_restores (o := o) (r := r) t
  rw [restoreDie_eq]
  have hown (t : State) (ht : ImageWaits o q s t) : ((restoreCore o t q).dev.core q).lmem.read a = s.mem.read (saveBase o q + a) :=
    (restoreCore_lmem ht.wf ht.noFrames ht.lmem (ht.regs ▸ hlo) hhi).trans (ht.read a (by omega))
  refine foldl_establishes (ImageWaits o q s) (fun t => (t.dev.core q).lmem.read a = s.mem.read (saveBase o q + a)) (x := q)
    (fun r _ t ht => ?step) (fun r _ t ht hP => ?other) hown ⟨hw, hn, hc, rfl, fun _ _ => rfl⟩ (.inr hq)
  case other =>
    by_cases h : q = r
    · subst h
      exact hown t ht
    · rw [(hcore t r).dev.lmem q h, hP]
  case step =>
    refine ⟨(hcore t r).wf ht.wf, (hcore t r).noFrames ht.wf ht.noFrames, ?_, ((hcore t r).dev.regs q).trans ht.regs,
      fun c h => ((hcore t r).read ht.wf q c h).trans (ht.read c h)⟩
    by_cases h : q = r
    · subst h
      exact (hcore t q).dev.wf ht.lmem
    · rw [(hcore t r).dev.lmem q h]
      exact ht.lmem

/-! ### Saving a die -/

/-- The frame of a slot that held no thread is marked as none. -/
def unsavedFrame (s : State) (o : DieOp) (r : Nat) (m : Mem) (k : Nat) : Mem :=
  let f := saveBase o r + 0x40000 + (k - 1) * 0x10000
  if (s.dev.core r).eng.saved.any (fun q => q.frame == f && q.slot == k) then m else m.setWord (f + 48) 0

theorem unsavedFrame_wf {s : State} {o : DieOp} {r : Nat} {m : Mem} (hm : m.wf = true) (k : Nat) : (unsavedFrame s o r m k).wf = true := by
  unfold unsavedFrame
  dsimp only
  split
  · exact hm
  · exact Mem.setWord_wf _ _ _ hm

theorem unsavedFrame_read {s : State} {o : DieOp} {r : Nat} {m : Mem} (hm : m.wf = true) {k : Nat} (hk : k ≤ 10) (q : Nat) {a : Nat}
    (ha : a < 0x40000) : (unsavedFrame s o r m k).read (saveBase o q + a) = m.read (saveBase o q + a) := by
  unfold unsavedFrame
  dsimp only
  split
  · rfl
  · refine Mem.read_writeN_outside 8 _ _ _ _ hm ?_
    unfold saveBase
    omega

/-- Core `r`'s part of the save area: its image, and what says which frames stand. -/
def writeImage (s : State) (o : DieOp) (m : Mem) (r : Nat) : Mem :=
  ((upto 11).filter isHelper).foldl (unsavedFrame s o r) (m.setBytes (saveBase o r) ((s.dev.core r).lmem.bytes 0 0x40000))

theorem writeImages_mem (s : State) (o : DieOp) : (writeImages s o).mem = (dieCores o.die).foldl (writeImage s o) s.mem := by
  unfold writeImages writeImage unsavedFrame
  rw [State.withDev_mem, State.physMem_mem]

theorem writeImage_wf (s : State) (o : DieOp) {m : Mem} (hm : m.wf = true) (r : Nat) : (writeImage s o m r).wf = true := by
  unfold writeImage
  exact foldl_mem_wf (Mem.setBytes_wf _ _ _ hm) fun u k hu => unsavedFrame_wf hu k

/-- Where images lie, one core's part of a save writes its image and nothing else. -/
theorem writeImage_read (s : State) (o : DieOp) {m : Mem} (hm : m.wf = true) (r q : Nat) {a : Nat} (ha : a < 0x40000) :
    (writeImage s o m r).read (saveBase o q + a) =
      if q % 256 = r % 256 then (s.dev.core r).lmem.read a else m.read (saveBase o q + a) := by
  have hframes (l : List Nat) (hl : ∀ k ∈ l, k ≤ 10) (u : Mem) (hu : u.wf = true) :
      (l.foldl (unsavedFrame s o r) u).read (saveBase o q + a) = u.read (saveBase o q + a) := by
    induction l generalizing u with
    | nil => rfl
    | cons k l ih =>
      obtain ⟨hk, hl⟩ := List.forall_mem_cons.1 hl
      exact (ih hl _ (unsavedFrame_wf hu k)).trans (unsavedFrame_read hu hk q ha)
  rw [writeImage, hframes _ (fun _ => helpers_le) _ (Mem.setBytes_wf _ _ _ hm), Mem.read_setBytes_bytes _ _ _ _ _ hm]
  unfold saveBase
  split
  next h =>
    rw [if_pos (by omega)]
    congr 1
    omega
  next h => rw [if_neg (by omega)]

/-- After a save each core's image stands in the area. -/
theorem writeImages_read {s : State} (hw : s.mem.wf = true) (o : DieOp) {q : Nat} (hq : q ∈ dieCores o.die) {a : Nat} (ha : a < 0x40000) :
    (writeImages s o).mem.read (saveBase o q + a) = (s.dev.core q).lmem.read a := by
  rw [writeImages_mem]
  refine foldl_establishes (fun m : Mem => m.wf = true) (fun m => m.read (saveBase o q + a) = (s.dev.core q).lmem.read a) (x := q)
    (fun r _ m hm => writeImage_wf s o hm r) (fun r hr m hm hP => ?_) (fun m hm => (writeImage_read s o hm q q ha).trans (if_pos rfl)) hw (.inr hq)
  have hdie : dieOf q = dieOf r := ((mem_dieCores_iff _ _).1 hq).trans ((mem_dieCores_iff _ _).1 hr).symm
  rw [writeImage_read s o hm r q ha]
  split
  next h =>
    have hqr : q = r := by
      unfold dieOf at hdie
      omega
    rw [hqr]
  next => exact hP

/-- With every helper slot free a save asks no thread to halt. -/
theorem beginSave_of_helpersFree {d : Dev} {o : DieOp} (h : helpersFree d o.die = true) : beginSave d o = d := by
  refine foldl_eq_self fun r hr => foldl_eq_self fun k hk => ?_
  have hfree := List.all_eq_true.1 (List.all_eq_true.1 h r hr) k hk
  rw [beq_iff_eq.1 hfree]
  rfl

end Sys2Proof.Machine
end

section
/-! OBLIGATION. Buffer reclaim, die save and die restore (11 R246, R247). -/

namespace Sys2Proof.Machine

/-! ### Buffer reclaim (R246) -/

/-- The entry that a reclaim names. -/
def reclaimed (d : Dev) (v : Word) : BindEnt := d.bindEnt (bits v 10 0) (bits v 15 11)

/-- The reclaim register once a command is judged. -/
def Dev.reclaimJudged (d : Dev) (v : Word) (no : Bool) : Dev :=
  d.onPlat (fun x => { x with reclaim := v.setWidth 16, reclaimRefused := no })

/-- Reclaim of an idle entry: through a refresh where it is its guard's last exclusive holder here, through the manager where its guard
is a peer's, at once otherwise. -/
def Dev.reclaimIdle (d : Dev) (v : Word) : Dev :=
  let b := reclaimed d v
  let r := bits v 10 0
  let e := bits v 15 11
  let d1 := d.reclaimJudged v false
  let gone := d1.onEng r (fun x => { x with bind := Tab.set x.bind e {} })
  if isLast d.objs r e b then
    match guardOf d.objs b.guard.toNat with
    | some g => (startRefresh d1 g { blankXfer with rank := r, entry := e, after := 3 }).onPlat (fun p => { p with reclaimBusy := true })
    | none => d1
  else match b.gpeer with
    | some p => if b.valid && b.epoch ≠ 0xFFFF then (askPeer d1 r e b p).onPlat (fun p => { p with reclaimBusy := true }) else gone
    | none => gone

theorem reclaimWrite_of_busy {d : Dev} (h : d.plat.reclaimBusy = true) (v : Word) : reclaimWrite d v = d := if_pos h

theorem reclaimWrite_go {d : Dev} {v : Word} (hbusy : d.plat.reclaimBusy = false) (hgo : v.getLsbD 63 = true) :
    reclaimWrite d v = if (reclaimed d v).mode ≠ 0 || (d.die (dieOf (bits v 10 0))).failed then d.reclaimJudged v true else d.reclaimIdle v := by
  have hset : ¬(!v.getLsbD 63) = true := by rw [hgo]; exact Bool.false_ne_true
  unfold reclaimWrite
  rw [if_neg (Bool.eq_false_iff.1 hbusy)]
  exact if_neg hset

theorem super_reclaim {s : State} (h5 : 5 ≤ s.dev.plat.status.toNat) (h15 : s.dev.plat.status ≠ 15#4) (v : Word) :
    exec (.bufferReclaim .supervisor v) s = .next { s with dev := reclaimWrite s.dev v } := by
  change (.next (ctlWrite s .super 0x580 v) : Out) = _
  rw [super_block h5 h15 rfl rfl]
  rfl

theorem startRefresh_sameBuffers (d : Dev) (g : Guard) (x : Xfer) : d.SameBuffers (startRefresh d g x) := by
  unfold startRefresh
  exact d.onEng_sameBuffers _ rfl

/-- An entry that is its guard's last exclusive holder leaves once its sub-blocks are at their home. -/
theorem Dev.reclaimIdle_last {d : Dev} {v : Word} (h : isLast d.objs (bits v 10 0) (bits v 15 11) (reclaimed d v) = true) :
    (d.reclaimIdle v).plat.reclaimBusy = true ∧ d.SameBuffers (d.reclaimIdle v) := by
  obtain ⟨g, hg⟩ : ∃ g, guardOf d.objs (reclaimed d v).guard.toNat = some g := by
    unfold isLast at h
    split at h
    next g hg => exact ⟨g, hg⟩
    next => exact absurd h Bool.false_ne_true
  unfold Dev.reclaimIdle
  dsimp only
  rw [if_pos h, hg]
  obtain ⟨hlmem, hbind⟩ := startRefresh_sameBuffers (d.reclaimJudged v false) g
    { blankXfer with rank := bits v 10 0, entry := bits v 15 11, after := 3 }
  exact ⟨rfl, hlmem, hbind⟩

/-- An entry of a peer's guard leaves once the manager there, which lies outside (log 7), has answered. -/
theorem Dev.reclaimIdle_peer {d : Dev} {v : Word} {p : Nat} (hl : isLast d.objs (bits v 10 0) (bits v 15 11) (reclaimed d v) = false)
    (hp : (reclaimed d v).gpeer = some p) (hv : (reclaimed d v).valid = true) (he : (reclaimed d v).epoch ≠ 0xFFFF) :
    (d.reclaimIdle v).plat.reclaimBusy = true ∧ d.SameBuffers (d.reclaimIdle v) := by
  have hask : ((reclaimed d v).valid && decide ((reclaimed d v).epoch ≠ 0xFFFF)) = true := by rw [hv, decide_eq_true he]; rfl
  unfold Dev.reclaimIdle
  dsimp only
  rw [if_neg (Bool.eq_false_iff.1 hl), hp]
  dsimp only
  rw [if_pos hask]
  refine ⟨rfl, ?_⟩
  unfold askPeer
  split <;> exact ⟨fun _ => rfl, fun _ => rfl⟩

theorem Dev.reclaimIdle_at_once {d : Dev} {v : Word} (hl : isLast d.objs (bits v 10 0) (bits v 15 11) (reclaimed d v) = false)
    (hp : (reclaimed d v).gpeer = none) : d.reclaimIdle v =
      (d.reclaimJudged v false).onEng (bits v 10 0) (fun x => { x with bind := Tab.set x.bind (bits v 15 11) {} }) := by
  unfold Dev.reclaimIdle
  dsimp only
  rw [if_neg (Bool.eq_false_iff.1 hl), hp]

/-! ### Die save and restore (R247) -/

/-- The word by which the supervisor gives a go: `c` is 4 and the operation, at [63:61], on the base and die of `v`. -/
def dieWord (c : Nat) (v : Word) : Word := w64 (fld c 61 + bits v 60 0)

theorem dieWord_toNat {c : Nat} (h : c < 8) (v : Word) : (dieWord c v).toNat = c * 2 ^ 61 + v.toNat % 2 ^ 61 := by
  simp only [dieWord, bits, w64, fld, BitVec.toNat_ofNat]
  omega

/-- The operation that a word of the die-save register gives. -/
def dieOpOf (w : Word) : DieOp := ⟨bits w 62 61 == 1, bits w 43 20 * 2 ^ 20, bits w 2 0⟩

theorem dieWord_go {c : Nat} (h4 : 4 ≤ c) (h8 : c < 8) (v : Word) : (dieWord c v).getLsbD 63 = true := by
  rw [← BitVec.msb_eq_getLsbD_last, BitVec.msb_eq_decide, dieWord_toNat h8]
  exact decide_eq_true (by omega)

theorem dieWord_op {c : Nat} (h8 : c < 8) (v : Word) : bits (dieWord c v) 62 61 = c % 4 := by
  rw [bits, dieWord_toNat h8]
  omega

theorem dieOpOf_dieWord {c : Nat} (h8 : c < 8) (v : Word) : dieOpOf (dieWord c v) = ⟨c % 4 == 1, bits v 43 20 * 2 ^ 20, bits v 2 0⟩ := by
  have hbase : bits (dieWord c v) 43 20 = bits v 43 20 := by
    rw [bits, bits, dieWord_toNat h8]
    omega
  have hdie : bits (dieWord c v) 2 0 = bits v 2 0 := by
    rw [bits, bits, dieWord_toNat h8]
    omega
  rw [dieOpOf, dieWord_op h8, hbase, hdie]

theorem ctlEffect_dieOp (s : State) (w : Word) : ctlEffect s .super 0x590 w = dieOpWrite s w := by
  have hplace : ctlPlace 0x590 = .block := rfl
  simp [ctlEffect, hplace, between]

theorem super_dieOp {s : State} (h5 : 5 ≤ s.dev.plat.status.toNat) (h15 : s.dev.plat.status ≠ 15#4) (v : Word) :
    exec (.dieSave .supervisor v) s = .next (dieOpWrite s (dieWord 5 v)) ∧
      exec (.dieRestore .supervisor v) s = .next (dieOpWrite s (dieWord 6 v)) := by
  have hw (w : Word) : (.next (ctlWrite s .super 0x590 w) : Out) = .next (dieOpWrite s w) := by
    rw [super_block h5 h15 rfl rfl, ctlEffect_dieOp]
  exact ⟨hw (dieWord 5 v), hw (dieWord 6 v)⟩

/-- What stands in the way of an operation on a die; that no power does is the model's reading (log 41). -/
def dieBarred (d : Dev) (base die : Nat) : Bool :=
  d.plat.dieOp.isSome || base = 0 || (d.die die).halted || (d.die die).failed || d.plat.pfault

theorem dieBarred_iff (d : Dev) (base die : Nat) : dieBarred d base die = true ↔ d.plat.dieOp ≠ none ∨ base = 0 ∨
    (d.die die).halted = true ∨ (d.die die).failed = true ∨ d.plat.pfault = true := by
  simp [dieBarred, or_assoc, Option.isSome_iff_ne_none]

/-- The die-save register holds an accepted word; `op` is what is then under way. -/
def State.dieBegun (s : State) (w : Word) (op : Option DieOp) : State :=
  { s with dev := s.dev.onPlat (fun p => { p with
      dieRefused := false, dieReg := w64 (fld (bits w 62 61) 61 + bits w 43 20 * 2 ^ 20 + bits w 2 0), dieOp := op }) }

section
variable {s : State} {w : Word} (hgo : w.getLsbD 63 = true)
include hgo

theorem dieOpWrite_barred (hb : dieBarred s.dev (dieOpOf w).base (dieOpOf w).die = true) :
    dieOpWrite s w = { s with dev := s.dev.onPlat (fun x => { x with dieRefused := true }) } := by
  have hset : ¬(!w.getLsbD 63) = true := by rw [hgo]; exact Bool.false_ne_true
  have hno : (dieBarred s.dev (dieOpOf w).base (dieOpOf w).die || decide (bits w 62 61 = 0) || decide (bits w 62 61 = 3)) = true := by
    rw [hb]; rfl
  unfold dieOpWrite
  exact (if_neg hset).trans (if_pos hno)

variable (hb : dieBarred s.dev (dieOpOf w).base (dieOpOf w).die = false) (hfree : helpersFree s.dev (dieOpOf w).die = true)
include hb hfree

theorem dieOpWrite_restore (hop : bits w 62 61 = 2) : dieOpWrite s w = restoreDie (s.dieBegun w s.dev.plat.dieOp) (dieOpOf w) := by
  have hset : ¬(!w.getLsbD 63) = true := by rw [hgo]; exact Bool.false_ne_true
  have hyes : ¬(dieBarred s.dev (dieOpOf w).base (dieOpOf w).die || decide (bits w 62 61 = 0) || decide (bits w 62 61 = 3)) = true := by
    rw [hb, hop]; decide
  have hnone : ¬(!helpersFree s.dev (dieOpOf w).die) = true := by rw [hfree]; exact Bool.false_ne_true
  unfold dieOpWrite
  exact (if_neg hset).trans ((if_neg hyes).trans ((if_pos hop).trans (if_neg hnone)))

theorem dieOpWrite_save (hop : bits w 62 61 = 1) : dieOpWrite s w = stepDieSave (s.dieBegun w (some (dieOpOf w))) := by
  have hset : ¬(!w.getLsbD 63) = true := by rw [hgo]; exact Bool.false_ne_true
  have hyes : ¬(dieBarred s.dev (dieOpOf w).base (dieOpOf w).die || decide (bits w 62 61 = 0) || decide (bits w 62 61 = 3)) = true := by
    rw [hb, hop]; decide
  have hsave : ¬bits w 62 61 = 2 := by omega
  have hbegin : beginSave (s.dieBegun w (some (dieOpOf w))).dev (dieOpOf w) = (s.dieBegun w (some (dieOpOf w))).dev :=
    beginSave_of_helpersFree hfree
  unfold dieOpWrite
  refine (if_neg hset).trans ((if_neg hyes).trans ((if_neg hsave).trans ?_))
  exact congrArg (fun d : Dev => stepDieSave { s with dev := d }) hbegin

end

/-- A save that finds its die ready writes the images at once. -/
theorem stepDieSave_dieBegun (s : State) (w : Word) {o : DieOp} (ho : o.save = true) : stepDieSave (s.dieBegun w (some o)) =
    if saveReady s.dev o = true then writeImages (s.dieBegun w (some o)) o else s.dieBegun w (some o) := by
  have hg : (o.save && saveReady s.dev o) = saveReady s.dev o := by rw [ho, Bool.true_and]
  exact if_congr (Eq.to_iff (congrArg (· = true) hg)) rfl rfl

section
variable {s : State} (h5 : 5 ≤ s.dev.plat.status.toNat) (h15 : s.dev.plat.status ≠ 15#4) {v : Word}
include h5 h15

theorem exec_dieOp_barred (hb : dieBarred s.dev (bits v 43 20 * 2 ^ 20) (bits v 2 0) = true) :
    exec (.dieSave .supervisor v) s = .next { s with dev := s.dev.onPlat (fun x => { x with dieRefused := true }) } ∧
      exec (.dieRestore .supervisor v) s = .next { s with dev := s.dev.onPlat (fun x => { x with dieRefused := true }) } := by
  have hno (c : Nat) (h4 : 4 ≤ c) (h8 : c < 8) := dieOpWrite_barred (s := s) (dieWord_go h4 h8 v) (by rw [dieOpOf_dieWord h8]; exact hb)
  obtain ⟨hsave, hrestore⟩ := super_dieOp h5 h15 v
  rw [hsave, hrestore, hno 5 (by decide) (by decide), hno 6 (by decide) (by decide)]
  exact ⟨rfl, rfl⟩

variable (hb : dieBarred s.dev (bits v 43 20 * 2 ^ 20) (bits v 2 0) = false) (hfree : helpersFree s.dev (bits v 2 0) = true)
include hb hfree

theorem exec_dieRestore : exec (.dieRestore .supervisor v) s =
    .next (restoreDie (s.dieBegun (dieWord 6 v) s.dev.plat.dieOp) ⟨false, bits v 43 20 * 2 ^ 20, bits v 2 0⟩) := by
  have hop : dieOpOf (dieWord 6 v) = ⟨false, bits v 43 20 * 2 ^ 20, bits v 2 0⟩ := dieOpOf_dieWord (by decide) v
  have hword := dieOpWrite_restore (s := s) (dieWord_go (c := 6) (by decide) (by decide) v) (by rw [hop]; exact hb) (by rw [hop]; exact hfree)
    (dieWord_op (by decide) v)
  rw [(super_dieOp h5 h15 v).2, hword, hop]

theorem exec_dieSave {o : DieOp} (ho : o = ⟨true, bits v 43 20 * 2 ^ 20, bits v 2 0⟩) : exec (.dieSave .supervisor v) s =
    .next (if saveReady s.dev o = true then writeImages (s.dieBegun (dieWord 5 v) (some o)) o else s.dieBegun (dieWord 5 v) (some o)) := by
  have hop : dieOpOf (dieWord 5 v) = o := (dieOpOf_dieWord (by decide) v).trans ho.symm
  have hword := dieOpWrite_save (s := s) (dieWord_go (c := 5) (by decide) (by decide) v) (by rw [hop, ho]; exact hb) (by rw [hop, ho]; exact hfree)
    (dieWord_op (by decide) v)
  rw [(super_dieOp h5 h15 v).1, hword, hop, stepDieSave_dieBegun s _ (by rw [ho])]

end

theorem restoreDie_dieBegun_lmem {s : State} {w : Word} {op : Option DieOp} {o : DieOp} {n : Nat} (hn : n < 256) (hw : s.mem.wf = true)
    (hno : ∀ k, 1 ≤ k → k ≤ 10 → (s.mem.word (o.base + n * 0x100000 + 0x40000 + (k - 1) * 0x10000 + 48)).getLsbD 63 = false)
    (hc : (s.dev.core (o.die * 256 + n)).lmem.wf = true) {a : Nat} (hlo : (s.dev.core (o.die * 256 + n)).regs.xb.toNat * 12 ≤ a)
    (hhi : a < 0x40000) : ((restoreDie (s.dieBegun w op) o).dev.core (o.die * 256 + n)).lmem.read a = s.mem.read (o.base + n * 0x100000 + a) := by
  have hframes : NoFrames o (o.die * 256 + n) s.mem := fun k h1 h10 => by
    rw [frameFlag, saveBase_core o hn]
    exact hno k h1 h10
  rw [← saveBase_core o hn]
  exact restoreDie_lmem (s := s.dieBegun w op) (mem_dieCores_of_lt o.die hn) hw hframes hc hlo hhi

theorem writeImages_dieBegun_read {s : State} {w : Word} {op : Option DieOp} {o : DieOp} {n : Nat} (hn : n < 256) (hw : s.mem.wf = true) {a : Nat}
    (ha : a < 0x40000) : (writeImages (s.dieBegun w op) o).mem.read (o.base + n * 0x100000 + a) = (s.dev.core (o.die * 256 + n)).lmem.read a := by
  rw [← saveBase_core o hn]
  exact writeImages_read (s := s.dieBegun w op) hw o (mem_dieCores_of_lt o.die hn) ha

/-- Settles O55: a reclaim by what its entry is, and each operation on a die where it is barred and where it is not. -/
theorem reclaimsAndDieSaves : Obligations.ReclaimsAndDieSaves := by
  unfold Obligations.ReclaimsAndDieSaves
  intro s v P r e b die base h5 h15
  have hreclaim {d : Dev} (h : reclaimWrite s.dev v = d) : exec (.bufferReclaim .supervisor v) s = .next { s with dev := d } :=
    h ▸ super_reclaim h5 h15 v
  have hidle (hbusy : P.reclaimBusy = false) (hgo : v.getLsbD 63 = true) (hmode : b.mode = 0) (hup : (s.dev.die (dieOf r)).failed = false) :
      reclaimWrite s.dev v = s.dev.reclaimIdle v := by
    refine (reclaimWrite_go hbusy hgo).trans (if_neg ?_)
    rw [hup, Bool.or_false, decide_eq_true_eq]
    exact not_not.2 hmode
  refine ⟨fun hbusy => hreclaim (reclaimWrite_of_busy hbusy v), fun hbusy hgo h => hreclaim ?refused, fun hbusy hgo hmode hup hl hp => ?once,
    fun hbusy hgo hmode hup h => ?later, fun h => exec_dieOp_barred h5 h15 ((dieBarred_iff _ base die).2 h),
    fun h1 h2 h3 h4 hpow hslots hw => ?accepted⟩
  case refused =>
    refine (reclaimWrite_go hbusy hgo).trans (if_pos ?_)
    rw [Bool.or_eq_true, decide_eq_true_eq]
    exact h
  case once => exact hreclaim ((hidle hbusy hgo hmode hup).trans (Dev.reclaimIdle_at_once hl hp))
  case later =>
    have hkeep : (s.dev.reclaimIdle v).plat.reclaimBusy = true ∧ s.dev.SameBuffers (s.dev.reclaimIdle v) := by
      cases hl : isLast s.dev.objs r e b with
      | true => exact Dev.reclaimIdle_last hl
      | false =>
        obtain ⟨⟨p, hp⟩, hv, he⟩ := h.resolve_left (by rw [hl]; exact Bool.false_ne_true)
        exact Dev.reclaimIdle_peer hl hp hv he
    obtain ⟨hset, hsame⟩ := hkeep
    exact ⟨_, hreclaim (hidle hbusy hgo hmode hup), rfl, hset, hsame.bindEnt r e⟩
  case accepted =>
    have hfree : helpersFree s.dev die = true := (helpersFree_iff s.dev die).2 hslots
    have hb : dieBarred s.dev base die = false := by
      refine Bool.eq_false_iff.2 (mt (dieBarred_iff s.dev base die).1 ?_)
      rintro (h | h | h | h | h)
      exacts [h h1, h2 h, Bool.false_ne_true (h3.symm.trans h), Bool.false_ne_true (h4.symm.trans h), Bool.false_ne_true (hpow.symm.trans h)]
    refine ⟨⟨_, exec_dieRestore h5 h15 hb hfree, by rw [restoreDie_plat]; rfl, fun n hn a hlo hhi hframes hwf => ?_⟩,
      ⟨_, exec_dieSave h5 h15 hb hfree rfl, ?_, fun hready n hn a ha => ?_⟩⟩
    · exact restoreDie_dieBegun_lmem (o := ⟨false, base, die⟩) hn hw hframes hwf hlo hhi
    · split <;> rfl
    · rw [if_pos hready]
      exact writeImages_dieBegun_read (o := ⟨true, base, die⟩) hn hw ha

end Sys2Proof.Machine
end

section
/-! SUPPORT. Fields of a word, the decoder's checks when they pass, operand codes and enumerated fields (02 R25, 12 R254, R257, R265). -/

namespace Sys2Proof

/-! ### Fields of a word -/

/-- A word is a concatenation when its two parts are the two halves. -/
theorem eq_append_iff (n m : Nat) (x : BitVec (n + m)) (a : BitVec n) (b : BitVec m) :
    x = a ++ b ↔ x.extractLsb' m n = a ∧ x.extractLsb' 0 m = b := by
  constructor
  · rintro rfl
    exact ⟨BitVec.extractLsb'_append_eq_left, BitVec.extractLsb'_append_eq_right⟩
  · rintro ⟨rfl, rfl⟩
    exact BitVec.extractLsb'_append_extractLsb'.symm

/-- A field of a field is a field of the word. -/
theorem extractLsb'_extractLsb' {w : Nat} (x : BitVec w) {s len t l : Nat} (h : t + l ≤ len) :
    (x.extractLsb' s len).extractLsb' t l = x.extractLsb' (s + t) l := by
  apply BitVec.eq_of_getLsbD_eq
  intro i hi
  have ht : t + i < len := by omega
  simp [hi, ht, Nat.add_assoc]

/-! ### The checks, when they pass -/

section
variable {α β : Type} {v : α}

@[simp] theorem chk_eq_ok {ok : Bool} {k : Dec α} : chk ok k = .ok v ↔ ok = true ∧ k = .ok v := by
  cases ok <;> simp [chk]

@[simp] theorem posIf_eq_ok {p : BitVec 4} {ok : Bool} {k : Dec α} : posIf p ok k = .ok v ↔ ok = true ∧ k = .ok v := by
  cases ok <;> simp [posIf]

@[simp] theorem fld_eq_ok {o : Option β} {k : β → Dec α} : fld o k = .ok v ↔ ∃ x, o = some x ∧ k x = .ok v := by
  cases o <;> simp [fld]

@[simp] theorem pos_eq_ok {p : BitVec 4} {o : Option β} {k : β → Dec α} : pos p o k = .ok v ↔ ∃ x, o = some x ∧ k x = .ok v := by
  cases o <;> simp [pos]

theorem orElse_eq_some {o p : Option α} : orElse o p = some v ↔ o = some v ∨ o = none ∧ p = some v := by
  cases o <;> simp [orElse]

end

/-! ### Operand codes (02 R25) -/

section
variable {c : BitVec 8}

@[simp] theorem xr?_eq_some {r : XReg} : xr? c = some r ↔ c = xrC r := by
  simp [xr?, xrC, eq_append_iff 2 6]

@[simp] theorem vr?_eq_some {r : VReg} : vr? c = some r ↔ c = vrC r := by
  simp [vr?, vrC, eq_append_iff 3 5]

@[simp] theorem pr?_eq_some {r : PReg} : pr? c = some r ↔ c = prC r := by
  simp [pr?, prC, eq_append_iff 5 3]

@[simp] theorem mr?_eq_some {r : MReg} : mr? c = some r ↔ c = mrC r := by
  simp [mr?, mrC, eq_append_iff 5 3]

@[simp] theorem sr?_eq_some {r : SReg} : sr? c = some r ↔ c = srC r := by
  simp [sr?, srC, eq_append_iff 5 3]

@[simp] theorem chr?_eq_some {r : ChReg} : chr? c = some r ↔ c = chrC r := by
  simp [chr?, chrC, eq_append_iff 6 2]

@[simp] theorem accr?_eq_some {r : AccReg} : accr? c = some r ↔ c = accrC r := by
  simp [accr?, accrC, eq_append_iff 6 2]

@[simp] theorem roler?_eq_some {r : RoleReg} : roler? c = some r ↔ c = rolerC r := by
  simp [roler?, rolerC, eq_append_iff 6 2]

@[simp] theorem semr?_eq_some {r : SemReg} : semr? c = some r ↔ c = semrC r := by
  revert c r
  decide

@[simp] theorem immOnly?_eq_some {u : Unit} : immOnly? c = some u ↔ c = 0xFF := by
  simp [immOnly?]

/-- The classes of one position have no code in common. -/
@[simp] theorem vr?_srC : ∀ n : SReg, vr? (srC n) = none := by decide
@[simp] theorem vr?_chrC : ∀ n : ChReg, vr? (chrC n) = none := by decide
@[simp] theorem sr?_chrC : ∀ n : ChReg, sr? (chrC n) = none := by decide
@[simp] theorem xr?_chrC : ∀ n : ChReg, xr? (chrC n) = none := by decide
@[simp] theorem vr?_xrC : ∀ r : XReg, vr? (xrC r) = none := by decide
@[simp] theorem xr?_vrC : ∀ r : VReg, xr? (vrC r) = none := by decide
@[simp] theorem xrC_ne_lit : ∀ r : XReg, xrC r ≠ 0xFF#8 := by decide
@[simp] theorem vrC_ne_lit : ∀ r : VReg, vrC r ≠ 0xFF#8 := by decide
@[simp] theorem lit_ne_xrC (r : XReg) : 0xFF#8 ≠ xrC r := (xrC_ne_lit r).symm
@[simp] theorem lit_ne_vrC (r : VReg) : 0xFF#8 ≠ vrC r := (vrC_ne_lit r).symm

@[simp] theorem vr?_vrC (r : VReg) : vr? (vrC r) = some r := vr?_eq_some.2 rfl
@[simp] theorem xr?_xrC (r : XReg) : xr? (xrC r) = some r := xr?_eq_some.2 rfl

@[simp] theorem vdst?_eq_some {x : VDst} : vdst? c = some x ↔ c = vdstC x := by
  cases x <;> simp +contextual [vdst?, vdstC, orElse_eq_some]

@[simp] theorem vsrc?_eq_some {x : VSrc} : vsrc? c = some x ↔ c = vsrcC x := by
  cases x with
  | v r => simp [vsrc?, vsrcC, orElse_eq_some]
  | s n => simp +contextual [vsrc?, vsrcC, orElse_eq_some]
  | ch n =>
    by_cases hc : c = chrC n <;> simp [vsrc?, vsrcC, orElse_eq_some, hc]

@[simp] theorem vsrcVS?_eq_some {x : VSrcVS} : vsrcVS? c = some x ↔ c = vsrcVSC x := by
  cases x <;> simp +contextual [vsrcVS?, vsrcVSC, orElse_eq_some]

@[simp] theorem bitSrc?_eq_some {x : BitSrc} : bitSrc? c = some x ↔ c = bitSrcC x := by
  cases x <;> simp +contextual [bitSrc?, bitSrcC, orElse_eq_some]

end

/-! ### Fields that name one of a few values -/

@[simp] theorem scope?_eq_some {v : BitVec 3} {s : Scope} : scope? v = some s ↔ v = scopeC s := by
  cases s <;> revert v <;> decide

@[simp] theorem rnd?_eq_some {v : BitVec 3} {s : Rnd} : rnd? v = some s ↔ v = rndC s := by
  cases s <;> revert v <;> decide

@[simp] theorem ftype?_eq_some {v : BitVec 2} {t : FType} : ftype? v = some t ↔ v = ftypeC t := by
  cases t <;> revert v <;> decide

@[simp] theorem vwidth?_eq_some {v : BitVec 2} {t : VWidth} : vwidth? v = some t ↔ v = vwidthC t := by
  cases t <;> revert v <;> decide

@[simp] theorem mmcTgt?_eq_some {v : BitVec 4} {t : MmcTgt} : mmcTgt? v = some t ↔ v = mmcTgtC t := by
  cases t <;> revert v <;> decide

theorem eq_sizeC_iff {v : BitVec 2} {z : Size} : v = sizeC z ↔ size? v = z := by
  cases z <;> revert v <;> decide

theorem eq_ctypeC_iff {v : BitVec 2} {t : CType} : v = ctypeC t ↔ ctype? v = t := by
  cases t <;> revert v <;> decide

theorem eq_bit_iff {v : BitVec 1} {b : Bool} : v = bit b ↔ (v == 1) = b := by
  revert v b
  decide

theorem size?_eq_b64_iff {v : BitVec 2} : size? v = .b64 ↔ v = 3#2 := by
  revert v
  decide

theorem wideSize_iff {v : BitVec 2} {w : Bool} : v = (if w then 3#2 else 2#2) ↔ (v = 2#2 ∨ v = 3#2) ∧ (v == 3#2) = w := by
  revert v w
  decide

@[simp] theorem barLevel?_eq_some {v : BitVec 4} {l : Scope} : barLevel? v.toNat = some l ↔ v = barLevelC l := by
  cases l <;> revert v <;> decide

@[simp] theorem waitF?_eq_some {v : BitVec 10} {n : Option (BitVec 9)} : waitF? v = some n ↔ v = waitFC n := by
  have h0 (h : v = 0#10) : v.extractLsb' 9 1 ≠ 1#1 := by simp [h]
  have hfields := eq_append_iff 1 9 v 1#1
  cases n <;> grind [waitF?, waitFC]

@[simp] theorem ldOrd?_eq_some {o : BitVec 2} {v : BitVec 3} {x : LdOrd} :
    ldOrd? o v = some x ↔ v = ldOrdS x ∧ o = ldOrdO x := by
  cases x with
  | plain => revert o v; decide
  | acq s => cases s <;> revert o v <;> decide

@[simp] theorem stOrd?_eq_some {o : BitVec 2} {v : BitVec 3} {x : StOrd} :
    stOrd? o v = some x ↔ v = stOrdS x ∧ o = stOrdO x := by
  cases x with
  | plain => revert o v; decide
  | rel s => cases s <;> revert o v <;> decide

@[simp] theorem amoOrd?_eq_some {o : BitVec 2} {v : BitVec 3} {x : AmoOrd} :
    amoOrd? o v = some x ↔ v = amoOrdS x ∧ o = amoOrdO x := by
  cases x with
  | plain => revert o v; decide
  | acq s | rel s | ar s => cases s <;> revert o v <;> decide

/-! ### A position that an immediate may fill -/

section
variable {c : BitVec 8}

/-- With the check that an unused immediate is zero, the position and the immediate give back the operand. -/
theorem src2?_read {v : BitVec 32} {b : Src2} :
    (c = 0xFF#8 ∨ v = 0#32) ∧ src2? c v = some b ↔ c = src2C b ∧ v = src2I b := by
  by_cases hc : c = 0xFF#8 <;> cases b <;> simp [src2?, src2C, src2I, hc, and_comm]

theorem lenSrc?_read {v : BitVec 32} {b : LenSrc} :
    (c = 0xFF#8 ∨ v = 0#32) ∧ lenSrc? c v = some b ↔ c = lenC b ∧ v = lenI b := by
  by_cases hc : c = 0xFF#8 <;> cases b <;> simp [lenSrc?, lenC, lenI, hc, and_comm]

theorem laneSrc?_read {v : BitVec 8} {b : LaneSrc} :
    (c = 0xFF#8 ∨ v = 0#8) ∧ laneSrc? c v = some b ↔ c = laneC b ∧ v = laneI b := by
  by_cases hc : c = 0xFF#8 <;> cases b <;> simp [laneSrc?, laneC, laneI, hc, and_comm]

theorem tagSrc?_read {space : BitVec 4} {t : BitVec 11} {b : TagSrc} :
    (if c = 0xFF#8 then tagFits space t = true else t = 0#11) ∧ tagSrc? c t = some b ↔
      c = tagC b ∧ t = tagI b ∧ b.fits space = true := by
  by_cases hc : c = 0xFF#8 <;> cases b <;> simp +contextual [tagSrc?, tagC, tagI, TagSrc.fits, hc, and_comm]

@[simp] theorem immFits_false (b : VSrcB) : immFits false b = true := by cases b <;> rfl

theorem vsrcB?_code {xi : BitVec 32} {b : VSrcB} (h : vsrcB? c xi = some b) : c = vsrcBC b := by
  by_cases hc : c = 0xFF#8 <;> cases b <;> simp_all [vsrcB?, vsrcBC, orElse_eq_some]

theorem vsrcB?_read {r : Raw} {narrow : Bool} {b : VSrcB} :
    vScalarOk r narrow = true ∧ vsrcB? r.b (vXi r) = some b ↔ r.b = vsrcBC b ∧ vXi r = vsrcBI b ∧ immFits narrow b = true := by
  by_cases hc : r.b = vsrcBC b
  · cases b with
    | v v => simp [vScalarOk, vsrcB?, vsrcBC, vsrcBI, immFits, hc, orElse]
    | x x => simp [vScalarOk, vsrcB?, vsrcBC, vsrcBI, immFits, hc, orElse]
    | imm xi =>
      simp only [vScalarOk, vsrcB?, vsrcBC, vsrcBI, immFits, hc]
      exact ⟨fun ⟨h, e⟩ => ⟨trivial, by simpa using e, by simp_all⟩, fun ⟨_, e, h⟩ => ⟨by simp_all, by simp [e]⟩⟩
  · exact iff_of_false (fun h => hc (vsrcB?_code h.2)) (fun h => hc h.1)

theorem bcastSrc?_code {xi : BitVec 32} {a : BcastSrc} (h : bcastSrc? c xi = some a) : c = bcastC a := by
  by_cases hc : c = 0xFF#8 <;> cases a <;> simp_all [bcastSrc?, bcastC, orElse_eq_some]

theorem bcastSrc?_read {xi : BitVec 32} {a : BcastSrc} :
    bcastXiOk c xi = true ∧ bcastSrc? c xi = some a ↔ c = bcastC a ∧ xi = bcastI a := by
  by_cases hc : c = bcastC a
  · cases a <;> simp [bcastXiOk, bcastSrc?, bcastC, bcastI, hc, orElse, eq_append_iff 24 8]
  · exact iff_of_false (fun h => hc (bcastSrc?_code h.2)) (fun h => hc h.1)

end

end Sys2Proof
end

section
/-! SUPPORT. Immediate layouts, field by field (12 R258, 14 R310, 15 R328, 16 R349, R356). -/

namespace Sys2Proof

/-- The operand positions and the immediate of a word. -/
def Raw.Has (r : Raw) (d a b : BitVec 8) (imm : BitVec 48) : Prop := r.d = d ∧ r.a = a ∧ r.b = b ∧ r.imm = imm

variable {r : Raw}

theorem eq_mImm_iff {scope : BitVec 3} {order size : BitVec 2} {ext : BitVec 1} {off : BitVec 32} :
    r.imm = mImm scope order size ext off ↔
      mScope r = scope ∧ mOrder r = order ∧ mSize r = size ∧ mExt r = ext ∧ mGap r = true ∧ mOff r = off := by
  simp [mImm, mScope, mOrder, mSize, mExt, mGap, mOff, eq_append_iff 16 32, eq_append_iff 8 8, eq_append_iff 7 1,
    eq_append_iff 5 2, eq_append_iff 3 2, extractLsb'_extractLsb', and_assoc]

theorem eq_mosImm_iff {scope : BitVec 3} {order : BitVec 2} {pred : BitVec 3} {hops : BitVec 4} {off : BitVec 32} :
    r.imm = mosImm scope order pred hops off ↔ mScope r = scope ∧ mOrder r = order ∧ mosPred r = pred ∧
      r.imm.extractLsb' 36 4 = hops ∧ r.imm.extractLsb' 32 4 = 0#4 ∧ mOff r = off := by
  simp [mosImm, mScope, mOrder, mosPred, mOff, eq_append_iff 16 32, eq_append_iff 12 4, eq_append_iff 8 4,
    eq_append_iff 5 3, eq_append_iff 3 2, extractLsb'_extractLsb', and_assoc]

/-- The routines without hops and offset keep 40 bits zero. -/
theorem eq_mosImm_zero_iff {scope : BitVec 3} {order : BitVec 2} {pred : BitVec 3} :
    r.imm = mosImm scope order pred 0#4 0#32 ↔ mScope r = scope ∧ mOrder r = order ∧ mosPred r = pred ∧ mosRest r = true := by
  have h : r.imm.extractLsb' 0 40 = 0#40 ↔ r.imm.extractLsb' 36 4 = 0#4 ∧ r.imm.extractLsb' 32 4 = 0#4 ∧ mOff r = 0#32 := by
    rw [show 0#40 = 0#4 ++ 0#4 ++ 0#32 from rfl, eq_append_iff 8 32, eq_append_iff 4 4]
    simp [mOff, extractLsb'_extractLsb', and_assoc]
  simp [eq_mosImm_iff, mosRest, h]

/-- The layout of `chase`: no scope, order or predicate. -/
theorem eq_chaseImm_iff {hops : BitVec 4} {off : BitVec 32} : r.imm = mosImm 0#3 0#2 0#3 hops off ↔
    r.imm.extractLsb' 40 8 = 0#8 ∧ r.imm.extractLsb' 36 4 = hops ∧ r.imm.extractLsb' 32 4 = 0#4 ∧ mOff r = off := by
  have h : r.imm.extractLsb' 40 8 = 0#8 ↔ mScope r = 0#3 ∧ mOrder r = 0#2 ∧ mosPred r = 0#3 := by
    rw [show 0#8 = 0#3 ++ 0#2 ++ 0#3 from rfl, eq_append_iff 5 3, eq_append_iff 3 2]
    simp [mScope, mOrder, mosPred, extractLsb'_extractLsb', and_assoc]
  simp [eq_mosImm_iff, h, and_assoc]

theorem eq_vImm_iff {xi : BitVec 32} {typ : BitVec 2} {m : MReg} {rnd : BitVec 3} :
    r.imm = vImm xi typ m rnd ↔ vXi r = xi ∧ vGap r = true ∧ vTyp r = typ ∧ vMask r = m ∧ vRnd r = rnd := by
  simp [vImm, vXi, vGap, vTyp, vMask, vRnd, eq_append_iff 45 3, eq_append_iff 42 3, eq_append_iff 40 2,
    eq_append_iff 32 8, extractLsb'_extractLsb', and_assoc]

theorem eq_compImm_iff {c : Comp} {low : BitVec 32} : r.imm = compImm c low ↔ compOk r = true ∧ compOf r = c ∧ mOff r = low := by
  obtain ⟨tag, creg, ev⟩ := c
  simp [compImm, compOk, compOf, mOff, eq_append_iff 16 32, eq_append_iff 15 1, eq_append_iff 14 1, eq_append_iff 8 6, eq_append_iff 1 7,
    extractLsb'_extractLsb', eq_bit_iff, and_assoc, and_left_comm]

theorem eq_ctlImm_iff {num : BitVec 12} {slot : BitVec 4} {other : Bool} : r.imm = ctlImm num slot other ↔
    r.imm.extractLsb' 17 31 = 0#31 ∧ ctlNum r = num ∧ ctlSlot r = slot ∧ ctlOther r = other := by
  simp [ctlImm, ctlNum, ctlSlot, ctlOther, eq_append_iff 36 12, eq_append_iff 32 4, eq_append_iff 31 1,
    extractLsb'_extractLsb', eq_bit_iff, and_assoc, and_comm]

theorem eq_tlbImm_iff {reach kind : BitVec 2} : r.imm = tlbImm reach kind ↔
    r.imm.extractLsb' 6 42 = 0#42 ∧ r.imm.extractLsb' 4 2 = reach ∧ r.imm.extractLsb' 2 2 = 0#2 ∧ r.imm.extractLsb' 0 2 = kind := by
  simp [tlbImm, eq_append_iff 46 2, eq_append_iff 44 2, eq_append_iff 42 2, extractLsb'_extractLsb', and_assoc]

theorem eq_vsetlImmC_iff {op : BitVec 2} {n1 : BitVec 8} : r.imm = vsetlImmC op n1 ↔
    r.imm.extractLsb' 24 24 = 0#24 ∧ r.imm.extractLsb' 16 8 = n1 ∧ r.imm.extractLsb' 2 14 = 0#14 ∧ r.imm.extractLsb' 0 2 = op := by
  simp [vsetlImmC, eq_append_iff 46 2, eq_append_iff 32 14, eq_append_iff 24 8, extractLsb'_extractLsb', and_assoc]

theorem eq_matImm_iff {f : MatF} : r.imm = f.imm ↔ MatF.ofImm r.imm = f := by
  obtain ⟨z4, ncols, mrows, z8, k, z4b, tgt, z3, tb, ta, rnd⟩ := f
  simp [MatF.imm, MatF.ofImm, eq_append_iff 45 3, eq_append_iff 44 1, eq_append_iff 43 1, eq_append_iff 40 3, eq_append_iff 36 4,
    eq_append_iff 32 4, eq_append_iff 16 16, eq_append_iff 8 8, eq_append_iff 6 2, eq_append_iff 4 2, extractLsb'_extractLsb', and_assoc]

end Sys2Proof
end

section
/-! SUPPORT. What each format-F shape reads: the words that hold the codes of its operands, and no others (12 R254, R257, R258). -/

namespace Sys2Proof

variable {r : Raw} {i : Instr}

theorem fNone_eq_ok {j} : fNone r j = .ok i ↔ r.Has 0 0 0 0 ∧ j = i := by
  simp [fNone, Raw.Has, and_assoc, and_comm]

theorem fXX_eq_ok {mk} : fXX r mk = .ok i ↔ ∃ d a, r.Has (xrC d) (xrC a) 0 0 ∧ mk d a = i := by
  simp [fXX, Raw.Has, ← exists_and_left, and_assoc, and_left_comm, and_comm]

theorem fPX_eq_ok {mk} : fPX r mk = .ok i ↔ ∃ d a, r.Has (prC d) (xrC a) 0 0 ∧ mk d a = i := by
  simp [fPX, Raw.Has, ← exists_and_left, and_assoc, and_left_comm, and_comm]

theorem fXXX_eq_ok {mk} : fXXX r mk = .ok i ↔ ∃ d a b, r.Has (xrC d) (xrC a) (xrC b) 0 ∧ mk d a b = i := by
  simp [fXXX, Raw.Has, ← exists_and_left, and_left_comm, and_comm]

theorem fA_eq_ok {mk} : fA r mk = .ok i ↔ ∃ a, r.Has 0 (xrC a) 0 0 ∧ mk a = i := by
  simp [fA, Raw.Has, ← exists_and_left, and_assoc, and_left_comm, and_comm]

theorem fD_eq_ok {mk} : fD r mk = .ok i ↔ ∃ d, r.Has (xrC d) 0 0 0 ∧ mk d = i := by
  simp [fD, Raw.Has, ← exists_and_left, and_assoc, and_left_comm, and_comm]

theorem fDeven_eq_ok {mk} : fDeven r mk = .ok i ↔ ∃ d, evenReg d = true ∧ r.Has (xrC d) 0 0 0 ∧ mk d = i := by
  simp [fDeven, Raw.Has, ← exists_and_left, and_assoc, and_left_comm, and_comm]

theorem fPPP_eq_ok {mk} : fPPP r mk = .ok i ↔ ∃ d a b, r.Has (prC d) (prC a) (prC b) 0 ∧ mk d a b = i := by
  simp [fPPP, Raw.Has, ← exists_and_left, and_left_comm, and_comm]

theorem fPP_eq_ok {mk} : fPP r mk = .ok i ↔ ∃ d a, r.Has (prC d) (prC a) 0 0 ∧ mk d a = i := by
  simp [fPP, Raw.Has, ← exists_and_left, and_assoc, and_left_comm, and_comm]

theorem fMMM_eq_ok {mk} : fMMM r mk = .ok i ↔ ∃ d a b, r.Has (mrC d) (mrC a) (mrC b) 0 ∧ mk d a b = i := by
  simp [fMMM, Raw.Has, ← exists_and_left, and_left_comm, and_comm]

theorem fXM_eq_ok {mk} : fXM r mk = .ok i ↔ ∃ d a, r.Has (xrC d) (mrC a) 0 0 ∧ mk d a = i := by
  simp [fXM, Raw.Has, ← exists_and_left, and_assoc, and_left_comm, and_comm]

theorem fBext_eq_ok {mk} : fBext r mk = .ok i ↔
    ∃ d a lo w1, fieldFits lo w1 = true ∧ r.Has (xrC d) (bitSrcC a) 0xFF (0#36 ++ lo ++ w1) ∧ mk d a lo w1 = i := by
  simp [fBext, Raw.Has, eq_append_iff 42 6, eq_append_iff 36 6, extractLsb'_extractLsb', ← exists_and_left, and_assoc, and_left_comm,
    and_comm]

theorem fBins_eq_ok : fBins r = .ok i ↔
    ∃ d a lo w1, fieldFits lo w1 = true ∧ r.Has (xrC d) (xrC a) 0xFF (0#36 ++ lo ++ w1) ∧ Instr.bins d a lo w1 = i := by
  simp [fBins, Raw.Has, eq_append_iff 42 6, eq_append_iff 36 6, extractLsb'_extractLsb', ← exists_and_left, and_assoc, and_left_comm,
    and_comm]

theorem fLi_eq_ok : fLi r = .ok i ↔ ∃ d v, r.Has (xrC d) 0 0 v ∧ Instr.li d v = i := by
  simp [fLi, Raw.Has, ← exists_and_left, and_assoc, and_comm]

theorem fLih_eq_ok : fLih r = .ok i ↔ ∃ d v, r.Has (xrC d) 0 0 (0#32 ++ v) ∧ Instr.lih d v = i := by
  simp [fLih, Raw.Has, eq_append_iff 32 16, ← exists_and_left, and_assoc, and_comm]

theorem fPfmt_eq_ok : fPfmt r = .ok i ↔
    ∃ d a fmt lc, (decide (fmt.toNat ≤ 8) && decide (lc.toNat ≤ 3)) = true ∧ r.Has (xrC d) (xrC a) 0xFF (0#41 ++ lc ++ fmt) ∧
      Instr.pfmt d a fmt lc = i := by
  simp [fPfmt, Raw.Has, eq_append_iff 44 4, eq_append_iff 41 3, extractLsb'_extractLsb', ← exists_and_left, and_assoc, and_left_comm,
    and_comm]

theorem fPget_eq_ok : fPget r = .ok i ↔ ∃ d a f, r.Has (xrC d) (xrC a) 0xFF (0#46 ++ f) ∧ Instr.pget d a f = i := by
  simp [fPget, Raw.Has, eq_append_iff 46 2, ← exists_and_left, and_assoc, and_left_comm, and_comm]

theorem fBr_eq_ok : fBr r = .ok i ↔ ∃ off, r.Has 0 0xFF 0 (0#32 ++ off) ∧ Instr.br off = i := by
  simp [fBr, Raw.Has, eq_append_iff 32 16, and_assoc, and_comm]

theorem fJmp_eq_ok {mk} : fJmp r mk = .ok i ↔ ∃ t, r.Has 0 0xFF 0 (0#33 ++ t) ∧ mk t = i := by
  simp [fJmp, Raw.Has, eq_append_iff 33 15, and_assoc, and_left_comm, and_comm]

theorem fCall_eq_ok {mk} : fCall r mk = .ok i ↔ ∃ d t, r.Has (xrC d) 0xFF 0 (0#33 ++ t) ∧ mk d t = i := by
  simp [fCall, Raw.Has, eq_append_iff 33 15, ← exists_and_left, and_assoc, and_left_comm, and_comm]

theorem fSem_eq_ok {mk} : fSem r mk = .ok i ↔ ∃ n, r.Has 0 (semrC n) 0 0 ∧ mk n = i := by
  simp [fSem, Raw.Has, ← exists_and_left, and_assoc, and_left_comm, and_comm]

theorem fSemPost_eq_ok : fSemPost r = .ok i ↔ ∃ n k, (k != 0) = true ∧ r.Has 0 (semrC n) 0xFF (0#32 ++ k) ∧ Instr.semPost n k = i := by
  simp [fSemPost, Raw.Has, eq_append_iff 32 16, ← exists_and_left, and_assoc, and_left_comm, and_comm]

theorem fSemTry_eq_ok : fSemTry r = .ok i ↔ ∃ d n, r.Has (prC d) (semrC n) 0 0 ∧ Instr.semTry d n = i := by
  simp [fSemTry, Raw.Has, ← exists_and_left, and_assoc, and_left_comm, and_comm]

theorem fWait_eq_ok : fWait r = .ok i ↔
    ∃ l s c t, r.Has 0 0 0 (0#8 ++ waitFC t ++ waitFC c ++ waitFC s ++ waitFC l) ∧ Instr.wait l s c t = i := by
  simp [fWait, Raw.Has, eq_append_iff 38 10, eq_append_iff 28 10, eq_append_iff 18 10, eq_append_iff 8 10, extractLsb'_extractLsb',
    ← exists_and_left, and_assoc, and_left_comm, and_comm]

theorem fSpawn_eq_ok : fSpawn r = .ok i ↔ ∃ h d a b, r.Has (xrC d) (xrC a) (xrC b) (0#47 ++ bit h) ∧ Instr.spawn h d a b = i := by
  simp [-Bool.exists_bool, fSpawn, Raw.Has, eq_append_iff 47 1, eq_bit_iff, ← exists_and_left, and_assoc, and_left_comm, and_comm]

theorem fSt_eq_ok : fSt r = .ok i ↔
    ∃ sz o a b off, r.Has 0 (xrC a) (xrC b) (mImm (stOrdS o) (stOrdO o) (sizeC sz) 0 off) ∧ Instr.st sz o a b off = i := by
  simp [fSt, Raw.Has, eq_mImm_iff, eq_sizeC_iff, ← exists_and_left, and_assoc, and_left_comm, and_comm]

theorem fFeSt_eq_ok {mk} : fFeSt r mk = .ok i ↔ ∃ s a b off, r.Has 0 (xrC a) (xrC b) (mImm (scopeC s) 0 3 0 off) ∧ mk s a b off = i := by
  simp [fFeSt, Raw.Has, eq_mImm_iff, ← exists_and_left, and_assoc, and_left_comm, and_comm]

theorem fFeClr_eq_ok : fFeClr r = .ok i ↔ ∃ a off, r.Has 0 (xrC a) 0 (mImm 0 0 3 0 off) ∧ Instr.stFeClr a off = i := by
  simp [fFeClr, Raw.Has, eq_mImm_iff, ← exists_and_left, and_assoc, and_left_comm, and_comm]

theorem fAmo_eq_ok {mk} : fAmo r mk = .ok i ↔
    ∃ w o d a b off, r.Has (xrC d) (xrC a) (xrC b) (mImm (amoOrdS o) (amoOrdO o) (if w then 3 else 2) 0 off) ∧ mk w o d a b off = i := by
  simp [-Bool.exists_bool, fAmo, Raw.Has, eq_mImm_iff, wideSize_iff, ← exists_and_left, and_assoc, and_left_comm, and_comm]

theorem fAmoF_eq_ok {mk} : fAmoF r mk = .ok i ↔
    ∃ o d a b off, r.Has (xrC d) (xrC a) (xrC b) (mImm (amoOrdS o) (amoOrdO o) 2 0 off) ∧ mk o d a b off = i := by
  simp [fAmoF, Raw.Has, eq_mImm_iff, ← exists_and_left, and_assoc, and_left_comm, and_comm]

theorem fRed_eq_ok {mk} : fRed r mk = .ok i ↔
    ∃ w o a b off, r.Has 0 (xrC a) (xrC b) (mImm (stOrdS o) (stOrdO o) (if w then 3 else 2) 0 off) ∧ mk w o a b off = i := by
  simp [-Bool.exists_bool, fRed, Raw.Has, eq_mImm_iff, wideSize_iff, ← exists_and_left, and_assoc, and_left_comm, and_comm]

theorem fRedF_eq_ok {mk} : fRedF r mk = .ok i ↔
    ∃ o a b off, r.Has 0 (xrC a) (xrC b) (mImm (stOrdS o) (stOrdO o) 2 0 off) ∧ mk o a b off = i := by
  simp [fRedF, Raw.Has, eq_mImm_iff, ← exists_and_left, and_assoc, and_left_comm, and_comm]

theorem fFence_eq_ok {mk} : fFence r mk = .ok i ↔ ∃ s, r.Has 0 0 0 (scopeC s ++ 0#45) ∧ mk s = i := by
  simp [fFence, Raw.Has, eq_append_iff 3 45, mScope, ← exists_and_left, and_assoc, and_left_comm, and_comm]

theorem fCas2_eq_ok : fCas2 r = .ok i ↔
    ∃ o p d a b, (evenReg d && b.toNat % 2 == 0 && d != b) = true ∧
      r.Has (xrC d) (xrC a) (xrC b) (mosImm (amoOrdS o) (amoOrdO o) p 0 0) ∧ Instr.mosCas2 o p d a b = i := by
  simp [fCas2, Raw.Has, eq_mosImm_zero_iff, ← exists_and_left, and_assoc, and_left_comm, and_comm]

theorem fCas4_eq_ok : fCas4 r = .ok i ↔
    ∃ o p d a b, (quadReg d && b.toNat % 4 == 0 && d != b) = true ∧
      r.Has (xrC d) (xrC a) (xrC b) (mosImm (amoOrdS o) (amoOrdO o) p 0 0) ∧ Instr.mosCas4 o p d a b = i := by
  simp [fCas4, Raw.Has, eq_mosImm_zero_iff, ← exists_and_left, and_assoc, and_left_comm, and_comm]

theorem fEnq_eq_ok : fEnq r = .ok i ↔ ∃ o a b, r.Has 0 (xrC a) (xrC b) (mosImm (amoOrdS o) (amoOrdO o) 0 0 0) ∧ Instr.mosEnq o a b = i := by
  simp [fEnq, Raw.Has, eq_mosImm_zero_iff, ← exists_and_left, and_assoc, and_left_comm, and_comm]

theorem fDeq_eq_ok : fDeq r = .ok i ↔ ∃ o d a, r.Has (xrC d) (xrC a) 0 (mosImm (amoOrdS o) (amoOrdO o) 0 0 0) ∧ Instr.mosDeq o d a = i := by
  simp [fDeq, Raw.Has, eq_mosImm_zero_iff, ← exists_and_left, and_assoc, and_left_comm, and_comm]

theorem fChase_eq_ok : fChase r = .ok i ↔
    ∃ d a h off, (evenReg d && off.extractLsb' 0 3 == 0) = true ∧ r.Has (xrC d) (xrC a) 0 (mosImm 0 0 0 h off) ∧
      Instr.mosChase d a h off = i := by
  simp [fChase, Raw.Has, eq_chaseImm_iff, mOff, extractLsb'_extractLsb', ← exists_and_left, and_assoc, and_left_comm, and_comm]

theorem fBind_eq_ok : fBind r = .ok i ↔
    ∃ s d a b n1 c, r.Has (xrC d) (xrC a) (xrC b) (scopeC s ++ 0#33 ++ c ++ n1) ∧ Instr.bind s d a b n1 c = i := by
  simp [fBind, Raw.Has, mScope, eq_append_iff 40 8, eq_append_iff 36 4, eq_append_iff 3 33, extractLsb'_extractLsb', ← exists_and_left,
    and_assoc, and_left_comm, and_comm]

theorem fGcall_eq_ok : fGcall r = .ok i ↔ ∃ t n, r.Has 0 0xFF 0xFF (0#32 ++ t ++ n) ∧ Instr.gcall t n = i := by
  simp [fGcall, Raw.Has, eq_append_iff 38 10, eq_append_iff 32 6, extractLsb'_extractLsb', and_assoc, and_left_comm,
    and_comm]

theorem fDcall_eq_ok : fDcall r = .ok i ↔
    ∃ d a pc n, (n != 7) = true ∧ r.Has (xrC d) (xrC a) 0 (0#29 ++ n ++ 0#1 ++ pc) ∧ Instr.dcall d a pc n = i := by
  simp [fDcall, Raw.Has, eq_append_iff 33 15, eq_append_iff 32 1, eq_append_iff 29 3, extractLsb'_extractLsb', ← exists_and_left,
    and_assoc, and_left_comm, and_comm]

theorem fCjoin_eq_ok : fCjoin r = .ok i ↔ ∃ n h k, r.Has (rolerC n) (xrC h) 0xFF (0#45 ++ k) ∧ Instr.cjoin n h k = i := by
  simp [fCjoin, Raw.Has, eq_append_iff 45 3, ← exists_and_left, and_assoc, and_left_comm, and_comm]

theorem fCsend_eq_ok : fCsend r = .ok i ↔
    ∃ n b k m, words32 m = true ∧ r.Has 0 (rolerC n) (xrC b) (0#34 ++ m ++ 0#3 ++ k) ∧ Instr.csend n b k m = i := by
  simp [fCsend, Raw.Has, eq_append_iff 43 5, eq_append_iff 40 3, eq_append_iff 34 6, extractLsb'_extractLsb', ← exists_and_left,
    and_assoc, and_left_comm, and_comm]

theorem fCdeleg_eq_ok : fCdeleg r = .ok i ↔ ∃ n b, r.Has 0 (rolerC n) (xrC b) 0 ∧ Instr.cdeleg n b = i := by
  simp [fCdeleg, Raw.Has, ← exists_and_left, and_assoc, and_left_comm, and_comm]

theorem fEla_eq_ok : fEla r = .ok i ↔ ∃ c, r.Has 0 0xFF 0 (0#40 ++ c) ∧ Instr.ela c = i := by
  simp [fEla, Raw.Has, eq_append_iff 40 8, and_assoc, and_comm]

theorem fVf1_eq_ok {mk} : fVf1 r mk = .ok i ↔
    ∃ t d a m, streamsDiffer d a = true ∧ r.Has (vdstC d) (vsrcC a) 0 (vImm 0 (ftypeC t) m 0) ∧ mk t d a m = i := by
  simp [fVf1, Raw.Has, eq_vImm_iff, ← exists_and_left, and_assoc, and_left_comm, and_comm]

theorem fVfn_eq_ok {mk} : fVfn r mk = .ok i ↔
    ∃ t rn d a m, streamsDiffer d a = true ∧ r.Has (vdstC d) (vsrcC a) 0 (vImm 0 (ftypeC t) m (rndC rn)) ∧ mk t rn d a m = i := by
  simp [fVfn, Raw.Has, eq_vImm_iff, ← exists_and_left, and_assoc, and_left_comm, and_comm]

theorem fVcvt_eq_ok : fVcvt r = .ok i ↔
    ∃ dst src rn d a m, (cvtPair dst src && cvtRnd dst rn && cvtMask dst src m && streamsDiffer d a) = true ∧
      r.Has (vdstC d) (vsrcC a) 0 (vImm (0#24 ++ src ++ dst) 0 m (rndC rn)) ∧ Instr.vcvt dst src rn d a m = i := by
  simp [fVcvt, Raw.Has, eq_vImm_iff, vXi, eq_append_iff 28 4, eq_append_iff 24 4, extractLsb'_extractLsb', ← exists_and_left, and_assoc,
    and_left_comm, and_comm]

theorem fVredSum_eq_ok : fVredSum r = .ok i ↔
    ∃ t rn d a m, sumRnd t rn = true ∧ r.Has (xrC d) (vsrcVSC a) 0 (vImm 0 (ctypeC t) m (rndC rn)) ∧ Instr.vredSum t rn d a m = i := by
  simp [fVredSum, Raw.Has, eq_vImm_iff, eq_ctypeC_iff, ← exists_and_left, and_assoc, and_left_comm, and_comm]

theorem fVred_eq_ok {mk} : fVred r mk = .ok i ↔ ∃ t d a m, r.Has (xrC d) (vsrcVSC a) 0 (vImm 0 (ctypeC t) m 0) ∧ mk t d a m = i := by
  simp [fVred, Raw.Has, eq_vImm_iff, eq_ctypeC_iff, ← exists_and_left, and_assoc, and_left_comm, and_comm]

theorem fVscanSum_eq_ok : fVscanSum r = .ok i ↔
    ∃ t rn d a m, (sumRnd t rn && streamsDiffer' d a) = true ∧ r.Has (vdstC d) (vsrcVSC a) 0 (vImm 0 (ctypeC t) m (rndC rn)) ∧
      Instr.vscanSum t rn d a m = i := by
  simp [fVscanSum, Raw.Has, eq_vImm_iff, eq_ctypeC_iff, ← exists_and_left, and_assoc, and_left_comm, and_comm]

theorem fVscan_eq_ok {mk} : fVscan r mk = .ok i ↔
    ∃ t d a m, streamsDiffer' d a = true ∧ r.Has (vdstC d) (vsrcVSC a) 0 (vImm 0 (ctypeC t) m 0) ∧ mk t d a m = i := by
  simp [fVscan, Raw.Has, eq_vImm_iff, eq_ctypeC_iff, ← exists_and_left, and_assoc, and_left_comm, and_comm]

theorem fVperm_eq_ok : fVperm r = .ok i ↔ ∃ d a b m, r.Has (vrC d) (vrC a) (vrC b) (vImm 0 0 m 0) ∧ Instr.vperm d a b m = i := by
  simp [fVperm, Raw.Has, eq_vImm_iff, vPlain, ← exists_and_left, and_assoc, and_left_comm, and_comm]

theorem fVslide_eq_ok : fVslide r = .ok i ↔
    ∃ d a b n m, (decide (-255 ≤ n.toInt) && decide (n.toInt ≤ 255)) = true ∧ r.Has (vrC d) (vrC a) (xrC b) (vImm (0#16 ++ n) 0 m 0) ∧
      Instr.vslide d a b n m = i := by
  simp [fVslide, Raw.Has, eq_vImm_iff, vPlain, vXi, eq_append_iff 16 16, extractLsb'_extractLsb', ← exists_and_left, and_assoc,
    and_left_comm, and_comm]

theorem fVmem_eq_ok {mk} : fVmem r mk = .ok i ↔ ∃ w d a off m, r.Has (vrC d) (xrC a) 0 (vImm off (vwidthC w) m 0) ∧ mk w d a off m = i := by
  simp [fVmem, Raw.Has, eq_vImm_iff, ← exists_and_left, and_assoc, and_left_comm, and_comm]

theorem fVmemX_eq_ok {mk} : fVmemX r mk = .ok i ↔
    ∃ w d a b off m, r.Has (vrC d) (xrC a) (xrC b) (vImm off (vwidthC w) m 0) ∧ mk w d a b off m = i := by
  simp [fVmemX, Raw.Has, eq_vImm_iff, ← exists_and_left, and_assoc, and_left_comm, and_comm]

theorem fVmemV_eq_ok {mk} : fVmemV r mk = .ok i ↔
    ∃ w d a b off m, r.Has (vrC d) (xrC a) (vrC b) (vImm off (vwidthC w) m 0) ∧ mk w d a b off m = i := by
  simp [fVmemV, Raw.Has, eq_vImm_iff, ← exists_and_left, and_assoc, and_left_comm, and_comm]

theorem fSqd_eq_ok : fSqd r = .ok i ↔
    ∃ tb acc a b k mr nc, r.Has (accrC acc) (xrC a) (xrC b) (MatF.imm ⟨0, nc, mr, 0, k, 0, 0, 0, bit tb, 0, 0⟩) ∧
      Instr.sqd tb acc a b k mr nc = i := by
  simp [-Bool.exists_bool, fSqd, Raw.Has, eq_matImm_iff, MatF.gaps, MatF.ofImm, eq_bit_iff, ← exists_and_left, and_assoc, and_left_comm,
    and_comm]

theorem fMacz_eq_ok : fMacz r = .ok i ↔
    ∃ acc mr nc, r.Has (accrC acc) 0 0 (MatF.imm ⟨0, nc, mr, 0, 0, 0, 0, 0, 0, 0, 0⟩) ∧ Instr.macz acc mr nc = i := by
  simp [fMacz, Raw.Has, eq_matImm_iff, MatF.gaps, MatF.ofImm, ← exists_and_left, and_assoc, and_left_comm, and_comm]

theorem fMacst_eq_ok : fMacst r = .ok i ↔
    ∃ rn d acc mr nc, r.Has (xrC d) (accrC acc) 0 (MatF.imm ⟨0, nc, mr, 0, 0, 0, 0, 0, 0, 0, rndC rn⟩) ∧
      Instr.macst rn d acc mr nc = i := by
  simp [fMacst, Raw.Has, eq_matImm_iff, MatF.gaps, MatF.ofImm, ← exists_and_left, and_assoc, and_left_comm, and_comm]

theorem fMacld_eq_ok : fMacld r = .ok i ↔
    ∃ acc a mr nc, r.Has (accrC acc) (xrC a) 0 (MatF.imm ⟨0, nc, mr, 0, 0, 0, 0, 0, 0, 0, 0⟩) ∧ Instr.macld acc a mr nc = i := by
  simp [fMacld, Raw.Has, eq_matImm_iff, MatF.gaps, MatF.ofImm, ← exists_and_left, and_assoc, and_left_comm, and_comm]

theorem fTopk_eq_ok {mk} : fTopk r mk = .ok i ↔
    ∃ d acc b k nb, r.Has (xrC d) (accrC acc) (xrC b) (0#37 ++ nb ++ 0#1 ++ k) ∧ mk d acc b k nb = i := by
  simp [fTopk, Raw.Has, eq_append_iff 41 7, eq_append_iff 40 1, eq_append_iff 37 3, extractLsb'_extractLsb', ← exists_and_left,
    and_assoc, and_left_comm, and_comm]

theorem fCpa_eq_ok : fCpa r = .ok i ↔ ∃ d a b c, r.Has (xrC d) (xrC a) (xrC b) (compImm c 0) ∧ Instr.cpa d a b c = i := by
  simp [fCpa, Raw.Has, eq_compImm_iff, ← exists_and_left, and_assoc, and_left_comm, and_comm]

theorem fCpres_eq_ok : fCpres r = .ok i ↔ ∃ d t, r.Has (xrC d) 0xFF 0 (0#41 ++ t) ∧ Instr.cpres d t = i := by
  simp [fCpres, Raw.Has, eq_append_iff 41 7, ← exists_and_left, and_assoc, and_left_comm, and_comm]

theorem fSbind_eq_ok : fSbind r = .ok i ↔ ∃ s a b, r.Has (srC s) (xrC a) (xrC b) 0 ∧ Instr.sbind s a b = i := by
  simp [fSbind, Raw.Has, ← exists_and_left, and_assoc, and_left_comm, and_comm]

theorem fSdrop_eq_ok : fSdrop r = .ok i ↔ ∃ d s, r.Has (xrC d) (srC s) 0 0 ∧ Instr.sdrop d s = i := by
  simp [fSdrop, Raw.Has, ← exists_and_left, and_assoc, and_left_comm, and_comm]

theorem fNsend_eq_ok : fNsend r = .ok i ↔
    ∃ e m a b, words32 m = true ∧ r.Has 0 (xrC a) (xrC b) (0#41 ++ bit e ++ m) ∧ Instr.nsend e m a b = i := by
  simp [-Bool.exists_bool, fNsend, Raw.Has, eq_append_iff 42 6, eq_append_iff 41 1, eq_bit_iff, extractLsb'_extractLsb',
    ← exists_and_left, and_assoc, and_left_comm, and_comm]

theorem fTsend_eq_ok : fTsend r = .ok i ↔
    ∃ e m c thr a b, words32 m = true ∧ r.Has 0 (xrC a) (xrC b) (thr ++ 0#4 ++ c ++ 0#1 ++ bit e ++ m) ∧ Instr.tsend e m c thr a b = i := by
  simp [-Bool.exists_bool, fTsend, Raw.Has, eq_append_iff 42 6, eq_append_iff 41 1, eq_append_iff 40 1, eq_append_iff 36 4,
    eq_append_iff 32 4, eq_bit_iff, extractLsb'_extractLsb', ← exists_and_left, and_assoc, and_left_comm, and_comm]

theorem fRcsetRd_eq_ok : fRcsetRd r = .ok i ↔ ∃ d c, r.Has (xrC d) 0xFF 0 (0#44 ++ c) ∧ Instr.rcsetRd d c = i := by
  simp [fRcsetRd, Raw.Has, eq_append_iff 44 4, ← exists_and_left, and_assoc, and_left_comm, and_comm]

theorem fRcset_eq_ok {mk} : fRcset r mk = .ok i ↔ ∃ d c b, r.Has (xrC d) 0xFF (xrC b) (0#44 ++ c) ∧ mk d c b = i := by
  simp [fRcset, Raw.Has, eq_append_iff 44 4, ← exists_and_left, and_assoc, and_left_comm, and_comm]

theorem fCtlr_eq_ok : fCtlr r = .ok i ↔
    ∃ d n sl ot, ctlFieldsOk n sl ot = true ∧ r.Has (xrC d) 0 0 (ctlImm n sl ot) ∧ Instr.ctlr d n sl ot = i := by
  simp [-Bool.exists_bool, fCtlr, Raw.Has, eq_ctlImm_iff, ctlOk, ← exists_and_left, and_assoc, and_left_comm, and_comm]

theorem fCtlw_eq_ok : fCtlw r = .ok i ↔
    ∃ n sl ot a, ctlFieldsOk n sl ot = true ∧ r.Has 0 (xrC a) 0 (ctlImm n sl ot) ∧ Instr.ctlw n sl ot a = i := by
  simp [-Bool.exists_bool, fCtlw, Raw.Has, eq_ctlImm_iff, ctlOk, ← exists_and_left, and_assoc, and_left_comm, and_comm]

theorem fTrap_eq_ok : fTrap r = .ok i ↔ ∃ v, r.Has 0 0 0 (0#32 ++ v) ∧ Instr.trap v = i := by
  simp [fTrap, Raw.Has, eq_append_iff 32 16, and_assoc, and_comm]

theorem fRtinv_eq_ok : fRtinv r = .ok i ↔ ∃ all a, r.Has 0 (xrC a) 0 (0#47 ++ bit all) ∧ Instr.rtinv all a = i := by
  simp [-Bool.exists_bool, fRtinv, Raw.Has, eq_append_iff 47 1, eq_bit_iff, ← exists_and_left, and_assoc, and_comm]

theorem fI_eq_ok {mk} : fI r mk = .ok i ↔ ∃ d a b, r.Has (xrC d) (xrC a) (src2C b) (0#16 ++ src2I b) ∧ mk d a b = i := by
  simp [-Bool.exists_bool, fI, Raw.Has, eq_append_iff 16 32, ← exists_and_left]
  refine exists_congr fun d => exists_congr fun a => exists_congr fun b => ?_
  have hread := @src2?_read r.b (r.imm.extractLsb' 0 32) b
  tauto

theorem fIp_eq_ok {mk} : fIp r mk = .ok i ↔ ∃ d a b, r.Has (prC d) (xrC a) (src2C b) (0#16 ++ src2I b) ∧ mk d a b = i := by
  simp [-Bool.exists_bool, fIp, Raw.Has, eq_append_iff 16 32, ← exists_and_left]
  refine exists_congr fun d => exists_congr fun a => exists_congr fun b => ?_
  have hread := @src2?_read r.b (r.imm.extractLsb' 0 32) b
  tauto

theorem fLd_eq_ok : fLd r = .ok i ↔
    ∃ sz sx o d a b, (sz != .b64 || !sx) = true ∧
      r.Has (xrC d) (xrC a) (src2C b) (mImm (ldOrdS o) (ldOrdO o) (sizeC sz) (bit sx) (src2I b)) ∧ Instr.ld sz sx o d a b = i := by
  simp [-Bool.exists_bool, fLd, Raw.Has, eq_mImm_iff, eq_sizeC_iff, eq_bit_iff, ← exists_and_left]
  refine exists_congr fun o => exists_congr fun d => exists_congr fun a => exists_congr fun b => ?_
  have hread := @src2?_read r.b (mOff r) b
  have hext : ¬mExt r = 1#1 ↔ mExt r = 0#1 := by generalize mExt r = x; revert x; decide
  rw [size?_eq_b64_iff, hext]
  tauto

theorem fFeLd_eq_ok {mk} : fFeLd r mk = .ok i ↔
    ∃ s d a b, r.Has (xrC d) (xrC a) (src2C b) (mImm (scopeC s) 0 3 0 (src2I b)) ∧ mk s d a b = i := by
  simp [-Bool.exists_bool, fFeLd, Raw.Has, eq_mImm_iff, ← exists_and_left]
  refine exists_congr fun s => exists_congr fun d => exists_congr fun a => exists_congr fun b => ?_
  have hread := @src2?_read r.b (mOff r) b
  tauto

theorem fPtag_eq_ok : fPtag r = .ok i ↔
    ∃ d a space t, (decide (space.toNat ≤ 6) && t.fits space) = true ∧ r.Has (xrC d) (xrC a) (tagC t) (0#29 ++ tagI t ++ 0#4 ++ space) ∧
      Instr.ptag d a space t = i := by
  simp [-Bool.exists_bool, fPtag, Raw.Has, eq_append_iff 44 4, eq_append_iff 40 4, eq_append_iff 29 11, extractLsb'_extractLsb',
    ← exists_and_left]
  refine exists_congr fun d => exists_congr fun a => exists_congr fun t => ?_
  have hread := @tagSrc?_read r.b (r.imm.extractLsb' 0 4) (r.imm.extractLsb' 8 11) t
  tauto

theorem fVf_eq_ok {mk} : fVf r mk = .ok i ↔
    ∃ t rn d a b m, (streamsDiffer d a && immFits t.narrow b) = true ∧
      r.Has (vdstC d) (vsrcC a) (vsrcBC b) (vImm (vsrcBI b) (ftypeC t) m (rndC rn)) ∧ mk t rn d a b m = i := by
  simp [-Bool.exists_bool, fVf, Raw.Has, eq_vImm_iff, ← exists_and_left]
  refine exists_congr fun t => exists_congr fun rn => exists_congr fun d => exists_congr fun a => exists_congr fun b => ?_
  have hread := @vsrcB?_read r t.narrow b
  tauto

theorem fVfma_eq_ok {mk} : fVfma r mk = .ok i ↔
    ∃ t rn d a b m, immFits t.narrow b = true ∧ r.Has (vrC d) (vsrcC a) (vsrcBC b) (vImm (vsrcBI b) (ftypeC t) m (rndC rn)) ∧
      mk t rn d a b m = i := by
  simp [-Bool.exists_bool, fVfma, Raw.Has, eq_vImm_iff, ← exists_and_left]
  refine exists_congr fun t => exists_congr fun rn => exists_congr fun d => exists_congr fun a => exists_congr fun b => ?_
  have hread := @vsrcB?_read r t.narrow b
  tauto

theorem fVfm_eq_ok {mk} : fVfm r mk = .ok i ↔
    ∃ t d a b m, (streamsDiffer d a && immFits t.narrow b) = true ∧
      r.Has (vdstC d) (vsrcC a) (vsrcBC b) (vImm (vsrcBI b) (ftypeC t) m 0) ∧ mk t d a b m = i := by
  simp [-Bool.exists_bool, fVfm, Raw.Has, eq_vImm_iff, ← exists_and_left]
  refine exists_congr fun t => exists_congr fun d => exists_congr fun a => exists_congr fun b => ?_
  have hread := @vsrcB?_read r t.narrow b
  tauto

theorem fVi_eq_ok {mk} : fVi r mk = .ok i ↔
    ∃ d a b m, streamsDiffer d a = true ∧ r.Has (vdstC d) (vsrcC a) (vsrcBC b) (vImm (vsrcBI b) 0 m 0) ∧ mk d a b m = i := by
  simp [-Bool.exists_bool, fVi, Raw.Has, eq_vImm_iff, ← exists_and_left]
  refine exists_congr fun d => exists_congr fun a => exists_congr fun b => ?_
  have hread := @vsrcB?_read r false b
  rw [immFits_false] at hread
  tauto

theorem fVcmp_eq_ok {mk} : fVcmp r mk = .ok i ↔
    ∃ t d a b m, immFits t.narrow b = true ∧ r.Has (mrC d) (vsrcVSC a) (vsrcBC b) (vImm (vsrcBI b) (ctypeC t) m 0) ∧ mk t d a b m = i := by
  simp [-Bool.exists_bool, fVcmp, Raw.Has, eq_vImm_iff, eq_ctypeC_iff, ← exists_and_left]
  refine exists_congr fun d => exists_congr fun a => exists_congr fun b => ?_
  have hread := @vsrcB?_read r (ctype? (vTyp r)).narrow b
  tauto

theorem fVsel_eq_ok : fVsel r = .ok i ↔
    ∃ d a b m, streamsDiffer' d a = true ∧ r.Has (vdstC d) (vsrcVSC a) (vsrcBC b) (vImm (vsrcBI b) 0 m 0) ∧ Instr.vsel d a b m = i := by
  simp [-Bool.exists_bool, fVsel, Raw.Has, eq_vImm_iff, ← exists_and_left]
  refine exists_congr fun d => exists_congr fun a => exists_congr fun b => ?_
  have hread := @vsrcB?_read r false b
  rw [immFits_false] at hread
  tauto

theorem fVbcast_eq_ok : fVbcast r = .ok i ↔ ∃ d a m, r.Has (vrC d) (bcastC a) 0 (vImm (bcastI a) 0 m 0) ∧ Instr.vbcast d a m = i := by
  simp [-Bool.exists_bool, fVbcast, Raw.Has, eq_vImm_iff, vPlain, ← exists_and_left]
  refine exists_congr fun d => exists_congr fun a => ?_
  have hread := @bcastSrc?_read r.a (vXi r) a
  tauto

theorem fVget_eq_ok : fVget r = .ok i ↔ ∃ d a l, r.Has (xrC d) (vrC a) (laneC l) (0#40 ++ laneI l) ∧ Instr.vget d a l = i := by
  simp [-Bool.exists_bool, fVget, Raw.Has, eq_append_iff 40 8, ← exists_and_left]
  refine exists_congr fun d => exists_congr fun a => exists_congr fun l => ?_
  have hread := @laneSrc?_read r.b (r.imm.extractLsb' 0 8) l
  tauto

theorem fVput_eq_ok : fVput r = .ok i ↔ ∃ d a l, r.Has (vrC d) (xrC a) (laneC l) (0#40 ++ laneI l) ∧ Instr.vput d a l = i := by
  simp [-Bool.exists_bool, fVput, Raw.Has, eq_append_iff 40 8, ← exists_and_left]
  refine exists_congr fun d => exists_congr fun a => exists_congr fun l => ?_
  have hread := @laneSrc?_read r.b (r.imm.extractLsb' 0 8) l
  tauto

theorem fCp_eq_ok {mk} : fCp r mk = .ok i ↔ ∃ d a l c, r.Has (xrC d) (xrC a) (lenC l) (compImm c (lenI l)) ∧ mk d a l c = i := by
  simp [-Bool.exists_bool, fCp, Raw.Has, eq_compImm_iff, ← exists_and_left]
  refine exists_congr fun d => exists_congr fun a => exists_congr fun l => ?_
  have hread := @lenSrc?_read r.b (mOff r) l
  tauto

theorem fMm_eq_ok : fMm r = .ok i ↔
    ∃ ta tb acc a b k mr nc, r.Has (accrC acc) (xrC a) (xrC b) (MatF.imm ⟨0, nc, mr, 0, k, 0, 0, 0, bit tb, bit ta, 0⟩) ∧
      Instr.mm ta tb acc a b k mr nc = i := by
  simp [-Bool.exists_bool, fMm, Raw.Has, eq_matImm_iff, MatF.gaps, MatF.ofImm, eq_bit_iff, ← exists_and_left]
  refine exists_congr fun acc => exists_congr fun a => exists_congr fun b => ?_
  tauto

theorem fMmc_eq_ok : fMmc r = .ok i ↔
    ∃ t ta acc accs b k, r.Has (accrC acc) (accrC accs) (xrC b) (MatF.imm ⟨0, 0, 0, 0, k, 0, mmcTgtC t, 0, 0, bit ta, 0⟩) ∧
      Instr.mmc t ta acc accs b k = i := by
  simp [-Bool.exists_bool, fMmc, Raw.Has, eq_matImm_iff, MatF.gaps, MatF.ofImm, eq_bit_iff, ← exists_and_left]
  refine exists_congr fun t => exists_congr fun acc => exists_congr fun accs => exists_congr fun b => ?_
  tauto

theorem fVsetl_eq_ok : fVsetl r = .ok i ↔
    (∃ d a, r.Has (xrC d) (xrC a) 0 (vsetlImmC 0 0) ∧ Instr.vsetl d a = i) ∨
    (∃ d n1, r.Has (xrC d) 0xFF 0 (vsetlImmC 1 n1) ∧ Instr.vsetlImm d n1 = i) ∨
    (∃ d, r.Has (xrC d) 0 0 (vsetlImmC 2 0) ∧ Instr.vsetlRd d = i) ∨
    (∃ a, r.Has 0 (xrC a) 0 (vsetlImmC 3 0) ∧ Instr.vsetlStart a = i) := by
  have hop : ∀ o : BitVec 2, o = 0#2 ∨ o = 1#2 ∨ o = 2#2 ∨ o = 3#2 := by decide
  rcases hop (r.imm.extractLsb' 0 2) with ho | ho | ho | ho <;>
    simp [fVsetl, Raw.Has, eq_vsetlImmC_iff, ho, ← exists_and_left, and_assoc, and_left_comm, and_comm]

theorem fTlbinv_eq_ok : fTlbinv r = .ok i ↔
    (∃ reach a, r.Has 0 (xrC a) 0 (tlbImm reach 0) ∧ Instr.tlbinvAsid reach a = i) ∨
    (∃ reach a b, r.Has 0 (xrC a) (xrC b) (tlbImm reach 1) ∧ Instr.tlbinvPage reach a b = i) ∨
    (∃ reach a, r.Has 0 (xrC a) 0 (tlbImm reach 2) ∧ Instr.tlbinvAll reach a = i) := by
  have hkind : ∀ o : BitVec 2, o = 0#2 ∨ o = 1#2 ∨ o = 2#2 ∨ o = 3#2 := by decide
  rcases hkind (r.imm.extractLsb' 0 2) with ho | ho | ho | ho <;>
    simp [fTlbinv, Raw.Has, eq_tlbImm_iff, ho, ← exists_and_left, and_assoc, and_left_comm, and_comm]

theorem fOps_eq_ok {width mk} : fOps r width mk = .ok i ↔ ∃ f d a b imm, (imm.toNat < 2 ^ width ∧ mk imm.toNat = some f) ∧
    r.Has (xrC d) (xrC a) (xrC b) imm ∧ f d a b = i := by
  simp only [fOps, Raw.Has, chk_eq_ok, fld_eq_ok, pos_eq_ok, xr?_eq_some, decide_eq_true_eq, Except.ok.injEq]
  constructor
  · rintro ⟨hw, f, hf, d, hd, a, ha, b, hb, hi⟩
    exact ⟨f, d, a, b, r.imm, ⟨hw, hf⟩, ⟨hd, ha, hb, rfl⟩, hi⟩
  · rintro ⟨f, d, a, b, _, ⟨hw, hf⟩, ⟨hd, ha, hb, rfl⟩, hi⟩
    exact ⟨hw, f, hf, d, hd, a, ha, b, hb, hi⟩

theorem m42_eq_ok : m42 r = .ok i ↔ ∃ l, r.Has 0 0 0 0 ∧ (r.fn = barLevelC l ++ 0#2 ∧ Instr.barArrive l = i ∨
    r.fn = barLevelC l ++ 1#2 ∧ Instr.barWait l = i ∨ r.fn = barLevelC l ++ 2#2 ∧ Instr.barArrivewait l = i) := by
  have hform : ∀ o : BitVec 2, o = 0#2 ∨ o = 1#2 ∨ o = 2#2 ∨ o = 3#2 := by decide
  simp only [m42, eq_append_iff 4 2, ← barLevel?_eq_some]
  cases barLevel? (r.fn.extractLsb' 2 4).toNat with
  | none => simp [noFn]
  | some l => rcases hform (r.fn.extractLsb' 0 2) with ho | ho | ho | ho <;> simp [ho, fNone_eq_ok, noFn]

theorem only0_eq_ok {k : Dec Instr} : only0 r k = .ok i ↔ r.fn.toNat = 0 ∧ k = .ok i := by
  unfold only0
  split
  next h => exact (and_iff_right (congrArg BitVec.toNat h)).symm
  next h => exact iff_of_false (fun hk => nomatch hk) fun hk => h (BitVec.eq_of_toNat_eq hk.1)

theorem noFn_ne_ok : noFn ≠ .ok i := fun h => nomatch h

theorem mnot_eq_ok : (chk (r.b == 0 && r.imm == 0) <| pos 1 (mr? r.d) fun d => pos 2 (mr? r.a) fun a => .ok (.mnot d a)) = .ok i ↔
    ∃ d a, r.Has (mrC d) (mrC a) 0 0 ∧ Instr.mnot d a = i := by
  simp [Raw.Has, ← exists_and_left, and_assoc, and_left_comm, and_comm]

end Sys2Proof
end

section
/-! SUPPORT. Format F: the decoder and the encoder's table agree on every major and function (12 R254 to R256, R264, R266). -/

namespace Sys2Proof

variable {r : Raw} {i : Instr}


/-- What the encoder gives of a word, its guard and hints apart. -/
def Raw.body (r : Raw) : Body := ⟨r.op, r.fn, r.d, r.a, r.b, r.imm⟩

/-- The word holds the body of a well-formed instruction. -/
structure Raw.Holds (r : Raw) (i : Instr) : Prop where
  wf : i.wf = true
  body : encodeBody i = some r.body

theorem Raw.has_mk {op fn gd ht d a b imm} : Raw.Has ⟨op, fn, gd, ht, d, a, b, imm⟩ d a b imm := ⟨rfl, rfl, rfl, rfl⟩

/-! ### The four quarters of the opcode map -/

section
variable {op : BitVec 8} {fn : BitVec 6} {gd : BitVec 4} {ht : BitVec 6} {d a b : BitVec 8} {imm : BitVec 48}

theorem decodeBody_low (h : op.extractLsb' 6 2 = 0#2) :
    decodeBody ⟨op, fn, gd, ht, d, a, b, imm⟩ = majorsLow ⟨op, fn, gd, ht, d, a, b, imm⟩ := by simp [decodeBody, h]

theorem decodeBody_mid (h : op.extractLsb' 6 2 = 1#2) :
    decodeBody ⟨op, fn, gd, ht, d, a, b, imm⟩ = majorsMid ⟨op, fn, gd, ht, d, a, b, imm⟩ := by simp [decodeBody, h]

theorem decodeBody_vec (h : op.extractLsb' 6 2 = 2#2) :
    decodeBody ⟨op, fn, gd, ht, d, a, b, imm⟩ = majorsVec ⟨op, fn, gd, ht, d, a, b, imm⟩ := by simp [decodeBody, h]

theorem decodeBody_high (h : op.extractLsb' 6 2 = 3#2) :
    decodeBody ⟨op, fn, gd, ht, d, a, b, imm⟩ = majorsHigh ⟨op, fn, gd, ht, d, a, b, imm⟩ := by simp [decodeBody, h]

end

/-! ### From the encoder to the decoder -/

section
variable {op : BitVec 8} {fn : BitVec 6} {d a b : BitVec 8} {imm : BitVec 48} (he : some ⟨op, fn, d, a, b, imm⟩ = some r.body)
include he

theorem Raw.eq_of_body : r = ⟨op, fn, r.gd, r.ht, d, a, b, imm⟩ := by
  cases r
  cases he
  rfl

theorem decodeBody_of_body {majors : Raw → Dec Instr}
    (hq : decodeBody ⟨op, fn, r.gd, r.ht, d, a, b, imm⟩ = majors ⟨op, fn, r.gd, r.ht, d, a, b, imm⟩)
    (h : majors ⟨op, fn, r.gd, r.ht, d, a, b, imm⟩ = .ok i) : decodeBody r = .ok i := by
  rw [Raw.eq_of_body he, hq, h]

end

/-- The encoder's body of a well-formed instruction is read back, constructor by constructor. -/
theorem decodeBody_of_encodeBody (hwf : i.wf = true) (he : encodeBody i = some r.body) : decodeBody r = .ok i := by
  cases i with
  | nop => exact decodeBody_of_body he (decodeBody_low rfl) (only0_eq_ok.2 ⟨rfl, fNone_eq_ok.2 ⟨Raw.has_mk, rfl⟩⟩)
  | add | sub | and | or | xor | andn | shl | shr | sar | rol | min | max | minz | maxz | mul | mulh | mulhz | div
  | divz | rem | remz | padd | pidx =>
    exact decodeBody_of_body he (decodeBody_low rfl) (fI_eq_ok.2 ⟨_, _, _, Raw.has_mk, rfl⟩)
  | sel => exact decodeBody_of_body he (decodeBody_low rfl) (only0_eq_ok.2 ⟨rfl, fI_eq_ok.2 ⟨_, _, _, Raw.has_mk, rfl⟩⟩)
  | clz | ctz | popc | plin => exact decodeBody_of_body he (decodeBody_low rfl) (fXX_eq_ok.2 ⟨_, _, Raw.has_mk, rfl⟩)
  | callr | reap => exact decodeBody_of_body he (decodeBody_low rfl) (only0_eq_ok.2 ⟨rfl, fXX_eq_ok.2 ⟨_, _, Raw.has_mk, rfl⟩⟩)
  | bext | bextz => exact decodeBody_of_body he (decodeBody_low rfl) (fBext_eq_ok.2 ⟨_, _, _, _, hwf, Raw.has_mk, rfl⟩)
  | bins => exact decodeBody_of_body he (decodeBody_low rfl) (fBins_eq_ok.2 ⟨_, _, _, _, hwf, Raw.has_mk, rfl⟩)
  | li => exact decodeBody_of_body he (decodeBody_low rfl) (fLi_eq_ok.2 ⟨_, _, Raw.has_mk, rfl⟩)
  | lih => exact decodeBody_of_body he (decodeBody_low rfl) (fLih_eq_ok.2 ⟨_, _, Raw.has_mk, rfl⟩)
  | ptag => exact decodeBody_of_body he (decodeBody_low rfl) (fPtag_eq_ok.2 ⟨_, _, _, _, hwf, Raw.has_mk, rfl⟩)
  | pfmt => exact decodeBody_of_body he (decodeBody_low rfl) (fPfmt_eq_ok.2 ⟨_, _, _, _, hwf, Raw.has_mk, rfl⟩)
  | pget => exact decodeBody_of_body he (decodeBody_low rfl) (fPget_eq_ok.2 ⟨_, _, _, Raw.has_mk, rfl⟩)
  | cmpEq | cmpNe | cmpLt | cmpLe => exact decodeBody_of_body he (decodeBody_low rfl) (fIp_eq_ok.2 ⟨_, _, _, Raw.has_mk, rfl⟩)
  | cmpLtz | cmpLez => exact decodeBody_of_body he (decodeBody_low rfl) (fPX_eq_ok.2 ⟨_, _, Raw.has_mk, rfl⟩)
  | pand | por | pxor => exact decodeBody_of_body he (decodeBody_low rfl) (fPPP_eq_ok.2 ⟨_, _, _, Raw.has_mk, rfl⟩)
  | pnot | pmov => exact decodeBody_of_body he (decodeBody_low rfl) (fPP_eq_ok.2 ⟨_, _, Raw.has_mk, rfl⟩)
  | br => exact decodeBody_of_body he (decodeBody_low rfl) (only0_eq_ok.2 ⟨rfl, fBr_eq_ok.2 ⟨_, Raw.has_mk, rfl⟩⟩)
  | jmp => exact decodeBody_of_body he (decodeBody_low rfl) (only0_eq_ok.2 ⟨rfl, fJmp_eq_ok.2 ⟨_, Raw.has_mk, rfl⟩⟩)
  | call | lp => exact decodeBody_of_body he (decodeBody_low rfl) (only0_eq_ok.2 ⟨rfl, fCall_eq_ok.2 ⟨_, _, Raw.has_mk, rfl⟩⟩)
  | ret | endThread => exact decodeBody_of_body he (decodeBody_low rfl) (only0_eq_ok.2 ⟨rfl, fA_eq_ok.2 ⟨_, Raw.has_mk, rfl⟩⟩)
  | start => exact decodeBody_of_body he (decodeBody_low rfl) (only0_eq_ok.2 ⟨rfl, fXXX_eq_ok.2 ⟨_, _, _, Raw.has_mk, rfl⟩⟩)
  | semWait => exact decodeBody_of_body he (decodeBody_low rfl) (fSem_eq_ok.2 ⟨_, Raw.has_mk, rfl⟩)
  | semPost => exact decodeBody_of_body he (decodeBody_low rfl) (fSemPost_eq_ok.2 ⟨_, _, hwf, Raw.has_mk, rfl⟩)
  | semTry => exact decodeBody_of_body he (decodeBody_low rfl) (fSemTry_eq_ok.2 ⟨_, _, Raw.has_mk, rfl⟩)
  | wait => exact decodeBody_of_body he (decodeBody_low rfl) (only0_eq_ok.2 ⟨rfl, fWait_eq_ok.2 ⟨_, _, _, _, Raw.has_mk, rfl⟩⟩)
  | evpop => exact decodeBody_of_body he (decodeBody_low rfl) (only0_eq_ok.2 ⟨rfl, fDeven_eq_ok.2 ⟨_, hwf, Raw.has_mk, rfl⟩⟩)
  | spawn => exact decodeBody_of_body he (decodeBody_low rfl) (only0_eq_ok.2 ⟨rfl, fSpawn_eq_ok.2 ⟨_, _, _, _, Raw.has_mk, rfl⟩⟩)
  | ld => exact decodeBody_of_body he (decodeBody_low rfl) (only0_eq_ok.2 ⟨rfl, fLd_eq_ok.2 ⟨_, _, _, _, _, _, hwf, Raw.has_mk, rfl⟩⟩)
  | st => exact decodeBody_of_body he (decodeBody_low rfl) (only0_eq_ok.2 ⟨rfl, fSt_eq_ok.2 ⟨_, _, _, _, _, Raw.has_mk, rfl⟩⟩)
  | ldFePeek | ldFeTake => exact decodeBody_of_body he (decodeBody_low rfl) (fFeLd_eq_ok.2 ⟨_, _, _, _, Raw.has_mk, rfl⟩)
  | stFeFill | stFePut => exact decodeBody_of_body he (decodeBody_low rfl) (fFeSt_eq_ok.2 ⟨_, _, _, _, Raw.has_mk, rfl⟩)
  | stFeClr => exact decodeBody_of_body he (decodeBody_low rfl) (fFeClr_eq_ok.2 ⟨_, _, Raw.has_mk, rfl⟩)
  | amoAdd | amoAnd | amoOr | amoXor | amoMin | amoMax | amoMinz | amoMaxz | amoSwap | amoCas =>
    exact decodeBody_of_body he (decodeBody_low rfl) (fAmo_eq_ok.2 ⟨_, _, _, _, _, _, Raw.has_mk, rfl⟩)
  | amoFadd | amoFmin | amoFmax => exact decodeBody_of_body he (decodeBody_low rfl) (fAmoF_eq_ok.2 ⟨_, _, _, _, _, Raw.has_mk, rfl⟩)
  | redAdd | redAnd | redOr | redXor | redMin | redMax | redMinz | redMaxz =>
    exact decodeBody_of_body he (decodeBody_low rfl) (fRed_eq_ok.2 ⟨_, _, _, _, _, Raw.has_mk, rfl⟩)
  | redFadd | redFmin | redFmax => exact decodeBody_of_body he (decodeBody_low rfl) (fRedF_eq_ok.2 ⟨_, _, _, _, Raw.has_mk, rfl⟩)
  | mosCas2 => exact decodeBody_of_body he (decodeBody_low rfl) (fCas2_eq_ok.2 ⟨_, _, _, _, _, hwf, Raw.has_mk, rfl⟩)
  | mosCas4 => exact decodeBody_of_body he (decodeBody_low rfl) (fCas4_eq_ok.2 ⟨_, _, _, _, _, hwf, Raw.has_mk, rfl⟩)
  | mosEnq => exact decodeBody_of_body he (decodeBody_low rfl) (fEnq_eq_ok.2 ⟨_, _, _, Raw.has_mk, rfl⟩)
  | mosDeq => exact decodeBody_of_body he (decodeBody_low rfl) (fDeq_eq_ok.2 ⟨_, _, _, Raw.has_mk, rfl⟩)
  | mosChase => exact decodeBody_of_body he (decodeBody_low rfl) (fChase_eq_ok.2 ⟨_, _, _, _, hwf, Raw.has_mk, rfl⟩)
  | fence | fenceOc | fenceCo => exact decodeBody_of_body he (decodeBody_mid rfl) (fFence_eq_ok.2 ⟨_, Raw.has_mk, rfl⟩)
  | drains | gret | ele => exact decodeBody_of_body he (decodeBody_mid rfl) (only0_eq_ok.2 ⟨rfl, fNone_eq_ok.2 ⟨Raw.has_mk, rfl⟩⟩)
  | bind => exact decodeBody_of_body he (decodeBody_mid rfl) (only0_eq_ok.2 ⟨rfl, fBind_eq_ok.2 ⟨_, _, _, _, _, _, Raw.has_mk, rfl⟩⟩)
  | unbind | cclose | cstat => exact decodeBody_of_body he (decodeBody_mid rfl) (only0_eq_ok.2 ⟨rfl, fXX_eq_ok.2 ⟨_, _, Raw.has_mk, rfl⟩⟩)
  | gacqX | gacqS => exact decodeBody_of_body he (decodeBody_mid rfl) (fXXX_eq_ok.2 ⟨_, _, _, Raw.has_mk, rfl⟩)
  | grel | gflush | dret => exact decodeBody_of_body he (decodeBody_mid rfl) (only0_eq_ok.2 ⟨rfl, fA_eq_ok.2 ⟨_, Raw.has_mk, rfl⟩⟩)
  | gcall => exact decodeBody_of_body he (decodeBody_mid rfl) (only0_eq_ok.2 ⟨rfl, fGcall_eq_ok.2 ⟨_, _, Raw.has_mk, rfl⟩⟩)
  | dcall => exact decodeBody_of_body he (decodeBody_mid rfl) (only0_eq_ok.2 ⟨rfl, fDcall_eq_ok.2 ⟨_, _, _, _, hwf, Raw.has_mk, rfl⟩⟩)
  | copen => exact decodeBody_of_body he (decodeBody_mid rfl) (only0_eq_ok.2 ⟨rfl, fXXX_eq_ok.2 ⟨_, _, _, Raw.has_mk, rfl⟩⟩)
  | cjoin => exact decodeBody_of_body he (decodeBody_mid rfl) (only0_eq_ok.2 ⟨rfl, fCjoin_eq_ok.2 ⟨_, _, _, Raw.has_mk, rfl⟩⟩)
  | csend => exact decodeBody_of_body he (decodeBody_mid rfl) (only0_eq_ok.2 ⟨rfl, fCsend_eq_ok.2 ⟨_, _, _, _, hwf, Raw.has_mk, rfl⟩⟩)
  | cdeleg => exact decodeBody_of_body he (decodeBody_mid rfl) (only0_eq_ok.2 ⟨rfl, fCdeleg_eq_ok.2 ⟨_, _, Raw.has_mk, rfl⟩⟩)
  | elb => exact decodeBody_of_body he (decodeBody_mid rfl) (only0_eq_ok.2 ⟨rfl, fJmp_eq_ok.2 ⟨_, Raw.has_mk, rfl⟩⟩)
  | ela => exact decodeBody_of_body he (decodeBody_mid rfl) (only0_eq_ok.2 ⟨rfl, fEla_eq_ok.2 ⟨_, Raw.has_mk, rfl⟩⟩)
  | vfadd | vfsub | vfmul => exact decodeBody_of_body he (decodeBody_vec rfl) (fVf_eq_ok.2 ⟨_, _, _, _, _, _, hwf, Raw.has_mk, rfl⟩)
  | vfma | vfms | vfnma => exact decodeBody_of_body he (decodeBody_vec rfl) (fVfma_eq_ok.2 ⟨_, _, _, _, _, _, hwf, Raw.has_mk, rfl⟩)
  | vfmin | vfmax => exact decodeBody_of_body he (decodeBody_vec rfl) (fVfm_eq_ok.2 ⟨_, _, _, _, _, hwf, Raw.has_mk, rfl⟩)
  | vfabs | vfneg => exact decodeBody_of_body he (decodeBody_vec rfl) (fVf1_eq_ok.2 ⟨_, _, _, _, hwf, Raw.has_mk, rfl⟩)
  | vadd | vsub | vmul | vand | vor | vxor | vshl | vshr | vsar | vmin | vmax =>
    exact decodeBody_of_body he (decodeBody_vec rfl) (fVi_eq_ok.2 ⟨_, _, _, _, hwf, Raw.has_mk, rfl⟩)
  | vrcp | vrsqrt | vsqrt | vexp2 | vlog2 =>
    exact decodeBody_of_body he (decodeBody_vec rfl) (fVfn_eq_ok.2 ⟨_, _, _, _, _, hwf, Raw.has_mk, rfl⟩)
  | vcmpEq | vcmpNe | vcmpLt | vcmpLe =>
    exact decodeBody_of_body he (decodeBody_vec rfl) (fVcmp_eq_ok.2 ⟨_, _, _, _, _, hwf, Raw.has_mk, rfl⟩)
  | vsel => exact decodeBody_of_body he (decodeBody_vec rfl) (only0_eq_ok.2 ⟨rfl, fVsel_eq_ok.2 ⟨_, _, _, _, hwf, Raw.has_mk, rfl⟩⟩)
  | vcvt => exact decodeBody_of_body he (decodeBody_vec rfl) (only0_eq_ok.2 ⟨rfl, fVcvt_eq_ok.2 ⟨_, _, _, _, _, _, hwf, Raw.has_mk, rfl⟩⟩)
  | vredSum => exact decodeBody_of_body he (decodeBody_vec rfl) (fVredSum_eq_ok.2 ⟨_, _, _, _, _, hwf, Raw.has_mk, rfl⟩)
  | vredMax | vredMin => exact decodeBody_of_body he (decodeBody_vec rfl) (fVred_eq_ok.2 ⟨_, _, _, _, Raw.has_mk, rfl⟩)
  | vscanSum => exact decodeBody_of_body he (decodeBody_vec rfl) (fVscanSum_eq_ok.2 ⟨_, _, _, _, _, hwf, Raw.has_mk, rfl⟩)
  | vscanMax | vscanMin => exact decodeBody_of_body he (decodeBody_vec rfl) (fVscan_eq_ok.2 ⟨_, _, _, _, hwf, Raw.has_mk, rfl⟩)
  | vperm => exact decodeBody_of_body he (decodeBody_vec rfl) (fVperm_eq_ok.2 ⟨_, _, _, _, Raw.has_mk, rfl⟩)
  | vbcast => exact decodeBody_of_body he (decodeBody_vec rfl) (fVbcast_eq_ok.2 ⟨_, _, _, Raw.has_mk, rfl⟩)
  | vslide => exact decodeBody_of_body he (decodeBody_vec rfl) (fVslide_eq_ok.2 ⟨_, _, _, _, _, hwf, Raw.has_mk, rfl⟩)
  | vld | vst => exact decodeBody_of_body he (decodeBody_vec rfl) (fVmem_eq_ok.2 ⟨_, _, _, _, _, Raw.has_mk, rfl⟩)
  | vldStride | vstStride => exact decodeBody_of_body he (decodeBody_vec rfl) (fVmemX_eq_ok.2 ⟨_, _, _, _, _, _, Raw.has_mk, rfl⟩)
  | vldIndex | vstIndex => exact decodeBody_of_body he (decodeBody_vec rfl) (fVmemV_eq_ok.2 ⟨_, _, _, _, _, _, Raw.has_mk, rfl⟩)
  | mand | mor | mxor => exact decodeBody_of_body he (decodeBody_vec rfl) (fMMM_eq_ok.2 ⟨_, _, _, Raw.has_mk, rfl⟩)
  | mpop | mfirst => exact decodeBody_of_body he (decodeBody_vec rfl) (fXM_eq_ok.2 ⟨_, _, Raw.has_mk, rfl⟩)
  | vget => exact decodeBody_of_body he (decodeBody_vec rfl) (fVget_eq_ok.2 ⟨_, _, _, Raw.has_mk, rfl⟩)
  | vput => exact decodeBody_of_body he (decodeBody_vec rfl) (fVput_eq_ok.2 ⟨_, _, _, Raw.has_mk, rfl⟩)
  | mm => exact decodeBody_of_body he (decodeBody_vec rfl) (only0_eq_ok.2 ⟨rfl, fMm_eq_ok.2 ⟨_, _, _, _, _, _, _, _, Raw.has_mk, rfl⟩⟩)
  | mmc => exact decodeBody_of_body he (decodeBody_vec rfl) (only0_eq_ok.2 ⟨rfl, fMmc_eq_ok.2 ⟨_, _, _, _, _, _, Raw.has_mk, rfl⟩⟩)
  | sqd => exact decodeBody_of_body he (decodeBody_vec rfl) (only0_eq_ok.2 ⟨rfl, fSqd_eq_ok.2 ⟨_, _, _, _, _, _, _, Raw.has_mk, rfl⟩⟩)
  | topkMax | topkMin => exact decodeBody_of_body he (decodeBody_vec rfl) (fTopk_eq_ok.2 ⟨_, _, _, _, _, Raw.has_mk, rfl⟩)
  | macz => exact decodeBody_of_body he (decodeBody_vec rfl) (only0_eq_ok.2 ⟨rfl, fMacz_eq_ok.2 ⟨_, _, _, Raw.has_mk, rfl⟩⟩)
  | macst => exact decodeBody_of_body he (decodeBody_vec rfl) (only0_eq_ok.2 ⟨rfl, fMacst_eq_ok.2 ⟨_, _, _, _, _, Raw.has_mk, rfl⟩⟩)
  | macld => exact decodeBody_of_body he (decodeBody_vec rfl) (only0_eq_ok.2 ⟨rfl, fMacld_eq_ok.2 ⟨_, _, _, _, Raw.has_mk, rfl⟩⟩)
  | mcoop => exact decodeBody_of_body he (decodeBody_vec rfl) (only0_eq_ok.2 ⟨rfl, fXX_eq_ok.2 ⟨_, _, Raw.has_mk, rfl⟩⟩)
  | mqry => exact decodeBody_of_body he (decodeBody_vec rfl) (only0_eq_ok.2 ⟨rfl, fD_eq_ok.2 ⟨_, Raw.has_mk, rfl⟩⟩)
  | cp | cpm => exact decodeBody_of_body he (decodeBody_vec rfl) (only0_eq_ok.2 ⟨rfl, fCp_eq_ok.2 ⟨_, _, _, _, Raw.has_mk, rfl⟩⟩)
  | cpa => exact decodeBody_of_body he (decodeBody_vec rfl) (only0_eq_ok.2 ⟨rfl, fCpa_eq_ok.2 ⟨_, _, _, _, Raw.has_mk, rfl⟩⟩)
  | cpres => exact decodeBody_of_body he (decodeBody_vec rfl) (only0_eq_ok.2 ⟨rfl, fCpres_eq_ok.2 ⟨_, _, Raw.has_mk, rfl⟩⟩)
  | sbind => exact decodeBody_of_body he (decodeBody_vec rfl) (only0_eq_ok.2 ⟨rfl, fSbind_eq_ok.2 ⟨_, _, _, Raw.has_mk, rfl⟩⟩)
  | sdrop => exact decodeBody_of_body he (decodeBody_vec rfl) (only0_eq_ok.2 ⟨rfl, fSdrop_eq_ok.2 ⟨_, _, Raw.has_mk, rfl⟩⟩)
  | nsend => exact decodeBody_of_body he (decodeBody_vec rfl) (only0_eq_ok.2 ⟨rfl, fNsend_eq_ok.2 ⟨_, _, _, _, hwf, Raw.has_mk, rfl⟩⟩)
  | tsend => exact decodeBody_of_body he (decodeBody_vec rfl) (only0_eq_ok.2 ⟨rfl, fTsend_eq_ok.2 ⟨_, _, _, _, _, _, hwf, Raw.has_mk, rfl⟩⟩)
  | rcsetRd => exact decodeBody_of_body he (decodeBody_vec rfl) (fRcsetRd_eq_ok.2 ⟨_, _, Raw.has_mk, rfl⟩)
  | rcsetWr | rcsetAdd => exact decodeBody_of_body he (decodeBody_vec rfl) (fRcset_eq_ok.2 ⟨_, _, _, Raw.has_mk, rfl⟩)
  | ctlr => exact decodeBody_of_body he (decodeBody_high rfl) (only0_eq_ok.2 ⟨rfl, fCtlr_eq_ok.2 ⟨_, _, _, _, hwf, Raw.has_mk, rfl⟩⟩)
  | ctlw => exact decodeBody_of_body he (decodeBody_high rfl) (only0_eq_ok.2 ⟨rfl, fCtlw_eq_ok.2 ⟨_, _, _, _, hwf, Raw.has_mk, rfl⟩⟩)
  | trap => exact decodeBody_of_body he (decodeBody_high rfl) (only0_eq_ok.2 ⟨rfl, fTrap_eq_ok.2 ⟨_, Raw.has_mk, rfl⟩⟩)
  | eret => exact decodeBody_of_body he (decodeBody_high rfl) (only0_eq_ok.2 ⟨rfl, fA_eq_ok.2 ⟨_, Raw.has_mk, rfl⟩⟩)
  | setxb => exact decodeBody_of_body he (decodeBody_high rfl) (only0_eq_ok.2 ⟨rfl, fXX_eq_ok.2 ⟨_, _, Raw.has_mk, rfl⟩⟩)
  | rtinv => exact decodeBody_of_body he (decodeBody_high rfl) (only0_eq_ok.2 ⟨rfl, fRtinv_eq_ok.2 ⟨_, _, Raw.has_mk, rfl⟩⟩)
  | ovld | pmig | ctxsave | ctxrest =>
    exact decodeBody_of_body he (decodeBody_high rfl) (only0_eq_ok.2 ⟨rfl, fXXX_eq_ok.2 ⟨_, _, _, Raw.has_mk, rfl⟩⟩)
  | sfpop => exact decodeBody_of_body he (decodeBody_high rfl) (only0_eq_ok.2 ⟨rfl, fDeven_eq_ok.2 ⟨_, hwf, Raw.has_mk, rfl⟩⟩)
  | mnot => exact decodeBody_of_body he (decodeBody_vec rfl) (mnot_eq_ok.2 ⟨_, _, Raw.has_mk, rfl⟩)
  | vsetl => exact decodeBody_of_body he (decodeBody_vec rfl) (only0_eq_ok.2 ⟨rfl, fVsetl_eq_ok.2 (.inl ⟨_, _, Raw.has_mk, rfl⟩)⟩)
  | vsetlImm => exact decodeBody_of_body he (decodeBody_vec rfl) (only0_eq_ok.2 ⟨rfl, fVsetl_eq_ok.2 (.inr (.inl ⟨_, _, Raw.has_mk, rfl⟩))⟩)
  | vsetlRd =>
    exact decodeBody_of_body he (decodeBody_vec rfl) (only0_eq_ok.2 ⟨rfl, fVsetl_eq_ok.2 (.inr (.inr (.inl ⟨_, Raw.has_mk, rfl⟩)))⟩)
  | vsetlStart =>
    exact decodeBody_of_body he (decodeBody_vec rfl) (only0_eq_ok.2 ⟨rfl, fVsetl_eq_ok.2 (.inr (.inr (.inr ⟨_, Raw.has_mk, rfl⟩)))⟩)
  | tlbinvAsid => exact decodeBody_of_body he (decodeBody_high rfl) (only0_eq_ok.2 ⟨rfl, fTlbinv_eq_ok.2 (.inl ⟨_, _, Raw.has_mk, rfl⟩)⟩)
  | tlbinvPage =>
    exact decodeBody_of_body he (decodeBody_high rfl) (only0_eq_ok.2 ⟨rfl, fTlbinv_eq_ok.2 (.inr (.inl ⟨_, _, _, Raw.has_mk, rfl⟩))⟩)
  | tlbinvAll =>
    exact decodeBody_of_body he (decodeBody_high rfl) (only0_eq_ok.2 ⟨rfl, fTlbinv_eq_ok.2 (.inr (.inr ⟨_, _, Raw.has_mk, rfl⟩))⟩)
  | qctlCreate | qctlWeight | qctlMask | qctlDestroy | qctlStop | qctlRestart | qctlMode | qctlCounts
  | dbgRd | dbgWr | dbgStep | dbgPost =>
    exact decodeBody_of_body he (decodeBody_high rfl) (only0_eq_ok.2 ⟨rfl, fOps_eq_ok.2 ⟨_, _, _, _, _, ⟨by decide, rfl⟩, Raw.has_mk, rfl⟩⟩)
  | barArrive => exact decodeBody_of_body he (decodeBody_mid rfl) (m42_eq_ok.2 ⟨_, Raw.has_mk, .inl ⟨rfl, rfl⟩⟩)
  | barWait => exact decodeBody_of_body he (decodeBody_mid rfl) (m42_eq_ok.2 ⟨_, Raw.has_mk, .inr (.inl ⟨rfl, rfl⟩)⟩)
  | barArrivewait => exact decodeBody_of_body he (decodeBody_mid rfl) (m42_eq_ok.2 ⟨_, Raw.has_mk, .inr (.inr ⟨rfl, rfl⟩)⟩)
  | _ => cases he


/-! ### From the decoder to the encoder, major by major -/

theorem Raw.Has.body_of_eq {op : BitVec 8} {fn : BitVec 6} {d a b : BitVec 8} {imm : BitVec 48} (h : r.Has d a b imm)
    (hop : r.op = op) (hfn : r.fn = fn) : some ⟨op, fn, d, a, b, imm⟩ = some r.body := by
  obtain ⟨rfl, rfl, rfl, rfl⟩ := h
  rw [← hop, ← hfn, Raw.body]

theorem eq_ofNat_of_toNat {w n : Nat} {x : BitVec w} (h : x.toNat = n) : x = BitVec.ofNat w n := by
  rw [← h, BitVec.ofNat_toNat, BitVec.setWidth_eq]

theorem Raw.Has.body {d a b : BitVec 8} {imm : BitVec 48} (h : r.Has d a b imm) {m n : Nat} (hop : r.op.toNat = m)
    (hfn : r.fn.toNat = n) : some ⟨BitVec.ofNat 8 m, BitVec.ofNat 6 n, d, a, b, imm⟩ = some r.body :=
  h.body_of_eq (eq_ofNat_of_toNat hop) (eq_ofNat_of_toNat hfn)

theorem m42_holds (hop : r.op.toNat = 0x42) (h : m42 r = .ok i) : r.Holds i := by
  obtain ⟨l, hr, ⟨hfn, rfl⟩ | ⟨hfn, rfl⟩ | ⟨hfn, rfl⟩⟩ := m42_eq_ok.1 h
  all_goals exact ⟨rfl, hr.body_of_eq (eq_ofNat_of_toNat hop) hfn⟩

theorem fVsetl_holds (hop : r.op.toNat = 0x8B) (h : only0 r (fVsetl r) = .ok i) : r.Holds i := by
  obtain ⟨hfn, h⟩ := only0_eq_ok.1 h
  obtain ⟨_, _, hr, rfl⟩ | ⟨_, _, hr, rfl⟩ | ⟨_, hr, rfl⟩ | ⟨_, hr, rfl⟩ := fVsetl_eq_ok.1 h
  all_goals exact ⟨rfl, hr.body hop hfn⟩

theorem fTlbinv_holds (hop : r.op.toNat = 0xE4) (h : only0 r (fTlbinv r) = .ok i) : r.Holds i := by
  obtain ⟨hfn, h⟩ := only0_eq_ok.1 h
  obtain ⟨_, _, hr, rfl⟩ | ⟨_, _, _, hr, rfl⟩ | ⟨_, _, hr, rfl⟩ := fTlbinv_eq_ok.1 h
  all_goals exact ⟨rfl, hr.body hop hfn⟩

theorem qctl_holds (hop : r.op.toNat = 0xE9) (h : only0 r (fOps r 4 qctlOp) = .ok i) : r.Holds i := by
  obtain ⟨hfn, h⟩ := only0_eq_ok.1 h
  obtain ⟨f, d, a, b, imm, ⟨-, hf⟩, hr, rfl⟩ := fOps_eq_ok.1 h
  unfold qctlOp at hf
  split at hf
  iterate 8 (next hk => cases eq_ofNat_of_toNat hk; cases hf; exact ⟨rfl, hr.body hop hfn⟩)
  next => nomatch hf

theorem dbg_holds (hop : r.op.toNat = 0xEA) (h : only0 r (fOps r 2 dbgOp) = .ok i) : r.Holds i := by
  obtain ⟨hfn, h⟩ := only0_eq_ok.1 h
  obtain ⟨f, d, a, b, imm, ⟨-, hf⟩, hr, rfl⟩ := fOps_eq_ok.1 h
  unfold dbgOp at hf
  split at hf
  iterate 4 (next hk => cases eq_ofNat_of_toNat hk; cases hf; exact ⟨rfl, hr.body hop hfn⟩)
  next => nomatch hf

theorem m08_holds (hop : r.op.toNat = 0x08) (h : m08 r = .ok i) : r.Holds i := by
  unfold m08 at h
  split at h
  iterate 21 (next hfn => obtain ⟨_, _, _, hr, rfl⟩ := fI_eq_ok.1 h; exact ⟨rfl, hr.body hop hfn⟩)
  iterate 3 (next hfn => obtain ⟨_, _, hr, rfl⟩ := fXX_eq_ok.1 h; exact ⟨rfl, hr.body hop hfn⟩)
  next => exact absurd h noFn_ne_ok

theorem m09_holds (hop : r.op.toNat = 0x09) (h : m09 r = .ok i) : r.Holds i := by
  unfold m09 at h
  split at h
  iterate 2 (next hfn => obtain ⟨_, _, _, _, hwf, hr, rfl⟩ := fBext_eq_ok.1 h; exact ⟨hwf, hr.body hop hfn⟩)
  next hfn => obtain ⟨_, _, _, _, hwf, hr, rfl⟩ := fBins_eq_ok.1 h; exact ⟨hwf, hr.body hop hfn⟩
  next => exact absurd h noFn_ne_ok

theorem m0A_holds (hop : r.op.toNat = 0x0A) (h : m0A r = .ok i) : r.Holds i := by
  unfold m0A at h
  split at h
  next hfn => obtain ⟨_, _, hr, rfl⟩ := fLi_eq_ok.1 h; exact ⟨rfl, hr.body hop hfn⟩
  next hfn => obtain ⟨_, _, hr, rfl⟩ := fLih_eq_ok.1 h; exact ⟨rfl, hr.body hop hfn⟩
  next => exact absurd h noFn_ne_ok

theorem m0C_holds (hop : r.op.toNat = 0x0C) (h : m0C r = .ok i) : r.Holds i := by
  unfold m0C at h
  split at h
  iterate 2 (next hfn => obtain ⟨_, _, _, hr, rfl⟩ := fI_eq_ok.1 h; exact ⟨rfl, hr.body hop hfn⟩)
  next hfn => obtain ⟨_, _, _, _, hwf, hr, rfl⟩ := fPtag_eq_ok.1 h; exact ⟨hwf, hr.body hop hfn⟩
  next hfn => obtain ⟨_, _, _, _, hwf, hr, rfl⟩ := fPfmt_eq_ok.1 h; exact ⟨hwf, hr.body hop hfn⟩
  next hfn => obtain ⟨_, _, _, hr, rfl⟩ := fPget_eq_ok.1 h; exact ⟨rfl, hr.body hop hfn⟩
  next hfn => obtain ⟨_, _, hr, rfl⟩ := fXX_eq_ok.1 h; exact ⟨rfl, hr.body hop hfn⟩
  next => exact absurd h noFn_ne_ok

theorem m10_holds (hop : r.op.toNat = 0x10) (h : m10 r = .ok i) : r.Holds i := by
  unfold m10 at h
  split at h
  iterate 4 (next hfn => obtain ⟨_, _, _, hr, rfl⟩ := fIp_eq_ok.1 h; exact ⟨rfl, hr.body hop hfn⟩)
  iterate 2 (next hfn => obtain ⟨_, _, hr, rfl⟩ := fPX_eq_ok.1 h; exact ⟨rfl, hr.body hop hfn⟩)
  next => exact absurd h noFn_ne_ok

theorem m11_holds (hop : r.op.toNat = 0x11) (h : m11 r = .ok i) : r.Holds i := by
  unfold m11 at h
  split at h
  iterate 3 (next hfn => obtain ⟨_, _, _, hr, rfl⟩ := fPPP_eq_ok.1 h; exact ⟨rfl, hr.body hop hfn⟩)
  iterate 2 (next hfn => obtain ⟨_, _, hr, rfl⟩ := fPP_eq_ok.1 h; exact ⟨rfl, hr.body hop hfn⟩)
  next => exact absurd h noFn_ne_ok

theorem m24_holds (hop : r.op.toNat = 0x24) (h : m24 r = .ok i) : r.Holds i := by
  unfold m24 at h
  split at h
  next hfn => obtain ⟨_, hr, rfl⟩ := fSem_eq_ok.1 h; exact ⟨rfl, hr.body hop hfn⟩
  next hfn => obtain ⟨_, _, hwf, hr, rfl⟩ := fSemPost_eq_ok.1 h; exact ⟨hwf, hr.body hop hfn⟩
  next hfn => obtain ⟨_, _, hr, rfl⟩ := fSemTry_eq_ok.1 h; exact ⟨rfl, hr.body hop hfn⟩
  next => exact absurd h noFn_ne_ok

theorem m32_holds (hop : r.op.toNat = 0x32) (h : m32 r = .ok i) : r.Holds i := by
  unfold m32 at h
  split at h
  iterate 2 (next hfn => obtain ⟨_, _, _, _, hr, rfl⟩ := fFeLd_eq_ok.1 h; exact ⟨rfl, hr.body hop hfn⟩)
  next => exact absurd h noFn_ne_ok

theorem m33_holds (hop : r.op.toNat = 0x33) (h : m33 r = .ok i) : r.Holds i := by
  unfold m33 at h
  split at h
  iterate 2 (next hfn => obtain ⟨_, _, _, _, hr, rfl⟩ := fFeSt_eq_ok.1 h; exact ⟨rfl, hr.body hop hfn⟩)
  next hfn => obtain ⟨_, _, hr, rfl⟩ := fFeClr_eq_ok.1 h; exact ⟨rfl, hr.body hop hfn⟩
  next => exact absurd h noFn_ne_ok

theorem m38_holds (hop : r.op.toNat = 0x38) (h : m38 r = .ok i) : r.Holds i := by
  unfold m38 at h
  split at h
  iterate 10 (next hfn => obtain ⟨_, _, _, _, _, _, hr, rfl⟩ := fAmo_eq_ok.1 h; exact ⟨rfl, hr.body hop hfn⟩)
  iterate 3 (next hfn => obtain ⟨_, _, _, _, _, hr, rfl⟩ := fAmoF_eq_ok.1 h; exact ⟨rfl, hr.body hop hfn⟩)
  next => exact absurd h noFn_ne_ok

theorem m39_holds (hop : r.op.toNat = 0x39) (h : m39 r = .ok i) : r.Holds i := by
  unfold m39 at h
  split at h
  iterate 8 (next hfn => obtain ⟨_, _, _, _, _, hr, rfl⟩ := fRed_eq_ok.1 h; exact ⟨rfl, hr.body hop hfn⟩)
  iterate 3 (next hfn => obtain ⟨_, _, _, _, hr, rfl⟩ := fRedF_eq_ok.1 h; exact ⟨rfl, hr.body hop hfn⟩)
  next => exact absurd h noFn_ne_ok

theorem m3A_holds (hop : r.op.toNat = 0x3A) (h : m3A r = .ok i) : r.Holds i := by
  unfold m3A at h
  split at h
  next hfn => obtain ⟨_, _, _, _, _, hwf, hr, rfl⟩ := fCas2_eq_ok.1 h; exact ⟨hwf, hr.body hop hfn⟩
  next hfn => obtain ⟨_, _, _, _, _, hwf, hr, rfl⟩ := fCas4_eq_ok.1 h; exact ⟨hwf, hr.body hop hfn⟩
  next hfn => obtain ⟨_, _, _, hr, rfl⟩ := fEnq_eq_ok.1 h; exact ⟨rfl, hr.body hop hfn⟩
  next hfn => obtain ⟨_, _, _, hr, rfl⟩ := fDeq_eq_ok.1 h; exact ⟨rfl, hr.body hop hfn⟩
  next hfn => obtain ⟨_, _, _, _, hwf, hr, rfl⟩ := fChase_eq_ok.1 h; exact ⟨hwf, hr.body hop hfn⟩
  next => exact absurd h noFn_ne_ok

theorem m40_holds (hop : r.op.toNat = 0x40) (h : m40 r = .ok i) : r.Holds i := by
  unfold m40 at h
  split at h
  iterate 3 (next hfn => obtain ⟨_, hr, rfl⟩ := fFence_eq_ok.1 h; exact ⟨rfl, hr.body hop hfn⟩)
  next => exact absurd h noFn_ne_ok

theorem m4A_holds (hop : r.op.toNat = 0x4A) (h : m4A r = .ok i) : r.Holds i := by
  unfold m4A at h
  split at h
  iterate 2 (next hfn => obtain ⟨_, _, _, hr, rfl⟩ := fXXX_eq_ok.1 h; exact ⟨rfl, hr.body hop hfn⟩)
  next => exact absurd h noFn_ne_ok

theorem m80_holds (hop : r.op.toNat = 0x80) (h : m80 r = .ok i) : r.Holds i := by
  unfold m80 at h
  split at h
  iterate 3 (next hfn => obtain ⟨_, _, _, _, _, _, hwf, hr, rfl⟩ := fVf_eq_ok.1 h; exact ⟨hwf, hr.body hop hfn⟩)
  iterate 3 (next hfn => obtain ⟨_, _, _, _, _, _, hwf, hr, rfl⟩ := fVfma_eq_ok.1 h; exact ⟨hwf, hr.body hop hfn⟩)
  iterate 2 (next hfn => obtain ⟨_, _, _, _, _, hwf, hr, rfl⟩ := fVfm_eq_ok.1 h; exact ⟨hwf, hr.body hop hfn⟩)
  iterate 2 (next hfn => obtain ⟨_, _, _, _, hwf, hr, rfl⟩ := fVf1_eq_ok.1 h; exact ⟨hwf, hr.body hop hfn⟩)
  next => exact absurd h noFn_ne_ok

theorem m81_holds (hop : r.op.toNat = 0x81) (h : m81 r = .ok i) : r.Holds i := by
  unfold m81 at h
  split at h
  iterate 11 (next hfn => obtain ⟨_, _, _, _, hwf, hr, rfl⟩ := fVi_eq_ok.1 h; exact ⟨hwf, hr.body hop hfn⟩)
  next => exact absurd h noFn_ne_ok

theorem m82_holds (hop : r.op.toNat = 0x82) (h : m82 r = .ok i) : r.Holds i := by
  unfold m82 at h
  split at h
  iterate 5 (next hfn => obtain ⟨_, _, _, _, _, hwf, hr, rfl⟩ := fVfn_eq_ok.1 h; exact ⟨hwf, hr.body hop hfn⟩)
  next => exact absurd h noFn_ne_ok

theorem m83_holds (hop : r.op.toNat = 0x83) (h : m83 r = .ok i) : r.Holds i := by
  unfold m83 at h
  split at h
  iterate 4 (next hfn => obtain ⟨_, _, _, _, _, hwf, hr, rfl⟩ := fVcmp_eq_ok.1 h; exact ⟨hwf, hr.body hop hfn⟩)
  next => exact absurd h noFn_ne_ok

theorem m86_holds (hop : r.op.toNat = 0x86) (h : m86 r = .ok i) : r.Holds i := by
  unfold m86 at h
  split at h
  next hfn => obtain ⟨_, _, _, _, _, hwf, hr, rfl⟩ := fVredSum_eq_ok.1 h; exact ⟨hwf, hr.body hop hfn⟩
  iterate 2 (next hfn => obtain ⟨_, _, _, _, hr, rfl⟩ := fVred_eq_ok.1 h; exact ⟨rfl, hr.body hop hfn⟩)
  next => exact absurd h noFn_ne_ok

theorem m87_holds (hop : r.op.toNat = 0x87) (h : m87 r = .ok i) : r.Holds i := by
  unfold m87 at h
  split at h
  next hfn => obtain ⟨_, _, _, _, _, hwf, hr, rfl⟩ := fVscanSum_eq_ok.1 h; exact ⟨hwf, hr.body hop hfn⟩
  iterate 2 (next hfn => obtain ⟨_, _, _, _, hwf, hr, rfl⟩ := fVscan_eq_ok.1 h; exact ⟨hwf, hr.body hop hfn⟩)
  next => exact absurd h noFn_ne_ok

theorem m88_holds (hop : r.op.toNat = 0x88) (h : m88 r = .ok i) : r.Holds i := by
  unfold m88 at h
  split at h
  next hfn => obtain ⟨_, _, _, _, hr, rfl⟩ := fVperm_eq_ok.1 h; exact ⟨rfl, hr.body hop hfn⟩
  next hfn => obtain ⟨_, _, _, hr, rfl⟩ := fVbcast_eq_ok.1 h; exact ⟨rfl, hr.body hop hfn⟩
  next hfn => obtain ⟨_, _, _, _, _, hwf, hr, rfl⟩ := fVslide_eq_ok.1 h; exact ⟨hwf, hr.body hop hfn⟩
  next => exact absurd h noFn_ne_ok

theorem m89_holds (hop : r.op.toNat = 0x89) (h : m89 r = .ok i) : r.Holds i := by
  unfold m89 at h
  split at h
  next hfn => obtain ⟨_, _, _, _, _, hr, rfl⟩ := fVmem_eq_ok.1 h; exact ⟨rfl, hr.body hop hfn⟩
  next hfn => obtain ⟨_, _, _, _, _, _, hr, rfl⟩ := fVmemX_eq_ok.1 h; exact ⟨rfl, hr.body hop hfn⟩
  next hfn => obtain ⟨_, _, _, _, _, _, hr, rfl⟩ := fVmemV_eq_ok.1 h; exact ⟨rfl, hr.body hop hfn⟩
  next => exact absurd h noFn_ne_ok

theorem m8A_holds (hop : r.op.toNat = 0x8A) (h : m8A r = .ok i) : r.Holds i := by
  unfold m8A at h
  split at h
  next hfn => obtain ⟨_, _, _, _, _, hr, rfl⟩ := fVmem_eq_ok.1 h; exact ⟨rfl, hr.body hop hfn⟩
  next hfn => obtain ⟨_, _, _, _, _, _, hr, rfl⟩ := fVmemX_eq_ok.1 h; exact ⟨rfl, hr.body hop hfn⟩
  next hfn => obtain ⟨_, _, _, _, _, _, hr, rfl⟩ := fVmemV_eq_ok.1 h; exact ⟨rfl, hr.body hop hfn⟩
  next => exact absurd h noFn_ne_ok

theorem m8C_holds (hop : r.op.toNat = 0x8C) (h : m8C r = .ok i) : r.Holds i := by
  unfold m8C at h
  split at h
  iterate 3 (next hfn => obtain ⟨_, _, _, hr, rfl⟩ := fMMM_eq_ok.1 h; exact ⟨rfl, hr.body hop hfn⟩)
  next hfn => obtain ⟨_, _, hr, rfl⟩ := mnot_eq_ok.1 h; exact ⟨rfl, hr.body hop hfn⟩
  iterate 2 (next hfn => obtain ⟨_, _, hr, rfl⟩ := fXM_eq_ok.1 h; exact ⟨rfl, hr.body hop hfn⟩)
  next => exact absurd h noFn_ne_ok

theorem m8D_holds (hop : r.op.toNat = 0x8D) (h : m8D r = .ok i) : r.Holds i := by
  unfold m8D at h
  split at h
  next hfn => obtain ⟨_, _, _, hr, rfl⟩ := fVget_eq_ok.1 h; exact ⟨rfl, hr.body hop hfn⟩
  next hfn => obtain ⟨_, _, _, hr, rfl⟩ := fVput_eq_ok.1 h; exact ⟨rfl, hr.body hop hfn⟩
  next => exact absurd h noFn_ne_ok

theorem m93_holds (hop : r.op.toNat = 0x93) (h : m93 r = .ok i) : r.Holds i := by
  unfold m93 at h
  split at h
  iterate 2 (next hfn => obtain ⟨_, _, _, _, _, hr, rfl⟩ := fTopk_eq_ok.1 h; exact ⟨rfl, hr.body hop hfn⟩)
  next => exact absurd h noFn_ne_ok

theorem mA8_holds (hop : r.op.toNat = 0xA8) (h : mA8 r = .ok i) : r.Holds i := by
  unfold mA8 at h
  split at h
  next hfn => obtain ⟨_, _, hr, rfl⟩ := fRcsetRd_eq_ok.1 h; exact ⟨rfl, hr.body hop hfn⟩
  iterate 2 (next hfn => obtain ⟨_, _, _, hr, rfl⟩ := fRcset_eq_ok.1 h; exact ⟨rfl, hr.body hop hfn⟩)
  next => exact absurd h noFn_ne_ok

theorem majorsLow_holds (h : majorsLow r = .ok i) : r.Holds i := by
  unfold majorsLow at h
  split at h
  next hop => obtain ⟨hfn, h⟩ := only0_eq_ok.1 h; obtain ⟨hr, rfl⟩ := fNone_eq_ok.1 h; exact ⟨rfl, hr.body hop hfn⟩
  next hop => exact m08_holds hop h
  next hop => exact m09_holds hop h
  next hop => exact m0A_holds hop h
  next hop => obtain ⟨hfn, h⟩ := only0_eq_ok.1 h; obtain ⟨_, _, _, hr, rfl⟩ := fI_eq_ok.1 h; exact ⟨rfl, hr.body hop hfn⟩
  next hop => exact m0C_holds hop h
  next hop => exact m10_holds hop h
  next hop => exact m11_holds hop h
  next hop => obtain ⟨hfn, h⟩ := only0_eq_ok.1 h; obtain ⟨_, hr, rfl⟩ := fBr_eq_ok.1 h; exact ⟨rfl, hr.body hop hfn⟩
  next hop => obtain ⟨hfn, h⟩ := only0_eq_ok.1 h; obtain ⟨_, hr, rfl⟩ := fJmp_eq_ok.1 h; exact ⟨rfl, hr.body hop hfn⟩
  next hop => obtain ⟨hfn, h⟩ := only0_eq_ok.1 h; obtain ⟨_, _, hr, rfl⟩ := fCall_eq_ok.1 h; exact ⟨rfl, hr.body hop hfn⟩
  next hop => obtain ⟨hfn, h⟩ := only0_eq_ok.1 h; obtain ⟨_, _, hr, rfl⟩ := fXX_eq_ok.1 h; exact ⟨rfl, hr.body hop hfn⟩
  next hop => obtain ⟨hfn, h⟩ := only0_eq_ok.1 h; obtain ⟨_, hr, rfl⟩ := fA_eq_ok.1 h; exact ⟨rfl, hr.body hop hfn⟩
  next hop => obtain ⟨hfn, h⟩ := only0_eq_ok.1 h; obtain ⟨_, _, hr, rfl⟩ := fCall_eq_ok.1 h; exact ⟨rfl, hr.body hop hfn⟩
  next hop => obtain ⟨hfn, h⟩ := only0_eq_ok.1 h; obtain ⟨_, _, _, hr, rfl⟩ := fXXX_eq_ok.1 h; exact ⟨rfl, hr.body hop hfn⟩
  next hop => obtain ⟨hfn, h⟩ := only0_eq_ok.1 h; obtain ⟨_, _, hr, rfl⟩ := fXX_eq_ok.1 h; exact ⟨rfl, hr.body hop hfn⟩
  next hop => obtain ⟨hfn, h⟩ := only0_eq_ok.1 h; obtain ⟨_, hr, rfl⟩ := fA_eq_ok.1 h; exact ⟨rfl, hr.body hop hfn⟩
  next hop => exact m24_holds hop h
  next hop => obtain ⟨hfn, h⟩ := only0_eq_ok.1 h; obtain ⟨_, _, _, _, hr, rfl⟩ := fWait_eq_ok.1 h; exact ⟨rfl, hr.body hop hfn⟩
  next hop => obtain ⟨hfn, h⟩ := only0_eq_ok.1 h; obtain ⟨_, hwf, hr, rfl⟩ := fDeven_eq_ok.1 h; exact ⟨hwf, hr.body hop hfn⟩
  next hop => obtain ⟨hfn, h⟩ := only0_eq_ok.1 h; obtain ⟨_, _, _, _, hr, rfl⟩ := fSpawn_eq_ok.1 h; exact ⟨rfl, hr.body hop hfn⟩
  next hop => obtain ⟨hfn, h⟩ := only0_eq_ok.1 h; obtain ⟨_, _, _, _, _, _, hwf, hr, rfl⟩ := fLd_eq_ok.1 h; exact ⟨hwf, hr.body hop hfn⟩
  next hop => obtain ⟨hfn, h⟩ := only0_eq_ok.1 h; obtain ⟨_, _, _, _, _, hr, rfl⟩ := fSt_eq_ok.1 h; exact ⟨rfl, hr.body hop hfn⟩
  next hop => exact m32_holds hop h
  next hop => exact m33_holds hop h
  next hop => exact m38_holds hop h
  next hop => exact m39_holds hop h
  next hop => exact m3A_holds hop h
  next => exact nomatch h

theorem majorsMid_holds (h : majorsMid r = .ok i) : r.Holds i := by
  unfold majorsMid at h
  split at h
  next hop => exact m40_holds hop h
  next hop => obtain ⟨hfn, h⟩ := only0_eq_ok.1 h; obtain ⟨hr, rfl⟩ := fNone_eq_ok.1 h; exact ⟨rfl, hr.body hop hfn⟩
  next hop => exact m42_holds hop h
  next hop => obtain ⟨hfn, h⟩ := only0_eq_ok.1 h; obtain ⟨_, _, _, _, _, _, hr, rfl⟩ := fBind_eq_ok.1 h; exact ⟨rfl, hr.body hop hfn⟩
  next hop => obtain ⟨hfn, h⟩ := only0_eq_ok.1 h; obtain ⟨_, _, hr, rfl⟩ := fXX_eq_ok.1 h; exact ⟨rfl, hr.body hop hfn⟩
  next hop => exact m4A_holds hop h
  iterate 2 (next hop => obtain ⟨hfn, h⟩ := only0_eq_ok.1 h; obtain ⟨_, hr, rfl⟩ := fA_eq_ok.1 h; exact ⟨rfl, hr.body hop hfn⟩)
  next hop => obtain ⟨hfn, h⟩ := only0_eq_ok.1 h; obtain ⟨_, _, hr, rfl⟩ := fGcall_eq_ok.1 h; exact ⟨rfl, hr.body hop hfn⟩
  next hop => obtain ⟨hfn, h⟩ := only0_eq_ok.1 h; obtain ⟨hr, rfl⟩ := fNone_eq_ok.1 h; exact ⟨rfl, hr.body hop hfn⟩
  next hop => obtain ⟨hfn, h⟩ := only0_eq_ok.1 h; obtain ⟨_, _, _, _, hwf, hr, rfl⟩ := fDcall_eq_ok.1 h; exact ⟨hwf, hr.body hop hfn⟩
  next hop => obtain ⟨hfn, h⟩ := only0_eq_ok.1 h; obtain ⟨_, hr, rfl⟩ := fA_eq_ok.1 h; exact ⟨rfl, hr.body hop hfn⟩
  next hop => obtain ⟨hfn, h⟩ := only0_eq_ok.1 h; obtain ⟨_, _, _, hr, rfl⟩ := fXXX_eq_ok.1 h; exact ⟨rfl, hr.body hop hfn⟩
  next hop => obtain ⟨hfn, h⟩ := only0_eq_ok.1 h; obtain ⟨_, _, _, hr, rfl⟩ := fCjoin_eq_ok.1 h; exact ⟨rfl, hr.body hop hfn⟩
  next hop => obtain ⟨hfn, h⟩ := only0_eq_ok.1 h; obtain ⟨_, _, _, _, hwf, hr, rfl⟩ := fCsend_eq_ok.1 h; exact ⟨hwf, hr.body hop hfn⟩
  next hop => obtain ⟨hfn, h⟩ := only0_eq_ok.1 h; obtain ⟨_, _, hr, rfl⟩ := fCdeleg_eq_ok.1 h; exact ⟨rfl, hr.body hop hfn⟩
  iterate 2 (next hop => obtain ⟨hfn, h⟩ := only0_eq_ok.1 h; obtain ⟨_, _, hr, rfl⟩ := fXX_eq_ok.1 h; exact ⟨rfl, hr.body hop hfn⟩)
  next hop => obtain ⟨hfn, h⟩ := only0_eq_ok.1 h; obtain ⟨_, hr, rfl⟩ := fJmp_eq_ok.1 h; exact ⟨rfl, hr.body hop hfn⟩
  next hop => obtain ⟨hfn, h⟩ := only0_eq_ok.1 h; obtain ⟨hr, rfl⟩ := fNone_eq_ok.1 h; exact ⟨rfl, hr.body hop hfn⟩
  next hop => obtain ⟨hfn, h⟩ := only0_eq_ok.1 h; obtain ⟨_, hr, rfl⟩ := fEla_eq_ok.1 h; exact ⟨rfl, hr.body hop hfn⟩
  next => exact nomatch h

theorem majorsVec_holds (h : majorsVec r = .ok i) : r.Holds i := by
  unfold majorsVec at h
  split at h
  next hop => exact m80_holds hop h
  next hop => exact m81_holds hop h
  next hop => exact m82_holds hop h
  next hop => exact m83_holds hop h
  next hop => obtain ⟨hfn, h⟩ := only0_eq_ok.1 h; obtain ⟨_, _, _, _, hwf, hr, rfl⟩ := fVsel_eq_ok.1 h; exact ⟨hwf, hr.body hop hfn⟩
  next hop => obtain ⟨hfn, h⟩ := only0_eq_ok.1 h; obtain ⟨_, _, _, _, _, _, hwf, hr, rfl⟩ := fVcvt_eq_ok.1 h; exact ⟨hwf, hr.body hop hfn⟩
  next hop => exact m86_holds hop h
  next hop => exact m87_holds hop h
  next hop => exact m88_holds hop h
  next hop => exact m89_holds hop h
  next hop => exact m8A_holds hop h
  next hop => exact fVsetl_holds hop h
  next hop => exact m8C_holds hop h
  next hop => exact m8D_holds hop h
  next hop => obtain ⟨hfn, h⟩ := only0_eq_ok.1 h; obtain ⟨_, _, _, _, _, _, _, _, hr, rfl⟩ := fMm_eq_ok.1 h; exact ⟨rfl, hr.body hop hfn⟩
  next hop => obtain ⟨hfn, h⟩ := only0_eq_ok.1 h; obtain ⟨_, _, _, _, _, _, hr, rfl⟩ := fMmc_eq_ok.1 h; exact ⟨rfl, hr.body hop hfn⟩
  next hop => obtain ⟨hfn, h⟩ := only0_eq_ok.1 h; obtain ⟨_, _, _, _, _, _, _, hr, rfl⟩ := fSqd_eq_ok.1 h; exact ⟨rfl, hr.body hop hfn⟩
  next hop => exact m93_holds hop h
  next hop => obtain ⟨hfn, h⟩ := only0_eq_ok.1 h; obtain ⟨_, _, _, hr, rfl⟩ := fMacz_eq_ok.1 h; exact ⟨rfl, hr.body hop hfn⟩
  next hop => obtain ⟨hfn, h⟩ := only0_eq_ok.1 h; obtain ⟨_, _, _, _, _, hr, rfl⟩ := fMacst_eq_ok.1 h; exact ⟨rfl, hr.body hop hfn⟩
  next hop => obtain ⟨hfn, h⟩ := only0_eq_ok.1 h; obtain ⟨_, _, _, _, hr, rfl⟩ := fMacld_eq_ok.1 h; exact ⟨rfl, hr.body hop hfn⟩
  next hop => obtain ⟨hfn, h⟩ := only0_eq_ok.1 h; obtain ⟨_, _, hr, rfl⟩ := fXX_eq_ok.1 h; exact ⟨rfl, hr.body hop hfn⟩
  next hop => obtain ⟨hfn, h⟩ := only0_eq_ok.1 h; obtain ⟨_, hr, rfl⟩ := fD_eq_ok.1 h; exact ⟨rfl, hr.body hop hfn⟩
  next hop => obtain ⟨hfn, h⟩ := only0_eq_ok.1 h; obtain ⟨_, _, _, _, hr, rfl⟩ := fCp_eq_ok.1 h; exact ⟨rfl, hr.body hop hfn⟩
  next hop => obtain ⟨hfn, h⟩ := only0_eq_ok.1 h; obtain ⟨_, _, _, _, hr, rfl⟩ := fCpa_eq_ok.1 h; exact ⟨rfl, hr.body hop hfn⟩
  next hop => obtain ⟨hfn, h⟩ := only0_eq_ok.1 h; obtain ⟨_, _, _, _, hr, rfl⟩ := fCp_eq_ok.1 h; exact ⟨rfl, hr.body hop hfn⟩
  next hop => obtain ⟨hfn, h⟩ := only0_eq_ok.1 h; obtain ⟨_, _, hr, rfl⟩ := fCpres_eq_ok.1 h; exact ⟨rfl, hr.body hop hfn⟩
  next hop => obtain ⟨hfn, h⟩ := only0_eq_ok.1 h; obtain ⟨_, _, _, hr, rfl⟩ := fSbind_eq_ok.1 h; exact ⟨rfl, hr.body hop hfn⟩
  next hop => obtain ⟨hfn, h⟩ := only0_eq_ok.1 h; obtain ⟨_, _, hr, rfl⟩ := fSdrop_eq_ok.1 h; exact ⟨rfl, hr.body hop hfn⟩
  next hop => obtain ⟨hfn, h⟩ := only0_eq_ok.1 h; obtain ⟨_, _, _, _, hwf, hr, rfl⟩ := fNsend_eq_ok.1 h; exact ⟨hwf, hr.body hop hfn⟩
  next hop => obtain ⟨hfn, h⟩ := only0_eq_ok.1 h; obtain ⟨_, _, _, _, _, _, hwf, hr, rfl⟩ := fTsend_eq_ok.1 h; exact ⟨hwf, hr.body hop hfn⟩
  next hop => exact mA8_holds hop h
  next => exact nomatch h

theorem majorsHigh_holds (h : majorsHigh r = .ok i) : r.Holds i := by
  unfold majorsHigh at h
  split at h
  next hop => obtain ⟨hfn, h⟩ := only0_eq_ok.1 h; obtain ⟨_, _, _, _, hwf, hr, rfl⟩ := fCtlr_eq_ok.1 h; exact ⟨hwf, hr.body hop hfn⟩
  next hop => obtain ⟨hfn, h⟩ := only0_eq_ok.1 h; obtain ⟨_, _, _, _, hwf, hr, rfl⟩ := fCtlw_eq_ok.1 h; exact ⟨hwf, hr.body hop hfn⟩
  next hop => obtain ⟨hfn, h⟩ := only0_eq_ok.1 h; obtain ⟨_, hr, rfl⟩ := fTrap_eq_ok.1 h; exact ⟨rfl, hr.body hop hfn⟩
  next hop => obtain ⟨hfn, h⟩ := only0_eq_ok.1 h; obtain ⟨_, hr, rfl⟩ := fA_eq_ok.1 h; exact ⟨rfl, hr.body hop hfn⟩
  next hop => exact fTlbinv_holds hop h
  next hop => obtain ⟨hfn, h⟩ := only0_eq_ok.1 h; obtain ⟨_, _, hr, rfl⟩ := fXX_eq_ok.1 h; exact ⟨rfl, hr.body hop hfn⟩
  next hop => obtain ⟨hfn, h⟩ := only0_eq_ok.1 h; obtain ⟨_, _, hr, rfl⟩ := fRtinv_eq_ok.1 h; exact ⟨rfl, hr.body hop hfn⟩
  iterate 2 (next hop => obtain ⟨hfn, h⟩ := only0_eq_ok.1 h; obtain ⟨_, _, _, hr, rfl⟩ := fXXX_eq_ok.1 h; exact ⟨rfl, hr.body hop hfn⟩)
  next hop => exact qctl_holds hop h
  next hop => exact dbg_holds hop h
  next hop => obtain ⟨hfn, h⟩ := only0_eq_ok.1 h; obtain ⟨_, hwf, hr, rfl⟩ := fDeven_eq_ok.1 h; exact ⟨hwf, hr.body hop hfn⟩
  iterate 2 (next hop => obtain ⟨hfn, h⟩ := only0_eq_ok.1 h; obtain ⟨_, _, _, hr, rfl⟩ := fXXX_eq_ok.1 h; exact ⟨rfl, hr.body hop hfn⟩)
  next => exact nomatch h


/-! ### Words of format F -/

/-- A body decodes to an instruction exactly when it is that well-formed instruction's. -/
theorem decodeBody_eq_ok : decodeBody r = .ok i ↔ r.Holds i := by
  refine ⟨fun h => ?_, fun h => decodeBody_of_encodeBody h.wf h.body⟩
  unfold decodeBody at h
  split at h
  next => exact majorsLow_holds h
  next => exact majorsMid_holds h
  next => exact majorsVec_holds h
  next => exact majorsHigh_holds h

/-- The majors 0xFC to 0xFF are format P's. -/
theorem decodeBody_pairMajor (h : r.op.extractLsb' 2 6 = 63#6) : decodeBody r = .error (.check 1) := by
  have hops : ∀ op : BitVec 8, op.extractLsb' 2 6 = 63#6 → op = 0xFC#8 ∨ op = 0xFD#8 ∨ op = 0xFE#8 ∨ op = 0xFF#8 := by decide
  rcases hops _ h with h | h | h | h <;> simp [decodeBody, majorsHigh, h]

theorem withMbz_eq_ok {mbz : Bool} {e : Dec Instr} : withMbz mbz e = .ok i ↔ mbz = true ∧ e = .ok i := by
  cases mbz <;> unfold withMbz <;> split <;> simp_all

theorem guardOf_eq_iff {gd : BitVec 4} {g : Guard} : guardOf gd = g ↔ gd = guardC g := by
  obtain ⟨neg, pred⟩ := g
  simp [guardOf, guardC, eq_append_iff 1 3, eq_bit_iff]

theorem hintsOf_eq_iff {ht : BitVec 6} {h : Hints} : ht.extractLsb' 0 2 = 0#2 ∧ hintsOf ht = h ↔ ht = hintsC h := by
  obtain ⟨pri, last, pp⟩ := h
  simp [hintsOf, hintsC, eq_append_iff 4 2, eq_append_iff 3 1, eq_append_iff 2 1, eq_bit_iff, extractLsb'_extractLsb', and_assoc, and_comm]

theorem Dec.map_eq_ok {α β : Type} {e : Dec α} {f : α → β} {v : β} : e.map f = .ok v ↔ ∃ x, e = .ok x ∧ f x = v := by
  cases e <;> simp [Except.map]

theorem decodeF_eq_ok {c : Coded} : decodeF r = .ok c ↔ c.instr.wf = true ∧
    ∃ e, encodeBody c.instr = some e ∧ r = ⟨e.op, e.fn, guardC c.guard, hintsC c.hints, e.d, e.a, e.b, e.imm⟩ := by
  obtain ⟨g, h, i⟩ := c
  simp only [decodeF, Dec.map_eq_ok, withMbz_eq_ok, decodeBody_eq_ok, beq_iff_eq, Coded.mk.injEq]
  constructor
  · rintro ⟨i, ⟨hz, hwf, he⟩, hg, hh, rfl⟩
    refine ⟨hwf, _, he, ?_⟩
    rw [← guardOf_eq_iff.1 hg, ← hintsOf_eq_iff.1 ⟨hz, hh⟩]
    rfl
  · rintro ⟨hwf, e, he, rfl⟩
    obtain ⟨hz, hh⟩ := hintsOf_eq_iff.2 (Eq.refl (hintsC h))
    exact ⟨i, ⟨hz, hwf, he⟩, guardOf_eq_iff.2 rfl, hh, rfl⟩

theorem Raw.ofWord_eq_iff {w : IWord} : Raw.ofWord w = r ↔ w = r.word := by
  obtain ⟨op, fn, gd, ht, d, a, b, imm⟩ := r
  simp [Raw.ofWord, Raw.word, eq_append_iff 48 48, eq_append_iff 40 8, eq_append_iff 32 8, eq_append_iff 24 8, eq_append_iff 18 6,
    eq_append_iff 14 4, eq_append_iff 8 6, extractLsb'_extractLsb', and_assoc]

end Sys2Proof
end

section
/-! SUPPORT. Format P: the halves, the pair and the two formats' words (12 R260 to R263, R265). -/

namespace Sys2Proof

variable {r : PairRaw}

/-! ### The fields of a half -/

/-- The scalar half's fields of a format-P word. -/
def PairRaw.sBits (r : PairRaw) : SBits := ⟨r.so, r.sd, r.sa, r.sb, r.si⟩

/-- The vector half's fields. -/
def PairRaw.vBits (r : PairRaw) : VBits := ⟨r.vo, r.vd, r.va, r.vb, r.vm, r.rnd, r.sel, r.num, r.typ⟩

theorem eq_soC_iff {so : BitVec 7} {imm : Bool} {code : BitVec 6} :
    so = soC imm code ↔ so.extractLsb' 6 1 = bit imm ∧ so.extractLsb' 0 6 = code := by
  simp [soC, eq_append_iff 1 6]

theorem pSrc_read {b : PSrc} : pSrcOk r = true ∧ pSrc r = b ↔
    r.so.extractLsb' 6 1 = bit (pSrcImm b) ∧ r.sb = pSrcB b ∧ r.si = pSrcI b := by
  have hbit : ∀ v : BitVec 1, v = 0#1 ∨ v = 1#1 := by decide
  rcases hbit (r.so.extractLsb' 6 1) with h | h <;> cases b <;>
    simp [pSrcOk, pSrc, pSrcImm, pSrcB, pSrcI, bit, h, and_comm]

theorem sBits_eq_iff {code d a : BitVec 6} {b : PSrc} : r.sBits = sBits code d a b ↔
    r.so.extractLsb' 0 6 = code ∧ r.sd = d ∧ r.sa = a ∧ pSrcOk r = true ∧ pSrc r = b := by
  rw [pSrc_read]
  simp [PairRaw.sBits, sBits, eq_soC_iff]
  tauto

theorem intFn?_eq_some {n : Nat} {f : IntFn} : intFn? n = some f ↔ n = (intFnC f).toNat := by
  constructor
  · intro h
    unfold intFn? at h
    split at h <;> cases h <;> rfl
  · rintro rfl
    cases f <;> rfl

theorem fpFn?_eq_some {n : Nat} {f : FpFn} : fpFn? n = some f ↔ n = fpFnC f := by
  constructor
  · intro h
    unfold fpFn? at h
    split at h <;> cases h <;> rfl
  · rintro rfl
    cases f <;> rfl

theorem viFn?_eq_some {n : Nat} {f : ViFn} : viFn? n = some f ↔ n = viFnC f := by
  constructor
  · intro h
    unfold viFn? at h
    split at h <;> cases h <;> rfl
  · rintro rfl
    cases f <;> rfl

theorem cond?_eq_some {n : Nat} {c : Cond} : cond? n = some c ↔ n = condC c := by
  constructor
  · intro h
    unfold cond? at h
    split at h <;> cases h <;> rfl
  · rintro rfl
    cases c <;> rfl

theorem vSel_read {a : VSrc} : vSelOk r = true ∧ vSel r = some a ↔ r.sel = (selC a).1 ∧ r.va = (selC a).2.1 ∧ r.num = (selC a).2.2 := by
  have hsel : ∀ v : BitVec 2, v = 0#2 ∨ v = 1#2 ∨ v = 2#2 ∨ v = 3#2 := by decide
  rcases hsel r.sel with h | h | h | h <;> cases a <;>
    simp [vSelOk, vSel, selC, h, eq_append_iff 1 2, and_comm]

theorem vSelVS_read {a : VSrcVS} : vSelOk r = true ∧ vSelVS r = some a ↔
    r.sel = (selVSC a).1 ∧ r.va = (selVSC a).2.1 ∧ r.num = (selVSC a).2.2 := by
  have hsel : ∀ v : BitVec 2, v = 0#2 ∨ v = 1#2 ∨ v = 2#2 ∨ v = 3#2 := by decide
  rcases hsel r.sel with h | h | h | h <;> cases a <;>
    simp [vSelOk, vSelVS, selVSC, h, and_comm]

/-! ### The scalar half (12 R261) -/

theorem encodeS_cmp (c : Cond) (d : PReg) (a : XReg) (b : PSrc) :
    encodeS (.cmp c d a b) = sBits (BitVec.ofNat 6 (condC c + 0x13)) (0#3 ++ d) a b := by cases c <;> rfl

theorem zero_append_iff {x : BitVec 6} {d : PReg} : x = 0#3 ++ d ↔ x.extractLsb' 3 3 = 0#3 ∧ x.extractLsb' 0 3 = d :=
  eq_append_iff 3 3 x 0#3 d

theorem decodeS_sound {h : SHalf} (hd : decodeS r = .ok h) : r.sBits = encodeS h := by
  unfold decodeS at hd
  split at hd
  next =>
    simp only [chk_eq_ok, Bool.and_eq_true, beq_iff_eq, Except.ok.injEq] at hd
    obtain ⟨⟨⟨⟨⟨hso, hsd⟩, hsa⟩, hsb⟩, hsi⟩, rfl⟩ := hd
    simp [PairRaw.sBits, encodeS, hso, hsd, hsa, hsb, hsi]
  next hn =>
    simp only [chk_eq_ok, Bool.and_eq_true, beq_iff_eq, Except.ok.injEq] at hd
    obtain ⟨⟨⟨him, hsa⟩, hsb⟩, rfl⟩ := hd
    simp [PairRaw.sBits, encodeS, eq_soC_iff, him, bit, hsa, hsb, eq_ofNat_of_toNat hn]
  iterate 2
    next hn =>
      obtain ⟨hp, hd⟩ := chk_eq_ok.1 hd
      cases hd
      exact sBits_eq_iff.2 ⟨eq_ofNat_of_toNat hn, rfl, rfl, hp, rfl⟩
  iterate 4
    next hn =>
      obtain ⟨hp, hd⟩ := chk_eq_ok.1 hd
      cases hd
      obtain ⟨hp, hz⟩ := Bool.and_eq_true_iff.1 hp
      exact sBits_eq_iff.2 ⟨eq_ofNat_of_toNat hn, zero_append_iff.2 ⟨eq_of_beq hz, rfl⟩, rfl, hp, rfl⟩
  iterate 2
    next hn =>
      simp only [chk_eq_ok, Bool.and_eq_true, beq_iff_eq, Except.ok.injEq] at hd
      obtain ⟨⟨⟨⟨him, hsb⟩, hsi⟩, hz⟩, rfl⟩ := hd
      simp [PairRaw.sBits, encodeS, eq_soC_iff, him, bit, hsb, hsi, eq_ofNat_of_toNat hn, zero_append_iff, hz]
  next hn =>
    simp only [chk_eq_ok, Bool.and_eq_true, beq_iff_eq, Except.ok.injEq] at hd
    obtain ⟨⟨⟨⟨him, hsa⟩, hsb⟩, hz⟩, rfl⟩ := hd
    simp [PairRaw.sBits, encodeS, eq_soC_iff, him, bit, hsa, hsb, eq_ofNat_of_toNat hn, eq_append_iff 3 15, hz]
  next =>
    split at hd
    next f hf =>
      obtain ⟨hp, hd⟩ := chk_eq_ok.1 hd
      cases hd
      exact sBits_eq_iff.2 ⟨BitVec.eq_of_toNat_eq (intFn?_eq_some.1 hf), rfl, rfl, hp, rfl⟩
    next => nomatch hd

theorem decodeS_of_sBits {h : SHalf} (hb : r.sBits = encodeS h) : decodeS r = .ok h := by
  cases h with
  | none =>
    simp only [PairRaw.sBits, encodeS, SBits.mk.injEq] at hb
    simp [decodeS, hb]
  | li d v | cmpLtz d v | cmpLez d v =>
    simp only [PairRaw.sBits, encodeS, SBits.mk.injEq, eq_soC_iff, zero_append_iff] at hb
    simp [decodeS, hb, bit]
  | lp d v =>
    simp only [PairRaw.sBits, encodeS, SBits.mk.injEq, eq_soC_iff, eq_append_iff 3 15] at hb
    simp [decodeS, hb, bit]
  | padd d a b | pidx d a b =>
    obtain ⟨hn, hsd, hsa, hp, hps⟩ := sBits_eq_iff.1 hb
    simp [decodeS, hn, hsd, hsa, hp, hps]
  | cmp c d a b =>
    rw [encodeS_cmp, sBits_eq_iff, zero_append_iff] at hb
    obtain ⟨hn, ⟨hz, hsd⟩, hsa, hp, hps⟩ := hb
    cases c <;> simp [decodeS, hn, condC, hsd, hz, hsa, hp, hps]
  | int f d a b =>
    obtain ⟨hn, hsd, hsa, hp, hps⟩ := sBits_eq_iff.1 hb
    cases f <;> simp [decodeS, hn, intFnC, intFn?, hsd, hsa, hp, hps]

theorem decodeS_eq_ok {h : SHalf} : decodeS r = .ok h ↔ r.sBits = encodeS h := ⟨decodeS_sound, decodeS_of_sBits⟩

/-! ### The vector half (12 R262) -/

theorem fpFnC_lt (f : FpFn) : fpFnC f < 10 := by cases f <;> decide
theorem viFnC_lt (f : ViFn) : viFnC f < 11 := by cases f <;> decide
theorem condC_lt (c : Cond) : condC c < 4 := by cases c <;> decide

theorem decodeV_sound {v : VHalf} (h : decodeV r = .ok (.ok v)) : v.wf = true ∧ r.low = 0 ∧ r.vBits = encodeV v := by
  unfold decodeV at h
  obtain ⟨hlow, h⟩ := chk_eq_ok.1 h
  have hlow : r.low = 0 := eq_of_beq hlow
  split at h
  next hn =>
    have hvo : r.vo = 0#7 := eq_ofNat_of_toNat hn
    simp only [chk_eq_ok, Bool.and_eq_true, beq_iff_eq, Except.ok.injEq] at h
    obtain ⟨hz, rfl⟩ := h
    exact ⟨rfl, hlow, by simp [PairRaw.vBits, encodeV, hz, hvo]⟩
  next hn =>
  split at h
  next =>
    split at h
    next f hf =>
      simp only [chk_eq_ok, fld_eq_ok, pos_eq_ok, Bool.and_eq_true, Except.ok.injEq, ftype?_eq_some, rnd?_eq_some] at h
      obtain ⟨⟨hs, hvb⟩, t, ht, rn, hrn, hr, a, ha, rfl⟩ := h
      obtain ⟨hsel, hva, hnum⟩ := vSel_read.1 ⟨hs, ha⟩
      have hvo : r.vo = BitVec.ofNat 7 (fpFnC f + 1) := eq_ofNat_of_toNat (by have := fpFn?_eq_some.1 hf; omega)
      exact ⟨Bool.and_eq_true_iff.2 ⟨hvb, hr⟩, hlow, by simp [PairRaw.vBits, encodeV, hvo, hsel, hva, hnum, ht, hrn]⟩
    next => nomatch h
  next =>
  split at h
  next =>
    split at h
    next f hf =>
      simp only [chk_eq_ok, pos_eq_ok, Bool.and_eq_true, beq_iff_eq, Except.ok.injEq] at h
      obtain ⟨⟨⟨hs, ht⟩, hrn⟩, a, ha, rfl⟩ := h
      obtain ⟨hsel, hva, hnum⟩ := vSel_read.1 ⟨hs, ha⟩
      have hvo : r.vo = BitVec.ofNat 7 (viFnC f + 0x0B) := eq_ofNat_of_toNat (by have := viFn?_eq_some.1 hf; omega)
      exact ⟨rfl, hlow, by simp [PairRaw.vBits, encodeV, hvo, hsel, hva, hnum, ht, hrn]⟩
    next => nomatch h
  next =>
  split at h
  next =>
    split at h
    next c hc =>
      simp only [chk_eq_ok, pos_eq_ok, Bool.and_eq_true, beq_iff_eq, Except.ok.injEq] at h
      obtain ⟨⟨⟨hs, hrn⟩, hz⟩, a, ha, rfl⟩ := h
      obtain ⟨hsel, hva, hnum⟩ := vSelVS_read.1 ⟨hs, ha⟩
      have hvo : r.vo = BitVec.ofNat 7 (condC c + 0x16) := eq_ofNat_of_toNat (by have := cond?_eq_some.1 hc; omega)
      exact ⟨rfl, hlow, by simp [PairRaw.vBits, encodeV, hvo, hsel, hva, hnum, hrn, eq_append_iff 2 3, hz, eq_ctypeC_iff]⟩
    next => nomatch h
  next =>
  split at h
  next hn =>
    simp only [chk_eq_ok, pos_eq_ok, Bool.and_eq_true, beq_iff_eq, Except.ok.injEq] at h
    obtain ⟨⟨⟨hs, ht⟩, hrn⟩, a, ha, rfl⟩ := h
    obtain ⟨hsel, hva, hnum⟩ := vSelVS_read.1 ⟨hs, ha⟩
    exact ⟨rfl, hlow, by simp [PairRaw.vBits, encodeV, eq_ofNat_of_toNat hn, hsel, hva, hnum, ht, hrn]⟩
  next => nomatch h

theorem decodeV_of_vBits {v : VHalf} (hwf : v.wf = true) (hlow : r.low = 0) (hb : r.vBits = encodeV v) : decodeV r = .ok (.ok v) := by
  cases v with
  | none =>
    simp only [PairRaw.vBits, encodeV, VBits.mk.injEq] at hb
    simp [decodeV, hb, hlow]
  | fp f t rn d a b m =>
    simp only [PairRaw.vBits, encodeV, VBits.mk.injEq] at hb
    obtain ⟨hvo, hvd, hva, hvb, hvm, hrn, hsel, hnum, htyp⟩ := hb
    obtain ⟨hs, ha⟩ := vSel_read.2 ⟨hsel, hva, hnum⟩
    have hf := fpFnC_lt f
    have hn : r.vo.toNat = fpFnC f + 1 := by rw [hvo, BitVec.toNat_ofNat]; omega
    have hfn : fpFn? (fpFnC f) = some f := fpFn?_eq_some.2 rfl
    have hle : fpFnC f + 1 ≤ 10 := by omega
    simpa [decodeV, hn, hlow, hle, hfn, hs, ha, hvd, hvb, hvm, htyp, hrn, VHalf.wf] using hwf
  | int f d a b m =>
    simp only [PairRaw.vBits, encodeV, VBits.mk.injEq] at hb
    obtain ⟨hvo, hvd, hva, hvb, hvm, hrn, hsel, hnum, htyp⟩ := hb
    obtain ⟨hs, ha⟩ := vSel_read.2 ⟨hsel, hva, hnum⟩
    have hf := viFnC_lt f
    have hn : r.vo.toNat = viFnC f + 0x0B := by rw [hvo, BitVec.toNat_ofNat]; omega
    have hfn : viFn? (viFnC f) = some f := viFn?_eq_some.2 rfl
    have hge : ¬viFnC f + 11 ≤ 10 := by omega
    have hle : viFnC f + 11 ≤ 21 := by omega
    simp [decodeV, hn, hlow, hge, hle, hfn, hs, ha, hvd, hvb, hvm, htyp, hrn]
  | cmp c t d a b m =>
    simp only [PairRaw.vBits, encodeV, VBits.mk.injEq, eq_append_iff 2 3] at hb
    obtain ⟨hvo, ⟨hz, hvd⟩, hva, hvb, hvm, hrn, hsel, hnum, htyp⟩ := hb
    obtain ⟨hs, ha⟩ := vSelVS_read.2 ⟨hsel, hva, hnum⟩
    have hc := condC_lt c
    have hn : r.vo.toNat = condC c + 0x16 := by rw [hvo, BitVec.toNat_ofNat]; omega
    have hfn : cond? (condC c) = some c := cond?_eq_some.2 rfl
    have hge : ¬condC c + 22 ≤ 21 := by omega
    have hge' : ¬condC c + 22 ≤ 10 := by omega
    have hle : condC c + 22 ≤ 25 := by omega
    simp [decodeV, hn, hlow, hge, hge', hle, hfn, hs, ha, hz, hvd, hvb, hvm, hrn, eq_ctypeC_iff.1 htyp]
  | sel d a b m =>
    simp only [PairRaw.vBits, encodeV, VBits.mk.injEq] at hb
    obtain ⟨hvo, hvd, hva, hvb, hvm, hrn, hsel, hnum, htyp⟩ := hb
    obtain ⟨hs, ha⟩ := vSelVS_read.2 ⟨hsel, hva, hnum⟩
    simp [decodeV, hvo, hlow, hs, ha, hvd, hvb, hvm, htyp, hrn]

theorem decodeV_eq_ok {v : VHalf} : decodeV r = .ok (.ok v) ↔ v.wf = true ∧ r.low = 0 ∧ r.vBits = encodeV v :=
  ⟨decodeV_sound, fun ⟨hwf, hlow, hb⟩ => decodeV_of_vBits hwf hlow hb⟩

/-! ### The pair (12 R260, R263) -/

theorem intFnC_lt (f : IntFn) : (intFnC f).toNat < 16 := by cases f <;> decide

theorem assigned_of_decodeV {x : Dec VHalf} (h : decodeV r = .ok x) : r.vo.toNat ≤ 0x1A := by
  by_contra hn
  have h0 : r.vo.toNat ≠ 0 ∧ ¬r.vo.toNat ≤ 0x0A ∧ ¬r.vo.toNat ≤ 0x15 ∧ ¬r.vo.toNat ≤ 0x19 ∧ r.vo.toNat ≠ 0x1A := by omega
  obtain ⟨h0, hfp, hint, hcmp, hsel⟩ := h0
  simp only [decodeV, if_neg h0, if_neg hfp, if_neg hint, if_neg hcmp, if_neg hsel] at h
  exact nomatch (chk_eq_ok.1 h).2

theorem assigned_of_decodeS {x : SHalf} (h : decodeS r = .ok x) : (r.so.extractLsb' 0 6).toNat ≤ 0x19 := by
  unfold decodeS at h
  split at h
  iterate 11 (next hn => omega)
  next =>
    split at h
    next f hf => have := intFn?_eq_some.1 hf; have := intFnC_lt f; omega
    next => nomatch h

theorem decodeP_eq_ok {c : Coded} : decodeP r = .ok c ↔ ∃ g v h, VHalf.wf v = true ∧ r = pairRaw g (encodeV v) (encodeS h) ∧
    c = ⟨g, ⟨0, false, false⟩, .pair v h⟩ := by
  have hraw : ∀ g v s, r = pairRaw g v s ↔ guardOf r.pg = g ∧ r.low = 0 ∧ r.vBits = v ∧ r.sBits = s := by
    intro g v s
    rw [guardOf_eq_iff]
    cases r
    cases v
    cases s
    simp [pairRaw, PairRaw.vBits, PairRaw.sBits]
    tauto
  simp only [hraw]
  unfold decodeP
  constructor
  · intro hd
    split at hd
    next =>
      split at hd
      next => nomatch hd
      next v4 hv =>
      split at hd
      next => nomatch hd
      next h hs =>
      split at hd
      next => nomatch hd
      next v =>
        obtain ⟨hwf, hlow, hvb⟩ := decodeV_eq_ok.1 hv
        cases hd
        exact ⟨_, v, h, hwf, ⟨rfl, hlow, hvb, decodeS_eq_ok.1 hs⟩, rfl⟩
    next => nomatch hd
  · rintro ⟨g, v, h, hwf, ⟨rfl, hlow, hv, hs⟩, rfl⟩
    have hdv := decodeV_eq_ok.2 ⟨hwf, hlow, hv⟩
    have hds := decodeS_eq_ok.2 hs
    have hassigned : pairAssigned r = true := 
      Bool.and_eq_true_iff.2 ⟨decide_eq_true (assigned_of_decodeV hdv), decide_eq_true (assigned_of_decodeS hds)⟩
    rw [if_pos hassigned, hdv, hds]

theorem PairRaw.ofWord_eq_iff {w : IWord} : w.extractLsb' 90 6 = 63#6 ∧ PairRaw.ofWord w = r ↔ w = r.word := by
  obtain ⟨pg, so, sd, sa, sb, si, vo, vd, va, vb, vm, rnd, sel, num, typ, low⟩ := r
  simp [PairRaw.ofWord, PairRaw.word, eq_append_iff 88 8, eq_append_iff 86 2, eq_append_iff 83 3, eq_append_iff 81 2, eq_append_iff 78 3,
    eq_append_iff 75 3, eq_append_iff 70 5, eq_append_iff 65 5, eq_append_iff 60 5, eq_append_iff 53 7, eq_append_iff 35 18,
    eq_append_iff 29 6, eq_append_iff 23 6, eq_append_iff 17 6, eq_append_iff 10 7, eq_append_iff 6 4, extractLsb'_extractLsb', and_assoc]

/-! ### A whole word -/

/-- A word that is not format P's: what decodes is encoded by the table of format F. -/
theorem decode_formatF {w : IWord} {c : Coded} (hp : w.extractLsb' 90 6 ≠ 63#6) : decode w = .ok c ↔ c.instr.wf = true ∧
    ∃ e, encodeBody c.instr = some e ∧ w = Raw.word ⟨e.op, e.fn, guardC c.guard, hintsC c.hints, e.d, e.a, e.b, e.imm⟩ := by
  simp only [decode, if_neg hp, decodeF_eq_ok, Raw.ofWord_eq_iff]

/-- A word of format P. -/
theorem decode_formatP {w : IWord} {c : Coded} (hp : w.extractLsb' 90 6 = 63#6) : decode w = .ok c ↔
    ∃ g v h, VHalf.wf v = true ∧ w = (pairRaw g (encodeV v) (encodeS h)).word ∧ c = ⟨g, ⟨0, false, false⟩, .pair v h⟩ := by
  have hw : ∀ r, PairRaw.ofWord w = r ↔ w = r.word := fun r => by rw [← PairRaw.ofWord_eq_iff, and_iff_right hp]
  simp only [decode, if_pos hp, decodeP_eq_ok, hw]

theorem pairWord_prefix (r : PairRaw) : r.word.extractLsb' 90 6 = 63#6 := (PairRaw.ofWord_eq_iff.2 rfl).1

/-- No word of format F begins as format P's do. -/
theorem bodyWord_prefix {i : Instr} {e : Body} (hwf : i.wf = true) (he : encodeBody i = some e) (gd : BitVec 4) (ht : BitVec 6) :
    (Raw.word ⟨e.op, e.fn, gd, ht, e.d, e.a, e.b, e.imm⟩).extractLsb' 90 6 ≠ 63#6 := by
  intro hp
  have hop : e.op.extractLsb' 2 6 = 63#6 := by
    obtain ⟨op, fn, d, a, b, imm⟩ := e
    have hof : _ = op := congrArg Raw.op (Raw.ofWord_eq_iff.2 (Eq.refl (Raw.word ⟨op, fn, gd, ht, d, a, b, imm⟩)))
    rw [← hof, ← hp, Raw.ofWord]
    exact extractLsb'_extractLsb' _ (by decide)
  have hd : decodeBody ⟨e.op, e.fn, gd, ht, e.d, e.a, e.b, e.imm⟩ = .ok i := decodeBody_eq_ok.2 ⟨hwf, he⟩
  rw [decodeBody_pairMajor hop] at hd
  exact nomatch hd

theorem encode_of_not_pair {c : Coded} (hi : ¬∃ v h, c.instr = .pair v h) : encode c = (encodeBody c.instr).map fun e =>
    Raw.word ⟨e.op, e.fn, guardC c.guard, hintsC c.hints, e.d, e.a, e.b, e.imm⟩ := by
  unfold encode
  split
  next v h hvh => exact absurd ⟨v, h, hvh⟩ hi
  next => split <;> next he => rw [he]; rfl

/-- What the encoder gives: a pair's word, or the word of a body of format F. -/
theorem encode_eq_some {c : Coded} {w : IWord} : encode c = some w ↔
    (∃ v h, c.instr = .pair v h ∧ w = (pairRaw c.guard (encodeV v) (encodeS h)).word) ∨
    ∃ e, encodeBody c.instr = some e ∧ w = Raw.word ⟨e.op, e.fn, guardC c.guard, hintsC c.hints, e.d, e.a, e.b, e.imm⟩ := by
  by_cases hi : ∃ v h, c.instr = .pair v h
  · obtain ⟨g, hints, i⟩ := c
    obtain ⟨v, h, rfl⟩ := hi
    constructor
    · exact fun hw => .inl ⟨v, h, rfl, (Option.some.inj hw).symm⟩
    · rintro (⟨_, _, hvh, rfl⟩ | ⟨_, he, _⟩)
      · cases hvh
        rfl
      · nomatch he
  · rw [encode_of_not_pair hi, Option.map_eq_some_iff]
    constructor
    · exact fun ⟨e, he, hw⟩ => .inr ⟨e, he, hw.symm⟩
    · rintro (⟨v, h, hvh, -⟩ | ⟨e, he, hw⟩)
      · exact absurd ⟨v, h, hvh⟩ hi
      · exact ⟨e, he, hw.symm⟩

end Sys2Proof
end

section
/-! OBLIGATION. A word decodes to an instruction exactly when it is that well-formed instruction's encoding (12 R254 to R267). -/

namespace Sys2Proof

/-- Settles O4, by what the decoder reads in each of the two formats and what the encoder writes in it. -/
theorem decodeInvertsEncode : Obligations.DecodeInvertsEncode := by
  unfold Obligations.DecodeInvertsEncode
  rintro ⟨g, h, i⟩ w
  rw [encode_eq_some]
  by_cases hp : w.extractLsb' 90 6 = 63#6
  · rw [decode_formatP hp]
    constructor
    · rintro ⟨g, v, s, hwf, hw, hc⟩
      cases hc
      exact ⟨by simpa [Coded.wf, Instr.wf] using hwf, .inl ⟨v, s, rfl, hw⟩⟩
    · rintro ⟨hwf, ⟨v, s, rfl, hw⟩ | ⟨e, he, hw⟩⟩
      · obtain ⟨hv, hh⟩ := Bool.and_eq_true_iff.1 hwf
        have hh : h = ⟨0, false, false⟩ := eq_of_beq hh
        exact ⟨g, v, s, hv, hw, by rw [hh]⟩
      · exact absurd (hw ▸ hp) (bodyWord_prefix (Bool.and_eq_true_iff.1 hwf).1 he _ _)
  · rw [decode_formatF hp]
    constructor
    · rintro ⟨hwf, e, he, hw⟩
      refine ⟨?_, .inr ⟨e, he, hw⟩⟩
      unfold Coded.wf
      split
      next hi => cases hi; nomatch he
      next => simpa using hwf
    · rintro ⟨hwf, ⟨v, s, rfl, hw⟩ | ⟨e, he, hw⟩⟩
      · exact absurd (hw ▸ pairWord_prefix _) hp
      · exact ⟨(Bool.and_eq_true_iff.1 hwf).1, e, he, hw⟩

end Sys2Proof
end

section
/-! OBLIGATION. Words that the manual writes out (12 R251, R254 to R267). -/

namespace Sys2Proof

/-- Settles O3: each word is the encoding of its instruction, so it decodes to that. -/
theorem specWordsDecode : Obligations.SpecWordsDecode := by
  unfold Obligations.SpecWordsDecode
  have decodes (c : Coded) (w : IWord) (hwf : c.wf = true) (he : encode c = some w) : decode w = .ok c :=
    (decodeInvertsEncode c w).2 ⟨hwf, he⟩
  refine ⟨decodes _ _ ?_ ?_, decodes _ _ ?_ ?_, decodes _ _ ?_ ?_, decodes _ _ ?_ ?_, decodes _ _ ?_ ?_, decodes _ _ ?_ ?_,
    decodes _ _ ?_ ?_, decodes _ _ ?_ ?_⟩
  all_goals decide

end Sys2Proof
end

section
/-! OBLIGATION. Registers read what was written, and an update of the issuing context leaves everything else (12 R257, 02 R35). -/

namespace Sys2Proof.Machine

/-- Nothing of a core but its slots changes when the issuing context does. -/
theorem Dev.onMe_core_frame (d : Dev) (f : Slot → Slot) (r : Nat) : (d.onMe f).core r = { d.core r with slots := ((d.onMe f).core r).slots } := by
  rw [Dev.onMe, Dev.onSlot_core]
  split
  next h =>
    subst h
    rfl
  next => rfl

/-- Settles O6, by what a register read sees after a write and what an update of one slot leaves. -/
theorem registersAndContextsChange : Obligations.RegistersAndContextsChange := by
  unfold Obligations.RegistersAndContextsChange
  refine ⟨fun t => ⟨fun r q v => t.setX_xr r v q, fun r q b => t.setP_pr r b q, t.setX_pr, t.setP_xr⟩,
    fun d f => ⟨fun r k => ?_, fun r => ?_, rfl, rfl, rfl, rfl, rfl⟩⟩
  · rw [Dev.onMe_slot]
    exact if_congr (and_congr eq_comm eq_comm) rfl rfl
  · rw [Dev.onMe_core_frame]
    exact ⟨rfl, rfl, rfl, rfl, rfl, rfl⟩

end Sys2Proof.Machine
end

section
/-! SUPPORT. Lanes and mask bits that a vector write leaves, and what a vector source gives (15 R325 to R331). -/

namespace Sys2Proof.Machine

/-! ### Lanes and mask bits written -/

/-- Entries written one after another, from place `base + k` on: each entry that is present stands at its place. -/
theorem Tab.get_setEntries {α : Type} (dflt : α) (base : Nat) (L : List (Option α)) (k : Nat) (t : Tab α) (j : Nat) :
    Tab.get dflt (((L.zipIdx k).filterMap (fun e => e.1.map (fun y => (e.2, y)))).foldl (fun t e => Tab.set t (base + e.1) e.2) t) j =
      (if base + k ≤ j then L[j - (base + k)]?.join else none).getD (Tab.get dflt t j) := by
  induction L generalizing k t with
  | nil => simp
  | cons x L ih =>
    rw [List.zipIdx_cons, List.filterMap_cons]
    rcases Nat.lt_trichotomy (base + k) j with hj | rfl | hj
    · obtain ⟨n, rfl⟩ : ∃ n, j = base + (k + 1) + n := ⟨j - (base + (k + 1)), by omega⟩
      have hn : base + (k + 1) + n - (base + k) = n + 1 := by omega
      have hne : base + k ≠ base + (k + 1) + n := by omega
      cases x <;> simp [ih, hn, Tab.get_set, hne, hj.le]
    · cases x <;> simp [ih, Tab.get_set]
    · have h1 : ¬base + (k + 1) ≤ j := by omega
      have h2 : ¬base + k ≤ j := by omega
      have hne : base + k ≠ j := by omega
      cases x <;> simp [ih, h1, h2, Tab.get_set, hne]

/-- A register's lanes after a vector write of at most 256 lanes. -/
theorem Vec.setLanes_laneAt (v : Vec) (r q : VReg) {L : List (Option (BitVec 32))} (hL : L.length ≤ 256) {i : Nat} (hi : i < 256) :
    (v.setLanes r (L.zipIdx.filterMap (fun e => e.1.map (fun y => (e.2, y))))).laneAt q i =
      if q = r then L[i]?.join.getD (v.laneAt q i) else v.laneAt q i := by
  unfold Vec.setLanes Vec.laneAt
  rw [Tab.get_setEntries]
  by_cases hq : q = r
  · simp [hq]
  · have hne : q.toNat ≠ r.toNat := fun h => hq (BitVec.eq_of_toNat_eq h)
    rw [if_neg hq]
    split
    next hle =>
      rw [List.getElem?_eq_none (by omega)]
      rfl
    next => rfl

/-- One mask bit, given for lane `k`, and kept where none is given. -/
def maskBit (m : Mask) (x : Option Bool) (k : Nat) : Mask :=
  match x with
  | some true => m ||| BitVec.twoPow 256 k
  | some false => m &&& ~~~(BitVec.twoPow 256 k)
  | none => m

theorem getLsbD_maskBit (m : Mask) (x : Option Bool) (k i : Nat) :
    (maskBit m x k).getLsbD i = if i = k ∧ i < 256 then x.getD (m.getLsbD i) else m.getLsbD i := by
  by_cases hi : i < 256
  · obtain rfl | hk := eq_or_ne i k
    · cases x with
      | none => simp [maskBit]
      | some y => cases y <;> simp [maskBit, hi]
    · cases x with
      | none => simp [maskBit]
      | some y => cases y <;> simp [maskBit, hk, hi]
  · simp [BitVec.getLsbD_of_ge, Nat.le_of_not_lt hi, hi]

theorem maskWith_eq_foldl (old : Mask) (l : List (Option Bool)) : maskWith old l = l.zipIdx.foldl (fun m e => maskBit m e.1 e.2) old := rfl

/-- Mask bits written one after another, from lane `k` on: each that is given stands at its lane. -/
theorem getLsbD_foldl_maskBit (L : List (Option Bool)) (k : Nat) (old : Mask) (i : Nat) :
    ((L.zipIdx k).foldl (fun m e => maskBit m e.1 e.2) old).getLsbD i =
      (if k ≤ i ∧ i < 256 then L[i - k]?.join else none).getD (old.getLsbD i) := by
  induction L generalizing k old with
  | nil => simp
  | cons x L ih =>
    rw [List.zipIdx_cons, List.foldl_cons, ih, getLsbD_maskBit]
    rcases Nat.lt_trichotomy k i with hj | rfl | hj
    · obtain ⟨n, rfl⟩ : ∃ n, i = k + 1 + n := ⟨i - (k + 1), by omega⟩
      have hn : k + 1 + n - k = n + 1 := by omega
      have hne : k + 1 + n ≠ k := by omega
      simp [hn, hne, hj.le]
    · by_cases h : k < 256
      · cases x <;> simp [h]
      · simp [h]
    · have h1 : ¬k + 1 ≤ i := by omega
      have h2 : ¬k ≤ i := by omega
      have hne : i ≠ k := by omega
      simp [h1, h2, hne]

theorem getLsbD_maskWith (old : Mask) (L : List (Option Bool)) (i : Nat) :
    (maskWith old L).getLsbD i = (if i < 256 then L[i]?.join else none).getD (old.getLsbD i) := by
  rw [maskWith_eq_foldl, getLsbD_foldl_maskBit]
  simp

/-- A mask after a write: `m0` keeps its ones. -/
theorem Vec.setMask_mask (v : Vec) (d : MReg) (x : Mask) (e : MReg) : (v.setMask d x).mask e = if e = d ∧ d ≠ 0 then x else v.mask e := by
  unfold Vec.setMask
  split
  next hd => rw [if_neg (fun h : e = d ∧ d ≠ 0 => h.2 hd)]
  next hd =>
    unfold Vec.mask
    rw [Tab.get_set]
    by_cases he : e = d
    · subst he
      rw [if_neg hd, if_pos rfl, if_pos ⟨rfl, hd⟩]
    · have hne : d.toNat ≠ e.toNat := fun h => he (BitVec.eq_of_toNat_eq h.symm)
      rw [if_neg hne, if_neg (fun h : e = d ∧ d ≠ 0 => he h.1)]

/-- What a lane function gives for lane `i`: something in an active lane that the source has. -/
theorem getElem?_join_activeMap {β : Type} (act : Nat → Bool) (l : List (BitVec 32)) (f : Nat → BitVec 32 → β) (i : Nat) :
    (l.zipIdx.map (fun e => if act e.2 then some (f e.2 e.1) else none))[i]?.join =
      if i < l.length ∧ act i = true then some (f i (nth 0 l i)) else none := by
  rw [List.getElem?_map, List.getElem?_zipIdx, nth_eq_getD]
  by_cases hi : i < l.length
  · simp [hi]
  · simp [hi]

theorem getElem?_join_mapLanes (m : Mask) (l : List (BitVec 32)) (f : Nat → BitVec 32 → BitVec 32) (i : Nat) :
    (mapLanes m l f)[i]?.join = if i < l.length ∧ m.getLsbD i = true then some (f i (nth 0 l i)) else none :=
  getElem?_join_activeMap (fun i => m.getLsbD i) l f i

@[simp] theorem mapLanes_length (m : Mask) (l : List (BitVec 32)) (f : Nat → BitVec 32 → BitVec 32) : (mapLanes m l f).length = l.length := by
  simp [mapLanes]

/-- A register after a vector write whose result gives exactly the active lanes below `n`. -/
theorem Vec.setLanes_active (v : Vec) (r : VReg) {L : List (Option (BitVec 32))} (hL : L.length ≤ 256) {n : Nat} {act : Nat → Bool}
    {f : Nat → BitVec 32} (hf : ∀ i, L[i]?.join = if i < n ∧ act i = true then some (f i) else none) {q : VReg} {i : Nat} (hi : i < 256) :
    (v.setLanes r (L.zipIdx.filterMap (fun e => e.1.map (fun y => (e.2, y))))).laneAt q i =
      if q = r ∧ i < n ∧ act i = true then f i else v.laneAt q i := by
  rw [Vec.setLanes_laneAt v r q hL hi, hf]
  by_cases hq : q = r <;> by_cases ha : i < n ∧ act i = true <;> simp [hq, ha]

/-- A mask after bits are given for exactly the active lanes below `n`. -/
theorem Vec.setMask_active (v : Vec) (d e : MReg) {R : List (Option Bool)} {n : Nat} (hn : n ≤ 256) {act f : Nat → Bool}
    (hf : ∀ i, R[i]?.join = if i < n ∧ act i = true then some (f i) else none) (i : Nat) :
    ((v.setMask d (maskWith (v.mask d) R)).mask e).getLsbD i =
      if e = d ∧ d ≠ 0 ∧ i < n ∧ act i = true then f i else (v.mask e).getLsbD i := by
  rw [Vec.setMask_mask]
  by_cases hd : e = d ∧ d ≠ 0
  · obtain ⟨rfl, hd⟩ := hd
    rw [if_pos ⟨rfl, hd⟩, getLsbD_maskWith, hf]
    by_cases ha : i < n ∧ act i = true
    · rw [if_pos (lt_of_lt_of_le ha.1 hn), if_pos ha, if_pos ⟨rfl, hd, ha⟩, Option.getD_some]
    · rw [if_neg ha, ite_self, if_neg (fun h : e = e ∧ e ≠ 0 ∧ i < n ∧ act i = true => ha h.2.2), Option.getD_none]
  · rw [if_neg hd, if_neg (fun h : e = d ∧ d ≠ 0 ∧ i < n ∧ act i = true => hd ⟨h.1, h.2.1⟩)]

/-! ### What a source gives -/

theorem firstHeld_ready (vs : List Nat) (rest : List (Nat × Option (Byte × Word × BitVec 32))) :
    firstHeld vs.length (vs.map (fun v => (v, none)) ++ rest) = none := by
  induction vs with
  | nil => cases rest <;> rfl
  | cons v vs ih => exact ih

theorem le_aheadLen_ready (vs : List Nat) (rest : List (Nat × Option (Byte × Word × BitVec 32))) :
    vs.length ≤ aheadLen (vs.map (fun v => (v, none)) ++ rest) := by
  induction vs with
  | nil => exact Nat.zero_le _
  | cons v vs ih =>
    rw [List.length_cons, List.map_cons, List.cons_append, aheadLen]
    omega

theorem payloadHead_payload (ws : List Word) (rest : List (Word × Bool)) :
    payloadHead (ws.map (fun w => (w, false)) ++ rest) = ws.length + payloadHead rest := by
  induction ws with
  | nil => simp
  | cons w ws ih => simp [payloadHead, ih]; omega

/-- The words that a channel gives for `n` lanes: all of them, or those before a control word. -/
theorem payloadHead_of_words {n : Nat} {ws : List Word} {rest : List (Word × Bool)}
    (h : 2 * ws.length = n ∨ 2 * ws.length < n ∧ ∃ w r, rest = (w, true) :: r) :
    Nat.min (payloadHead (ws.map (fun w => (w, false)) ++ rest)) (n / 2) = ws.length ∧
      (n / 2 ≤ payloadHead (ws.map (fun w => (w, false)) ++ rest) ∨ (ws.map (fun w => (w, false)) ++ rest).any (·.2) = true) := by
  rw [payloadHead_payload]
  rcases h with h | ⟨h, w, r, rfl⟩
  · exact ⟨Nat.min_eq_right (by omega) |>.trans (by omega), .inl (by omega)⟩
  · have h0 : payloadHead ((w, true) :: r) = 0 := by simp [payloadHead]
    exact ⟨Nat.min_eq_left (by omega) |>.trans (by omega), .inr (by simp)⟩

theorem wordLanes_payload (ws : List Word) :
    wordLanes (ws.map (fun w => (w, false))) = ws.flatMap (fun w => [w.extractLsb' 0 32, w.extractLsb' 32 32]) := by
  rw [wordLanes, List.flatMap_map]

theorem StreamOk.streamReason_eq_none {s : State} {x fmt n : Nat} {out : Bool} (h : StreamOk s x fmt n out) :
    streamReason s.dev x fmt n out = none := by
  obtain ⟨hb, hs, hd, ht, hf, hp, -⟩ := h
  have hx : Tab.get {} s.dev.my.eng.streams x = s.dev.stream x := rfl
  rw [hx] at hb hs hd hf hp
  subst hd
  simp [streamReason, hb, hs, ht, hf, Nat.not_lt.2 hp]

theorem Dev.onStream_congr {d : Dev} {x : Nat} {f g : Stream → Stream} (h : f (d.stream x) = g (d.stream x)) : d.onStream x f = d.onStream x g :=
  Dev.onEng_congr (congrArg (fun y => ({ d.my.eng with streams := Tab.set d.my.eng.streams x y } : CoreEng)) h)

/-- An input stream that has the elements gives them at once. -/
theorem StreamGives.streamIn_eq {s u : State} {x fmt : Nat} {vs : List Nat} (h : StreamGives s x fmt vs u) :
    firstHeld vs.length (s.dev.stream x).ahead = none ∧
      ∃ take, u = { s with dev := take s.dev } ∧ ∀ k, streamIn s x vs.length k = k s take vs := by
  obtain ⟨-, rest, ha, hu⟩ := h
  have ha' : (s.dev.stream x).ahead = vs.map (fun v => (v, none)) ++ rest := ha
  have hh : firstHeld vs.length (s.dev.stream x).ahead = none := by rw [ha', firstHeld_ready]
  have hw : WaitCond.holds s s.dev.rank s.dev.who (.stream x vs.length) = true :=
    decide_eq_true (show vs.length ≤ aheadLen (s.dev.stream x).ahead by rw [ha']; exact le_aheadLen_ready vs rest)
  refine ⟨hh, fun d => d.onStream x (fun y => { y with ahead := y.ahead.drop vs.length, pos := y.pos + vs.length }), ?_, fun k => ?_⟩
  · rw [hu, streamTo, Dev.onStream_congr (d := s.dev) (x := x)]
    rw [ha', List.drop_left' (by simp)]
  · rw [streamIn, parkUnless_pos _ _ _ hw]
    simp only [hh]
    rw [ha']
    simp [Function.comp_def]

/-- A source that gives its lanes gives at most 256, and the instruction goes on with them at once. -/
theorem SourceGives.vsource_eq {s u : State} {fmt : Nat} {a : VSrc} {l : List (BitVec 32)} (h : SourceGives s fmt a l u) :
    l.length ≤ 256 ∧ ∃ take, u = { s with dev := take s.dev } ∧ ∀ pos k, vsource s pos a fmt none k = k s take l := by
  have hn : s.dev.vec.len ≤ 256 := Nat.min_le_right ..
  cases a with
  | v r =>
    obtain ⟨rfl, rfl⟩ := h
    exact ⟨by simpa [upto] using hn, fun d => d, rfl, fun _ _ => rfl⟩
  | s x =>
    obtain ⟨vs, hv, hg, rfl⟩ := h
    obtain ⟨hh, take, hu, hk⟩ := hg.streamIn_eq
    refine ⟨by simpa [hv] using hn, take, hu, fun pos k => ?_⟩
    rw [vsource, ← hv]
    simp only [hg.1.streamReason_eq_none, hh, hk, afterOther]
    rfl
  | ch x =>
    obtain ⟨hw, h2, h64, hco, ws, rest, hch, hlen, rfl, rfl⟩ := h
    obtain ⟨ht, hready⟩ := payloadHead_of_words hlen
    rw [← hch] at ht hready
    have hv : WaitCond.holds s s.dev.rank s.dev.who (.vchan x.toNat (s.dev.vec.len / 2)) = true := by
      show (decide (s.dev.vec.len / 2 ≤ payloadHead (Tab.get [] s.dev.me.chans x.toNat)) || _ || _) = true
      rw [Bool.or_eq_true, Bool.or_eq_true, decide_eq_true_eq]
      exact .inl hready
    refine ⟨?_, fun d => (d.onMe (fun u => { u with chans := Tab.set u.chans x.toNat rest })).onVec (fun v =>
      { v with vcnt := BitVec.ofNat 7 (2 * ws.length) }), rfl, fun pos k => ?_⟩
    · have : (ws.flatMap (fun w => [w.extractLsb' 0 32, w.extractLsb' 32 32])).length = 2 * ws.length := by
        simp [List.length_flatMap, Nat.mul_comm]
      omega
    · have hrun : ¬(s.dev.vec.len % 2 ≠ 0 || decide (s.dev.vec.len > 64)) = true := by simp [h2, h64]
      simp only [vsource, hw, hrun, afterOther, channelIn, parkUnless_pos _ _ _ hco, parkUnless_pos _ _ _ hv, ht]
      rw [hch, List.drop_left' (by simp), List.take_left' (by simp), wordLanes_payload]
      rfl

theorem Dev.onStream_vec (d : Dev) (x : Nat) (f : Stream → Stream) : (d.onStream x f).vec = d.vec := by
  simp [Dev.vec, Dev.my, Dev.onStream, Dev.onEng]

/-- A register or a stream as a source leaves the vector registers, the masks and the lengths as they are. -/
theorem SourceGives.vec_eq {s u : State} {fmt : Nat} {a : VSrcVS} {l : List (BitVec 32)} (h : SourceGives s fmt (vs a) l u) :
    u.dev.vec = s.dev.vec := by
  cases a with
  | v r =>
    obtain ⟨-, rfl⟩ := h
    rfl
  | s x =>
    obtain ⟨vs, -, ⟨-, rest, -, rfl⟩, -⟩ := h
    exact Dev.onStream_vec ..

theorem streamReason_of_not_bound {d : Dev} {x : Nat} (h : (Tab.get {} d.my.eng.streams x).bound = false) (fmt n : Nat) (out : Bool) :
    streamReason d x fmt n out = some 1 := by
  have hb : (d.stream x).bound = false := h
  simp [streamReason, hb]

/-- A stream that is not bound is refused before anything else (R330, 21 R396). -/
theorem vsource_of_not_bound {s : State} {x : SReg} (h : (Tab.get {} s.dev.my.eng.streams x.toNat).bound = false) (pos fmt : Nat)
    (o : Other) (k : State → (Dev → Dev) → List (BitVec 32) → Out) :
    vsource s pos (.s x) fmt o k = fault s 0x02 0 (opndBad pos 1) := by
  simp only [vsource, streamReason_of_not_bound h]

end Sys2Proof.Machine
end
section
/-! OBLIGATION. Pairs: both halves on the registers before them (12 R260 to R263). -/

namespace Sys2Proof.Machine

/-- The state in which a pair's register destination has taken its lanes and the scalar half is done. -/
theorem lanesWritten_vput (u : State) (d : VReg) (fmt : Nat) (fin : Slot → Slot) {L : List (Option (BitVec 32))} (hL : L.length ≤ 256) {n : Nat}
    {act : Nat → Bool} {f : Nat → BitVec 32} (hf : ∀ i, L[i]?.join = if i < n ∧ act i = true then some (f i) else none) :
    LanesWritten u { u with dev := (vput u.dev (.v d) fmt L).onMe fin } fmt (.v d) act n f fin :=
  ⟨u.dev.vec.setLanes d (L.zipIdx.filterMap (fun e => e.1.map (fun y => (e.2, y)))), rfl, rfl,
    fun _ _ hi => Vec.setLanes_active _ d hL hf hi⟩

section
variable {s u : State} {l : List (BitVec 32)} (h : SHalf)

/-- An element-wise vector half with a register destination and no fault in the other half. -/
theorem SourceGives.vwise_pairEnd {afmt : Nat} {a : VSrc} (hs : SourceGives s afmt a l u) (pos dfmt : Nat) (d : VReg)
    (g : Dev → List (BitVec 32) → List (Option (BitVec 32))) {act : Nat → Bool} {f : Nat → BitVec 32} (hL : (g s.dev l).length = l.length)
    (hf : ∀ i, (g s.dev l)[i]?.join = if i < l.length ∧ act i = true then some (f i) else none) :
    ∃ t, vwise s pos (.v d) dfmt a afmt none g (pairEnd h) = .next t ∧ LanesWritten u t dfmt (.v d) act l.length f (scalarEff h) := by
  obtain ⟨hl, take, rfl, hk⟩ := hs.vsource_eq
  refine ⟨_, ?_, lanesWritten_vput _ d dfmt (scalarEff h) (hL.trans_le hl) hf⟩
  simp only [vwise, vdstReason, hk]
  rfl

theorem SourceGives.vfp_pairEnd {t : FType} {a : VSrc} (hs : SourceGives s (fcode t) a l u) (fn : FpFn) (rnd : Rnd) (d b : VReg) (m : MReg) :
    ∃ t', vfp fn t rnd 10 (.v d) a (.v b) m none (pairEnd h) s = .next t' ∧
      LanesWritten u t' (fcode t) (.v d) (fun i => (s.dev.vec.mask m).getLsbD i) l.length (fun i => laneImg (fcode t) (fpOp fn t rnd
        (laneVal (fcode t) (nth 0 l i)) (laneVal (fcode t) (s.dev.vec.laneAt b i)) (laneVal (fcode t) (s.dev.vec.laneAt d i))))
        (scalarEff h) := by
  unfold vfp
  exact hs.vwise_pairEnd h 10 (fcode t) d _ (mapLanes_length ..) (getElem?_join_mapLanes _ l _)

theorem SourceGives.vint_pairEnd {a : VSrc} (hs : SourceGives s 8 a l u) (fn : ViFn) (d b : VReg) (m : MReg) :
    ∃ t, vint fn 10 (.v d) a (.v b) m none (pairEnd h) s = .next t ∧
      LanesWritten u t 8 (.v d) (fun i => (s.dev.vec.mask m).getLsbD i) l.length
        (fun i => viOp fn (nth 0 l i) (s.dev.vec.laneAt b i)) (scalarEff h) := by
  unfold vint
  exact hs.vwise_pairEnd h 10 8 d _ (mapLanes_length ..) (getElem?_join_mapLanes _ l _)

theorem SourceGives.vselect_pairEnd {a : VSrcVS} (hs : SourceGives s 1 (vs a) l u) (d b : VReg) (m : MReg) :
    ∃ t, vselect 10 (.v d) a (.v b) m none (pairEnd h) s = .next t ∧
      LanesWritten u t 1 (.v d) (fun _ => true) l.length
        (fun i => if (s.dev.vec.mask m).getLsbD i then nth 0 l i else s.dev.vec.laneAt b i) (scalarEff h) :=
  hs.vwise_pairEnd h 10 1 d _ (by simp) (getElem?_join_activeMap (fun _ => true) l
    (fun i x => if (s.dev.vec.mask m).getLsbD i then x else s.dev.vec.laneAt b i))

theorem SourceGives.vcmp_pairEnd {t : CType} {a : VSrcVS} (hs : SourceGives s (ccode t) (vs a) l u) (c : Cond) (d : MReg) (b : VReg) (m : MReg) :
    ∃ t' w, vcmp c t 10 d a (.v b) m none (pairEnd h) s = .next t' ∧ t' = vecTo u w (scalarEff h) ∧ w = { s.dev.vec with m := w.m } ∧
      ∀ e i, (w.mask e).getLsbD i = if e = d ∧ d ≠ 0 ∧ i < l.length ∧ (s.dev.vec.mask m).getLsbD i = true
        then cmpLane c t (nth 0 l i) (s.dev.vec.laneAt b i) else (s.dev.vec.mask e).getLsbD i := by
  obtain ⟨hl, take, rfl, hk⟩ := hs.vsource_eq
  have hv : (take s.dev).vec = s.dev.vec := hs.vec_eq
  have hf := getElem?_join_activeMap (fun i => (s.dev.vec.mask m).getLsbD i) l (fun i x => cmpLane c t x (s.dev.vec.laneAt b i))
  refine ⟨_, (take s.dev).vec.setMask d (maskWith ((take s.dev).vec.mask d) (l.zipIdx.map (fun e =>
    if (s.dev.vec.mask m).getLsbD e.2 then some (cmpLane c t e.1 (s.dev.vec.laneAt b e.2)) else none))), ?_, rfl, ?_, ?_⟩
  · rw [vcmp, hk]
    rfl
  · rw [hv, Vec.setMask]
    split <;> rfl
  · rw [hv]
    exact fun e => Vec.setMask_active _ d e hl hf

end

/-- In a thread that holds V a pair runs its vector half, then its scalar half. -/
theorem exec_pair_of_holdsV {s : State} (hV : holdsV s.dev.me.tag = true) (half : VHalf) (h : SHalf) :
    exec (.pair half h) s = pairRun half (scalarFault s.dev.me h) (pairEnd h) s := needTag_of_holds hV _

/-- Settles O45: the tag first; then, as `pairRun` says, the vector half's refusals, the scalar half's fault, and both effects. -/
theorem pairsRunBothHalves : Obligations.PairsRunBothHalves := by
  unfold Obligations.PairsRunBothHalves
  intro s u h half fn vf t ct cn rnd d b e dm m a a2 x l cause addr opnd c v av act writes
  have hav : av = vs a2 := by cases a2 <;> rfl
  refine ⟨fun hV => (if_neg (by simp [hV]) : needTag s holdsV _ = illegal s 6), fun hV => ⟨fun hf => ?_, fun hx => ?_, fun hf => ?_⟩⟩
  · simp only [exec_pair_of_holdsV hV, hf]
    exact ⟨rfl, rfl, rfl, rfl, rfl⟩
  · simp only [exec_pair_of_holdsV hV, pairRun, vfp, vint, vselect, vcmp, vwise, vdstReason, vs]
    exact ⟨vsource_of_not_bound hx .., vsource_of_not_bound hx .., vsource_of_not_bound hx .., vsource_of_not_bound hx ..⟩
  · simp only [writes, exec_pair_of_holdsV hV, hf, hav]
    exact ⟨rfl, fun hs => hs.vfp_pairEnd h fn rnd d b m, fun hs => hs.vint_pairEnd h vf d b m, fun hs => hs.vselect_pairEnd h d b m,
      fun hs => hs.vcmp_pairEnd h cn dm b m⟩

end Sys2Proof.Machine
end
